-- ==== Sys2Proof/Word.lean ====
section
/-! DEFINITION. The word types of the KA-96 model: the byte of links, bodies and sectors (chapter 11), and the two
four-fold indexes of the cabinet, the station links 0-3 and the drives 0-3 (00_scope section 2). -/

namespace Sys2Proof

/-- One byte of a frame, a body, a journal record or a sector (R202). -/
abbrev Byte := BitVec 8

/-- A station, one per station link (00_scope section 3). -/
abbrev Station := Fin 4

/-- A drive of the drive bus (chapter 4). -/
abbrev DriveId := Fin 4

/-- `a / b` rounded up, for `b` above 0 (R103, R137). -/
def ceilDiv (a b : Nat) : Nat := (a + b - 1) / b

end Sys2Proof
end

