-- ==== Sys2Proof/Syntax.lean ====
section
/-! DEFINITION. The commands of the KA-96: one constructor for each row of spec/opcode_table.json.

A REQUEST row carries the station, the frame's tag and the body bytes that follow the request code, undecoded: the
decoding of R204 and R205 belongs to the part. A frame row carries its station; an event row carries what the drive,
the sensor or the reset pin reports with it (R64, chapter 2, chapter 3). -/

namespace Sys2Proof

/-- A side of a cartridge. -/
inductive Side where
  | a | b
  deriving DecidableEq, Repr

/-- The completion of SPIN_UP (R64). -/
inductive SpinUpResult where
  | done | notReady
  deriving DecidableEq, Repr

/-- The completion of EJECT (R64). -/
inductive EjectResult where
  | done | failed
  deriving DecidableEq, Repr

/-- What a READ reports of one sector (R64): its bytes with DATA, or UNWRITTEN, or UNREADABLE. -/
inductive SectorRead where
  | data (bytes : List Byte)
  | unwritten
  | unreadable
  deriving DecidableEq, Repr

/-- The completion of WRITE (R64). -/
inductive WriteResult where
  | done | alreadyWritten
  deriving DecidableEq, Repr

/-- What a VERIFY reports of one sector (R64). -/
inductive SectorVerify where
  | pass | fail
  deriving DecidableEq, Repr

/-- The completion of BLANK_CHECK (R64). -/
inductive BlankResult where
  | blank | written
  deriving DecidableEq, Repr

/-- The commands of the KA-96, one constructor per row of the opcode table, in the table's order. -/
inductive Instr where
  -- requests: station, tag, and the body bytes after the request code
  | fetch (st : Station) (tag : Byte) (body : List Byte)
  | cancelFetch (st : Station) (tag : Byte) (body : List Byte)
  | quote (st : Station) (tag : Byte) (body : List Byte)
  | locate (st : Station) (tag : Byte) (body : List Byte)
  | find (st : Station) (tag : Byte) (body : List Byte)
  | openInstrument (st : Station) (tag : Byte) (body : List Byte)
  | postPage (st : Station) (tag : Byte) (body : List Byte)
  | closeInstrument (st : Station) (tag : Byte) (body : List Byte)
  | abortInstrument (st : Station) (tag : Byte) (body : List Byte)
  | accountOpen (st : Station) (tag : Byte) (body : List Byte)
  | accountUpdate (st : Station) (tag : Byte) (body : List Byte)
  | accountCredit (st : Station) (tag : Byte) (body : List Byte)
  | accountClose (st : Station) (tag : Byte) (body : List Byte)
  | accountQuery (st : Station) (tag : Byte) (body : List Byte)
  | setSchedule (st : Station) (tag : Byte) (body : List Byte)
  | setCategoryDiscount (st : Station) (tag : Byte) (body : List Byte)
  | dayClose (st : Station) (tag : Byte) (body : List Byte)
  | journalTake (st : Station) (tag : Byte) (body : List Byte)
  | tallyQuery (st : Station) (tag : Byte) (body : List Byte)
  | exportCartridge (st : Station) (tag : Byte) (body : List Byte)
  | driveReset (st : Station) (tag : Byte) (body : List Byte)
  | faultClearRetry (st : Station) (tag : Byte) (body : List Byte)
  | faultClearAbandon (st : Station) (tag : Byte) (body : List Byte)
  | recover (st : Station) (tag : Byte) (body : List Byte)
  | faultQuery (st : Station) (tag : Byte) (body : List Byte)
  | libraryQuery (st : Station) (tag : Byte) (body : List Byte)
  | setProfile (st : Station) (tag : Byte) (body : List Byte)
  | setTimers (st : Station) (tag : Byte) (body : List Byte)
  | setOptions (st : Station) (tag : Byte) (body : List Byte)
  | setDate (st : Station) (tag : Byte) (body : List Byte)
  | setArmPriority (st : Station) (tag : Byte) (body : List Byte)
  | noticeConfig (st : Station) (tag : Byte) (body : List Byte)
  | signalSet (st : Station) (tag : Byte) (body : List Byte)
  | signalClear (st : Station) (tag : Byte) (body : List Byte)
  | takeNotice (st : Station) (tag : Byte) (body : List Byte)
  | setThreshold (st : Station) (tag : Byte) (body : List Byte)
  | noticeQuery (st : Station) (tag : Byte) (body : List Byte)
  | status (st : Station) (tag : Byte) (body : List Byte)
  /-- A REQUEST frame whose request code names no request (R183). -/
  | requestUnknownCode (st : Station) (tag : Byte) (code : Byte) (body : List Byte)
  /-- A REQUEST frame with a body of 0 bytes (R203). -/
  | requestEmptyBody (st : Station) (tag : Byte)
  -- the other frames of the links, and the link's own events
  | page (st : Station) (tag : Byte) (body : List Byte)
  | credit (st : Station) (tag : Byte) (body : List Byte)
  | linkReset (st : Station) (tag : Byte) (body : List Byte)
  | unknownKind (st : Station)
  | malformedCrc (st : Station)
  | malformedLength (st : Station)
  | frameTimeout (st : Station)
  | overrun (st : Station)
  | carrierLoss (st : Station)
  | frameSent (st : Station)
  /-- The stall timer of the fetch with this station and tag reaches the fetch stall limit (R138). -/
  | fetchStallLimit (st : Station) (tag : Byte)
  /-- The reset pin; `lost` says that the battery did not keep registry memory, so that no signature is found. -/
  | powerOnReset (lost : Bool)
  /-- A drive answers identification and the presence question, or reports a hardware fault in answer (R60). -/
  | driveIdentifyAnswer (d : DriveId) (present : Bool) (faulty : Bool)
  | driveIdentifyTimeout (d : DriveId)
  /-- Start-up reconciliation, with the readings of the grip sensor, the loading-slot sensor and the 96 shelf-slot
  sensors (line `n - 1` of `shelf` is slot `n`; set: the sensor reports a cartridge). -/
  | startUpReconciliation (grip : Bool) (slot : Bool) (shelf : BitVec 96)
  | loadingSlotCartridge
  | loadingSlotEmpty
  /-- The presence sensor of shelf slot `slot` changes to `present`. -/
  | shelfSlotSensor (slot : Nat) (present : Bool)
  | pickCompletion
  | travelCompletion
  | placeCompletion
  | moveTimeout
  | pickEmpty
  | driveRefused
  | placeBlocked
  | gripLost
  -- drive completions and drive events
  | spinUpCompletion (d : DriveId) (r : SpinUpResult)
  | spinDownCompletion (d : DriveId)
  | ejectCompletion (d : DriveId) (r : EjectResult)
  | readCompletion (d : DriveId) (sectors : List SectorRead)
  | writeCompletion (d : DriveId) (r : WriteResult)
  | verifyCompletion (d : DriveId) (sectors : List SectorVerify)
  | blankCheckCompletion (d : DriveId) (r : BlankResult)
  | reinitCompletion (d : DriveId) (present : Bool)
  | powerCycleCompletion (d : DriveId) (present : Bool)
  | commandTimeout (d : DriveId)
  | driveHardwareFault (d : DriveId)
  | idleTimerExpiry (d : DriveId)
  | holdTimerExpiry (d : DriveId)
  | filingStallLimit
  deriving DecidableEq, Repr

end Sys2Proof
end

