-- ==== Sys2Proof/Machine/Records.lean ====
section
/-! DEFINITION. The records of the KA-96 as plain data, each with the rule of spec/ that gives its fields. Quantities,
numbers and money are `Nat`; bytes of frames, pages and sectors are `Byte`. -/

namespace Sys2Proof.Machine

open Sys2Proof

/-! ### Status values and identifiers -/

/-- The status values of replies, the outcomes of fetches and the reasons of runs (section 11.3). -/
inductive Status where
  | done | badRequest | notPermitted | queueFull | tagInUse | busy
  | notFiled | inFiling | range | offLine | libraryHalted | noAccount | suspended | journalFull | funds | notOutstanding
  | donePartial | cancelled | stalled | driveFault | linkReset | unreadableIndex
  | duplicate | catalogueFull | filingDriveFault | noBlank | ringFull | limit | notOpen | aborted | verifyFailed
  | extentLimit | sideEnd | empty | writeRefused
  | noCartridge | notPresent | cartridgeBusy | notFitted | notNeeded | resetFailed | noFault | armBusy | slotOccupied
  | notMissing | sourceEmpty | listFull | abandoned
  | accountsFull | notPrepaid | accountBusy | dateLimit | dateBack | priorityConflict | lastSupervisor
  deriving DecidableEq, Repr

/-- The station and tag that identify a fetch order and a hold (R124, R151). -/
structure FetchId where
  station : Station
  tag : Byte
  deriving DecidableEq, Repr

/-! ### Chapter 1: the catalogue -/

/-- One extent record (R3). -/
structure Extent where
  start : Nat
  len : Nat
  deriving DecidableEq, Repr

inductive EntryState where
  | filing | committed
  deriving DecidableEq, Repr

/-- A catalogue entry (R2). -/
structure CatEntry where
  number : Nat
  state : EntryState
  volume : Nat
  extents : List Extent
  pages : Nat
  content : Nat
  trailer : Option Nat
  feeClass : Nat
  filingDate : Nat
  filingStation : Station
  deriving DecidableEq, Repr

/-! ### Chapter 2: cartridges and the library map -/

inductive SideState where
  | blank | opened | full
  deriving DecidableEq, Repr

/-- A side record (R20). -/
structure SideRec where
  state : SideState
  volume : Option Nat
  frontier : Nat
  dead : Nat
  instruments : Nat
  deriving DecidableEq, Repr

/-- Where a cartridge is (R19); SHELF is its home slot. -/
inductive Location where
  | shelf | drive (d : DriveId) | arm | loadingSlot | exported | missing
  deriving DecidableEq, Repr

/-- A cartridge record (R19). -/
structure Cartridge where
  number : Nat
  home : Option Nat
  location : Location
  sideUp : Option Side
  sideA : SideRec
  sideB : SideRec
  exportPending : Bool
  deriving DecidableEq, Repr

/-- An entry of the volume map (R23). -/
structure VolumeEntry where
  volume : Nat
  cart : Nat
  side : Side
  deriving DecidableEq, Repr

/-- The loading slot's state (R27). -/
inductive SlotState where
  | empty | arrived | held | rejected | busy
  deriving DecidableEq, Repr

inductive Origin where
  | loadingSlot | startUp
  deriving DecidableEq, Repr

/-- The place of an inspection's cartridge (R28). -/
inductive InspPlace where
  | loadingSlot | arm | drive (d : DriveId)
  deriving DecidableEq, Repr

/-- The phase of an inspection (R28-R31); `returning` is the START_UP inspection of a cartridge on the arm (R37),
for which the manual names no phase: DESIGN CHOICE (notes/assumptions/64.md). -/
inductive InspPhase where
  | waitingSlot | waitingDrive | carrying | loading | reading | labelFirst | flipping | labelSecond | shelving | rejecting
  | returning
  deriving DecidableEq, Repr

/-- The result of a read of sector 0 (R22). -/
inductive LabelResult where
  | blank | label (cart : Nat) (side : Side) | badLabel | unreadable
  deriving DecidableEq, Repr

/-- The reason of a rejection (R31). -/
inductive RejectReason where
  | present | foreign | unreadableLabel | tableFull | numbersExhausted | labelWriteFailed | abandoned
  deriving DecidableEq, Repr

/-- An inspection record (R28). `id` names it in arm orders (R41); `order` is the arm order it waits on; `orderDue` says
that the move of its phase is still to be asked for, and `awaitReady` that it is asked for once the drive is READY (R32). -/
structure Inspection where
  id : Nat
  origin : Origin
  place : InspPlace
  phase : InspPhase
  reserved : Option Nat
  label : Option LabelResult
  taken : Option Nat
  order : Option Nat
  orderDue : Bool
  awaitReady : Bool
  deriving DecidableEq, Repr

/-- An entry of the export list (R33), with the arm order asked for it (R34); `replyDue` is cleared by a link reset of the
station, after which the export goes on without its reply (R35). -/
structure ExportEntry where
  cart : Nat
  station : Station
  tag : Byte
  order : Option Nat
  replyDue : Bool
  deriving DecidableEq, Repr

/-- The Library Map's state: table, volume map, counters and low mark in registry memory (R40); the rest volatile. -/
structure Library where
  table : List Cartridge
  volumes : List VolumeEntry
  nextCart : Nat
  nextVol : Nat
  lowMark : Nat
  slot : SlotState
  inspections : List Inspection
  inspectionSeq : Nat
  exports : List ExportEntry
  lastReject : Option (RejectReason × Option Nat)
  probeDue : Bool
  slotSensor : Bool
  shelfSensors : BitVec 96
  deriving DecidableEq, Repr

/-! ### Chapter 3: the arm -/

/-- The cartridge of an order: a number, or the inspection record of an unidentified cartridge (R41). -/
inductive CartRef where
  | number (n : Nat) | inspection (id : Nat)
  deriving DecidableEq, Repr

inductive MoveKind where
  | mount | demount | flip | inspectLoad | inspectShelve | exportMove | returnMove
  deriving DecidableEq, Repr

inductive ArmPlace where
  | shelf (n : Nat) | drive (d : DriveId) | loadingSlot | arm
  deriving DecidableEq, Repr

inductive Group where
  | filing | fetch | lib | hold
  deriving DecidableEq, Repr

inductive Originator where
  | volumeWait | filingRun | importJob | exportJob | holdExpiry | startUp | recovery
  deriving DecidableEq, Repr

inductive OrderStatus where
  | waiting | running | suspended
  deriving DecidableEq, Repr

/-- A move order (R41). -/
structure MoveOrder where
  number : Nat
  kind : MoveKind
  cart : CartRef
  source : ArmPlace
  dest : ArmPlace
  side : Option Side
  group : Group
  after : Option Nat
  originator : Originator
  status : OrderStatus
  deriving DecidableEq, Repr

inductive MovePhase where
  | pick | travel | place
  deriving DecidableEq, Repr

/-- What started the move under way: the arbiter (R45), a RETRY of a fault record (R52), or RECOVER outside the list (R54). -/
inductive MoveCause where
  | arbiter | retryPrimary | retrySecondary | recover
  deriving DecidableEq, Repr

/-- The move under way: its order, the phase, the start of the 25-second move timer, and whether the order is in the list. -/
structure Move where
  order : MoveOrder
  phase : MovePhase
  started : Nat
  cause : MoveCause
  inList : Bool
  deriving DecidableEq, Repr

inductive FaultLevel where
  | normal | attention | double | halted
  deriving DecidableEq, Repr

/-- The fault codes of a move (R50). -/
inductive MoveFault where
  | moveTimeout | pickEmpty | driveRefused | placeBlocked | gripLost
  deriving DecidableEq, Repr

/-- A fault record (R51) with its settled mark (R55). -/
structure FaultRec where
  code : MoveFault
  order : MoveOrder
  seconds : Nat
  phase : MovePhase
  settled : Bool
  inList : Bool
  deriving DecidableEq, Repr

/-- The fault history of a halt (R56). -/
structure FaultHistory where
  primary : Option FaultRec
  secondary : Option FaultRec
  third : FaultRec
  date : Nat
  deriving DecidableEq, Repr

/-- The copy of a mismatched completion (R25, R56). -/
structure Mismatch where
  cart : Nat
  order : Nat
  phase : MovePhase
  deriving DecidableEq, Repr

/-- The group priorities (R46). -/
structure Priorities where
  filing : Nat
  fetch : Nat
  lib : Nat
  hold : Nat
  deriving DecidableEq, Repr

/-- The Arm Controller's state (R41-R58); the motion state is MOVING while `moving` holds a move. -/
structure Arm where
  orders : List MoveOrder
  counter : Nat
  moving : Option Move
  level : FaultLevel
  primary : Option FaultRec
  secondary : Option FaultRec
  priorities : Priorities
  history : Option FaultHistory
  mismatchCount : Nat
  mismatch : Option Mismatch
  gripSensor : Bool
  deriving DecidableEq, Repr

/-! ### Chapter 4: drives -/

inductive DriveState where
  | empty | loading | ready | active | standby | waking | unloading | faulted | resetting
  deriving DecidableEq, Repr

inductive DriveFaultCode where
  | hardwareFault | timeout | ejectFailed | notReady
  deriving DecidableEq, Repr

inductive ShareTurn where
  | filing | fetch
  deriving DecidableEq, Repr

/-- The drive commands (R64). -/
inductive DriveCmd where
  | spinUp | spinDown | eject
  | read (start count : Nat)
  | write (sector : Nat) (bytes : List Byte)
  | verify (start count : Nat) (bytes : List Byte)
  | blankCheck (sector : Nat)
  | reinit | powerCycle
  deriving DecidableEq, Repr

inductive Owner where
  | fetchEngine | filingWriter | libraryMap | driveUnit
  deriving DecidableEq, Repr

/-- A command in flight, with its owner and its start time (R59, R66). -/
structure InFlight where
  cmd : DriveCmd
  owner : Owner
  started : Nat
  deriving DecidableEq, Repr

/-- One sector of a page being read: its extent and physical sector, its bytes once read, and its tries (R133). -/
structure PageSector where
  extent : Nat
  phys : Nat
  bytes : Option (List Byte)
  tries : Nat
  deriving DecidableEq, Repr

/-- What a write or verify pass writes: the head page of the ring, or the trailer (R107, R110). -/
inductive PassKind where
  | page | trailer
  deriving DecidableEq, Repr

/-- The unit of work in progress on a drive and how far it has come (section 4.4). -/
inductive UnitWork where
  | trailerRead (id : FetchId) (sector tries : Nat)
  | pageRead (id : FetchId) (buf : Nat) (sectors : List PageSector) (at_ count : Nat)
  | writePass (kind : PassKind) (cart : Nat) (side : Side) (left : List (List Byte))
  | verifyPass (kind : PassKind)
  | probe (cart : Nat) (side : Side)
  | volumeLabelWrite (cart : Nat) (side : Side) (volume : Nat)
  | volumeLabelVerify (cart : Nat) (side : Side) (volume : Nat)
  | labelRead (insp : Nat) (tries : Nat)
  | labelWrite (insp : Nat) (bytes : List Byte)
  | labelVerify (insp : Nat)
  deriving DecidableEq, Repr

/-- A unit in progress; `ended` says that its order or instrument was ended meanwhile (R70). -/
structure DriveUnit where
  work : UnitWork
  ended : Bool
  deriving DecidableEq, Repr

/-- A drive record (R59), with what the rules of chapter 4 have the Drive Unit keep beside it: the identification still
unanswered since its start (R60), the drive's presence report, the unit in progress (R68), a kept unload request (R62),
the mark of an ABANDON taken during a command or unit (R62), the station and tag of a DRIVE_RESET (R75), and a kept
request for a G-HOLD DEMOUNT (R72). -/
structure Drive where
  state : DriveState
  fitted : Bool
  cart : Option CartRef
  sideUp : Option Side
  queue : List FetchId
  pin : Bool
  share : ShareTurn
  lastActive : Nat
  idle : Option Nat
  hold : Option Nat
  command : Option InFlight
  pendingHold : Option Nat
  fault : Option DriveFaultCode
  identSince : Option Nat
  presence : Bool
  unit : Option DriveUnit
  unloadKept : Bool
  vacate : Bool
  resetBy : Option FetchId
  holdKept : Bool
  deriving DecidableEq, Repr

/-! ### Chapter 5: mount planning -/

/-- An entry of the volume wait list (R78). -/
structure Waiter where
  id : FetchId
  volume : Nat
  cart : Nat
  side : Side
  plan : Option DriveId
  offLine : Bool
  deriving DecidableEq, Repr

inductive Purpose where
  | fetch | filing | importJob
  deriving DecidableEq, Repr

inductive PlanKind where
  | mount | victim | flip | claim
  deriving DecidableEq, Repr

/-- A plan (R79). `moved` says that its move order has completed: a FILING plan then keeps the number until the report
(R90), and no order of the list bears it for the plan. -/
structure Plan where
  drive : DriveId
  purpose : Purpose
  kind : PlanKind
  cart : CartRef
  side : Side
  volume : Option Nat
  demount : Option Nat
  move : Option Nat
  moved : Bool
  deriving DecidableEq, Repr

/-- The Mount Planner's state (R94); `passesDue` counts the events of R86 whose passes are still to be made. -/
structure Planner where
  waiters : List Waiter
  plans : List Plan
  filingReq : Option (Nat × Side)
  inspReq : Option Nat
  reserve : Bool
  passesDue : Nat
  deriving DecidableEq, Repr

/-! ### Chapter 6: filing -/

inductive RunState where
  | closed | opening | running | waitingPage | closing
  deriving DecidableEq, Repr

inductive NumberSource where
  | given | separator
  deriving DecidableEq, Repr

/-- The current instrument of a run (R95); `start` is the attempt's start and `verifyDue` says that its write pass is done. -/
structure Instrument where
  number : Nat
  pages : Nat
  content : Nat
  pageSectors : List Nat
  extentCount : Nat
  attempts : Nat
  attemptSectors : Nat
  rewrites : Nat
  dead : Nat
  start : Nat
  verifyDue : Bool
  deriving DecidableEq, Repr

/-- A slot of the filing ring in use (R103): FILLING until `complete`. `received` counts `bytes`. -/
structure RingSlot where
  declared : Nat
  sectors : Nat
  bytes : List Byte
  notify : Bool
  tag : Byte
  complete : Bool
  deriving DecidableEq, Repr

/-- The volume-label units of a rollover (R101): the drive reported, and the number read for the label. `issued` from the
WRITE on; `written` once it was DONE. -/
structure LabelJob where
  drive : DriveId
  volume : Nat
  issued : Bool
  written : Bool
  deriving DecidableEq, Repr

/-- The four counts of a run (R95). -/
structure RunCounts where
  committed : Nat
  aborted : Nat
  orphans : Nat
  discarded : Nat
  deriving DecidableEq, Repr

/-- The filing run record (R95) and the filing ring (R103). The ring is its head slot's number and its slots in use from
the head on; the count is their number and the tail follows the last. `probing` counts the WRITTEN sectors of the
frontier probe under way (R102). -/
structure Run where
  state : RunState
  owner : Station
  source : NumberSource
  feeClass : Nat
  given : Nat
  openTag : Option Byte
  closeTag : Option Byte
  closeRequested : Bool
  failure : Option Status
  current : Option Instrument
  postedPages : Nat
  postedSectors : Nat
  discard : Bool
  pendingSep : Option Nat
  chosen : Option (Nat × Side)
  engaged : Option DriveId
  counts : RunCounts
  stall : Option Nat
  stallSent : Bool
  lastTag : Option Byte
  probing : Option Nat
  label : Option LabelJob
  head : Nat
  ring : List RingSlot
  deriving DecidableEq, Repr

/-! ### Chapters 7 and 8: fetching and copy fees -/

inductive FetchKind where
  | view | copy
  deriving DecidableEq, Repr

/-- The categories of R149; `counter` is PUBLIC, the category of account 0. -/
inductive Category where
  | counter | solicitor | government | staff
  deriving DecidableEq, Repr

/-- The six rates of a fee class, in mils (R148). -/
structure ClassRates where
  v : Nat
  f : Nat
  g : Nat
  c : Nat
  m : Nat
  x : Nat
  deriving DecidableEq, Repr

/-- The fee snapshot of a fetch order (R124, R152). -/
structure FeeSnapshot where
  cls : Nat
  rates : ClassRates
  category : Category
  discount : Nat
  cap : Option Nat
  deriving DecidableEq, Repr

/-- A page in delivery: its number, its buffer and the frames sent of it (R124). -/
structure Delivering where
  page : Nat
  buf : Nat
  sent : Nat
  deriving DecidableEq, Repr

/-- Where a fetch order is (R124): the volume wait list, or a drive (its queue, or a unit running there). -/
inductive FetchPlace where
  | waitList | drive (d : DriveId)
  deriving DecidableEq, Repr

/-- A fetch order (R124). `staged` is a page number and its buffer. -/
structure FetchOrder where
  id : FetchId
  instrument : Nat
  volume : Nat
  extents : List Extent
  pages : Nat
  content : Nat
  trailer : Nat
  filingDate : Nat
  first : Nat
  effective : Nat
  kind : FetchKind
  account : Nat
  snap : FeeSnapshot
  estimate : Nat
  hold : Option Nat
  reservation : Bool
  lengths : Option (List Nat)
  next : Nat
  delivered : Nat
  unreadable : Nat
  reading : Option Nat
  staged : Option (Nat × Nat)
  delivery : Option Delivering
  stall : Option Nat
  place : FetchPlace
  deriving DecidableEq, Repr

/-- The Fetch Engine's state (R124, R135): the orders in admission order, the 16 staging buffers (each free, or in use
with its bytes), and the orders holding a staged page in the order in which their pages were staged (R136). -/
structure FetchEngine where
  orders : List FetchOrder
  buffers : Vector (Option (List Byte)) 16
  stagedOrder : List FetchId
  deriving DecidableEq, Repr

inductive AccountState where
  | opened | suspended
  deriving DecidableEq, Repr

/-- An account record (R150). -/
structure Account where
  number : Nat
  category : Category
  state : AccountState
  balance : Option Nat
  cap : Option Nat
  dayTotal : Nat
  discount : Option Nat
  lowMark : Option Nat
  deriving DecidableEq, Repr

/-- A hold (R151). -/
structure Hold where
  id : FetchId
  account : Nat
  amount : Nat
  deriving DecidableEq, Repr

/-- A journal record (R161). -/
structure JournalRecord where
  receipt : Nat
  date : Nat
  station : Station
  account : Nat
  category : Category
  instrument : Nat
  kind : FetchKind
  delivered : Nat
  unreadable : Nat
  charge : Nat
  outcome : Status
  deriving DecidableEq, Repr

/-- The tallies of one fee class and kind (R164). -/
structure KindTally where
  fetches : Nat
  pages : Nat
  charges : Nat
  deriving DecidableEq, Repr

/-- The tallies of one fee class (R164). -/
structure ClassTally where
  view : KindTally
  copy : KindTally
  deriving DecidableEq, Repr

/-- The tallies of one category (R164). -/
structure CategoryTally where
  fetches : Nat
  charges : Nat
  deriving DecidableEq, Repr

/-- A tally set (R164). -/
structure TallySet where
  day : Option Nat
  classes : Vector ClassTally 8
  counter : CategoryTally
  solicitor : CategoryTally
  government : CategoryTally
  staff : CategoryTally
  saturated : Bool
  deriving DecidableEq, Repr

/-- The Fee Unit's state (R148-R166, R174). The STAFF discount is 100 and stays 100, so it is no field (R149). -/
structure FeeUnit where
  schedule : Vector ClassRates 8
  discountCounter : Nat
  discountSolicitor : Nat
  discountGovernment : Nat
  accounts : List Account
  holds : List Hold
  journal : List JournalRecord
  reservations : Nat
  receipt : Nat
  date : Nat
  today : TallySet
  previous : TallySet
  deriving DecidableEq, Repr

/-! ### Chapter 10: notices -/

/-- A notice source (R192). -/
structure Source where
  pending : Bool
  level : Nat
  target : Station
  enabled : Bool
  deriving DecidableEq, Repr

/-! ### Chapter 9: station links -/

/-- A set of request families (R180). -/
structure Families where
  fetch : Bool
  file : Bool
  cash : Bool
  library : Bool
  supervise : Bool
  deriving DecidableEq, Repr

/-- The kinds of long request (section 9.4). -/
inductive LongKind where
  | fetch | openInstrument | closeInstrument | exportCartridge | driveReset
  deriving DecidableEq, Repr

/-- The owning blocks of long requests (section 9.4). -/
inductive Block where
  | fetchEngine | filingWriter | libraryMap | driveUnit (d : DriveId)
  deriving DecidableEq, Repr

/-- An entry of an outstanding table (R180). -/
structure Outstanding where
  tag : Byte
  kind : LongKind
  owner : Block
  deriving DecidableEq, Repr

/-- A REQUEST frame held in the receive buffer (R178), with its whole body, the request code first. -/
structure HeldRequest where
  tag : Byte
  body : List Byte
  deriving DecidableEq, Repr

/-- The causes of a link reset (R180). -/
inductive ResetCause where
  | powerOn | crc | length | frameTimeout | unknownKind | overrun | carrierLoss | stationReset
  deriving DecidableEq, Repr

inductive LinkState where
  | up | resetting
  deriving DecidableEq, Repr

/-- The four timer settings (R188). -/
structure Timers where
  idleDelay : Nat
  holdLimit : Nat
  fetchStall : Nat
  filingStall : Nat
  deriving DecidableEq, Repr

/-! ### Replies -/

/-- The FETCH_DONE reply's fields (R141). -/
structure FetchDone where
  instrument : Nat
  first : Nat
  effective : Nat
  delivered : Nat
  unreadable : Nat
  charge : Nat
  receipt : Nat
  deriving DecidableEq, Repr

/-- The QUOTE reply's fields (R146). -/
structure QuoteInfo where
  effective : Nat
  lastPage : Nat
  feeClass : Nat
  category : Category
  discount : Nat
  cap : Option Nat
  estimate : Nat
  funds : Bool
  available : Option Nat
  deriving DecidableEq, Repr

/-- The LOCATE reply's fields (R6). -/
structure LocateInfo where
  entry : CatEntry
  cart : Nat
  side : Side
  location : Location
  home : Option Nat
  sideUp : Bool
  deriving DecidableEq, Repr

/-- The ACCOUNT_QUERY reply's fields for an account (R171). -/
structure AccountInfo where
  account : Account
  held : Nat
  holds : Nat
  available : Option Nat
  fetches : Nat
  deriving DecidableEq, Repr

/-- The LIBRARY_QUERY reply's fields for the whole library (R39). -/
structure LibraryInfo where
  onShelf : Nat
  inDrive : Nat
  onArm : Nat
  inSlot : Nat
  exported : Nat
  missing : Nat
  records : Nat
  pool : Nat
  lowMark : Nat
  slot : SlotState
  inspections : List (InspPhase × InspPlace)
  exports : Nat
  nextCart : Nat
  nextVol : Nat
  lastReject : Option (RejectReason × Option Nat)
  deriving DecidableEq, Repr

/-- Waiting and ready orders of one group (R57). -/
structure GroupCount where
  waiting : Nat
  ready : Nat
  deriving DecidableEq, Repr

/-- The FAULT_QUERY reply's fields (R57). -/
structure FaultInfo where
  level : FaultLevel
  moving : Bool
  running : Option (MoveOrder × MovePhase × Nat)
  primary : Option FaultRec
  secondary : Option FaultRec
  orders : Nat
  filing : GroupCount
  fetch : GroupCount
  lib : GroupCount
  hold : GroupCount
  priorities : Priorities
  history : Option FaultHistory
  mismatchCount : Nat
  mismatch : Option Mismatch
  deriving DecidableEq, Repr

/-- One line of NOTICE_QUERY (R199): index, level, target, enable. -/
structure NoticeLine where
  index : Nat
  level : Nat
  target : Station
  enabled : Bool
  deriving DecidableEq, Repr

/-- STATUS of one station (R190, R199). -/
structure StationStatus where
  link : LinkState
  profile : Families
  outstanding : List (Byte × LongKind)
  credit : Nat
  threshold : Nat
  cause : ResetCause
  deliverable : Nat
  attentionSent : Bool
  deriving DecidableEq, Repr

/-- STATUS of one drive (R77). -/
structure DriveStatus where
  state : DriveState
  fitted : Bool
  cart : Option CartRef
  sideUp : Option Side
  queued : Nat
  pin : Bool
  fault : Option DriveFaultCode
  sinceActive : Nat
  deriving DecidableEq, Repr

/-- STATUS of the filing run (R123). -/
structure RunStatus where
  state : RunState
  owner : Station
  source : NumberSource
  feeClass : Nat
  failure : Option Status
  current : Option (Nat × Nat × Nat × Nat × Nat)
  postedPages : Nat
  postedSectors : Nat
  discard : Bool
  pendingSep : Option Nat
  head : Nat
  tail : Nat
  slots : List Bool
  engaged : Option DriveId
  counts : RunCounts
  lastTag : Option Byte
  stallSeconds : Option Nat
  deriving DecidableEq, Repr

/-- The phase of a fetch order (R125). -/
inductive FetchPhase where
  | waitingVolume | readingIndex | readingPage | staged | delivering | queued
  deriving DecidableEq, Repr

/-- The number of fetch orders in each phase (R147). -/
structure PhaseCounts where
  waitingVolume : Nat
  readingIndex : Nat
  readingPage : Nat
  staged : Nat
  delivering : Nat
  queued : Nat
  deriving DecidableEq, Repr

/-- STATUS of one fetch order (R147). -/
structure FetchStatus where
  id : FetchId
  phase : FetchPhase
  place : FetchPlace
  next : Nat
  delivered : Nat
  unreadable : Nat
  stallSeconds : Option Nat
  deriving DecidableEq, Repr

/-- STATUS of the Fee Unit (R174). -/
structure FeeStatus where
  date : Nat
  journal : Nat
  reservations : Nat
  holds : Nat
  receipt : Nat
  accounts : Nat
  todaySaturated : Bool
  previousSaturated : Bool
  deriving DecidableEq, Repr

/-- The STATUS reply's fields (R190 and the chapters it names). -/
structure StatusInfo where
  seconds : Nat
  initialised : Bool
  stations : Vector StationStatus 4
  level : FaultLevel
  moving : Bool
  armOrders : Nat
  timers : Timers
  reserve : Bool
  lowMark : Nat
  pool : Nat
  drives : Vector DriveStatus 4
  waiters : Nat
  offLine : Nat
  plans : List Plan
  filingReq : Bool
  inspReq : Bool
  run : RunStatus
  phases : PhaseCounts
  fetches : List FetchStatus
  buffersInUse : Nat
  fee : FeeStatus
  pendingSources : Nat
  deriving DecidableEq, Repr

/-- What a reply carries after its reply kind and its status. -/
inductive ReplyBody where
  | none
  | fetchDone (f : FetchDone)
  | delivered (pages : Nat)
  | quote (q : QuoteInfo)
  | located (l : LocateInfo)
  | found (numbers : List Nat) (last : Nat) (complete : Bool)
  | opened (volume cart : Nat) (side : Side) (drive : DriveId) (frontier : Nat)
  | slot (n : Nat)
  | closed (counts : RunCounts) (volume frontier : Option Nat)
  | counts (c : RunCounts)
  | account (a : Account)
  | funds (balance available : Nat)
  | finalBalance (balance : Option Nat)
  | accountInfo (a : AccountInfo)
  | feeTables (counter solicitor government staff : Nat) (schedule : Vector ClassRates 8)
  | rates (r : ClassRates)
  | discount (v : Nat)
  | date (d : Nat)
  | journal (records : List JournalRecord) (left : Nat)
  | tally (t : TallySet)
  | presence (present : Bool)
  | faultCode (c : DriveFaultCode)
  | recordCleared
  | order (number : Nat)
  | faults (f : FaultInfo)
  | library (l : LibraryInfo)
  | cartridge (c : Cartridge)
  | profile (f : Families)
  | timers (t : Timers)
  | options (reserve : Bool) (lowMark : Nat)
  | source (index : Nat) (s : Source)
  | wasPending (p : Bool)
  | notice (index level : Nat)
  | threshold (v : Nat)
  | notices (lines : List NoticeLine) (threshold deliverable : Nat)
  | status (s : StatusInfo)
  deriving DecidableEq, Repr

/-- A reply: the tag of its request, the reply kind byte, the status and what follows them (section 11.3). -/
structure Reply where
  tag : Byte
  kind : Byte
  status : Status
  body : ReplyBody
  deriving DecidableEq, Repr

/-- A frame the part sends (R176). A DATA frame carries its fetch, or none once that fetch was completed (R140). -/
inductive TxFrame where
  | reply (r : Reply)
  | data (id : Option FetchId) (tag : Byte) (page index : Nat) (last : Bool) (bytes : List Byte)
  | attention
  | linkReset (cause : ResetCause)
  deriving DecidableEq, Repr

/-- The receiver of a link (R176): hunting for a start byte, or inside a frame, with the bytes taken since. -/
inductive Receiver where
  | hunting | inside (got : List Byte)
  deriving DecidableEq, Repr

/-- A station context (R180) with the transmitter of its link (R179): the due LINK_RESET, the waiting attention frame,
the frame being sent, and the send list of pages in delivery (R137); and its receiver (R176). -/
structure Link where
  state : LinkState
  profile : Families
  outstanding : List Outstanding
  credit : Nat
  threshold : Nat
  attentionSent : Bool
  replies : List Reply
  buffer : Option HeldRequest
  cause : ResetCause
  resetDue : Bool
  attentionWaiting : Bool
  sending : Option TxFrame
  sendList : List FetchId
  receiver : Receiver
  deriving DecidableEq, Repr

end Sys2Proof.Machine
end

