-- ==== Sys2Proof/Config.lean ====
section
/-! DEFINITION. The constants that the manual fixes, and the free values: what the manual leaves open is an opaque
constant here, without a body, so that nothing can be proved of it. -/

namespace Sys2Proof.Config

open Sys2Proof.Machine

/-- The move timer, in seconds (R47). -/
def moveTime : Nat := 25
/-- The command timeout of the drive bus, in seconds (R66). -/
def commandTime : Nat := 30
/-- How long a drive position may leave its identification unanswered, in seconds (R60). -/
def identifyTime : Nat := 30
/-- The seconds count stays here once it has reached it (00_scope 4.1). -/
def secondsMax : Nat := 4294967295

/-- Bytes of a sector, and sectors of a side (00_scope 4.2). -/
def sectorBytes : Nat := 1024
def sectorsPerSide : Nat := 300000
/-- The first data sector (00_scope 4.2). -/
def firstData : Nat := 32
/-- Free sectors below which a rollover is needed (R97). -/
def rolloverRoom : Nat := 4096

def catalogueMax : Nat := 65536
def tableMax : Nat := 512
def numberMax : Nat := 65536
def instrumentMax : Nat := 999999999
def pagesMax : Nat := 1000
def contentMax : Nat := 3840
def extentsMax : Nat := 4
def extentLenMax : Nat := 4096
def orderListMax : Nat := 16
def exportListMax : Nat := 32
def outstandingMax : Nat := 8
def heldAt : Nat := 16
def creditMax : Nat := 8
def ringSlots : Nat := 16
def accountsMax : Nat := 2048
def moneyMax : Nat := 99999999
def tallyMax : Nat := 999999999
def journalMax : Nat := 256
def journalHigh : Nat := 224
def dateMax : Nat := 65535
def receiptMax : Nat := 999999
def countMax : Nat := 65535
/-- Bytes of a DATA or PAGE frame's page part (R105, R137), and of the longest body (R176). -/
def frameBytes : Nat := 4096
def bodyMax : Nat := 4100
/-- WRITTEN sectors after which a frontier probe gives a side up (R102). -/
def probeMax : Nat := 128

/-- FREE VALUE. The bytes after reply kind and status of a reply whose layout chapter 11 does not give
(notes/assumptions/1.md). Its length is not given either. -/
opaque replyFields : ReplyBody → List Byte

end Sys2Proof.Config
end

