-- ==== Sys2Proof/Machine/State.lean ====
section
/-! DEFINITION. The state of the KA-96, its reset, and the reasons a step can stop. -/

namespace Sys2Proof.Machine

open Sys2Proof

/-- The reasons a step stops with a fault. There is none: every fault the manual describes (of the arm, of a drive, of a
link, of the filing run) is an effect on the state, and every command has an effect in every state. -/
inductive Fault where
  deriving DecidableEq

/-- The reasons a command is refused. -/
inductive Refusal where
  /-- Raised by `exec` for a command that has no meaning yet; safe. No arm of `exec` raises it. -/
  | notModelled (mnemonic : String)
  deriving DecidableEq, Repr

/-- The whole state of the part. `pending` is the queue of commands waiting at the block's edge, first in, first out.
`signature` to `notices` follow the blocks of 00_scope section 2; INVENTORY.md lists every field's rule. -/
structure State where
  pending : List Instr
  seconds : Nat
  signature : Bool
  initialised : Bool
  reconciled : Bool
  timers : Timers
  catalogue : List CatEntry
  library : Library
  arm : Arm
  drives : Vector Drive 4
  planner : Planner
  run : Run
  fetch : FetchEngine
  fee : FeeUnit
  links : Vector Link 4
  notices : Vector Source 24
  deriving DecidableEq, Repr

/-! ### Values after resets and at registry initialisation -/

/-- An empty tally set (R174). -/
def TallySet.zero (day : Option Nat) : TallySet where
  day := day
  classes := Vector.replicate 8 ⟨⟨0, 0, 0⟩, ⟨0, 0, 0⟩⟩
  counter := ⟨0, 0⟩
  solicitor := ⟨0, 0⟩
  government := ⟨0, 0⟩
  staff := ⟨0, 0⟩
  saturated := false

/-- A drive record after power-on reset (R59), its identification asked at `now` (R60). DESIGN CHOICE
(notes/assumptions/7.md): until its identification is answered it reads EMPTY and not fitted. -/
def Drive.atReset (now : Nat) : Drive where
  state := .empty
  fitted := false
  cart := none
  sideUp := none
  queue := []
  pin := false
  share := .filing
  lastActive := 0
  idle := none
  hold := none
  command := none
  pendingHold := none
  fault := none
  identSince := some now
  presence := false
  unit := none
  unloadKept := false
  vacate := false
  resetBy := none
  holdKept := false

/-- The filing run record and the ring after power-on reset (R95, R103). -/
def Run.atReset : Run where
  state := .closed
  owner := 0
  source := .given
  feeClass := 0
  given := 0
  openTag := none
  closeTag := none
  closeRequested := false
  failure := none
  current := none
  postedPages := 0
  postedSectors := 0
  discard := false
  pendingSep := none
  chosen := none
  engaged := none
  counts := ⟨0, 0, 0, 0⟩
  stall := none
  stallSent := false
  lastTag := none
  probing := none
  label := none
  head := 0
  ring := []

/-- The Fetch Engine after power-on reset (R147). -/
def FetchEngine.atReset : FetchEngine where
  orders := []
  buffers := Vector.replicate 16 none
  stagedOrder := []

/-- A station context after power-on reset (R180), its receiver not yet turned on (R191). -/
def Link.atReset (profile : Families) : Link where
  state := .resetting
  profile := profile
  outstanding := []
  credit := 0
  threshold := 0
  attentionSent := false
  replies := []
  buffer := none
  cause := .powerOn
  resetDue := false
  attentionWaiting := false
  sending := none
  sendList := []
  receiver := .hunting

/-- The Library Map's registry records at initialisation, and its volatile state after power-on reset (R40). -/
def Library.initial : Library where
  table := []
  volumes := []
  nextCart := 1
  nextVol := 1
  lowMark := 4
  slot := .empty
  inspections := []
  inspectionSeq := 0
  exports := []
  lastReject := none
  probeDue := false
  slotSensor := false
  shelfSensors := 0

/-- The Arm Controller at registry initialisation and after power-on reset (R58). -/
def Arm.initial : Arm where
  orders := []
  counter := 1
  moving := none
  level := .normal
  primary := none
  secondary := none
  priorities := ⟨3, 2, 1, 0⟩
  history := none
  mismatchCount := 0
  mismatch := none
  gripSensor := false

/-- The Mount Planner at registry initialisation and after power-on reset (R94). -/
def Planner.initial : Planner where
  waiters := []
  plans := []
  filingReq := none
  inspReq := none
  reserve := false
  passesDue := 0

/-- The Fee Unit at registry initialisation (R174). -/
def FeeUnit.initial : FeeUnit where
  schedule := Vector.replicate 8 ⟨0, 0, 0, 0, 0, 0⟩
  discountCounter := 0
  discountSolicitor := 0
  discountGovernment := 0
  accounts := []
  holds := []
  journal := []
  reservations := 0
  receipt := 1
  date := 0
  today := TallySet.zero (some 0)
  previous := TallySet.zero none

/-- The profile of a station at registry initialisation: station 0 SUPERVISE, stations 1-3 FETCH (R180). -/
def Families.initial (st : Station) : Families :=
  if st = 0 then ⟨false, false, false, false, true⟩ else ⟨true, false, false, false, false⟩

/-- The timer settings at registry initialisation (R188). -/
def Timers.initial : Timers := ⟨120, 1800, 120, 600⟩

/-- A notice source at registry initialisation (R200). -/
def Source.initial : Source := ⟨false, 0, 0, false⟩

/-- The part right after power-on reset with registry memory just initialised (R191): every volatile record as its chapter
gives it, every registry-held record at its initial value, each drive position asked to identify itself (R60), and no
command waiting. Start-up reconciliation, which turns the receivers on, is still to come. -/
def State.reset : State where
  pending := []
  seconds := 0
  signature := true
  initialised := true
  reconciled := false
  timers := Timers.initial
  catalogue := []
  library := Library.initial
  arm := Arm.initial
  drives := Vector.replicate 4 (Drive.atReset 0)
  planner := Planner.initial
  run := Run.atReset
  fetch := FetchEngine.atReset
  fee := FeeUnit.initial
  links := #v[Link.atReset (Families.initial 0), Link.atReset (Families.initial 1), Link.atReset (Families.initial 2),
    Link.atReset (Families.initial 3)]
  notices := Vector.replicate 24 Source.initial

end Sys2Proof.Machine
end

