-- ==== Sys2Proof/Machine/Bytes.lean ====
section
/-! DEFINITION. Byte order, the CRC-16 of frames, and the byte values of chapter 11: status values, reset causes and
enumerations, and the sectors the part writes to media (section 11.5). -/

namespace Sys2Proof.Machine

open Sys2Proof

/-! ### Byte order (R202) -/

/-- An unsigned number read with its most significant byte first (R202). -/
def beNat (bs : List Byte) : Nat := bs.foldl (fun acc b => acc * 256 + b.toNat) 0

/-- The `width` bytes of a number, most significant first (R202). -/
def beBytes : Nat → Nat → List Byte
  | 0, _ => []
  | width + 1, n => beBytes width (n / 256) ++ [BitVec.ofNat 8 n]

/-- Bytes `at_` to `at_ + width - 1` of a body as a number. -/
def field (bs : List Byte) (at_ width : Nat) : Nat := beNat ((bs.drop at_).take width)

/-! ### The CRC (R176, R202) -/

/-- One bit of the CRC register: shift out the top bit, and apply the polynomial 1021h where it was set. -/
def crcShift (r : BitVec 16) : BitVec 16 :=
  if r.msb then (r <<< 1) ^^^ 0x1021#16 else r <<< 1

/-- One byte of the CRC, most significant bit first. -/
def crcByte (r : BitVec 16) (b : Byte) : BitVec 16 :=
  let r := r ^^^ (b.zeroExtend 16 <<< 8)
  crcShift (crcShift (crcShift (crcShift (crcShift (crcShift (crcShift (crcShift r)))))))

/-- The CRC-16 of a byte sequence: polynomial 1021h, start FFFFh, no inversion (R176). -/
def crc16 (bs : List Byte) : BitVec 16 := bs.foldl crcByte 0xFFFF#16

/-! ### Encodings of section 11.3 -/

/-- The byte of a status value (section 11.3). -/
def Status.byte : Status → Byte
  | .done => 0x00 | .badRequest => 0x01 | .notPermitted => 0x02 | .queueFull => 0x03 | .tagInUse => 0x04 | .busy => 0x05
  | .notFiled => 0x10 | .inFiling => 0x11 | .range => 0x12 | .offLine => 0x13 | .libraryHalted => 0x14
  | .noAccount => 0x15 | .suspended => 0x16 | .journalFull => 0x17 | .funds => 0x18 | .notOutstanding => 0x19
  | .donePartial => 0x20 | .cancelled => 0x21 | .stalled => 0x22 | .driveFault => 0x23 | .linkReset => 0x24
  | .unreadableIndex => 0x25
  | .duplicate => 0x30 | .catalogueFull => 0x31 | .filingDriveFault => 0x32 | .noBlank => 0x33 | .ringFull => 0x34
  | .limit => 0x35 | .notOpen => 0x36 | .aborted => 0x37 | .verifyFailed => 0x38 | .extentLimit => 0x39
  | .sideEnd => 0x3A | .empty => 0x3B | .writeRefused => 0x3C
  | .noCartridge => 0x40 | .notPresent => 0x41 | .cartridgeBusy => 0x42 | .notFitted => 0x43 | .notNeeded => 0x44
  | .resetFailed => 0x45 | .noFault => 0x46 | .armBusy => 0x47 | .slotOccupied => 0x48 | .notMissing => 0x49
  | .sourceEmpty => 0x4A | .listFull => 0x4B | .abandoned => 0x4C
  | .accountsFull => 0x50 | .notPrepaid => 0x51 | .accountBusy => 0x52 | .dateLimit => 0x53 | .dateBack => 0x54
  | .priorityConflict => 0x55 | .lastSupervisor => 0x56

/-- The cause byte of a LINK_RESET the part sends (section 11.2). -/
def ResetCause.byte : ResetCause → Byte
  | .powerOn => 0 | .crc => 1 | .length => 2 | .frameTimeout => 3 | .unknownKind => 4 | .overrun => 5
  | .carrierLoss => 6 | .stationReset => 7

def sideByte : Side → Byte
  | .a => 0 | .b => 1

/-- The side letter on media (section 11.5). -/
def sideLetter : Side → Byte
  | .a => 0x41 | .b => 0x42

def Category.byte : Category → Byte
  | .counter => 0 | .solicitor => 1 | .government => 2 | .staff => 3

def FetchKind.byte : FetchKind → Byte
  | .view => 0 | .copy => 1

def Location.byte : Location → Byte
  | .shelf => 0 | .drive _ => 1 | .arm => 2 | .loadingSlot => 3 | .exported => 4 | .missing => 5

def boolByte (b : Bool) : Byte := if b then 1 else 0

/-! ### Sectors written to media (section 11.5) -/

/-- `bs` as one sector: every byte beyond the last field is 00h. -/
def asSector (bs : List Byte) : List Byte :=
  bs ++ List.replicate (Config.sectorBytes - bs.length) 0

def trailerMark : List Byte := [0x6B, 0x54, 0x52, 0x4C]
def labelMark : List Byte := [0x6B, 0x43, 0x4C, 0x42]
def volumeLabelMark : List Byte := [0x6B, 0x56, 0x4C, 0x42]

/-- The trailer sector (R110, R207). -/
def trailerSector (number pages content filingDate : Nat) (pageSectors : List Nat) : List Byte :=
  asSector (trailerMark ++ beBytes 4 number ++ beBytes 2 pages ++ beBytes 2 content ++ beBytes 2 filingDate
    ++ pageSectors.map (BitVec.ofNat 8))

/-- The cartridge label, sector 0 (R22, R208). -/
def cartridgeLabel (cart : Nat) (side : Side) : List Byte :=
  asSector (labelMark ++ beBytes 2 cart ++ [0, 0] ++ [sideLetter side])

/-- The volume label, sector 1 (R101, R208). -/
def volumeLabel (volume cart : Nat) (side : Side) : List Byte :=
  asSector (volumeLabelMark ++ beBytes 2 volume ++ beBytes 2 cart ++ [sideLetter side])

/-- The classification of a readable sector 0 by the byte tests of R208. -/
def classifyLabel (bs : List Byte) : LabelResult :=
  let n := field bs 4 2
  let letter := bs.getD 8 0
  if bs.take 4 = labelMark ∧ n ≠ 0 then
    if letter = 0x41 then .label n .a
    else if letter = 0x42 then .label n .b
    else .badLabel
  else .badLabel

/-- The page-sector list of a trailer that passes the checks of R132 against the order's entry figures, or none. -/
def trailerLengths (bs : List Byte) (number pages content filingDate : Nat) : Option (List Nat) :=
  let list := ((bs.drop 14).take pages).map (·.toNat)
  if bs.take 4 = trailerMark ∧ field bs 4 4 = number ∧ field bs 8 2 = pages ∧ field bs 10 2 = content
      ∧ field bs 12 2 = filingDate ∧ list.all (fun n => 1 ≤ n ∧ n ≤ 64) ∧ list.sum = content then
    some list
  else none

/-! ### The separator scan (R116) -/

/-- The six copies from position `j` compared byte by byte: none when they agree, else the first differing position. -/
def separatorMismatch (page : List Byte) (j : Nat) : Option Nat :=
  (List.range 20).findSome? fun k =>
    if page.getD (j + 4 + k) 0 = page.getD (j + k % 4) 0 then none else some (j + 4 + k)

/-- Step 1 of R116: the smallest `i`, from `s` on, that begins eight bytes FFh within bytes 0 to 511. -/
def separatorRun (page : List Byte) (s : Nat) : Option Nat :=
  (List.range 505).find? fun i =>
    s ≤ i && (List.range 8).all fun k => page.getD (i + k) 0 == 0xFF

/-- The scan of R116 from scan position `s`; `fuel` bounds the returns to step 1, each of which begins further on. -/
def separatorScan (page : List Byte) : Nat → Nat → Option Nat
  | 0, _ => none
  | fuel + 1, s =>
    match separatorRun page s with
    | none => none
    | some i =>
      match (List.range 512).find? fun j => i < j && page.getD j 0 != 0xFF with
      | none => none
      | some j =>
        if j + 23 > 511 then none
        else
          match separatorMismatch page j with
          | some b => separatorScan page fuel b
          | none =>
            let n := beNat ((page.drop j).take 4)
            if 1 ≤ n ∧ n ≤ Config.instrumentMax then some n
            else separatorScan page fuel j

/-- The separator number of a stored page, or none for a content page (R116). Bytes past a short page are zero. -/
def separatorNumber (page : List Byte) : Option Nat := separatorScan (page.take 512) 512 0

end Sys2Proof.Machine
end

