-- ==== Sys2Proof/Machine/Operands.lean ====
section
/-! DEFINITION. The requests of R205 (codes, families, lengths), the decoding checks of R204, and the decoded fields of each
body. A body here is what follows the request code, so its offsets are one less than the tables' of section 11.3. -/

namespace Sys2Proof.Machine

open Sys2Proof

/-- The requests a request code can name (R205). FAULT_CLEAR is one request of two kinds. -/
inductive Req where
  | fetch | cancelFetch | quote | locate | find
  | openInstrument | postPage | closeInstrument | abortInstrument
  | accountOpen | accountUpdate | accountCredit | accountClose | accountQuery | setSchedule | setCategoryDiscount
  | dayClose | journalTake | tallyQuery
  | exportCartridge | driveReset | faultClear | recover | faultQuery | libraryQuery
  | setProfile | setTimers | setOptions | setDate | setArmPriority | noticeConfig | signalSet | signalClear
  | takeNotice | setThreshold | noticeQuery | status
  deriving DecidableEq, Repr

/-- Every request, in the table's order. -/
def Req.all : List Req :=
  [.fetch, .cancelFetch, .quote, .locate, .find, .openInstrument, .postPage, .closeInstrument, .abortInstrument,
    .accountOpen, .accountUpdate, .accountCredit, .accountClose, .accountQuery, .setSchedule, .setCategoryDiscount,
    .dayClose, .journalTake, .tallyQuery, .exportCartridge, .driveReset, .faultClear, .recover, .faultQuery,
    .libraryQuery, .setProfile, .setTimers, .setOptions, .setDate, .setArmPriority, .noticeConfig, .signalSet,
    .signalClear, .takeNotice, .setThreshold, .noticeQuery, .status]

/-- The request code (R205). -/
def Req.code : Req → Byte
  | .fetch => 0x10 | .cancelFetch => 0x11 | .quote => 0x12 | .locate => 0x13 | .find => 0x14
  | .openInstrument => 0x20 | .postPage => 0x21 | .closeInstrument => 0x22 | .abortInstrument => 0x23
  | .accountOpen => 0x30 | .accountUpdate => 0x31 | .accountCredit => 0x32 | .accountClose => 0x33
  | .accountQuery => 0x34 | .setSchedule => 0x35 | .setCategoryDiscount => 0x36 | .dayClose => 0x37
  | .journalTake => 0x38 | .tallyQuery => 0x39
  | .exportCartridge => 0x40 | .driveReset => 0x41 | .faultClear => 0x42 | .recover => 0x43 | .faultQuery => 0x44
  | .libraryQuery => 0x45
  | .setProfile => 0x50 | .setTimers => 0x51 | .setOptions => 0x52 | .setDate => 0x53 | .setArmPriority => 0x54
  | .noticeConfig => 0x55 | .signalSet => 0x56 | .signalClear => 0x57
  | .takeNotice => 0x60 | .setThreshold => 0x61 | .noticeQuery => 0x62 | .status => 0x63

/-- The request a code names, if any (R183 check 1). -/
def Req.ofCode (c : Byte) : Option Req := Req.all.find? fun r => r.code == c

/-- The body length R205 gives, counting the request code. -/
def Req.bodyLength : Req → Nat
  | .fetch => 12 | .cancelFetch => 2 | .quote => 12 | .locate => 5 | .find => 13
  | .openInstrument => 7 | .postPage => 6 | .closeInstrument => 1 | .abortInstrument => 1
  | .accountOpen => 14 | .accountUpdate => 14 | .accountCredit => 7 | .accountClose => 3 | .accountQuery => 3
  | .setSchedule => 19 | .setCategoryDiscount => 3 | .dayClose => 1 | .journalTake => 1 | .tallyQuery => 2
  | .exportCartridge => 3 | .driveReset => 3 | .faultClear => 3 | .recover => 4 | .faultQuery => 1 | .libraryQuery => 3
  | .setProfile => 3 | .setTimers => 18 | .setOptions => 4 | .setDate => 5 | .setArmPriority => 5 | .noticeConfig => 6
  | .signalSet => 2 | .signalClear => 2
  | .takeNotice => 1 | .setThreshold => 2 | .noticeQuery => 1 | .status => 1

/-- The long requests (section 9.4). -/
def Req.isLong : Req → Bool
  | .fetch | .openInstrument | .closeInstrument | .exportCartridge | .driveReset => true
  | _ => false

/-- The profile allows the request (R181): its family, or SUPERVISE; the "any" requests always. -/
def Req.allowed (p : Families) : Req → Bool
  | .fetch | .cancelFetch | .quote | .locate | .find => p.fetch || p.supervise
  | .openInstrument | .postPage | .closeInstrument | .abortInstrument => p.file || p.supervise
  | .accountOpen | .accountUpdate | .accountCredit | .accountClose | .accountQuery | .setSchedule
  | .setCategoryDiscount | .dayClose | .journalTake | .tallyQuery => p.cash || p.supervise
  | .exportCartridge | .driveReset | .faultClear | .recover | .faultQuery | .libraryQuery => p.library || p.supervise
  | .setProfile | .setTimers | .setOptions | .setDate | .setArmPriority | .noticeConfig | .signalSet | .signalClear =>
    p.supervise
  | .takeNotice | .setThreshold | .noticeQuery | .status => true

/-! ### Fields -/

/-- Byte `i` of a body as a number. -/
def byteAt (b : List Byte) (i : Nat) : Nat := (b.getD i 0).toNat

/-- Bit `i` of a mask byte (R205). -/
def maskBit (m : Nat) (i : Nat) : Bool := m.testBit i

/-- A value when its mask bit names it. -/
def masked (m i v : Nat) : Option Nat := if maskBit m i then some v else none

/-- A family set (R205). -/
def familiesOf (m : Nat) : Families := ⟨maskBit m 0, maskBit m 1, maskBit m 2, maskBit m 3, maskBit m 4⟩

/-- The decoding of a body (R204): its length, its flag bytes, its masks and family sets, and FAULT_CLEAR's bytes. -/
def decodes (r : Req) (b : List Byte) : Bool :=
  b.length + 1 == r.bodyLength &&
    match r with
    | .postPage => byteAt b 4 ≤ 1
    | .accountOpen => byteAt b 3 < 8
    | .accountUpdate => byteAt b 2 < 16
    | .setSchedule => byteAt b 1 < 64
    | .faultClear => byteAt b 0 = 0 || (byteAt b 0 = 1 && byteAt b 1 ≤ 2)
    | .setProfile => byteAt b 1 < 32
    | .setTimers => byteAt b 0 < 16
    | .setOptions => byteAt b 0 < 4
    | .noticeConfig => byteAt b 1 < 8
    | _ => true

end Sys2Proof.Machine
end

