-- ==== Sys2Proof/Machine/Ops.lean ====
section
/-! DEFINITION. The named operations every meaning is written over: reading and updating the records of State, the staging
buffers (the part's addressed buffer memory, R135), the outstanding tables and reply queues (R183, R184), and the
transmitter of a link (R137, R179). -/

namespace Sys2Proof.Machine

open Sys2Proof

/-! ### Records of State -/

def State.link (s : State) (st : Station) : Link := s.links.get st

def State.updLink (s : State) (st : Station) (f : Link → Link) : State :=
  { s with links := s.links.set st.val (f (s.link st)) st.isLt }

def State.drive (s : State) (d : DriveId) : Drive := s.drives.get d

def State.updDrive (s : State) (d : DriveId) (f : Drive → Drive) : State :=
  { s with drives := s.drives.set d.val (f (s.drive d)) d.isLt }

def State.updLibrary (s : State) (f : Library → Library) : State := { s with library := f s.library }
def State.updArm (s : State) (f : Arm → Arm) : State := { s with arm := f s.arm }
def State.updPlanner (s : State) (f : Planner → Planner) : State := { s with planner := f s.planner }
def State.updRun (s : State) (f : Run → Run) : State := { s with run := f s.run }
def State.updFetch (s : State) (f : FetchEngine → FetchEngine) : State := { s with fetch := f s.fetch }
def State.updFee (s : State) (f : FeeUnit → FeeUnit) : State := { s with fee := f s.fee }

def allStations : List Station := [0, 1, 2, 3]
def allDrives : List DriveId := [0, 1, 2, 3]

/-- `n` events of R86: each is to bring its own planning pass. -/
def State.wantPasses (n : Nat) (s : State) : State := s.updPlanner fun p => { p with passesDue := p.passesDue + n }

/-- One event of R86. -/
def State.wantPass (s : State) : State := s.wantPasses 1

/-- Seconds a timer started at `start` has run (00_scope 4.1). -/
def State.elapsed (s : State) (start : Nat) : Nat := s.seconds - start

/-! ### Fetch orders and staging buffers -/

def State.order? (s : State) (id : FetchId) : Option FetchOrder := s.fetch.orders.find? fun o => o.id = id

def State.updOrder (s : State) (id : FetchId) (f : FetchOrder → FetchOrder) : State :=
  s.updFetch fun e => { e with orders := e.orders.map fun o => if o.id = id then f o else o }

/-- The bytes in staging buffer `b`; a free buffer holds none. -/
def State.bufferBytes (s : State) (b : Nat) : List Byte := (s.fetch.buffers.toList.getD b none).getD []

/-- Staging buffer `b` set to `v`: `some bytes` in use, `none` free (R135). -/
def State.setBuffer (s : State) (b : Nat) (v : Option (List Byte)) : State :=
  s.updFetch fun e => { e with buffers := e.buffers.setIfInBounds b v }

/-- The lowest-numbered free staging buffer. DESIGN CHOICE (notes/assumptions/2.md): R130 says only "a free buffer". -/
def State.freeBuffer (s : State) : Option Nat := s.fetch.buffers.toList.findIdx? (·.isNone)

def State.releaseBuffer (s : State) (b : Nat) : State := s.setBuffer b none

/-! ### The transmitter (R179) -/

/-- The sector count of page `k`, from the order's page-length list (R133). -/
def FetchOrder.pageSectors (o : FetchOrder) (k : Nat) : Nat := (o.lengths.getD []).getD (k - 1) 0

/-- The number of DATA frames of a page of `n` sectors: n / 4 rounded up (R137). -/
def dataFrames (n : Nat) : Nat := ceilDiv n 4

/-- The next DATA frame of a page in delivery (R137, section 11.2). -/
def dataFrame (s : State) (o : FetchOrder) (p : Delivering) : TxFrame :=
  let n := o.pageSectors p.page
  let bytes := (s.bufferBytes p.buf).take (n * Config.sectorBytes)
  .data (some o.id) o.id.tag p.page p.sent (p.sent + 1 = dataFrames n)
    ((bytes.drop (p.sent * Config.frameBytes)).take Config.frameBytes)

/-- The first DATA frame the send list of a station has to send. -/
def nextData (s : State) (st : Station) : Option TxFrame :=
  (s.link st).sendList.findSome? fun id =>
    (s.order? id).bind fun o => o.delivery.map fun p => dataFrame s o p

/-- The transmitter, when the line is free, takes the first source of R179 that has something to send. While the link is
RESETTING only a LINK_RESET is sent. A reply leaves the queue only when its frame has been sent. -/
def kick (st : Station) (s : State) : State :=
  let l := s.link st
  if l.sending.isSome then s
  else if l.resetDue then s.updLink st fun l => { l with sending := some (.linkReset l.cause), resetDue := false }
  else if l.state = .resetting then s
  else
    match l.replies with
    | r :: _ => s.updLink st fun l => { l with sending := some (.reply r) }
    | [] =>
      if l.attentionWaiting then
        s.updLink st fun l => { l with sending := some .attention, attentionWaiting := false }
      else
        match nextData s st with
        | some f => s.updLink st fun l => { l with sending := some f }
        | none => s

/-- The four transmitters choose their next frames, at the end of a step: a step is whole, so every frame it produced
is there to choose from (R179; notes/assumptions/3.md). -/
def transmit (s : State) : State := kick 3 (kick 2 (kick 1 (kick 0 s)))

/-! ### Replies and outstanding tables (R183, R184) -/

/-- A reply joins the station's reply queue. -/
def addReply (st : Station) (r : Reply) (s : State) : State :=
  s.updLink st fun l => { l with replies := l.replies ++ [r] }

/-- A refusal: reply kind and status only (section 11.3). -/
def refuse (st : Station) (tag kind : Byte) (c : Status) (s : State) : State := addReply st ⟨tag, kind, c, .none⟩ s

/-- An accepted long request's entry in the outstanding table (R184). -/
def addOutstanding (st : Station) (e : Outstanding) (s : State) : State :=
  s.updLink st fun l => { l with outstanding := l.outstanding ++ [e] }

/-- The reply of a long request: sent and its entry removed when the table holds the tag, discarded otherwise (R184). -/
def replyLong (st : Station) (r : Reply) (s : State) : State :=
  if (s.link st).outstanding.any fun e => e.tag = r.tag then
    addReply st r (s.updLink st fun l => { l with outstanding := l.outstanding.filter fun e => e.tag ≠ r.tag })
  else s

end Sys2Proof.Machine
end

