-- ==== Sys2Proof/Machine/Wire.lean ====
section
/-! DEFINITION. The bytes the part puts on a link (chapter 11): replies, DATA, ATTENTION and LINK_RESET frames with their
CRC. A reply whose layout chapter 11 does not give carries the free bytes of Config.replyFields
(notes/assumptions/1.md). -/

namespace Sys2Proof.Machine

open Sys2Proof

/-- The start byte (section 11.1). -/
def startByte : Byte := 0xC9

/-- A whole frame: start byte, kind, tag, body length, body and CRC (section 11.1, R202). -/
def wireFrame (kind tag : Byte) (body : List Byte) : List Byte :=
  let covered := kind :: tag :: beBytes 2 body.length ++ body
  startByte :: covered ++ beBytes 2 (crc16 covered).toNat

/-- A journal record as JOURNAL_TAKE returns it (section 11.4, R206). -/
def JournalRecord.bytes (r : JournalRecord) : List Byte :=
  beBytes 4 r.receipt ++ beBytes 2 r.date ++ [BitVec.ofNat 8 r.station.val] ++ beBytes 2 r.account
    ++ [r.category.byte] ++ beBytes 4 r.instrument ++ [r.kind.byte] ++ beBytes 2 r.delivered ++ beBytes 2 r.unreadable
    ++ beBytes 4 r.charge ++ [r.outcome.byte]

/-- The four extent records of LOCATE, zero beyond the entry's (section 11.3). -/
def extentBytes (es : List Extent) : List Byte :=
  let bytes := (es.take 4).flatMap fun e => beBytes 4 e.start ++ beBytes 2 e.len
  bytes ++ List.replicate (24 - bytes.length) 0

/-- The LOCATE reply after its status (section 11.3). -/
def LocateInfo.bytes (l : LocateInfo) : List Byte :=
  let e := l.entry
  let place : Nat :=
    match l.location with
    | .shelf => l.home.getD 0
    | .drive d => d.val
    | _ => 0
  beBytes 4 e.number ++ beBytes 2 e.volume ++ [BitVec.ofNat 8 e.extents.length] ++ extentBytes e.extents
    ++ beBytes 2 e.pages ++ beBytes 2 e.content ++ beBytes 2 (e.trailer.getD 0) ++ [BitVec.ofNat 8 e.feeClass]
    ++ beBytes 2 e.filingDate ++ [BitVec.ofNat 8 e.filingStation.val] ++ beBytes 2 l.cart ++ [sideByte l.side]
    ++ [l.location.byte, BitVec.ofNat 8 place, boolByte l.sideUp]

/-- What follows reply kind and status (section 11.3). -/
def ReplyBody.bytes : ReplyBody → List Byte
  | .none => []
  | .fetchDone f =>
    beBytes 4 f.instrument ++ beBytes 2 f.first ++ beBytes 2 f.effective ++ beBytes 2 f.delivered
      ++ beBytes 2 f.unreadable ++ beBytes 4 f.charge ++ beBytes 4 f.receipt
  | .slot n => [BitVec.ofNat 8 n]
  | .opened volume cart side drive frontier =>
    beBytes 2 volume ++ beBytes 2 cart ++ [sideByte side, BitVec.ofNat 8 drive.val] ++ beBytes 4 frontier
  | .located l => l.bytes
  | .notice index level => [BitVec.ofNat 8 index, BitVec.ofNat 8 level]
  | .journal records left =>
    [BitVec.ofNat 8 records.length] ++ beBytes 2 left ++ records.flatMap JournalRecord.bytes
  | b => Config.replyFields b

/-- The body of a REPLY frame: reply kind, status, and the reply's fields (section 11.2). -/
def Reply.bytes (r : Reply) : List Byte := r.kind :: r.status.byte :: r.body.bytes

/-- A frame the part sends, byte for byte (sections 11.1 and 11.2). -/
def TxFrame.bytes : TxFrame → List Byte
  | .reply r => wireFrame 0x02 r.tag r.bytes
  | .data _ tag page index last bytes =>
    wireFrame 0x03 tag (beBytes 2 page ++ [boolByte last, BitVec.ofNat 8 index] ++ bytes)
  | .attention => wireFrame 0x06 0 []
  | .linkReset cause => wireFrame 0x07 0 [cause.byte]

/-- The bytes station `st` is being sent. -/
def State.onLine (s : State) (st : Station) : Option (List Byte) := (s.link st).sending.map TxFrame.bytes

end Sys2Proof.Machine
end

