-- ==== Sys2Proof/Decode.lean ====
section
/-! DEFINITION. The reading of commands from bits. No row of spec/opcode_table.json is given bits, so no word of the table
spells a command. The commands that arrive as frames are read here from their bytes (chapter 11), with a writer beside. -/

namespace Sys2Proof

open Sys2Proof.Machine

/-- The command a word of the table's bits spells: the table gives no row any bits, so none. -/
def decodeTableWord (_nbits _w : Nat) : Option Instr := none

/-! ### Frames (sections 11.1 and 11.2, R176, R177, R202, R205) -/

/-- A request code with the body after it, as the command of its row (R205); a code that names no request is the row
REQUEST_UNKNOWN_CODE. FAULT_CLEAR's two rows differ in the kind byte. -/
def requestOf (st : Station) (tag code : Byte) (b : List Byte) : Instr :=
  match Req.ofCode code with
  | none => .requestUnknownCode st tag code b
  | some r =>
    match r with
    | .fetch => .fetch st tag b
    | .cancelFetch => .cancelFetch st tag b
    | .quote => .quote st tag b
    | .locate => .locate st tag b
    | .find => .find st tag b
    | .openInstrument => .openInstrument st tag b
    | .postPage => .postPage st tag b
    | .closeInstrument => .closeInstrument st tag b
    | .abortInstrument => .abortInstrument st tag b
    | .accountOpen => .accountOpen st tag b
    | .accountUpdate => .accountUpdate st tag b
    | .accountCredit => .accountCredit st tag b
    | .accountClose => .accountClose st tag b
    | .accountQuery => .accountQuery st tag b
    | .setSchedule => .setSchedule st tag b
    | .setCategoryDiscount => .setCategoryDiscount st tag b
    | .dayClose => .dayClose st tag b
    | .journalTake => .journalTake st tag b
    | .tallyQuery => .tallyQuery st tag b
    | .exportCartridge => .exportCartridge st tag b
    | .driveReset => .driveReset st tag b
    | .faultClear => if b.getD 0 0 = 1 then .faultClearAbandon st tag b else .faultClearRetry st tag b
    | .recover => .recover st tag b
    | .faultQuery => .faultQuery st tag b
    | .libraryQuery => .libraryQuery st tag b
    | .setProfile => .setProfile st tag b
    | .setTimers => .setTimers st tag b
    | .setOptions => .setOptions st tag b
    | .setDate => .setDate st tag b
    | .setArmPriority => .setArmPriority st tag b
    | .noticeConfig => .noticeConfig st tag b
    | .signalSet => .signalSet st tag b
    | .signalClear => .signalClear st tag b
    | .takeNotice => .takeNotice st tag b
    | .setThreshold => .setThreshold st tag b
    | .noticeQuery => .noticeQuery st tag b
    | .status => .status st tag b

/-- A valid frame of a kind and body, as the command of its row (R177). -/
def frameCommand (st : Station) (kind tag : Byte) (body : List Byte) : Instr :=
  if kind = 0x01 then
    match body with
    | [] => .requestEmptyBody st tag
    | code :: b => requestOf st tag code b
  else if kind = 0x04 then .page st tag body
  else if kind = 0x05 then .credit st tag body
  else if kind = 0x07 then .linkReset st tag body
  else .unknownKind st

/-- The command that the bytes of one whole frame from station `st` are: start byte, kind, tag, length, body and CRC
(section 11.1). A length above 4,100 is MALFORMED_LENGTH, a CRC that differs MALFORMED_CRC (R176). None: the bytes are
not one whole frame. -/
def decodeFrame (st : Station) (bytes : List Byte) : Option Instr :=
  match bytes with
  | start :: kind :: tag :: hi :: lo :: rest =>
    if start ≠ startByte then none
    else
      let n := beNat [hi, lo]
      if n > Config.bodyMax then some (.malformedLength st)
      else if rest.length ≠ n + 2 then none
      else
        let body := rest.take n
        if rest.drop n = beBytes 2 (crc16 (kind :: tag :: hi :: lo :: body)).toNat then
          some (frameCommand st kind tag body)
        else some (.malformedCrc st)
  | _ => none

/-! ### The frames of commands -/

/-- The frame of a command that arrives as one: station, kind, tag and body. -/
def frameOf : Instr → Option (Station × Byte × Byte × List Byte)
  | .fetch st tag b => some (st, 0x01, tag, Req.fetch.code :: b)
  | .cancelFetch st tag b => some (st, 0x01, tag, Req.cancelFetch.code :: b)
  | .quote st tag b => some (st, 0x01, tag, Req.quote.code :: b)
  | .locate st tag b => some (st, 0x01, tag, Req.locate.code :: b)
  | .find st tag b => some (st, 0x01, tag, Req.find.code :: b)
  | .openInstrument st tag b => some (st, 0x01, tag, Req.openInstrument.code :: b)
  | .postPage st tag b => some (st, 0x01, tag, Req.postPage.code :: b)
  | .closeInstrument st tag b => some (st, 0x01, tag, Req.closeInstrument.code :: b)
  | .abortInstrument st tag b => some (st, 0x01, tag, Req.abortInstrument.code :: b)
  | .accountOpen st tag b => some (st, 0x01, tag, Req.accountOpen.code :: b)
  | .accountUpdate st tag b => some (st, 0x01, tag, Req.accountUpdate.code :: b)
  | .accountCredit st tag b => some (st, 0x01, tag, Req.accountCredit.code :: b)
  | .accountClose st tag b => some (st, 0x01, tag, Req.accountClose.code :: b)
  | .accountQuery st tag b => some (st, 0x01, tag, Req.accountQuery.code :: b)
  | .setSchedule st tag b => some (st, 0x01, tag, Req.setSchedule.code :: b)
  | .setCategoryDiscount st tag b => some (st, 0x01, tag, Req.setCategoryDiscount.code :: b)
  | .dayClose st tag b => some (st, 0x01, tag, Req.dayClose.code :: b)
  | .journalTake st tag b => some (st, 0x01, tag, Req.journalTake.code :: b)
  | .tallyQuery st tag b => some (st, 0x01, tag, Req.tallyQuery.code :: b)
  | .exportCartridge st tag b => some (st, 0x01, tag, Req.exportCartridge.code :: b)
  | .driveReset st tag b => some (st, 0x01, tag, Req.driveReset.code :: b)
  | .faultClearRetry st tag b => some (st, 0x01, tag, Req.faultClear.code :: b)
  | .faultClearAbandon st tag b => some (st, 0x01, tag, Req.faultClear.code :: b)
  | .recover st tag b => some (st, 0x01, tag, Req.recover.code :: b)
  | .faultQuery st tag b => some (st, 0x01, tag, Req.faultQuery.code :: b)
  | .libraryQuery st tag b => some (st, 0x01, tag, Req.libraryQuery.code :: b)
  | .setProfile st tag b => some (st, 0x01, tag, Req.setProfile.code :: b)
  | .setTimers st tag b => some (st, 0x01, tag, Req.setTimers.code :: b)
  | .setOptions st tag b => some (st, 0x01, tag, Req.setOptions.code :: b)
  | .setDate st tag b => some (st, 0x01, tag, Req.setDate.code :: b)
  | .setArmPriority st tag b => some (st, 0x01, tag, Req.setArmPriority.code :: b)
  | .noticeConfig st tag b => some (st, 0x01, tag, Req.noticeConfig.code :: b)
  | .signalSet st tag b => some (st, 0x01, tag, Req.signalSet.code :: b)
  | .signalClear st tag b => some (st, 0x01, tag, Req.signalClear.code :: b)
  | .takeNotice st tag b => some (st, 0x01, tag, Req.takeNotice.code :: b)
  | .setThreshold st tag b => some (st, 0x01, tag, Req.setThreshold.code :: b)
  | .noticeQuery st tag b => some (st, 0x01, tag, Req.noticeQuery.code :: b)
  | .status st tag b => some (st, 0x01, tag, Req.status.code :: b)
  | .requestUnknownCode st tag code b => some (st, 0x01, tag, code :: b)
  | .requestEmptyBody st tag => some (st, 0x01, tag, [])
  | .page st tag body => some (st, 0x04, tag, body)
  | .credit st tag body => some (st, 0x05, tag, body)
  | .linkReset st tag body => some (st, 0x07, tag, body)
  | .unknownKind _ | .malformedCrc _ | .malformedLength _ | .frameTimeout _ | .overrun _ | .carrierLoss _ | .frameSent _ =>
    none
  | .fetchStallLimit .. | .powerOnReset _ | .driveIdentifyAnswer .. | .driveIdentifyTimeout _ | .startUpReconciliation .. =>
    none
  | .loadingSlotCartridge | .loadingSlotEmpty | .shelfSlotSensor .. => none
  | .pickCompletion | .travelCompletion | .placeCompletion | .moveTimeout | .pickEmpty | .driveRefused | .placeBlocked
  | .gripLost => none
  | .spinUpCompletion .. | .spinDownCompletion _ | .ejectCompletion .. | .readCompletion .. | .writeCompletion ..
  | .verifyCompletion .. | .blankCheckCompletion .. | .reinitCompletion .. | .powerCycleCompletion .. | .commandTimeout _
  | .driveHardwareFault _ | .idleTimerExpiry _ | .holdTimerExpiry _ | .filingStallLimit => none

/-- The bytes of the frame a command arrives as, with the station whose link carries them. -/
def encodeFrame (i : Instr) : Option (Station × List Byte) :=
  (frameOf i).map fun (st, kind, tag, body) => (st, wireFrame kind tag body)

end Sys2Proof
end

