-- ==== Sys2Proof/Machine/Flags.lean ====
section
/-! DEFINITION. The flags of the Notice Router (chapter 10): pending flags, deliverable sets, their judgement and the
attention-sent flag. -/

namespace Sys2Proof.Machine

open Sys2Proof

/-- Source `i`, 1-24 (R192). -/
def State.source (s : State) (i : Nat) : Source := s.notices.toList.getD (i - 1) Source.initial

def State.updSource (s : State) (i : Nat) (f : Source → Source) : State :=
  { s with notices := s.notices.setIfInBounds (i - 1) (f (s.source i)) }

/-- The source numbers, 1 to 24. -/
def sourceNumbers : List Nat := (List.range 24).map (· + 1)

/-- A source is deliverable to station `st` (R194). -/
def deliverableTo (s : State) (st : Station) (i : Nat) : Bool :=
  let x := s.source i
  x.pending && x.enabled && decide ((s.link st).threshold < x.level) && decide (x.target = st)

/-- Station `st`'s deliverable set, in ascending index (R194). -/
def deliverable (s : State) (st : Station) : List Nat := sourceNumbers.filter (deliverableTo s st)

/-- An attention frame asked of the station's transmitter, where at most one waits (R179, R194). -/
def askAttention (st : Station) (s : State) : State :=
  s.updLink st fun l => { l with attentionWaiting := true }

/-- The judgement of station `st`'s deliverable set, made only while its link is UP (R194). -/
def judge (st : Station) (s : State) : State :=
  if (s.link st).state = .up then
    if (deliverable s st).isEmpty then s.updLink st fun l => { l with attentionSent := false }
    else if (s.link st).attentionSent then s
    else askAttention st (s.updLink st fun l => { l with attentionSent := true })
  else s

/-- An event of R192 sets its source's pending flag, and the target's set is judged (R193, R194). -/
def noticeSet (i : Nat) (s : State) : State :=
  let s' := s.updSource i fun x => { x with pending := true }
  judge (s'.source i).target s'

/-- The source chosen by TAKE_NOTICE: the highest level, and among those the highest index (R195). -/
def mostUrgent (s : State) : List Nat → Option Nat
  | [] => none
  | i :: is =>
    match mostUrgent s is with
    | none => some i
    | some j => if (s.source j).level ≥ (s.source i).level then some j else some i

/-! Names of the sources (R192). -/

def nArmAttention : Nat := 1
def nArmDouble : Nat := 2
def nArmHalted : Nat := 3
def nDriveFault (d : DriveId) : Nat := 4 + d.val
def nSlotWaiting : Nat := 8
def nImportDone : Nat := 9
def nImportRejected : Nat := 10
def nExportReady : Nat := 11
def nBlanksLow : Nat := 12
def nVolumeFull : Nat := 13
def nPageWritten : Nat := 14
def nInstrumentFiled : Nat := 15
def nFilingStalled : Nat := 16
def nSeparatorDuplicate : Nat := 17
def nAccountLow : Nat := 18
def nDayClosed : Nat := 19
def nOffLineWanted : Nat := 20
def nJournalHigh : Nat := 21
def nSignal (k : Nat) : Nat := 22 + k

end Sys2Proof.Machine
end

