-- ==== Sys2Proof/Machine/Catalogue.lean ====
section
/-! DEFINITION. The Catalogue Unit (chapter 1): lookup, search, and the four acts of the Filing Writer. -/

namespace Sys2Proof.Machine

open Sys2Proof

def State.entry? (s : State) (n : Nat) : Option CatEntry := s.catalogue.find? fun e => e.number = n

/-- The catalogue with `e` put in ascending order of number. -/
def insertEntry (e : CatEntry) : List CatEntry → List CatEntry
  | [] => [e]
  | x :: xs => if e.number < x.number then e :: x :: xs else x :: insertEntry e xs

def State.updEntry (s : State) (n : Nat) (f : CatEntry → CatEntry) : State :=
  { s with catalogue := s.catalogue.map fun e => if e.number = n then f e else e }

/-- The FILING entry, if any (R11). -/
def State.filingEntry (s : State) : Option CatEntry := s.catalogue.find? fun e => e.state = .filing

def validInstrument (n : Nat) : Bool := 1 ≤ n && n ≤ Config.instrumentMax

/-- Lookup (R4): a copy of the COMMITTED entry, or the refusal code. -/
def lookup (s : State) (n : Nat) : Except Status CatEntry :=
  if validInstrument n then
    match s.entry? n with
    | none => .error .notFiled
    | some e => if e.state = .filing then .error .inFiling else .ok e
  else .error .badRequest

/-- Room for one more entry (R1). -/
def catalogueRoom (s : State) : Bool := s.catalogue.length < Config.catalogueMax

/-! ### Extents (R3) -/

def extentSum (es : List Extent) : Nat := (es.map (·.len)).sum

/-- Logical sector `l` mapped through the extents: the extent's index and the physical sector (R3). -/
def mapSector : List Extent → Nat → Option (Nat × Nat)
  | [], _ => none
  | e :: es, l =>
    if l < e.len then some (0, e.start + l)
    else (mapSector es (l - e.len)).map fun (i, p) => (i + 1, p)

/-- Whether `n` sectors from `start` join the last extent (R13). -/
def joinsLast (es : List Extent) (start n : Nat) : Bool :=
  match es.getLast? with
  | none => false
  | some e => start == e.start + e.len && e.len + n ≤ Config.extentLenMax

/-- The extent list lengthened by `n` sectors from `start`, joined to the last extent or as a new one (R13). -/
def addExtent (es : List Extent) (start n : Nat) : List Extent :=
  if joinsLast es start n then
    match es.getLast? with
    | none => es
    | some e => es.dropLast ++ [⟨e.start, e.len + n⟩]
  else es ++ [⟨start, n⟩]

/-! ### The acts of the Filing Writer (R10-R15) -/

/-- The refusals of the Catalogue Unit to the Filing Writer (R10, R12-R15). -/
inductive CatRefusal where
  | busy | duplicate | catalogueFull | notFiled | notFiling | entryCommitted | limit | extentLimit | noPages
  deriving DecidableEq, Repr

/-- The code with which an instrument or a run ends for a refusal of the Catalogue Unit (R108, R110, R114). The codes that
no rule hands on to a station (NOT_FILED, NOT_FILING, ENTRY_COMMITTED, NO_PAGES: R10-R15) cannot come of the Filing
Writer's own acts; they are given the nearest status value. -/
def catStatus : CatRefusal → Status
  | .busy => .busy | .duplicate => .duplicate | .catalogueFull => .catalogueFull | .limit => .limit
  | .extentLimit => .extentLimit | .noPages => .empty
  | .notFiled => .notFiled | .notFiling => .notFiled | .entryCommitted => .notFiled

/-- Creation on volume `volume`, the OPEN side's (R10); none while no side is OPEN. DESIGN CHOICE
(notes/assumptions/49.md): the refusal BUSY for want of an OPEN side is made before DUPLICATE and CATALOGUE_FULL. -/
def createEntry (s : State) (volume : Option Nat) (number feeClass : Nat) (st : Station) : Except CatRefusal State :=
  if s.filingEntry.isSome then .error .busy
  else
    match volume with
    | none => .error .busy
    | some v =>
      if (s.entry? number).isSome then .error .duplicate
      else if catalogueRoom s then
        .ok { s with catalogue := insertEntry ⟨number, .filing, v, [], 0, 0, none, feeClass, s.fee.date, st⟩ s.catalogue }
      else .error .catalogueFull

/-- Extension by a verified page of `n` sectors from `start` (R13). -/
def extendEntry (s : State) (number start n : Nat) : Except CatRefusal State :=
  match s.entry? number with
  | none => .error .notFiled
  | some e =>
    if e.state = .committed then .error .notFiling
    else if e.pages + 1 > Config.pagesMax ∨ e.content + n > Config.contentMax then .error .limit
    else if !joinsLast e.extents start n && e.extents.length ≥ Config.extentsMax then .error .extentLimit
    else .ok (s.updEntry number fun e =>
      { e with extents := addExtent e.extents start n, pages := e.pages + 1, content := e.content + n })

/-- Commit with the trailer on physical sector `sector` (R14). -/
def commitEntry (s : State) (number sector : Nat) : Except CatRefusal State :=
  match s.entry? number with
  | none => .error .notFiled
  | some e =>
    if e.state = .committed then .error .notFiling
    else if e.pages = 0 then .error .noPages
    else if !joinsLast e.extents sector 1 && e.extents.length ≥ Config.extentsMax then .error .extentLimit
    else .ok (s.updEntry number fun e =>
      { e with extents := addExtent e.extents sector 1, trailer := some e.content, state := .committed })

/-- Removal (R15): a FILING entry is taken out; one of a COMMITTED entry is refused (R12). -/
def removeEntry (s : State) (number : Nat) : Except CatRefusal State :=
  match s.entry? number with
  | none => .error .notFiled
  | some e =>
    if e.state = .committed then .error .entryCommitted
    else .ok { s with catalogue := s.catalogue.filter fun e => e.number ≠ number }

/-- The state after an act of the Filing Writer whose refusal changes nothing. -/
def orUnchanged (s : State) : Except CatRefusal State → State
  | .ok s' => s'
  | .error _ => s

/-! ### FIND (R7-R9) -/

/-- The filter of FIND (R7). -/
structure FindFilter where
  dateFrom : Nat
  dateTo : Nat
  feeClass : Option Nat
  volume : Nat
  station : Nat
  deriving DecidableEq, Repr

def FindFilter.matches (f : FindFilter) (e : CatEntry) : Bool :=
  (f.dateFrom == 0 || f.dateFrom ≤ e.filingDate) && (f.dateTo == 0 || e.filingDate ≤ f.dateTo)
    && (match f.feeClass with | none => true | some c => e.feeClass == c)
    && (f.volume == 0 || e.volume == f.volume) && (f.station == 0 || e.filingStation.val + 1 == f.station)

/-- The examination of R8 over the entries above the start number, in ascending order: `found` in reverse, the number of
entries examined, and the last number examined. -/
def findLoop (f : FindFilter) : List CatEntry → List Nat → Nat → Nat → List Nat × Nat
  | [], found, _, last => (found.reverse, last)
  | e :: es, found, examined, last =>
    if found.length ≥ 16 ∨ examined ≥ 4096 then (found.reverse, last)
    else
      let found := if e.state = .committed ∧ f.matches e then e.number :: found else found
      findLoop f es found (examined + 1) e.number

/-- FIND's answer: the matches, the last number examined, and the completion flag (R8). -/
def findEntries (s : State) (start : Nat) (f : FindFilter) : List Nat × Nat × Bool :=
  let (found, last) := findLoop f (s.catalogue.filter fun e => start < e.number) [] 0 start
  (found, last, !s.catalogue.any fun e => last < e.number)

end Sys2Proof.Machine
end

