-- ==== Sys2Proof/Machine/Library.lean ====
section
/-! DEFINITION. The Library Map's records (chapter 2): cartridges, sides, the volume map, the blank pool, shelf slots,
inspection records and the export list. Its meanings for commands stand in Inspect.lean and LibraryRequests.lean. -/

namespace Sys2Proof.Machine

open Sys2Proof

/-! ### Cartridges, sides and volumes (R19-R23) -/

def State.cart? (s : State) (n : Nat) : Option Cartridge := s.library.table.find? fun c => c.number = n

def State.updCart (s : State) (n : Nat) (f : Cartridge → Cartridge) : State :=
  s.updLibrary fun l => { l with table := l.table.map fun c => if c.number = n then f c else c }

/-- The cartridge table with `c` put in ascending order of number. -/
def insertCart (c : Cartridge) : List Cartridge → List Cartridge
  | [] => [c]
  | x :: xs => if c.number < x.number then c :: x :: xs else x :: insertCart c xs

def Cartridge.sideRec (c : Cartridge) : Side → SideRec
  | .a => c.sideA
  | .b => c.sideB

def Cartridge.updSide (c : Cartridge) (x : Side) (f : SideRec → SideRec) : Cartridge :=
  match x with
  | .a => { c with sideA := f c.sideA }
  | .b => { c with sideB := f c.sideB }

def otherSide : Side → Side
  | .a => .b
  | .b => .a

/-- A side record while BLANK (R20). -/
def SideRec.unused : SideRec := ⟨.blank, none, Config.firstData, 0, 0⟩

def State.volume? (s : State) (v : Nat) : Option VolumeEntry := s.library.volumes.find? fun e => e.volume = v

/-- The side record of a cartridge in the table. -/
def State.side? (s : State) (n : Nat) (x : Side) : Option SideRec := (s.cart? n).map (·.sideRec x)

/-- The one OPEN side, if any (R20). -/
def State.openSide (s : State) : Option (Nat × Side) :=
  s.library.table.findSome? fun c =>
    if c.sideA.state = .opened then some (c.number, .a)
    else if c.sideB.state = .opened then some (c.number, .b)
    else none

/-- The OPEN side's volume number. -/
def State.openVolume (s : State) : Option Nat :=
  s.openSide.bind fun (n, x) => (s.side? n x).bind (·.volume)

/-- Whether side `x` of cartridge `n` is up in drive `d`, by the cartridge's record (R19). -/
def State.upIn (s : State) (n : Nat) (x : Side) (d : DriveId) : Bool :=
  match s.cart? n with
  | none => false
  | some c => c.location = .drive d && c.sideUp = some x

/-- A frontier advance (R21): refused above 300,000, leaving the side unchanged. -/
def advanceFrontier (n : Nat) (x : Side) (s : State) : State :=
  s.updCart n fun c => c.updSide x fun r =>
    if r.frontier + 1 > Config.sectorsPerSide then r else { r with frontier := r.frontier + 1 }

/-- A dead count of `k` sectors (R21); the Filing Writer asks for none of 0. -/
def countDead (n : Nat) (x : Side) (k : Nat) (s : State) : State :=
  s.updCart n fun c => c.updSide x fun r => { r with dead := r.dead + k }

/-! ### The blank pool (R26) -/

/-- The number read from an inspection's cartridge label (R28, R29). -/
def Inspection.numberRead (i : Inspection) : Option Nat :=
  match i.label with
  | some (.label n _) => some n
  | _ => none

/-- The cartridge of the table that an inspection concerns: the number taken, or the number read (R28, R29). -/
def Inspection.cartNumber (i : Inspection) : Option Nat := i.taken.or i.numberRead

/-- An inspection in phase SHELVING is carrying cartridge `n` home. -/
def State.beingShelved (s : State) (n : Nat) : Bool :=
  s.library.inspections.any fun i => i.phase = .shelving && i.cartNumber = some n

def inPoolPlace : Location → Bool
  | .shelf | .drive _ | .arm => true
  | _ => false

/-- The blank pool (R26), lowest cartridge number first, side A before side B. -/
def State.pool (s : State) : List (Nat × Side) :=
  s.library.table.flatMap fun c =>
    if inPoolPlace c.location && !c.exportPending && !s.beingShelved c.number then
      (if c.sideA.state = .blank then [(c.number, Side.a)] else [])
        ++ (if c.sideB.state = .blank then [(c.number, Side.b)] else [])
    else []

def State.poolSize (s : State) : Nat := s.pool.length

/-- BLANKS_LOW is set when the pool is at or below the low mark (R26). -/
def judgePool (s : State) : State :=
  if s.poolSize ≤ s.library.lowMark then noticeSet nBlanksLow s else s

/-- An act of the Library Map, judged by R26 when it changes the pool's size. -/
def withPool (act : State → State) (s : State) : State :=
  let s' := act s
  if s'.poolSize = s.poolSize then s' else judgePool s'

/-- The blank choice at rollover, naming a cartridge or none (R26). -/
def blankChoice (s : State) (named : Option Nat) : Option (Nat × Side) :=
  if s.library.nextVol ≥ Config.numberMax then none
  else
    match named.bind fun n => s.pool.find? fun p => p.1 = n with
    | some p => some p
    | none => s.pool.head?

/-! ### Side states (R20, R23) -/

/-- An OPEN side is made FULL, VOLUME_FULL is set, and no frontier probe is due any more (R20, R100, R102). -/
def makeFull (n : Nat) (x : Side) (s : State) : State :=
  noticeSet nVolumeFull
    ((s.updCart n fun c => c.updSide x fun r => { r with state := .full }).updLibrary fun l => { l with probeDue := false })

/-- The next volume number is taken for a side that leaves BLANK, and the volume map gains its entry (R23). DESIGN CHOICE
(notes/assumptions/30.md): of two volume labels under way at once, both written with the same number, the second reported
takes the number after it. -/
def takeVolume (n : Nat) (x : Side) (state : SideState) (s : State) : State :=
  let v := s.library.nextVol
  let s := s.updCart n fun c => c.updSide x fun _ => ⟨state, some v, Config.firstData, 0, 0⟩
  s.updLibrary fun l => { l with nextVol := v + 1, volumes := l.volumes ++ [⟨v, n, x⟩] }

/-- The Filing Writer reports a volume label written and verified (R20, R101): refused with BUSY while another side is
OPEN, both records unchanged. -/
def labelWritten (n : Nat) (x : Side) (s : State) : State :=
  if s.openSide.isSome then s else withPool (takeVolume n x .opened) s

/-- The Filing Writer reports a volume label failed: the side goes from BLANK to FULL (R20, R101). -/
def labelFailed (n : Nat) (x : Side) (s : State) : State := withPool (takeVolume n x .full) s

/-! ### Shelf slots and inspection records (R24, R28) -/

/-- The presence sensor of shelf slot `n`, 1-96. -/
def State.slotReads (s : State) (n : Nat) : Bool := s.library.shelfSensors.getLsbD (n - 1)

/-- Sets the reading of shelf slot `n`'s sensor. -/
def setShelf (n : Nat) (v : Bool) (s : State) : State :=
  s.updLibrary fun l =>
    { l with shelfSensors :=
        if v then l.shelfSensors ||| (1#96 <<< (n - 1)) else l.shelfSensors &&& ~~~(1#96 <<< (n - 1)) }

/-- Shelf slot `n` is free (R24). -/
def State.slotFree (s : State) (n : Nat) : Bool :=
  !s.library.table.any (fun c => c.home = some n) && !s.library.inspections.any (fun i => i.reserved = some n)
    && !s.slotReads n

/-- The lowest free shelf slot (R24). -/
def State.lowestFree (s : State) : Option Nat := ((List.range 96).map (· + 1)).find? fun n => s.slotFree n

def State.insp? (s : State) (id : Nat) : Option Inspection := s.library.inspections.find? fun i => i.id = id

def State.updInsp (s : State) (id : Nat) (f : Inspection → Inspection) : State :=
  s.updLibrary fun l => { l with inspections := l.inspections.map fun i => if i.id = id then f i else i }

/-- The inspection that holds drive `d`: its cartridge is there (R28). -/
def State.heldBy (s : State) (d : DriveId) : Option Inspection :=
  s.library.inspections.find? fun i => i.place = .drive d

/-- The slot check of an inspection in WAITING_SLOT (R28, R38): the lowest free slot is reserved, or SLOT_WAITING is set.
From the loading slot the inspection goes on to WAITING_DRIVE with its request made to the Planner (R92); at start-up it
already holds its drive and waits for READY. -/
def slotCheck (id : Nat) (s : State) : State :=
  match s.insp? id with
  | none => s
  | some i =>
    if i.phase = .waitingSlot then
      match s.lowestFree with
      | none => noticeSet nSlotWaiting s
      | some n =>
        if i.origin = .loadingSlot then
          ((s.updInsp id fun i => { i with reserved := some n, phase := .waitingDrive }).updPlanner
            fun p => { p with inspReq := some id }).wantPass
        else s.updInsp id fun i => { i with reserved := some n, phase := .loading }
    else s

/-- The retry of every inspection waiting for a slot, at an event that frees one (R24). DESIGN CHOICE
(notes/assumptions/61.md): the oldest inspection first. -/
def slotRetry (s : State) : State :=
  ((s.library.inspections.filter fun i => i.phase = .waitingSlot).map (·.id)).foldl (fun s id => slotCheck id s) s

/-- A new inspection record (R28), in phase WAITING_SLOT or `phase`; its number is the model's own. -/
def addInspection (origin : Origin) (place : InspPlace) (phase : InspPhase) (s : State) : State :=
  s.updLibrary fun l =>
    { l with
      inspections := l.inspections ++ [⟨l.inspectionSeq, origin, place, phase, none, none, none, none, false, false⟩]
      inspectionSeq := l.inspectionSeq + 1 }

/-- An inspection's reservation is released, which may free a slot for another (R24, R31). -/
def releaseSlot (id : Nat) (s : State) : State :=
  if ((s.insp? id).bind (·.reserved)).isSome then slotRetry (s.updInsp id fun i => { i with reserved := none }) else s

/-- An inspection holds a drive (R28). -/
def Inspection.inDrive (i : Inspection) : Bool :=
  match i.place with
  | .drive _ => true
  | _ => false

/-- The inspection request of inspection `id` is withdrawn or met: it leaves the Planner (R92). -/
def dropInspReq (id : Nat) (s : State) : State :=
  s.updPlanner fun p => { p with inspReq := if p.inspReq = some id then none else p.inspReq }

/-- An inspection record is deleted; a request it had outstanding at the Planner is withdrawn. The withdrawal, and the
release of a drive it held, are events of R86. -/
def dropInspection (id : Nat) (s : State) : State :=
  let withdrawn : Nat := if s.planner.inspReq = some id then 1 else 0
  let released : Nat := if (s.insp? id).any (·.inDrive) then 1 else 0
  let s := withPool (fun s => s.updLibrary fun l => { l with inspections := l.inspections.filter fun i => i.id ≠ id }) s
  (dropInspReq id s).wantPasses (withdrawn + released)

/-- An inspection ends and its reservation is released (R27, R32). -/
def endInspection (id : Nat) (s : State) : State :=
  if ((s.insp? id).bind (·.reserved)).isSome then slotRetry (dropInspection id s) else dropInspection id s

/-- An inspection is rejected (R29, R31): its reservation released, phase REJECTING with the RETURN to be ordered, the
reason and the number read kept, IMPORT_REJECTED set. After a drive fault the RETURN waits for READY (R32). -/
def rejectInspection (id : Nat) (reason : RejectReason) (await : Bool) (s : State) : State :=
  let number := (s.insp? id).bind (·.numberRead)
  let s := s.updInsp id fun i =>
    { i with phase := .rejecting, orderDue := true, awaitReady := await, order := none }
  let s := s.updLibrary fun l => { l with lastReject := some (reason, number) }
  noticeSet nImportRejected (releaseSlot id s)

/-- An inspection ends with reason ABANDONED, the number read kept with it, IMPORT_REJECTED set (R31, R32). -/
def abandonInspection (id : Nat) (s : State) : State :=
  let number := (s.insp? id).bind (·.numberRead)
  noticeSet nImportRejected (endInspection id (s.updLibrary fun l => { l with lastReject := some (.abandoned, number) }))

/-! ### Locations (R25, R34, R36) -/

/-- A cartridge's location and side up set together; a location outside DRIVE and ARM has no side up (R19). -/
def setLocation (n : Nat) (loc : Location) (up : Option Side) (s : State) : State :=
  withPool (fun s => s.updCart n fun c => { c with location := loc, sideUp := up }) s

/-- A cartridge is MISSING (R36). -/
def markMissing (n : Nat) (s : State) : State := setLocation n .missing none s

/-- A cartridge has left the cabinet, or a MISSING one is written off (R33, R34): EXPORTED, its home slot released, the
export mark cleared, an OPEN side FULL with VOLUME_FULL, and a record with both sides BLANK removed. -/
def leaveCabinet (n : Nat) (s : State) : State :=
  let s := withPool (fun s => s.updCart n fun c =>
    { c with location := .exported, home := none, sideUp := none, exportPending := false }) s
  let s :=
    match s.openSide with
    | some (m, x) => if m = n then makeFull n x s else s
    | none => s
  let s :=
    match s.cart? n with
    | some c =>
      if c.sideA.state = .blank ∧ c.sideB.state = .blank then
        s.updLibrary fun l => { l with table := l.table.filter fun c => c.number ≠ n }
      else s
    | none => s
  slotRetry s

end Sys2Proof.Machine
end

