-- ==== Sys2Proof/Machine/ArmList.lean ====
section
/-! DEFINITION. The arm order list (R41-R43): asking for an order, withdrawing one, and telling the originators of orders
that leave the list without completing. -/

namespace Sys2Proof.Machine

open Sys2Proof

def State.armOrder? (s : State) (n : Nat) : Option MoveOrder := s.arm.orders.find? fun o => o.number = n

def State.updOrders (s : State) (f : List MoveOrder → List MoveOrder) : State :=
  s.updArm fun a => { a with orders := f a.orders }

/-- Free places in the order list (R41, R84). -/
def State.listRoom (s : State) : Nat := Config.orderListMax - s.arm.orders.length

/-- The home slot of an order's cartridge: the reserved slot for an inspection (R42). -/
def State.homeOf (s : State) : CartRef → Option Nat
  | .number n => (s.cart? n).bind (·.home)
  | .inspection id => (s.insp? id).bind (·.reserved)

/-- A drive's own slot in the order list: the order starts or ends there (R79). -/
def MoveOrder.usesDrive (o : MoveOrder) (d : DriveId) : Bool := o.source = .drive d || o.dest = .drive d

def ArmPlace.isDrive : ArmPlace → Bool
  | .drive _ => true
  | _ => false

/-- The place of an order's cartridge is drive `d` (R42, R44). -/
def cartAt (s : State) (c : CartRef) (d : DriveId) : Bool :=
  match c with
  | .number n => (s.cart? n).any fun c => c.location = .drive d
  | .inspection id => (s.insp? id).any fun i => i.place = .drive d

/-- A place is the drive that holds an order's cartridge (R42). -/
def ArmPlace.holds (s : State) (c : CartRef) : ArmPlace → Bool
  | .drive d => cartAt s c d
  | _ => false

/-- The order fits its kind (R42); otherwise it is answered BAD_ORDER. -/
def orderFits (s : State) (o : MoveOrder) : Bool :=
  let home : Option ArmPlace := (s.homeOf o.cart).map .shelf
  match o.kind with
  | .mount => some o.source == home && o.dest.isDrive && o.side.isSome && (o.group == .fetch || o.group == .filing)
  | .demount => o.source.isDrive && some o.dest == home && o.side.isNone
  | .flip => o.source.isDrive && o.source == o.dest && o.side.isNone && o.group != .hold
  | .inspectLoad => o.source == .loadingSlot && o.dest.isDrive && o.side == some .a && o.group == .lib
  | .inspectShelve => o.source.isDrive && some o.dest == home && o.side.isNone && o.group == .lib
  | .exportMove => 
    (some o.source == home || o.source.holds s o.cart) && o.dest == .loadingSlot && o.side.isNone && o.group == .lib
  | .returnMove =>
    (o.source != .loadingSlot) && (o.dest == .loadingSlot || some o.dest == home) && o.side.isNone && o.group == .lib

/-- The next order number after `n`, wrapping from 65,535 to 1 (R41). -/
def succNumber (n : Nat) : Nat := if n ≥ 65535 then 1 else n + 1

/-- The first number from `n` on that no order in the list holds or names in its after field (R41). Of 33 numbers in a
row at most 32 can be held or named. -/
def freshNumber (os : List MoveOrder) : Nat → Nat → Nat
  | 0, n => n
  | fuel + 1, n => if os.any fun o => o.number = n || o.after = some n then freshNumber os fuel (succNumber n) else n

/-- The answers to a block whose order does not join the list (R41, R42, R56). -/
inductive AskRefusal where
  | listFull | badOrder | libraryHalted
  deriving DecidableEq, Repr

/-- An order number is given out and the counter moves on (R41). -/
def takeOrderNumber (s : State) : Nat × State :=
  let n := freshNumber s.arm.orders 33 s.arm.counter
  (n, s.updArm fun a => { a with counter := succNumber n })

/-- A block asks for an order (R41, R42, R56): its number and the state with the order at the end of the list. The
order's own number and status are given here. DESIGN CHOICE (notes/assumptions/65.md): an order that does not fit its kind
is answered BAD_ORDER even while the list holds 16. -/
def askOrder (o : MoveOrder) (s : State) : Except AskRefusal (Nat × State) :=
  if s.arm.level = .halted then .error .libraryHalted
  else if !orderFits s o then .error .badOrder
  else if s.arm.orders.length ≥ Config.orderListMax then .error .listFull
  else
    let (n, s) := takeOrderNumber s
    .ok (n, s.updOrders fun os => os ++ [{ o with number := n, status := .waiting }])

/-- How orders left the list without completing. -/
inductive Gone where
  | withdrawn | abandoned | discarded
  deriving DecidableEq, Repr

/-- The hold timer's start, now, unless the hold limit is 0 (R72). -/
def State.holdStart (s : State) : Option Nat := if s.timers.holdLimit = 0 then none else some s.seconds

/-- A Drive Unit hears that the order of its pending hold is gone (R72). DESIGN CHOICE (notes/assumptions/75.md): the hold
timer of a drive that stays in STANDBY starts again where the order was abandoned, and not where it was withdrawn or
discarded. -/
def holdGone (ns : List Nat) (how : Gone) (start : Option Nat) (x : Drive) : Drive :=
  match x.pendingHold with
  | none => x
  | some n =>
    if ns.contains n then
      { x with pendingHold := none, hold := if how = .abandoned ∧ x.state = .standby then start else x.hold }
    else x

/-- The orders of a plan that have not completed: its DEMOUNT, then its move order (R79). -/
def Plan.orders (p : Plan) : List Nat := p.demount.toList ++ if p.moved then [] else p.move.toList

/-- Whether a plan holds one of these order numbers (R79). -/
def Plan.holds (p : Plan) (ns : List Nat) : Bool := p.orders.any fun n => ns.contains n

/-- A plan is removed; the waiters that rode on it lose it (R87, R89). -/
def dropPlan (p : Plan) (s : State) : State :=
  s.updPlanner fun q =>
    { q with
      plans := q.plans.filter fun x => x.drive ≠ p.drive
      waiters := q.waiters.map fun w => if w.plan = some p.drive then { w with plan := none } else w }

/-- An inspection whose IMPORT plan is gone while its cartridge is still in the slot asks for a drive again (R92), which
starts a pass (R86). -/
def replanImport (p : Plan) (s : State) : State :=
  match p.purpose, p.cart with
  | .importJob, .inspection id =>
    match s.insp? id with
    | some i =>
      if i.phase = .carrying ∧ i.place = .loadingSlot then
        ((s.updInsp id fun i => { i with phase := .waitingDrive, order := none }).updPlanner
          fun q => { q with inspReq := some id }).wantPass
      else s
    | none => s
  | _, _ => s

/-- The originators of orders that left the list are told (R43, R53, R56): hold orders, plans, inspections and exports
lose them, and each order gone is an event of R86. -/
def ordersGone (gone : List MoveOrder) (how : Gone) (s : State) : State :=
  let ns := gone.map (·.number)
  let s := { s with drives := s.drives.map (holdGone ns how s.holdStart) }
  let s := (s.planner.plans.filter (·.holds ns)).foldl (fun s p => replanImport p (dropPlan p s)) s
  let lost (o : Option Nat) : Bool := o.any fun n => ns.contains n
  let s := s.updLibrary fun l =>
    { l with
      inspections := l.inspections.map fun i =>
        if lost i.order then { i with order := none, orderDue := how = .withdrawn } else i
      exports := l.exports.map fun e => if lost e.order then { e with order := none } else e }
  s.wantPasses gone.length

/-- The orders `ns` and those that name them in their after field, taken from the list (R43). -/
def withDependents (os : List MoveOrder) : Nat → List Nat → List Nat
  | 0, ns => ns
  | fuel + 1, ns =>
    withDependents os fuel (ns ++ (os.filter fun o => o.after.any fun n => ns.contains n).map (·.number))

/-- The orders `ns`, with every order that names one of them, leave the list and their originators are told (R43, R53). -/
def dropOrders (ns : List Nat) (how : Gone) (s : State) : State :=
  let all := withDependents s.arm.orders 16 ns
  let gone := s.arm.orders.filter fun o => all.contains o.number
  ordersGone gone how (s.updOrders fun os => os.filter fun o => !all.contains o.number)

/-- The answers to a withdrawal that takes nothing from the list (R43). -/
inductive WithdrawRefusal where
  | inMotion | noOrder
  deriving DecidableEq, Repr

/-- A withdrawal (R43). -/
def withdraw (n : Nat) (s : State) : Except WithdrawRefusal State :=
  match s.armOrder? n with
  | none => .error .noOrder
  | some o => if o.status = .waiting then .ok (dropOrders [n] .withdrawn s) else .error .inMotion

/-- A withdrawal whose refusal the asker only notes. -/
def tryWithdraw (n : Nat) (s : State) : State :=
  match withdraw n s with
  | .ok s' => s'
  | .error _ => s

/-- Whether order `n` is in the list with status WAITING. -/
def State.orderWaiting (s : State) (n : Nat) : Bool :=
  match s.armOrder? n with
  | some o => o.status = .waiting
  | none => false

end Sys2Proof.Machine
end

