-- ==== Sys2Proof/Machine/Fees.lean ====
section
/-! DEFINITION. The Fee Unit (chapter 8): the fee computation, holds, settlement, the journal, the tallies and the day
close. Its requests stand in CashRequests.lean. -/

namespace Sys2Proof.Machine

open Sys2Proof

/-! ### The fee computation (R152-R156) -/

/-- Stage S1: the gross figure in mils (R153). -/
def feeGross (kind : FetchKind) (r : ClassRates) (p : Nat) : Nat :=
  if p = 0 then 0
  else
    match kind with
    | .view => p * r.v
    | .copy => r.f + (p - 1) * r.g + r.c

/-- Stage S2: the gross figure bounded; neither bound applies with p of 0 (R153). -/
def feeBounded (kind : FetchKind) (r : ClassRates) (p gross : Nat) : Nat :=
  if p = 0 then gross
  else
    match kind with
    | .view => min gross r.x
    | .copy => min (max gross r.m) r.x

/-- Stage S3: the net figure after the discount of `d` per cent, rounded down (R154). -/
def feeNet (d bounded : Nat) : Nat := bounded - bounded * d / 100

/-- Stage S4: mils to minor units (R154). -/
def feeAmount (net : Nat) : Nat := (net + 5) / 10

/-- Stage S5: the daily cap `k` against the day total `t` (R155). -/
def feeCapped (k : Option Nat) (t amount : Nat) : Nat :=
  match k with
  | none => amount
  | some k => min amount (k - t)

/-- Stages S1 to S5 for `p` pages (R152). -/
def feeEstimate (snap : FeeSnapshot) (kind : FetchKind) (p t : Nat) : Nat :=
  feeCapped snap.cap t
    (feeAmount (feeNet snap.discount (feeBounded kind snap.rates p (feeGross kind snap.rates p))))

/-- All six stages: the settlement clamp to the estimate is S6 (R155). -/
def feeCharge (snap : FeeSnapshot) (kind : FetchKind) (p t estimate : Nat) : Nat :=
  min (feeEstimate snap kind p t) estimate

/-! ### Accounts and holds (R150, R151) -/

def State.account? (s : State) (n : Nat) : Option Account := s.fee.accounts.find? fun a => a.number = n

def State.updAccount (s : State) (n : Nat) (f : Account → Account) : State :=
  s.updFee fun u => { u with accounts := u.accounts.map fun a => if a.number = n then f a else a }

/-- The account table with `a` put in ascending order of number. -/
def insertAccount (a : Account) : List Account → List Account
  | [] => [a]
  | x :: xs => if a.number < x.number then a :: x :: xs else x :: insertAccount a xs

/-- The holds of an account (R151). -/
def State.holdsOf (s : State) (n : Nat) : List Hold := s.fee.holds.filter fun h => h.account = n

def State.heldTotal (s : State) (n : Nat) : Nat := ((s.holdsOf n).map (·.amount)).sum

/-- Available funds: the balance less the held total (R151). -/
def State.available (s : State) (a : Account) : Nat := a.balance.getD 0 - s.heldTotal a.number

/-- The discount of a category (R149); STAFF is 100. -/
def FeeUnit.categoryDiscount (u : FeeUnit) : Category → Nat
  | .counter => u.discountCounter
  | .solicitor => u.discountSolicitor
  | .government => u.discountGovernment
  | .staff => 100

/-- The rates of a fee class (R148). -/
def FeeUnit.rates (u : FeeUnit) (cls : Nat) : ClassRates := u.schedule.toList.getD cls ⟨0, 0, 0, 0, 0, 0⟩

/-- The fee snapshot for an account, or for the public counter (R152). -/
def snapshot (u : FeeUnit) (cls : Nat) : Option Account → FeeSnapshot
  | none => ⟨cls, u.rates cls, .counter, u.categoryDiscount .counter, none⟩
  | some a =>
    if a.category = .staff then ⟨cls, u.rates cls, .staff, 100, none⟩
    else ⟨cls, u.rates cls, a.category, a.discount.getD (u.categoryDiscount a.category), a.cap⟩

/-- The day total T of the computation: 0 for the public counter (R152). -/
def dayTotalOf : Option Account → Nat
  | none => 0
  | some a => a.dayTotal

/-- Whether a category's fetches are journalled (R159). -/
def journalled (c : Category) : Bool := c != .staff

/-! ### Tallies (R164) -/

/-- A sum that stays at 999,999,999, with the mark that an addition would have carried it further. -/
def tallyAdd (a b : Nat) : Nat × Bool := if a + b > Config.tallyMax then (Config.tallyMax, true) else (a + b, false)

def KindTally.add (k : KindTally) (pages charge : Nat) : KindTally × Bool :=
  let (f, x) := tallyAdd k.fetches 1
  let (p, y) := tallyAdd k.pages pages
  let (c, z) := tallyAdd k.charges charge
  (⟨f, p, c⟩, x || y || z)

def CategoryTally.add (k : CategoryTally) (charge : Nat) : CategoryTally × Bool :=
  let (f, x) := tallyAdd k.fetches 1
  let (c, y) := tallyAdd k.charges charge
  (⟨f, c⟩, x || y)

/-- One settlement added to a tally set (R164). -/
def TallySet.add (t : TallySet) (cls : Nat) (kind : FetchKind) (cat : Category) (pages charge : Nat) : TallySet :=
  let c := t.classes.toList.getD cls ⟨⟨0, 0, 0⟩, ⟨0, 0, 0⟩⟩
  let (c, x) :=
    match kind with
    | .view => let (k, x) := c.view.add pages charge; ({ c with view := k }, x)
    | .copy => let (k, x) := c.copy.add pages charge; ({ c with copy := k }, x)
  let t := { t with classes := t.classes.setIfInBounds cls c }
  let (t, y) :=
    match cat with
    | .counter => let (k, y) := t.counter.add charge; ({ t with counter := k }, y)
    | .solicitor => let (k, y) := t.solicitor.add charge; ({ t with solicitor := k }, y)
    | .government => let (k, y) := t.government.add charge; ({ t with government := k }, y)
    | .staff => let (k, y) := t.staff.add charge; ({ t with staff := k }, y)
  { t with saturated := t.saturated || x || y }

/-! ### Settlement (R158-R162) -/

/-- The receipt counter's next value, from 999,999 to 1 (R162). -/
def nextReceipt (n : Nat) : Nat := if n ≥ Config.receiptMax then 1 else n + 1

/-- The change of the account at a settlement, by the category of the fee snapshot (R159): a SOLICITOR balance debited,
the day total raised, up to 99,999,999. -/
def settleAccount (cat : Category) (charge : Nat) (a : Account) : Account :=
  match cat with
  | .solicitor =>
    { a with balance := a.balance.map (· - charge), dayTotal := min (a.dayTotal + charge) Config.moneyMax }
  | .government => { a with dayTotal := min (a.dayTotal + charge) Config.moneyMax }
  | _ => a

/-- The settlement of a fetch with its outcome (R158): the charge, the receipt number (0 for STAFF), and the state with
account, hold, tallies, journal and reservations changed, ACCOUNT_LOW and JOURNAL_HIGH set where R160 and R162 say. -/
def settleFetch (o : FetchOrder) (outcome : Status) (s : State) : Nat × Nat × State :=
  let acc := if o.account = 0 then none else s.account? o.account
  let charge := feeCharge o.snap o.kind o.delivered (dayTotalOf acc) o.estimate
  let s := if o.account = 0 then s else s.updAccount o.account (settleAccount o.snap.category charge)
  let s := s.updFee fun u =>
    { u with
      holds := u.holds.filter fun h => h.id ≠ o.id
      today := u.today.add o.snap.cls o.kind o.snap.category o.delivered charge }
  let low : Bool :=
    match s.account? o.account with
    | some a => o.snap.category == .solicitor && 0 < charge && a.lowMark.any fun m => a.balance.getD 0 < m
    | none => false
  if journalled o.snap.category then
    let receipt := s.fee.receipt
    let s := s.updFee fun u =>
      { u with
        journal := u.journal ++ [⟨receipt, u.date, o.id.station, o.account, o.snap.category, o.instrument, o.kind,
          o.delivered, o.unreadable, charge, outcome⟩]
        reservations := u.reservations - 1
        receipt := nextReceipt receipt }
    let s := if low then noticeSet nAccountLow s else s
    let s := if s.fee.journal.length ≥ Config.journalHigh then noticeSet nJournalHigh s else s
    (charge, receipt, s)
  else (charge, 0, s)

/-! ### The day (R165) -/

/-- A day close to `date` (R165, R166): the tally sets rotated, the day totals zeroed, DAY_CLOSED set. -/
def closeDay (date : Nat) (s : State) : State :=
  noticeSet nDayClosed <| s.updFee fun u =>
    { u with
      date := date
      previous := u.today
      today := TallySet.zero (some date)
      accounts := u.accounts.map fun a => { a with dayTotal := 0 } }

end Sys2Proof.Machine
end

