-- ==== Sys2Proof/Machine/Offers.lean ====
section
/-! DEFINITION. What work a drive is offered (section 4.4): the fetch candidates (R130), the Filing Writer's next step
(R106) and an inspection's unit (R28-R30). Each is read from the records; none changes anything. -/

namespace Sys2Proof.Machine

open Sys2Proof

/-! ### Fetch work (R130) -/

/-- The last page of an order's effective range (R124). -/
def FetchOrder.lastPage (o : FetchOrder) : Nat := o.first + o.effective - 1

/-- Whether an order in a queue can take a unit now (R130). -/
def canTakeUnit (s : State) (id : FetchId) : Bool :=
  match s.order? id with
  | none => false
  | some o =>
    if o.lengths.isNone then true
    else if o.staged.isSome then false
    else if o.next > o.lastPage then false
    else s.freeBuffer.isSome

/-- The fetch candidate: the first order of the queue able to take a unit (R68). -/
def fetchCandidate (s : State) (d : DriveId) : Option FetchId := (s.drive d).queue.find? (canTakeUnit s)

/-! ### Filing work (R106) -/

/-- The Filing Writer's steps (R106). -/
inductive FilingStep where
  | write (k : PassKind) | verify (k : PassKind) | probe | labelWrite | labelVerify
  deriving DecidableEq, Repr

/-- The head slot of the ring when it is COMPLETE. -/
def Run.headPage (r : Run) : Option RingSlot := r.ring.head?.filter (·.complete)

/-- The separator number of the head page of a SEPARATOR run (R116). -/
def Run.headSeparator (r : Run) : Option Nat :=
  if r.source = .separator then r.headPage.bind fun p => separatorNumber p.bytes else none

/-- The run writes: engaged, not failed, and RUNNING, WAITING_PAGE or CLOSING (R96). -/
def Run.writing (r : Run) : Bool :=
  r.engaged.isSome && r.failure.isNone && (r.state == .running || r.state == .waitingPage || r.state == .closing)

/-- The trailer of the current instrument is due (R110): the ring is drained in CLOSING, or a separator is reached. -/
def Run.trailerDue (r : Run) : Bool :=
  r.writing && r.current.isSome && ((r.state == .closing && r.ring.isEmpty) || r.headSeparator.isSome)

/-- The frontier of the OPEN side (R21). -/
def State.frontier (s : State) : Nat :=
  match s.openSide with
  | none => Config.sectorsPerSide
  | some (n, x) => ((s.side? n x).map (·.frontier)).getD Config.sectorsPerSide

/-- Why the trailer that is due is not written (R110). -/
def trailerStop (s : State) (i : Instrument) : Option Status :=
  if i.attempts = 0 ∧ !i.verifyDue then
    if i.pages = 0 then some .empty
    else if s.frontier ≥ Config.sectorsPerSide then some .sideEnd
    else none
  else none

/-- Why the head content page is not written (R106, R119): the limits of a SEPARATOR instrument, or no room on the side
before the first write pass. -/
def pageStop (s : State) (i : Instrument) (p : RingSlot) : Option Status :=
  if i.attempts = 0 ∧ !i.verifyDue then
    if s.run.source = .separator ∧ (i.pages ≥ Config.pagesMax ∨ i.content + p.sectors > Config.contentMax) then some .limit
    else if s.frontier + p.sectors > Config.sectorsPerSide then some .sideEnd
    else none
  else none

/-- The head page that is to be written into the current instrument: a content page with no discard mark (R106, R119). -/
def Run.contentHead (r : Run) : Option RingSlot :=
  if r.writing && r.current.isSome && !r.discard && r.headSeparator.isNone then r.headPage else none

/-- The filing work offered for drive `d` (R106). -/
def filingStep (s : State) (d : DriveId) : Option FilingStep :=
  match s.run.label with
  | some j => if j.drive = d then some (if j.written then .labelVerify else .labelWrite) else none
  | none =>
    if s.run.engaged = some d ∧ s.run.failure = none then
      if s.run.probing.isSome then some .probe
      else
        match s.run.current with
        | none => none
        | some i =>
          if s.run.trailerDue then
            match trailerStop s i with
            | some _ => none
            | none => some (if i.verifyDue then .verify .trailer else .write .trailer)
          else
            match s.run.contentHead with
            | none => none
            | some p =>
              match pageStop s i p with
              | some _ => none
              | none => some (if i.verifyDue then .verify .page else .write .page)
    else none

/-! ### Library work -/

/-- An inspection's requested unit on the drive it holds (R29, R30). -/
def libraryStep (s : State) (d : DriveId) : Option Inspection :=
  (s.heldBy d).filter fun i => i.phase = .reading || i.phase = .labelFirst || i.phase = .labelSecond

/-- The drive has work (section 4.4). -/
def hasWork (s : State) (d : DriveId) : Bool :=
  !(s.drive d).queue.isEmpty || (s.drive d).unit.isSome || (filingStep s d).isSome || (libraryStep s d).isSome

end Sys2Proof.Machine
end

