-- ==== Sys2Proof/Machine/Drives.lean ====
section
/-! DEFINITION. The Drive Units' own operations (chapter 4): issuing commands, spinning up and down, taking and refusing
unloads, the end of a unit, and the pin. Selection stands in Selection.lean, the faults of a drive in DriveFaults.lean. -/

namespace Sys2Proof.Machine

open Sys2Proof

/-- The states in which a command is issued (the table of R64). -/
def DriveCmd.issuedIn : DriveCmd → DriveState → Bool
  | .spinUp, st => st == .loading || st == .waking
  | .spinDown, st => st == .standby || st == .unloading
  | .eject, st => st == .unloading
  | .read .., st | .write .., st | .verify .., st | .blankCheck _, st => st == .active
  | .reinit, st | .powerCycle, st => st == .resetting

/-- A command is issued to the drive, its start time recorded with it (R64, R66). In a state that R64 does not give for it,
it is refused with NOT_READY: it does not reach the drive, and the record is unchanged (R65). -/
def issue (d : DriveId) (cmd : DriveCmd) (owner : Owner) (s : State) : State :=
  if cmd.issuedIn (s.drive d).state then s.updDrive d fun x => { x with command := some ⟨cmd, owner, s.seconds⟩ } else s

/-- SPIN_UP issued, or left until the command still in flight has completed (R64, R71). -/
def spinUp (d : DriveId) (s : State) : State :=
  if (s.drive d).command.isSome then s else issue d .spinUp .driveUnit s

/-- The refusals of a WRITE before it reaches the drive (R65). -/
inductive WriteRefusal where
  | notReady | badSector | belowFrontier | notOpen
  deriving DecidableEq, Repr

/-- The check of a WRITE against the drive's state and the side's record (R65); none: the WRITE is passed to the drive. -/
def writeCheck (s : State) (d : DriveId) (n : Nat) (x : Side) (sector : Nat) : Option WriteRefusal :=
  if (s.drive d).state ≠ .active then some .notReady
  else if sector ≤ 1 then none
  else if sector < Config.firstData ∨ sector ≥ Config.sectorsPerSide then some .badSector
  else
    match s.side? n x with
    | none => some .notOpen
    | some r =>
      if sector < r.frontier then some .belowFrontier
      else if r.state ≠ .opened then some .notOpen
      else none

/-- The drive becomes EMPTY as at a PICK completion (R62): cartridge and side up cleared, both timers stopped. DESIGN CHOICE
(notes/assumptions/60.md): a pin and fetch orders that an ABANDON has left to a vacated drive stay with it. -/
def becomeEmpty (d : DriveId) (s : State) : State :=
  (s.updDrive d fun x =>
    { x with
      state := .empty, cart := none, sideUp := none, idle := none, hold := none, unloadKept := false, vacate := false
      holdKept := false, presence := false }).wantPass

/-- The Drive Unit is told that its cartridge has been taken: at PICK completion, or by an ABANDON of an order whose pick
had not completed (R62). DESIGN CHOICE (notes/assumptions/66.md): a drive FAULTED or RESETTING at a PICK completion keeps
its state, as R62 has it at an ABANDON. -/
def driveTaken (d : DriveId) (s : State) : State :=
  match (s.drive d).state with
  | .unloading | .ready | .standby => becomeEmpty d s
  | .loading | .waking | .active =>
    s.updDrive d fun x => { x with cart := none, sideUp := none, vacate := true, presence := false }
  | .faulted | .resetting => s.updDrive d fun x => { x with cart := none, sideUp := none, presence := false }
  | .empty => s

/-- The Drive Unit is told that it now holds a cartridge (R25, R61). -/
def drivePlaced (d : DriveId) (ref : CartRef) (side : Option Side) (s : State) : State :=
  spinUp d (s.updDrive d fun x =>
    { x with state := .loading, cart := some ref, sideUp := side, presence := true, vacate := false, unloadKept := false })

/-- Whether a live fetch unit is in progress on the drive. -/
def Drive.fetchUnit (x : Drive) : Bool :=
  match x.unit with
  | some ⟨.trailerRead .., ended⟩ => !ended
  | some ⟨.pageRead .., ended⟩ => !ended
  | _ => false

/-- The drive's queue is empty and no order of it is out for a unit, to be put back at its end (R68;
notes/assumptions/4.md). -/
def Drive.queueIdle (x : Drive) : Bool := x.queue.isEmpty && !x.fetchUnit

/-- The drive goes to UNLOADING from READY: SPIN_DOWN, then EJECT at its completion (R62). -/
def startUnload (d : DriveId) (s : State) : State :=
  issue d .spinDown .driveUnit
    (s.updDrive d fun x => { x with state := .unloading, idle := none, hold := none, unloadKept := false })

/-- The arm asks the drive to unload (R62): the state with the request taken or kept, or none when it is refused. -/
def requestUnload (d : DriveId) (s : State) : Option State :=
  let x := s.drive d
  if x.pin ∨ !x.queueIdle then none
  else
    match x.state with
    | .ready => some (startUnload d s)
    | .standby =>
      let s := s.updDrive d fun x => { x with state := .unloading, hold := none, holdKept := false }
      some (if x.command.isSome then s else issue d .eject .driveUnit s)
    | .loading | .waking | .active => some (s.updDrive d fun x => { x with unloadKept := true })
    | .unloading => some (if x.command.isNone ∧ x.presence then issue d .eject .driveUnit s else s)
    | .faulted | .resetting | .empty => none

/-- The share turn after a unit: the other kind from the one that ran (R69). -/
def shareAfter (w : UnitWork) (old : ShareTurn) : ShareTurn :=
  match w with
  | .trailerRead .. | .pageRead .. => .filing
  | .writePass .. | .verifyPass .. | .probe .. | .volumeLabelWrite .. | .volumeLabelVerify .. => .fetch
  | .labelRead .. | .labelWrite .. | .labelVerify .. => old

/-- Whether a unit is fetch work. -/
def UnitWork.isFetch : UnitWork → Bool
  | .trailerRead .. | .pageRead .. => true
  | _ => false

/-- Whether a unit is filing work (R74). -/
def UnitWork.isFiling : UnitWork → Bool
  | .writePass .. | .verifyPass .. | .probe .. | .volumeLabelWrite .. | .volumeLabelVerify .. => true
  | _ => false

/-- A unit ends (R68, R69): last-active set, the share turn turned, and the drive READY, or EMPTY after an ABANDON taken
meanwhile, or UNLOADING for a kept request (R62). The last fetch unit of an emptied queue starts a pass (R86). -/
def unitEnd (d : DriveId) (s : State) : State :=
  match (s.drive d).unit with
  | none => s
  | some u =>
    let s := s.updDrive d fun x =>
      { x with unit := none, lastActive := s.seconds, share := shareAfter u.work x.share, state := .ready }
    let s := if u.work.isFetch && (s.drive d).queue.isEmpty then s.wantPass else s
    if (s.drive d).vacate then becomeEmpty d s
    else if (s.drive d).unloadKept then startUnload d s
    else s

/-- A unit starts on the drive (R68). -/
def startUnit (d : DriveId) (w : UnitWork) (s : State) : State :=
  s.updDrive d fun x =>
    { x with state := .active, idle := none, lastActive := s.seconds, unit := some ⟨w, false⟩ }

/-- The unit in progress with its work replaced: its owner issues a further command (R64). -/
def continueUnit (d : DriveId) (w : UnitWork) (s : State) : State :=
  s.updDrive d fun x => { x with unit := x.unit.map fun u => { u with work := w } }

/-- The unit in progress is to end at the completion of the command in flight (R70). -/
def endUnitLater (d : DriveId) (s : State) : State :=
  s.updDrive d fun x => { x with unit := x.unit.map fun u => { u with ended := true } }

/-! ### The pin (R73) -/

/-- A running idle timer starts afresh: it runs exactly while the drive is READY with no work (R71). -/
def restartIdle (d : DriveId) (s : State) : State :=
  s.updDrive d fun x => { x with idle := x.idle.map fun _ => s.seconds }

/-- A setting of the pin, accepted when the drive holds the OPEN side up, is READY, ACTIVE or STANDBY, and no other drive's
pin is set (R73); the share turn becomes FILING (R69). -/
def setPin (d : DriveId) (s : State) : Option State :=
  let x := s.drive d
  let holdsOpen : Bool :=
    match s.openSide with
    | some (n, side) => x.cart == some (.number n) && x.sideUp == some side
    | none => false
  if holdsOpen ∧ (x.state = .ready ∨ x.state = .active ∨ x.state = .standby)
      ∧ allDrives.all (fun e => e = d || !(s.drive e).pin) then
    some (restartIdle d (s.updDrive d fun x => { x with pin := true, share := .filing }))
  else none

/-- The pin is lifted: the idle timer restarts and the Mount Planner re-plans (R73). -/
def liftPin (d : DriveId) (s : State) : State :=
  (restartIdle d (s.updDrive d fun x => { x with pin := false })).wantPass

end Sys2Proof.Machine
end

