-- ==== Sys2Proof/Machine/FetchEngine.lean ====
section
/-! DEFINITION. The Fetch Engine (chapter 7): units on a drive, staging and delivery, and the completion of a fetch. Its
requests stand in FetchRequests.lean. -/

namespace Sys2Proof.Machine

open Sys2Proof

/-! ### Units (R131, R133) -/

/-- The trailer read of an order starts as a unit on drive `d` (R131). -/
def startTrailerRead (d : DriveId) (o : FetchOrder) (s : State) : State :=
  let sector := ((mapSector o.extents o.trailer).map (·.2)).getD 0
  issue d (.read sector 1) .fetchEngine (startUnit d (.trailerRead o.id sector 0) s)

/-- The sectors of page `k`, mapped through the extents (R133). -/
def pageSectorList (o : FetchOrder) (k : Nat) : List PageSector :=
  let before := ((o.lengths.getD []).take (k - 1)).sum
  (List.range (o.pageSectors k)).filterMap fun i =>
    (mapSector o.extents (before + i)).map fun (e, p) => ⟨e, p, none, 0⟩

/-- The length of the run of untried sectors of one extent that begins a list. -/
def runLength (e : Nat) : List PageSector → Nat
  | [] => 0
  | p :: ps => if p.extent = e then runLength e ps + 1 else 0

/-- The next READ of a page unit: one per extent in logical order, then a READ of one sector for each sector still
without DATA, in ascending logical order (R133). Answers the index and the count. DESIGN CHOICE (notes/assumptions/78.md):
a sector has all its tries before the next one is read again. -/
def nextPageRead (ps : List PageSector) : Option (Nat × Nat) :=
  match ps.findIdx? (·.tries = 0) with
  | some i => some (i, match ps[i]? with | some p => runLength p.extent (ps.drop i) | none => 1)
  | none => (ps.findIdx? (·.bytes.isNone)).map fun i => (i, 1)

/-- The read of an order's next page starts as a unit on drive `d`, taking buffer `b` (R130, R133). -/
def startPageRead (d : DriveId) (o : FetchOrder) (b : Nat) (s : State) : State :=
  let ps := pageSectorList o o.next
  match nextPageRead ps with
  | none => s
  | some (i, n) =>
    let start := ((ps[i]?).map (·.phys)).getD 0
    let s := (s.setBuffer b (some [])).updOrder o.id fun o => { o with reading := some b }
    issue d (.read start n) .fetchEngine (startUnit d (.pageRead o.id b ps i n) s)

/-- A fetch unit starts: the order is taken out of its place in the queue (R68). -/
def startFetchUnit (d : DriveId) (id : FetchId) (s : State) : State :=
  match s.order? id with
  | none => s
  | some o =>
    let s := s.updDrive d fun x => { x with queue := x.queue.filter (· ≠ id) }
    if o.lengths.isNone then startTrailerRead d o s
    else
      match s.freeBuffer with
      | none => s
      | some b => startPageRead d o b s

/-- An order is put back at the back of its drive's queue (R68). -/
def putBack (d : DriveId) (id : FetchId) (s : State) : State :=
  s.updDrive d fun x => { x with queue := x.queue ++ [id] }

/-! ### Completion (R140) -/

/-- An entry leaves the volume wait list because its order is ended; a FETCH plan left without a rider has its orders that
the arm has not begun withdrawn (R88). -/
def removeWaiter (id : FetchId) (s : State) : State :=
  match s.planner.waiters.find? fun w => w.id = id with
  | none => s
  | some w =>
    let s := s.updPlanner fun q => { q with waiters := q.waiters.filter fun w => w.id ≠ id }
    match w.plan.bind fun d => s.planner.plans.find? fun p => p.drive = d && p.purpose = .fetch with
    | none => s
    | some p =>
      if s.planner.waiters.any fun w => w.plan = some p.drive then s
      else
        match p.orders.find? fun n => s.orderWaiting n with
        | some n => tryWithdraw n s
        | none => s

/-- Step 1 of a completion: the order is taken out of its place (R140). -/
def takeOut (o : FetchOrder) (s : State) : State :=
  match o.place with
  | .waitList => removeWaiter o.id s
  | .drive d =>
    let mine : Bool :=
      match (s.drive d).unit with
      | some ⟨.trailerRead id _ _, ended⟩ => id == o.id && !ended
      | some ⟨.pageRead id _ _ _ _, ended⟩ => id == o.id && !ended
      | _ => false
    let s := if mine then endUnitLater d s else s
    let s := s.updDrive d fun x => { x with queue := x.queue.filter (· ≠ o.id) }
    if (s.drive d).queueIdle then s.wantPass else s

/-- A DATA frame being sent no longer belongs to a completed fetch: the frame is finished, and none follows (R140). DESIGN
CHOICE (notes/assumptions/77.md): it keeps its last flag, so a page whose last frame is being sent is received whole. -/
def orphanFrame (id : FetchId) (l : Link) : Link :=
  match l.sending with
  | some (.data (some i) tag page index last bytes) =>
    if i = id then { l with sending := some (.data none tag page index last bytes) } else l
  | _ => l

/-- Step 2 of a completion: the staged page and the page in delivery are dropped and their buffers released (R140). -/
def dropPages (o : FetchOrder) (s : State) : State :=
  let s := match o.staged with | some (_, b) => s.releaseBuffer b | none => s
  let s := match o.delivery with | some p => s.releaseBuffer p.buf | none => s
  let s := s.updFetch fun e => { e with stagedOrder := e.stagedOrder.filter (· ≠ o.id) }
  s.updLink o.id.station fun l => orphanFrame o.id { l with sendList := l.sendList.filter (· ≠ o.id) }

/-- The completion of a fetch with its outcome (R139-R141): taken out of its place, its pages dropped, settled, answered
with FETCH_DONE if the outstanding table holds its tag, and freed. -/
def completeFetch (id : FetchId) (outcome : Status) (s : State) : State :=
  match s.order? id with
  | none => s
  | some o =>
    let s := dropPages o (takeOut o s)
    let (charge, receipt, s) := settleFetch o outcome s
    let done : FetchDone := ⟨o.instrument, o.first, o.effective, o.delivered, o.unreadable, charge, receipt⟩
    let s := replyLong id.station ⟨id.tag, 0x90, outcome, .fetchDone done⟩ s
    s.updFetch fun e => { e with orders := e.orders.filter fun o => o.id ≠ id }

/-- Completions taken one after another, each whole (R143). -/
def completeAll (ids : List FetchId) (outcome : Status) (s : State) : State :=
  ids.foldl (fun s id => completeFetch id outcome s) s

/-! ### READ completions of fetch units (R131-R134) -/

/-- The trailer unit ends without a page-length list: the order is completed with UNREADABLE_INDEX (R132). -/
def trailerFailed (d : DriveId) (id : FetchId) (s : State) : State :=
  completeFetch id .unreadableIndex (unitEnd d s)

/-- The answer to a trailer READ (R131, R132). `cut`: the READ ended in TIMEOUT or HARDWARE_FAULT. -/
def trailerAnswer (d : DriveId) (id : FetchId) (sector tries : Nat) (r : SectorRead) (cut : Bool) (s : State) : State :=
  match r with
  | .data bytes =>
    match s.order? id with
    | none => unitEnd d s
    | some o =>
      match trailerLengths bytes o.instrument o.pages o.content o.filingDate with
      | some ls => unitEnd d (putBack d id (s.updOrder id fun o => { o with lengths := some ls }))
      | none => trailerFailed d id s
  | .unwritten => trailerFailed d id s
  | .unreadable =>
    if cut ∨ tries + 1 ≥ 3 then trailerFailed d id s
    else issue d (.read sector 1) .fetchEngine (continueUnit d (.trailerRead id sector (tries + 1)) s)

/-- One sector's answer added to its record (R133). -/
def PageSector.answer (p : PageSector) : SectorRead → PageSector
  | .data bytes => { p with bytes := some bytes, tries := p.tries + 1 }
  | _ => { p with tries := p.tries + 1 }

/-- The answers of a READ placed at the sectors it named. -/
def placeAnswers : List PageSector → Nat → List SectorRead → List PageSector
  | [], _, _ => []
  | ps, _, [] => ps
  | p :: ps, 0, r :: rs => p.answer r :: placeAnswers ps 0 rs
  | p :: ps, i + 1, rs => p :: placeAnswers ps i rs

/-- An unreadable page: its buffer released and counted; the order is completed with DONE_PARTIAL when nothing else
remains of it, and is put back otherwise (R134). -/
def pageUnreadable (d : DriveId) (id : FetchId) (b : Nat) (s : State) : State :=
  let s := (s.releaseBuffer b).updOrder id fun o =>
    { o with next := o.next + 1, unreadable := o.unreadable + 1, reading := none }
  match s.order? id with
  | none => unitEnd d s
  | some o =>
    if o.next > o.lastPage ∧ o.staged = none ∧ o.delivery = none then completeFetch id .donePartial (unitEnd d s)
    else unitEnd d (putBack d id s)

/-- A page that has been read becomes the order's staged page (R134). -/
def pageStaged (d : DriveId) (id : FetchId) (b : Nat) (bytes : List Byte) (s : State) : State :=
  let s := (s.setBuffer b (some bytes)).updOrder id fun o =>
    { o with staged := some (o.next, b), next := o.next + 1, reading := none }
  let s := s.updFetch fun e => { e with stagedOrder := e.stagedOrder ++ [id] }
  unitEnd d (putBack d id s)

/-- The answer to a READ of a page unit (R133, R134). -/
def pageAnswer (d : DriveId) (id : FetchId) (b : Nat) (ps : List PageSector) (at_ n : Nat) (rs : List SectorRead)
    (cut : Bool) (s : State) : State :=
  let rs := rs.take n
  let ps := placeAnswers ps at_ rs
  if cut ∨ rs.any (· == .unwritten) ∨ ps.any (fun p => p.bytes.isNone && p.tries ≥ 3) then pageUnreadable d id b s
  else
    match nextPageRead ps with
    | none => pageStaged d id b (ps.flatMap fun p => p.bytes.getD []) s
    | some (i, n) =>
      let start := ((ps[i]?).map (·.phys)).getD 0
      issue d (.read start n) .fetchEngine (continueUnit d (.pageRead id b ps i n) s)

/-! ### Staging and delivery (R136-R138) -/

/-- The oldest staged page that can begin delivery: its station has credit and its order delivers no page (R136). -/
def deliveryCandidate (s : State) : Option FetchOrder :=
  s.fetch.stagedOrder.findSome? fun id =>
    (s.order? id).filter fun o => o.staged.isSome && o.delivery.isNone && 0 < (s.link o.id.station).credit

/-- A staged page begins delivery: one credit is spent and the page joins the send list (R136). -/
def beginDelivery (o : FetchOrder) (s : State) : State :=
  match o.staged with
  | none => s
  | some (k, b) =>
    let s := s.updOrder o.id fun o => { o with staged := none, delivery := some ⟨k, b, 0⟩, stall := none }
    let s := s.updFetch fun e => { e with stagedOrder := e.stagedOrder.filter (· ≠ o.id) }
    s.updLink o.id.station fun l => { l with credit := l.credit - 1, sendList := l.sendList ++ [o.id] }

/-- Whether an order's stall timer should run: it holds a staged page and its station's credit is 0 (R138). -/
def stalling (s : State) (o : FetchOrder) : Bool := o.staged.isSome && (s.link o.id.station).credit == 0

/-- An order whose stall timer does not stand as R138 says. -/
def stallCandidate (s : State) : Option FetchOrder := s.fetch.orders.find? fun o => stalling s o != o.stall.isSome

/-- The stall timer starts, from now, or stops (R138). -/
def adjustStall (o : FetchOrder) (s : State) : State :=
  s.updOrder o.id fun x => { x with stall := if stalling s o then some s.seconds else none }

/-- The last frame of a page has been sent (R137): the page is delivered, its buffer released, and the order completed
when nothing is left of it. -/
def pageDelivered (id : FetchId) (s : State) : State :=
  match s.order? id with
  | none => s
  | some o =>
    let s := match o.delivery with | some p => s.releaseBuffer p.buf | none => s
    let s := s.updOrder id fun o => { o with delivery := none, delivered := o.delivered + 1 }
    let s := s.updLink id.station fun l => { l with sendList := l.sendList.filter (· ≠ id) }
    let running : Bool :=
      match o.place with
      | .waitList => false
      | .drive d =>
        match (s.drive d).unit with
        | some ⟨.trailerRead i _ _, ended⟩ => i == id && !ended
        | some ⟨.pageRead i _ _ _ _, ended⟩ => i == id && !ended
        | _ => false
    if o.next > o.lastPage ∧ o.staged = none ∧ !running then
      completeFetch id (if o.unreadable = 0 then .done else .donePartial) s
    else s

/-- A DATA frame of a fetch has been sent (R137). -/
def dataSent (id : FetchId) (last : Bool) (s : State) : State :=
  let s := s.updOrder id fun o => { o with delivery := o.delivery.map fun p => { p with sent := p.sent + 1 } }
  if last then pageDelivered id s else s

end Sys2Proof.Machine
end

