-- ==== Sys2Proof/Machine/Filing.lean ====
section
/-! DEFINITION. The Filing Writer (chapter 6): the run and its ring, engagement, rollover, the frontier probe, the write and
verify passes, the ends of instruments and runs, and its own acts between units. Its requests stand in
FilingRequests.lean. -/

namespace Sys2Proof.Machine

open Sys2Proof

/-! ### Counts, ring and stall timer (R95, R103, R115) -/

/-- A count of the run, 0-65,535 (R95). DESIGN CHOICE (notes/assumptions/69.md): it stays at 65,535 once it has reached
it. -/
def countUp (n k : Nat) : Nat := min (n + k) Config.countMax

def updCounts (f : RunCounts → RunCounts) (s : State) : State := s.updRun fun r => { r with counts := f r.counts }

def countAborted (s : State) : State := updCounts (fun c => { c with aborted := countUp c.aborted 1 }) s
def countDiscarded (k : Nat) (s : State) : State := updCounts (fun c => { c with discarded := countUp c.discarded k }) s

/-- The ring's tail: the slot after the last one in use (R103). -/
def Run.tail (r : Run) : Nat := (r.head + r.ring.length) % Config.ringSlots

/-- A page leaves the ring at the head (R103). -/
def popRing (s : State) : State :=
  s.updRun fun r => { r with head := (r.head + 1) % Config.ringSlots, ring := r.ring.drop 1 }

/-- A flush of the ring: every page counted as discarded, the head moved to the tail (R103). DESIGN CHOICE
(notes/assumptions/71.md): a separator sheet in the ring is counted like any page flushed. -/
def flushRing (s : State) : State :=
  (countDiscarded s.run.ring.length s).updRun fun r => { r with head := r.tail, ring := [] }

/-- The run enters WAITING_PAGE and its stall timer starts (R115). -/
def enterWaiting (s : State) : State :=
  s.updRun fun r => { r with state := .waitingPage, stall := some s.seconds, stallSent := false }

def updInstrument (f : Instrument → Instrument) (s : State) : State :=
  s.updRun fun r => { r with current := r.current.map f }

/-! ### The filing request (R90) -/

/-- The filing request is made to the Mount Planner (R90). -/
def makeFilingReq (p : Nat × Side) (s : State) : State :=
  (s.updPlanner fun q => { q with filingReq := some p }).wantPass

/-- The filing request is withdrawn, with the FILING plan's orders not yet begun, and the plan removed (R90). -/
def withdrawFilingReq (s : State) : State :=
  if s.planner.filingReq.isNone then s
  else
    let s := (s.updPlanner fun q => { q with filingReq := none }).wantPass
    match s.planner.plans.find? fun p => p.purpose = .filing with
    | none => s
    | some p =>
      let s := (p.orders.filter fun n => s.orderWaiting n).foldl (fun s n => tryWithdraw n s) s
      s.updPlanner fun q => { q with plans := q.plans.filter fun p => p.purpose ≠ .filing }

/-! ### Ends of instruments and runs (R112-R114) -/

/-- Every filing unit in progress is to end at the completion of its command (R70). -/
def endFilingUnits (s : State) : State :=
  { s with drives := s.drives.map fun x =>
      { x with unit := x.unit.map fun u => if u.work.isFiling then { u with ended := true } else u } }

/-- The current instrument ends without commit (R112): its sectors dead, its entry removed, aborted one higher. -/
def dropInstrument (s : State) : State :=
  match s.run.current with
  | none => s
  | some i =>
    let dead := ((s.entry? i.number).map fun e => extentSum e.extents).getD 0 + i.attemptSectors
    let s :=
      match s.openSide with
      | some (n, x) => if dead = 0 then s else countDead n x dead s
      | none => s
    let s := orUnchanged s (removeEntry s i.number)
    countAborted (s.updRun fun r => { r with current := none })

/-- The pin of the engaged drive is lifted (R99). -/
def disengage (s : State) : State :=
  match s.run.engaged with
  | none => s
  | some d => liftPin d (s.updRun fun r => { r with engaged := none })

/-- The fate of the volume label under way at an abort (R113): issued, it is reported failed when its command completes,
or at once when none is in flight; not issued, the chosen side stays BLANK. -/
def dropLabel (s : State) : State :=
  let s :=
    match s.run.label, s.run.chosen with
    | some j, some (n, x) =>
      let inFlight : Bool :=
        match (s.drive j.drive).unit with
        | some u => u.work.isFiling
        | none => false
      if j.issued && !inFlight then labelFailed n x s else s
    | _, _ => s
  s.updRun fun r => { r with label := none, chosen := none }

/-- The instrument that a separator named, waiting for the rollover, ends with the run: counted aborted (R95). -/
def dropPending (s : State) : State :=
  let s := if s.run.pendingSep.isSome then countAborted s else s
  s.updRun fun r => { r with pendingSep := none }

/-- What an abort, a link reset of the owner and a run failure have in common (R113, R114, R120). -/
def abortCore (s : State) : State :=
  let s := withdrawFilingReq (flushRing (dropPending (dropInstrument s)))
  let s := disengage (dropLabel (endFilingUnits s))
  s.updRun fun r => { r with probing := none, stall := none }

/-- The run becomes CLOSED (R96). -/
def closeRun (s : State) : State :=
  s.updRun fun r => { r with state := .closed, openTag := none, closeTag := none, stall := none }

/-- The pending OPEN_INSTRUMENT is answered (R98, R113, R114). -/
def replyOpen (c : Status) (b : ReplyBody) (s : State) : State :=
  match s.run.openTag with
  | none => s
  | some tag =>
    (replyLong s.run.owner ⟨tag, 0x20, c, b⟩ s).updRun fun r => { r with openTag := none }

/-- The pending CLOSE_INSTRUMENT is answered (R111, R113, R114). -/
def replyClose (c : Status) (b : ReplyBody) (s : State) : State :=
  match s.run.closeTag with
  | none => s
  | some tag =>
    (replyLong s.run.owner ⟨tag, 0x22, c, b⟩ s).updRun fun r => { r with closeTag := none }

/-- A run failure (R114). A run that has failed already keeps its first reason (notes/assumptions/20.md). -/
def runFailure (reason : Status) (s : State) : State :=
  if s.run.state = .closed ∨ s.run.failure.isSome then s
  else
    let s := (abortCore s).updRun fun r => { r with failure := some reason }
    if s.run.openTag.isSome then closeRun (replyOpen reason .none s)
    else if s.run.closeTag.isSome then closeRun (replyClose reason (.closed s.run.counts none none) s)
    else s.updRun fun r => { r with state := .closing }

/-- The close of a run completes with an outcome (R111): ring drained, pin lifted, CLOSED, CLOSE_INSTRUMENT answered. -/
def completeClose (outcome : Status) (s : State) : State :=
  let s := flushRing s
  let volume := s.openVolume
  let frontier := s.openSide.bind fun (n, x) => (s.side? n x).map (·.frontier)
  let s := disengage (s.updRun fun r => { r with discard := false })
  closeRun (replyClose outcome (.closed s.run.counts volume frontier) s)

/-- What an instrument ended with a code was doing: writing the head page, or its trailer (R112). -/
inductive EndAt where
  | page | trailer
  deriving DecidableEq, Repr

/-- An instrument ends with a code, and what follows for the run (R112). -/
def endInstrument (c : Status) (place : EndAt) (s : State) : State :=
  let s := dropInstrument s
  match s.run.source with
  | .given =>
    if s.run.state = .closing ∧ s.run.failure.isNone then completeClose c s
    else runFailure c s
  | .separator =>
    let s := match place with | .page => countDiscarded 1 (popRing s) | .trailer => s
    if c = .empty then s else s.updRun fun r => { r with discard := true }

/-! ### Engagement and rollover (R98-R101, R117) -/

/-- Free sectors of the OPEN side; 0 without one (R21). -/
def State.freeSectors (s : State) : Nat := Config.sectorsPerSide - s.frontier

def rolloverNeeded (s : State) : Bool := s.freeSectors < Config.rolloverRoom

/-- Rollover with the blank `p` named (R100). -/
def startRollover (p : Nat × Side) (s : State) : State :=
  let s := match s.openSide with | some (n, x) => makeFull n x s | none => s
  makeFilingReq p ((disengage s).updRun fun r =>
    { r with chosen := some p, state := .opening, stall := none, label := none, probing := none })

/-- Rollover, or the run failure of a blank choice that answers "none" (R100, R114). -/
def beginRollover (s : State) : State :=
  match blankChoice s (s.openSide.map (·.1)) with
  | none => runFailure .noBlank s
  | some p => startRollover p s

/-- The blank choice made again, naming cartridge `n` (R100, R101). -/
def rechoose (n : Nat) (s : State) : State :=
  let s := withdrawFilingReq (s.updRun fun r => { r with label := none, chosen := none })
  match blankChoice s (some n) with
  | none => runFailure .noBlank s
  | some p => makeFilingReq p (s.updRun fun r => { r with chosen := some p })

/-- A new current instrument (R98, R117). -/
def newInstrument (number : Nat) : Instrument := ⟨number, 0, 0, [], 0, 0, 0, 0, 0, 0, false⟩

/-- The run leaves OPENING (R96). -/
def leaveOpening (s : State) : State :=
  if s.run.closeRequested then s.updRun fun r => { r with state := .closing }
  else if s.run.headPage.isSome then s.updRun fun r => { r with state := .running }
  else enterWaiting s

/-- A separator that begins no instrument (R117 steps 3 and 4, R118): counted aborted, the discard mark set, the
separator out of the ring. -/
def separatorLost (s : State) : State :=
  popRing (countAborted (s.updRun fun r => { r with discard := true, pendingSep := none }))

/-- Step 6 of R117: the entry for the separator's number, or the refusal counted. -/
def createSeparated (n : Nat) (s : State) : State :=
  match createEntry s s.openVolume n s.run.feeClass s.run.owner with
  | .error _ => separatorLost s
  | .ok s => popRing (s.updRun fun r => { r with current := some (newInstrument n), pendingSep := none })

/-- The OPEN_INSTRUMENT reply of a completed engagement (R98). -/
def replyEngaged (s : State) : State :=
  match s.openSide with
  | some (n, x) => replyOpen .done (.opened (s.openVolume.getD 0) n x (s.run.engaged.getD 0) s.frontier) s
  | none => s

/-- Engagement completes (R98), or rollover proceeds instead. -/
def engage (s : State) : State :=
  if rolloverNeeded s then beginRollover s
  else
    match s.run.source with
    | .given =>
      match createEntry s s.openVolume s.run.given s.run.feeClass s.run.owner with
      | .error e => runFailure (catStatus e) s
      | .ok s =>
        replyEngaged (leaveOpening (s.updRun fun r => { r with current := some (newInstrument r.given) }))
    | .separator =>
      match s.run.pendingSep with
      | some n => replyEngaged (leaveOpening (createSeparated n s))
      | none => replyEngaged (leaveOpening s)

/-- The filing volume is up in `d`: the pin is set there, and the probe or the end of engagement follows; a refused pin
makes the filing request again (R98, R99, R102). -/
def pinAndEngage (d : DriveId) (s : State) : State :=
  match setPin d s with
  | none => match s.openSide with | some p => makeFilingReq p s | none => s
  | some s =>
    let s := s.updRun fun r => { r with engaged := some d }
    if s.library.probeDue then s.updRun fun r => { r with probing := some 0 } else engage s

/-- The Mount Planner reports the requested side up in `d` (R90): a chosen blank's label is to be written, with the next
volume number read (R101); otherwise the OPEN side is engaged (R98). -/
def sideReported (d : DriveId) (s : State) : State :=
  if s.run.chosen.isSome then
    s.updRun fun r => { r with label := some ⟨d, s.library.nextVol, false, false⟩ }
  else pinAndEngage d s

/-! ### Units of filing work (R102, R106, R107) -/

/-- The `n` sectors of a page's bytes. -/
def sectorsOf (bytes : List Byte) (n : Nat) : List (List Byte) :=
  (List.range n).map fun k => (bytes.drop (k * Config.sectorBytes)).take Config.sectorBytes

/-- The trailer of the current instrument (R110, R207). -/
def trailerBytes (s : State) (i : Instrument) : List Byte :=
  trailerSector i.number i.pages i.content (((s.entry? i.number).map (·.filingDate)).getD 0) i.pageSectors

/-- The sectors a pass writes and verifies. -/
def passSectors (s : State) (i : Instrument) : PassKind → List (List Byte)
  | .trailer => [trailerBytes s i]
  | .page =>
    match s.run.headPage with
    | some p => sectorsOf p.bytes p.sectors
    | none => []

def PassKind.endAt : PassKind → EndAt
  | .page => .page
  | .trailer => .trailer

/-- The next WRITE of a pass, at the frontier, or WRITE_REFUSED (R65, R107). The unit stands already. -/
def issueWrite (d : DriveId) (kind : PassKind) (n : Nat) (x : Side) (sectors : List (List Byte)) (s : State) : State :=
  match sectors with
  | [] => unitEnd d s
  | bytes :: left =>
    let at_ := ((s.side? n x).map (·.frontier)).getD Config.sectorsPerSide
    match writeCheck s d n x at_ with
    | some _ => endInstrument .writeRefused kind.endAt (unitEnd d s)
    | none => issue d (.write at_ bytes) .filingWriter (continueUnit d (.writePass kind n x left) s)

/-- A filing unit starts on drive `d` (R106). -/
def startFilingUnit (d : DriveId) (step : FilingStep) (s : State) : State :=
  match step with
  | .write kind =>
    match s.openSide, s.run.current with
    | some (n, x), some i =>
      let sectors := passSectors s i kind
      let s := updInstrument (fun i => { i with start := s.frontier }) s
      issueWrite d kind n x sectors (startUnit d (.writePass kind n x []) s)
    | _, _ => s
  | .verify kind =>
    match s.run.current with
    | some i =>
      let sectors := passSectors s i kind
      issue d (.verify i.start sectors.length sectors.flatten) .filingWriter (startUnit d (.verifyPass kind) s)
    | none => s
  | .probe =>
    match s.openSide with
    | some (n, x) => issue d (.blankCheck s.frontier) .filingWriter (startUnit d (.probe n x) s)
    | none => s
  | .labelWrite =>
    match s.run.chosen, s.run.label with
    | some (n, x), some j =>
      let s := s.updRun fun r => { r with label := some { j with issued := true } }
      issue d (.write 1 (volumeLabel j.volume n x)) .filingWriter (startUnit d (.volumeLabelWrite n x j.volume) s)
    | _, _ => s
  | .labelVerify =>
    match s.run.chosen, s.run.label with
    | some (n, x), some j =>
      issue d (.verify 1 1 (volumeLabel j.volume n x)) .filingWriter (startUnit d (.volumeLabelVerify n x j.volume) s)
    | _, _ => s

/-! ### Completions (R101, R102, R107-R110) -/

/-- A failed attempt (R109): its sectors dead, and the end of the instrument or a rewrite. -/
def attemptFailed (kind : PassKind) (n : Nat) (x : Side) (s : State) : State :=
  match s.run.current with
  | none => s
  | some i =>
    let s := if i.attemptSectors = 0 then s else countDead n x i.attemptSectors s
    let s := updInstrument (fun i =>
      { i with
        dead := i.dead + i.attemptSectors, attempts := i.attempts + 1, rewrites := i.rewrites + 1, attemptSectors := 0
        verifyDue := false }) s
    if i.attempts + 1 ≥ 3 then endInstrument .verifyFailed kind.endAt s
    else if ((s.entry? i.number).map (·.extents.length)).getD 0 ≥ Config.extentsMax then
      endInstrument .extentLimit kind.endAt s
    else s

/-- A sector of the attempt is behind the frontier (R107). -/
def sectorPassed (n : Nat) (x : Side) (s : State) : State :=
  updInstrument (fun i => { i with attemptSectors := i.attemptSectors + 1 }) (advanceFrontier n x s)

/-- The answer to a WRITE of a pass (R107): none for TIMEOUT and HARDWARE_FAULT. `ended`: its instrument has been ended
meanwhile, and the sector is dead (R112). -/
def writePassAnswer (d : DriveId) (kind : PassKind) (n : Nat) (x : Side) (left : List (List Byte)) (ended : Bool)
    (r : Option WriteResult) (s : State) : State :=
  if ended then unitEnd d (countDead n x 1 (advanceFrontier n x s))
  else
    let s := sectorPassed n x s
    match r with
    | some .done =>
      if left.isEmpty then unitEnd d (updInstrument (fun i => { i with verifyDue := true }) s)
      else issueWrite d kind n x left s
    | _ => attemptFailed kind n x (unitEnd d s)

/-- A verified page joins the entry (R108), or the refusal of its extension ends the instrument. -/
def pageVerified (i : Instrument) (p : RingSlot) (s : State) : State :=
  match extendEntry s i.number i.start p.sectors with
  | .error e => endInstrument (catStatus e) .page s
  | .ok s =>
    let extents := ((s.entry? i.number).map (·.extents.length)).getD 0
    let s := updInstrument (fun i =>
      { i with
        pages := i.pages + 1, content := i.content + p.sectors, pageSectors := i.pageSectors ++ [p.sectors]
        extentCount := extents, attempts := 0, attemptSectors := 0, verifyDue := false }) s
    let s := if p.notify then noticeSet nPageWritten s else s
    popRing (s.updRun fun r => { r with lastTag := some p.tag })

/-- The side that holds the volume of a committed entry counts one instrument more (R14). -/
def countInstrument (number : Nat) (s : State) : State :=
  match (s.entry? number).bind fun e => s.volume? e.volume with
  | some v => s.updCart v.cart fun c => c.updSide v.side fun r => { r with instruments := r.instruments + 1 }
  | none => s

/-- A verified trailer commits the entry (R110, R14), or the refusal ends the instrument. -/
def trailerVerified (i : Instrument) (s : State) : State :=
  match commitEntry s i.number i.start with
  | .error e => endInstrument (catStatus e) .trailer s
  | .ok s =>
    let s := countInstrument i.number s
    let s := noticeSet nInstrumentFiled s
    let s := updCounts (fun c => { c with committed := countUp c.committed 1 }) s
    s.updRun fun r => { r with current := none }

/-- The answer to the VERIFY of a pass (R108-R110). -/
def verifyPassAnswer (d : DriveId) (kind : PassKind) (ended pass : Bool) (s : State) : State :=
  let s := unitEnd d s
  if ended then s
  else
    match s.run.current with
    | none => s
    | some i =>
      if pass then
        match kind with
        | .trailer => trailerVerified i s
        | .page => match s.run.headPage with | some p => pageVerified i p s | none => s
      else
        match s.openSide with
        | some (n, x) => attemptFailed kind n x s
        | none => s

/-- The answer to a BLANK_CHECK of the probe (R102). An ended probe's answer is discarded. -/
def probeAnswer (d : DriveId) (n : Nat) (x : Side) (ended : Bool) (r : BlankResult) (s : State) : State :=
  let s := unitEnd d s
  if ended then s
  else
    match r with
    | .blank =>
      engage ((s.updRun fun r => { r with probing := none }).updLibrary fun l => { l with probeDue := false })
    | .written =>
      let found := s.run.probing.getD 0 + 1
      let s := advanceFrontier n x (countDead n x 1 s)
      if found ≥ Config.probeMax ∨ s.frontier ≥ Config.sectorsPerSide then
        engage (makeFull n x (s.updRun fun r => { r with probing := none }))
      else s.updRun fun r => { r with probing := some found }

/-- A volume label has failed: the side FULL with its number taken, and the blank choice made again (R101). -/
def labelFailedAgain (n : Nat) (x : Side) (s : State) : State := rechoose n (labelFailed n x s)

/-- A volume label's command was cut short by the drive (R101): the label failed; the run failure comes with the fault. -/
def labelCut (n : Nat) (x : Side) (s : State) : State :=
  (labelFailed n x s).updRun fun r => { r with chosen := none, label := none }

/-- The answer to the WRITE of a volume label (R101, R113): none for TIMEOUT and HARDWARE_FAULT. -/
def labelWriteAnswer (d : DriveId) (n : Nat) (x : Side) (ended : Bool) (r : Option WriteResult) (s : State) : State :=
  let s := unitEnd d s
  if ended then labelFailed n x s
  else
    match r with
    | some .done => s.updRun fun r => { r with label := r.label.map fun j => { j with written := true } }
    | some .alreadyWritten => labelFailedAgain n x s
    | none => labelCut n x s

/-- The volume label is verified (R101): the side OPEN, the pin set, and engagement completed, in one step. -/
def labelVerified (d : DriveId) (n : Nat) (x : Side) (s : State) : State :=
  let s := (labelWritten n x s).updRun fun r => { r with chosen := none, label := none }
  let s := s.updLibrary fun l => { l with probeDue := false }
  pinAndEngage d s

/-- The answer to the VERIFY of a volume label (R101, R113). `cut`: it ended in TIMEOUT or HARDWARE_FAULT. -/
def labelVerifyAnswer (d : DriveId) (n : Nat) (x : Side) (ended pass cut : Bool) (s : State) : State :=
  let s := unitEnd d s
  if ended then labelFailed n x s
  else if cut then labelCut n x s
  else if pass then labelVerified d n x s
  else labelFailedAgain n x s

/-! ### The Filing Writer's acts between units (R96, R106, R110, R111, R117-R119) -/

/-- A filing unit of the run is in progress on the engaged drive. One that an earlier run has left to end there (R70) is
none of it. -/
def filingBusy (s : State) : Bool :=
  match s.run.engaged with
  | none => false
  | some d => match (s.drive d).unit with | some u => u.work.isFiling && !u.ended | none => false

/-- The head separator `n` with no current instrument: steps 2 to 6 of R117, and R118. DESIGN CHOICE
(notes/assumptions/70.md): a rollover that a separator needs in CLOSING takes the run to OPENING with the close requested,
so that it is CLOSING again once the new volume is engaged. -/
def atSeparator (n : Nat) (s : State) : State :=
  let s := s.updRun fun r => { r with discard := false }
  if (s.entry? n).isSome then separatorLost (noticeSet nSeparatorDuplicate s)
  else if !catalogueRoom s then separatorLost s
  else if rolloverNeeded s then
    match blankChoice s (s.openSide.map (·.1)) with
    | none => separatorLost s
    | some p => startRollover p (s.updRun fun r => { r with pendingSep := some n, closeRequested := r.state = .closing })
  else createSeparated n s

/-- The head content page of a SEPARATOR run that is not written: discarded, or an orphan (R119). -/
def skipPage (s : State) : State :=
  if s.run.discard then countDiscarded 1 (popRing s)
  else updCounts (fun c => { c with orphans := countUp c.orphans 1 }) (popRing s)

/-- The Filing Writer's next act that needs no drive, if any. -/
def filingAct (s : State) : Option State :=
  let r := s.run
  match r.chosen with
  | some p =>
    if r.state = .opening ∧ r.label.all (fun j => !j.issued) ∧ !s.pool.contains p then some (rechoose p.1 s) else none
  | none =>
    if !r.writing || r.probing.isSome || filingBusy s then none
    else if r.state = .waitingPage ∧ r.headPage.isSome then
      some (s.updRun fun r => { r with state := .running, stall := none })
    else if r.state = .running ∧ r.headPage.isNone then some (enterWaiting s)
    else
      match r.current with
      | some i =>
        if r.trailerDue then (trailerStop s i).map fun c => endInstrument c .trailer s
        else
          match r.headPage with
          | none => none
          | some p =>
            if r.source = .separator ∧ r.discard then some (skipPage s)
            else (pageStop s i p).map fun c => endInstrument c .page s
      | none =>
        if r.state = .closing ∧ r.ring.isEmpty then some (completeClose .done s)
        else
          match r.headSeparator with
          | some n => some (atSeparator n s)
          | none => if r.source = .separator ∧ r.headPage.isSome then some (skipPage s) else none

end Sys2Proof.Machine
end

