-- ==== Sys2Proof/Machine/Inspect.lean ====
section
/-! DEFINITION. Inspections (R28-R32, R38): label reads and label writes as units on the drive that holds the cartridge,
their outcomes, and the Library Map's own acts between units: phases that wait for a drive, and the arm orders it asks
for (R30-R34). -/

namespace Sys2Proof.Machine

open Sys2Proof

/-! ### Units (R29, R30) -/

/-- The number and side of the cartridge label an inspection writes (R30). -/
def labelToWrite (i : Inspection) : List Byte :=
  cartridgeLabel (i.taken.getD 0) (if i.phase = .labelSecond then .b else .a)

/-- An inspection's unit starts on drive `d`: the reading of its label, or the writing and verifying of one (R29, R30). -/
def startLibraryUnit (d : DriveId) (i : Inspection) (s : State) : State :=
  if i.phase = .reading then issue d (.read 0 1) .libraryMap (startUnit d (.labelRead i.id 0) s)
  else issue d (.write 0 (labelToWrite i)) .libraryMap (startUnit d (.labelWrite i.id (labelToWrite i)) s)

/-- A move of an inspection's cartridge is to be asked for (R30, R31). -/
def wantMove (id : Nat) (phase : InspPhase) (s : State) : State :=
  s.updInsp id fun i => { i with phase := phase, orderDue := true, awaitReady := false }

/-- Drive `d` holds cartridge `n` with side `x` up, now that it is known. -/
def nameInDrive (d : DriveId) (n : Nat) (x : Side) (s : State) : State :=
  s.updDrive d fun r => { r with cart := some (.number n), sideUp := some x }

/-- A returning cartridge is accepted (R29): location DRIVE with the letter read as side up, the mark cleared, the reserved
slot its home unless the record keeps one, and SHELVING. DESIGN CHOICE (notes/assumptions/72.md): an entry that the
cartridge still has on the export list stays there. -/
def acceptReturning (d : DriveId) (i : Inspection) (n : Nat) (x : Side) (keepHome : Bool) (s : State) : State :=
  let s := nameInDrive d n x s
  let s := withPool (fun s =>
    (wantMove i.id .shelving s).updCart n fun c =>
      { c with
        location := .drive d, sideUp := some x, exportPending := false, home := if keepHome then c.home else i.reserved }) s
  if keepHome then (releaseSlot i.id s).wantPass else s.updInsp i.id fun i => { i with reserved := none }

/-- A new cartridge (R30): rejected for want of room or of numbers, or given the next number and labelled. -/
def acceptBlank (d : DriveId) (id : Nat) (s : State) : State :=
  if s.library.table.length ≥ Config.tableMax then rejectInspection id .tableFull false s
  else if s.library.nextCart ≥ Config.numberMax then rejectInspection id .numbersExhausted false s
  else
    let n := s.library.nextCart
    let s := s.updLibrary fun l => { l with nextCart := n + 1 }
    let s := s.updInsp id fun i => { i with taken := some n, phase := .labelFirst }
    s.updDrive d fun r => { r with sideUp := some .a }

/-- The side letter read in a START_UP inspection is the side up of drive `d`, whatever follows (R38, R208). -/
def sideRead (d : DriveId) (i : Inspection) (x : Side) (s : State) : State :=
  if i.origin = .startUp then s.updDrive d fun r => { r with sideUp := some x } else s

/-- The outcome of a label read, by the table of R29. -/
def classified (d : DriveId) (id : Nat) (res : LabelResult) (s : State) : State :=
  let s := s.updInsp id fun i => { i with label := some res }
  match s.insp? id with
  | none => s
  | some i =>
    match res with
    | .blank => acceptBlank d id s
    | .badLabel => rejectInspection id .foreign false s
    | .unreadable => rejectInspection id .unreadableLabel false s
    | .label n x =>
      let s := sideRead d i x s
      match s.cart? n with
      | none => rejectInspection id .foreign false s
      | some c =>
        if c.location = .exported then acceptReturning d i n x false s
        else if c.location = .missing then acceptReturning d i n x true s
        else rejectInspection id .present false s

/-- The answer to a READ of sector 0 (R22, R29). A read cut short by a fault is not classified (R29). -/
def labelReadAnswer (d : DriveId) (id tries : Nat) (r : SectorRead) (cut : Bool) (s : State) : State :=
  if cut then unitEnd d s
  else
    match r with
    | .data bytes => classified d id (classifyLabel bytes) (unitEnd d s)
    | .unwritten => classified d id .blank (unitEnd d s)
    | .unreadable =>
      if tries + 1 ≥ 3 then classified d id .unreadable (unitEnd d s)
      else issue d (.read 0 1) .libraryMap (continueUnit d (.labelRead id (tries + 1)) s)

/-- The answer to the WRITE of a cartridge label (R30): none for TIMEOUT and HARDWARE_FAULT, after which R32 applies. -/
def cartLabelWriteAnswer (d : DriveId) (id : Nat) (bytes : List Byte) (r : Option WriteResult) (s : State) : State :=
  match r with
  | some .done => issue d (.verify 0 1 bytes) .libraryMap (continueUnit d (.labelVerify id) s)
  | some .alreadyWritten => rejectInspection id .labelWriteFailed false (unitEnd d s)
  | none => unitEnd d s

/-- Both labels are verified (R30): the record is created, and the cartridge is to be shelved. DESIGN CHOICE
(notes/assumptions/51.md): R30 checks the table when the number is taken, and it is not checked again here, so two
inspections that both pass at 511 records both create one. -/
def recordCreated (d : DriveId) (i : Inspection) (s : State) : State :=
  match i.taken with
  | none => s
  | some n =>
    let s := nameInDrive d n .b s
    withPool (fun s =>
      let s := (wantMove i.id .shelving s).updInsp i.id fun i => { i with reserved := none }
      s.updLibrary fun l =>
        { l with table := insertCart ⟨n, i.reserved, .drive d, some .b, .unused, .unused, false⟩ l.table }) s

/-- The answer to the VERIFY of a cartridge label (R30). -/
def cartLabelVerifyAnswer (d : DriveId) (id : Nat) (pass cut : Bool) (s : State) : State :=
  let s := unitEnd d s
  if cut then s
  else
    match s.insp? id with
    | none => s
    | some i =>
      if !pass then rejectInspection id .labelWriteFailed false s
      else if i.phase = .labelFirst then wantMove id .flipping s
      else recordCreated d i s

/-! ### Drive faults and drive resets (R32, R76) -/

/-- An inspection hears that its drive has faulted (R32). -/
def inspectionFaulted (i : Inspection) (s : State) : State :=
  if i.phase = .labelFirst ∨ i.phase = .labelSecond then rejectInspection i.id .labelWriteFailed true s else s

/-- The Library Map finds an unidentified cartridge in drive `d` (R37, R38, R76): an inspection of origin START_UP. DEDUCED
(notes/assumptions/57.md): its side up, which R59 has A or B while a cartridge is present, is absent until a label read
gives it (R38). Several inspections made at one start-up are made in the order of notes/assumptions/63.md. -/
def inspectDrive (d : DriveId) (s : State) : State :=
  let id := s.library.inspectionSeq
  let s := addInspection .startUp (.drive d) .waitingSlot s
  slotCheck id (s.updDrive d fun r => { r with cart := some (.inspection id), sideUp := none })

/-- The cartridge the map records in drive `d` (R24). -/
def State.cartIn (s : State) (d : DriveId) : Option Cartridge :=
  s.library.table.find? fun c => c.location = .drive d

/-- The presence report of a reset drive is handed to the Library Map (R76, R32). DESIGN CHOICE
(notes/assumptions/62.md): an arm order still WAITING for an inspection that ends here stays in the list. DESIGN CHOICE
(notes/assumptions/84.md): a drive found empty during SHELVING first ends the inspection and then has the cartridge MISSING,
and R26 is judged after each of the two. -/
def presenceReported (d : DriveId) (present : Bool) (s : State) : State :=
  if present then
    if (s.cartIn d).isSome || (s.heldBy d).isSome then s else inspectDrive d s
  else
    let s := match s.heldBy d with | some i => abandonInspection i.id s | none => s
    match s.cartIn d with
    | some c => markMissing c.number s
    | none => s

/-! ### The Library Map's acts between units -/

/-- A drive that has reached READY and not left it for a move. -/
def driveUp (x : Drive) : Bool := x.state == .ready || x.state == .standby || x.state == .active

/-- The move an inspection's phase calls for (R30, R31, R37). -/
def inspectionOrder (s : State) (i : Inspection) : Option MoveOrder :=
  let cart : CartRef :=
    match i.phase, i.cartNumber with
    | .shelving, some n => .number n
    | _, _ => .inspection i.id
  let source : ArmPlace := match i.place with | .drive d => .drive d | .arm => .arm | .loadingSlot => .loadingSlot
  let order (kind : MoveKind) (dest : ArmPlace) (originator : Originator) : MoveOrder :=
    ⟨0, kind, cart, source, dest, none, .lib, none, originator, .waiting⟩
  match i.phase with
  | .flipping => some (order .flip source .importJob)
  | .shelving => (s.homeOf cart).map fun n => order .inspectShelve (.shelf n) .importJob
  | .rejecting => some (order .returnMove .loadingSlot .importJob)
  | .returning => some (order .returnMove .loadingSlot .startUp)
  | _ => none

/-- The drive of an inspection whose order waits for READY has reached it (R32). -/
def awaited (s : State) (i : Inspection) : Bool :=
  !i.awaitReady ||
    match i.place with
    | .drive d => driveUp (s.drive d)
    | _ => true

/-- An inspection's order is asked for; LIST_FULL keeps the request, HALTED drops it (R41, R56, R92). -/
def askInspectionOrder (i : Inspection) (o : MoveOrder) (s : State) : State :=
  match askOrder o s with
  | .ok (n, s) => s.updInsp i.id fun i => { i with order := some n, orderDue := false, awaitReady := false }
  | .error .listFull => s
  | .error _ => s.updInsp i.id fun i => { i with orderDue := false }

/-- What an inspection does now, if anything (R28, R30-R32, R38). -/
def inspectionAct (s : State) (i : Inspection) : Option State :=
  match i.place with
  | .drive d =>
    if i.phase = .loading ∧ driveUp (s.drive d) then some (s.updInsp i.id fun i => { i with phase := .reading })
    else if i.phase = .flipping ∧ !i.orderDue ∧ i.order.isNone ∧ (s.drive d).sideUp = some .b ∧ driveUp (s.drive d) then
      some (s.updInsp i.id fun i => { i with phase := .labelSecond })
    else if i.orderDue ∧ 0 < s.listRoom ∧ awaited s i then
      (inspectionOrder s i).map fun o => askInspectionOrder i o s
    else none
  | .arm =>
    if i.orderDue ∧ 0 < s.listRoom then (inspectionOrder s i).map fun o => askInspectionOrder i o s else none
  | .loadingSlot => none

/-- An order of the list concerns cartridge `n`. -/
def State.orderedFor (s : State) (n : Nat) : Bool := s.arm.orders.any fun o => o.cart = .number n

/-- The EXPORT move of an entry of the export list (R34), while no other order concerns the cartridge
(notes/assumptions/13.md). -/
def exportOrder (s : State) (e : ExportEntry) : Option MoveOrder :=
  if e.order.isSome ∨ s.orderedFor e.cart then none
  else
    let order (source : ArmPlace) : MoveOrder :=
      ⟨0, .exportMove, .number e.cart, source, .loadingSlot, none, .lib, none, .exportJob, .waiting⟩
    match s.cart? e.cart with
    | none => none
    | some c =>
      match c.location with
      | .shelf => c.home.map fun n => order (.shelf n)
      | .drive d => some (order (.drive d))
      | _ => none

/-- An EXPORT move is asked for, if an export is without one and the list has room (R34, R41). -/
def exportAct (s : State) : Option State :=
  if s.listRoom = 0 ∨ s.arm.level = .halted then none
  else
    s.library.exports.findSome? fun e =>
      (exportOrder s e).bind fun o =>
        match askOrder o s with
        | .ok (n, s) =>
          some (s.updLibrary fun l =>
            { l with exports := l.exports.map fun x => if x.cart = e.cart then { x with order := some n } else x })
        | .error _ => none

/-- The Library Map's next act, if any. -/
def libraryAct (s : State) : Option State :=
  (s.library.inspections.findSome? (inspectionAct s)).or (exportAct s)

end Sys2Proof.Machine
end

