-- ==== Sys2Proof/Machine/Selection.lean ====
section
/-! DEFINITION. The Drive Units between commands (sections 4.4 and 4.5): waking, selection, the idle and hold timers, and the
request for a G-HOLD DEMOUNT. -/

namespace Sys2Proof.Machine

open Sys2Proof

/-! ### Selection (R68, R69) -/

/-- The unit a selection on drive `d` starts, if it finds a candidate (R68, R69). -/
def selectUnit (d : DriveId) (s : State) : Option State :=
  match libraryStep s d with
  | some i => some (startLibraryUnit d i s)
  | none =>
    match fetchCandidate s d, filingStep s d with
    | none, none => none
    | some id, none => some (startFetchUnit d id s)
    | none, some step => some (startFilingUnit d step s)
    | some id, some step =>
      if (s.drive d).pin ∧ (s.drive d).share = .fetch then some (startFetchUnit d id s)
      else some (startFilingUnit d step s)

/-! ### Standby and waking (R71) -/

/-- The drive goes to STANDBY: SPIN_DOWN issued, the hold timer started (R71, R72). -/
def goStandby (d : DriveId) (s : State) : State :=
  issue d .spinDown .driveUnit
    (s.updDrive d fun x => { x with state := .standby, idle := none, hold := s.holdStart })

/-- Work has arrived in STANDBY (R71, R72): a pending hold order still WAITING is withdrawn, and the drive wakes. -/
def wake (d : DriveId) (s : State) : State :=
  let s := match (s.drive d).pendingHold with | some n => tryWithdraw n s | none => s
  spinUp d (s.updDrive d fun x => { x with state := .waking, hold := none, idle := none, holdKept := false })

/-- The hold timer starts again from now (R72). -/
def restartHold (d : DriveId) (s : State) : State :=
  s.updDrive d fun x => { x with hold := s.holdStart, holdKept := false }

/-- The conditions of R72 for a G-HOLD DEMOUNT, giving the cartridge's number and home slot. -/
def holdConditions (d : DriveId) (s : State) : Option (Nat × Nat) :=
  let x := s.drive d
  match x.cart with
  | some (.number n) =>
    match s.cart? n with
    | some c =>
      if !x.pin && !s.planner.waiters.any (fun w => w.cart = n) && (s.heldBy d).isNone
          && !s.arm.orders.any (fun o => o.source = .drive d) && !c.exportPending then
        c.home.map fun h => (n, h)
      else none
    | none => none
  | _ => none

/-- The Drive Unit asks for the G-HOLD DEMOUNT of an expired hold limit (R72). -/
def askHold (d : DriveId) (s : State) : State :=
  match holdConditions d s with
  | none => restartHold d s
  | some (n, h) =>
    match askOrder ⟨0, .demount, .number n, .drive d, .shelf h, none, .hold, none, .holdExpiry, .waiting⟩ s with
    | .ok (k, s) => s.updDrive d fun x => { x with pendingHold := some k, hold := none, holdKept := false }
    | .error .listFull => s.updDrive d fun x => { x with hold := none, holdKept := true }
    | .error _ => restartHold d s

/-- A drive whose idle timer runs has run it for the idle-to-standby delay (R71). -/
def idleDue (s : State) (x : Drive) : Bool :=
  match x.idle with
  | some t => x.state == .ready && s.timers.idleDelay ≤ s.elapsed t
  | none => false

/-- A drive whose hold timer runs has run it for the hold limit (R72). -/
def holdDue (s : State) (x : Drive) : Bool :=
  match x.hold with
  | some t => x.state == .standby && s.timers.holdLimit != 0 && s.timers.holdLimit ≤ s.elapsed t
  | none => false

/-! ### What a Drive Unit does now (R68, R71, R72) -/

/-- The next act of drive `d`'s unit, if any. -/
def driveAct (s : State) (d : DriveId) : Option State :=
  let x := s.drive d
  match x.state with
  | .ready =>
    if x.unit.isSome || x.command.isSome then none
    else
      match selectUnit d s with
      | some s => some s
      | none =>
        if hasWork s d then
          if x.idle.isSome then some (s.updDrive d fun x => { x with idle := none }) else none
        else if s.timers.idleDelay = 0 then some (goStandby d s)
        else if x.idle.isNone then some (s.updDrive d fun x => { x with idle := some s.seconds })
        else none
  | .standby =>
    if hasWork s d then some (wake d s)
    else if x.holdKept ∧ 0 < s.listRoom then some (askHold d s)
    else none
  | _ => none

end Sys2Proof.Machine
end

