-- ==== Sys2Proof/Machine/DriveFaults.lean ====
section
/-! DEFINITION. The completions of drive commands handed to their owners (R64, R66), and the fault of a drive (R74). -/

namespace Sys2Proof.Machine

open Sys2Proof

def clearCommand (d : DriveId) (s : State) : State := s.updDrive d fun x => { x with command := none }

/-- A READ's sectors handed to the unit's owner (R64, R131, R133). `cut`: TIMEOUT or HARDWARE_FAULT (R66). A unit whose
order has been ended discards them, and its reading buffer is released (R70, R135). -/
def readAnswer (d : DriveId) (rs : List SectorRead) (cut : Bool) (s : State) : State :=
  let first := rs.headD .unreadable
  match (s.drive d).unit with
  | some ⟨.trailerRead id sector tries, ended⟩ =>
    if ended then unitEnd d s else trailerAnswer d id sector tries first cut s
  | some ⟨.pageRead id b ps i n, ended⟩ =>
    if ended then unitEnd d (s.releaseBuffer b) else pageAnswer d id b ps i n rs cut s
  | some ⟨.labelRead id tries, _⟩ => labelReadAnswer d id tries first cut s
  | _ => s

/-- A WRITE's completion handed to its owner; none for TIMEOUT and HARDWARE_FAULT (R64, R66). -/
def writeAnswer (d : DriveId) (r : Option WriteResult) (s : State) : State :=
  match (s.drive d).unit with
  | some ⟨.writePass kind n x left, ended⟩ => writePassAnswer d kind n x left ended r s
  | some ⟨.volumeLabelWrite n x _, ended⟩ => labelWriteAnswer d n x ended r s
  | some ⟨.labelWrite id bytes, _⟩ => cartLabelWriteAnswer d id bytes r s
  | _ => s

/-- A VERIFY's completion handed to its owner: whether every sector is PASS (R64, R66). -/
def verifyAnswer (d : DriveId) (pass cut : Bool) (s : State) : State :=
  match (s.drive d).unit with
  | some ⟨.verifyPass kind, ended⟩ => verifyPassAnswer d kind ended pass s
  | some ⟨.volumeLabelVerify n x _, ended⟩ => labelVerifyAnswer d n x ended pass cut s
  | some ⟨.labelVerify id, _⟩ => cartLabelVerifyAnswer d id pass cut s
  | _ => s

/-- A BLANK_CHECK's completion handed to the Filing Writer (R64, R66). -/
def blankAnswer (d : DriveId) (r : BlankResult) (s : State) : State :=
  match (s.drive d).unit with
  | some ⟨.probe n x, ended⟩ => probeAnswer d n x ended r s
  | _ => s

/-- Step 1 of R74: the command in flight, if any, ends and is handed on (R66). A SPIN_UP so completed starts a pass
(R86). -/
def cutCommand (d : DriveId) (s : State) : State :=
  match (s.drive d).command with
  | none => s
  | some c =>
    let s := clearCommand d s
    match c.cmd with
    | .read _ n => readAnswer d (List.replicate n .unreadable) true s
    | .write .. => writeAnswer d none s
    | .verify .. => verifyAnswer d false true s
    | .blankCheck _ => blankAnswer d .written s
    | .spinUp => s.wantPass
    | _ => s

/-- A reset command that ends in a fault is answered RESET_FAILED with the code (R76). -/
def resetRefused (d : DriveId) (code : DriveFaultCode) (s : State) : State :=
  match (s.drive d).resetBy with
  | none => s
  | some who =>
    replyLong who.station ⟨who.tag, 0x41, .resetFailed, .faultCode code⟩ (s.updDrive d fun x => { x with resetBy := none })

/-- Step 2 of R74: FAULTED with the code, both timers stopped, a kept unload request dropped, and the pending hold order
withdrawn if WAITING. -/
def becomeFaulted (d : DriveId) (code : DriveFaultCode) (s : State) : State :=
  let s := s.updDrive d fun x =>
    { x with
      state := .faulted, fault := some code, idle := none, hold := none, unloadKept := false, vacate := false
      holdKept := false, unit := none, command := none }
  match (s.drive d).pendingHold with
  | some n => tryWithdraw n s
  | none => s

/-- An ABANDON has vacated the drive while LOADING, WAKING or ACTIVE, and its command has not ended yet (R62). -/
def Drive.vacated (x : Drive) : Bool :=
  x.vacate && x.command.isSome && (x.state == .loading || x.state == .waking || x.state == .active)

/-- The end of a command of a drive that an ABANDON has vacated (R62): EMPTY as at a PICK completion, with no fault code,
in place of FAULTED. -/
def vacatedEmpty (d : DriveId) (s : State) : State := becomeEmpty d (s.updDrive d fun x => { x with fault := none })

/-- The drive enters FAULTED (R74): the six steps in order. A drive already FAULTED keeps its code. A filing unit counts
until its command completes, one left to end included (R70). A drive that an ABANDON has vacated becomes EMPTY in place of
FAULTED when its command ends (R62). DEDUCED (notes/assumptions/58.md): the other steps of R74 are taken there too. -/
def driveFault (d : DriveId) (code : DriveFaultCode) (s : State) : State :=
  if (s.drive d).state = .faulted then s
  else
    let filing : Bool :=
      (s.drive d).pin ||
        match (s.drive d).unit with
        | some u => u.work.isFiling
        | none => false
    let vacated := (s.drive d).vacated
    let s := s.updDrive d fun x => { x with unloadKept := false, vacate := false }
    let s := resetRefused d code (becomeFaulted d code (cutCommand d s))
    let s := if vacated then vacatedEmpty d s else s
    let s := completeAll (s.drive d).queue .driveFault s
    let s := if filing then runFailure .filingDriveFault s else s
    let s := match s.heldBy d with | some i => inspectionFaulted i s | none => s
    noticeSet (nDriveFault d) s

end Sys2Proof.Machine
end

