-- ==== Sys2Proof/Machine/Planner.lean ====
section
/-! DEFINITION. The Mount Planner (chapter 5): the choice of drives, the planning of the filing request, of waiters and of the
inspection request, and the planning pass. -/

namespace Sys2Proof.Machine

open Sys2Proof

/-! ### Drives spoken for, empty drives, victims and claims (R79, R82, R83, R91) -/

def State.planFor (s : State) (d : DriveId) : Option Plan := s.planner.plans.find? fun p => p.drive = d

/-- A plan names the drive (R79). -/
def State.planned (s : State) (d : DriveId) : Bool := (s.planFor d).isSome

/-- The drive is spoken for (R79). -/
def State.spokenFor (s : State) (d : DriveId) : Bool :=
  s.planned d || s.arm.orders.any (·.usesDrive d) || (s.heldBy d).isSome

/-- The highest-numbered fitted drive (R82). -/
def State.highestFitted (s : State) : Option DriveId := [3, 2, 1, 0].find? fun d => (s.drive d).fitted

/-- The lowest-numbered empty drive (R82); `reserve`: the filing reserve applies to this search while the run is CLOSED. -/
def State.emptyDrive (s : State) (reserve : Bool) : Option DriveId :=
  allDrives.find? fun d =>
    (s.drive d).fitted && (s.drive d).state == .empty && !s.spokenFor d
      && !(reserve && s.planner.reserve && s.run.state == .closed && s.highestFitted == some d)

/-- Of two drives, the one less recently active; the first on a tie (R77, R83). -/
def State.lessActive (s : State) (d e : DriveId) : DriveId :=
  if (s.drive e).lastActive < (s.drive d).lastActive then e else d

/-- The least recently active of a list of drives in ascending order. -/
def State.leastActive (s : State) : List DriveId → Option DriveId
  | [] => none
  | d :: ds => some (ds.foldl s.lessActive d)

/-- Some waiter wants a volume of the drive's cartridge (R83). -/
def State.wanted (s : State) (d : DriveId) : Bool :=
  match (s.drive d).cart with
  | some (.number n) => s.planner.waiters.any fun w => w.cart = n
  | _ => false

/-- The drive has been reported for the chosen blank and the label's units are offered to it (R101): it counts as ACTIVE,
before any other use can claim it. -/
def State.labelling (s : State) (d : DriveId) : Bool := s.run.label.any fun j => j.drive = d

/-- The drive qualifies as a victim (R83); one that the volume label is offered to is no longer READY or STANDBY (R101). -/
def victimOk (s : State) (d : DriveId) : Bool :=
  let x := s.drive d
  x.fitted && (x.state == .ready || x.state == .standby) && !s.labelling d && x.queueIdle && !x.pin && !s.spokenFor d
    && !s.wanted d

def State.victim (s : State) : Option DriveId := s.leastActive (allDrives.filter (victimOk s))

/-- The drive qualifies for a filing claim (R91). -/
def claimOk (s : State) (d : DriveId) : Bool :=
  let x := s.drive d
  x.fitted && !x.pin && !s.spokenFor d
    && (x.state == .loading || x.state == .ready || x.state == .active || x.state == .standby || x.state == .waking)

def State.claimable (s : State) : Option DriveId := s.leastActive (allDrives.filter (claimOk s))

/-! ### Asking for a plan's orders (R84) -/

/-- What a plan is for: its purpose, its orders' group and originator, the cartridge and side to come up, the volume. -/
structure Want where
  purpose : Purpose
  group : Group
  originator : Originator
  cart : CartRef
  side : Side
  volume : Option Nat
  deriving DecidableEq, Repr

/-- The order that brings the wanted cartridge into drive `d`: a MOUNT from its home slot, or the INSPECT_LOAD of an
inspection's cartridge (R82, R92). -/
def bringOrder (s : State) (w : Want) (d : DriveId) (after : Option Nat) : Option MoveOrder :=
  match w.cart with
  | .number _ =>
    (s.homeOf w.cart).map fun n =>
      ⟨0, .mount, w.cart, .shelf n, .drive d, some w.side, w.group, after, w.originator, .waiting⟩
  | .inspection _ =>
    some ⟨0, .inspectLoad, w.cart, .loadingSlot, .drive d, some .a, w.group, after, w.originator, .waiting⟩

/-- A plan joins the table, in place of any plan for its drive (a claim that is carried on). -/
def putPlan (p : Plan) (s : State) : State :=
  s.updPlanner fun q => { q with plans := (q.plans.filter fun x => x.drive ≠ p.drive) ++ [p] }

/-- A plan of kind MOUNT for drive `d` (R82); none when its order does not join the list (R84). -/
def planMount (w : Want) (d : DriveId) (s : State) : Option State :=
  (bringOrder s w d none).bind fun o =>
    match askOrder o s with
    | .error _ => none
    | .ok (n, s) => some (putPlan ⟨d, w.purpose, .mount, w.cart, w.side, w.volume, none, some n, false⟩ s)

/-- A plan of kind VICTIM for drive `d` (R83): the DEMOUNT, then the mount with it as after; none, and any order given
withdrawn, when one does not join the list (R84). -/
def planVictim (w : Want) (d : DriveId) (s : State) : Option State :=
  if s.listRoom < 2 then none
  else
    match (s.drive d).cart with
    | none => none
    | some c =>
      match s.homeOf c with
      | none => none
      | some h =>
        match askOrder ⟨0, .demount, c, .drive d, .shelf h, none, w.group, none, w.originator, .waiting⟩ s with
        | .error _ => none
        | .ok (m, s') =>
          match (bringOrder s' w d (some m)).map fun o => askOrder o s' with
          | some (.ok (n, s')) =>
            some (putPlan ⟨d, w.purpose, .victim, w.cart, w.side, w.volume, some m, some n, false⟩ s')
          | _ => some (tryWithdraw m s')

/-- A plan of kind FLIP for drive `d` (R81, R91). -/
def planFlip (w : Want) (d : DriveId) (s : State) : Option State :=
  match askOrder ⟨0, .flip, w.cart, .drive d, .drive d, none, w.group, none, w.originator, .waiting⟩ s with
  | .error _ => none
  | .ok (n, s) => some (putPlan ⟨d, w.purpose, .flip, w.cart, w.side, w.volume, none, some n, false⟩ s)

/-- A drive found for a cartridge that is not in one: an empty drive, or a victim (R82, R83, R92). -/
def planBring (w : Want) (reserve : Bool) (s : State) : Option State :=
  match s.emptyDrive reserve with
  | some d => planMount w d s
  | none => s.victim.bind fun d => planVictim w d s

/-! ### Orders withdrawn by the Planner -/

/-- The orders still WAITING with drive `d` as source. -/
def waitingFrom (s : State) (d : DriveId) : List Nat :=
  (s.arm.orders.filter fun o => o.source = .drive d && o.status = .waiting).map (·.number)

/-- A RUNNING or SUSPENDED order has drive `d` as source (R67, R80). -/
def inMotionFrom (s : State) (d : DriveId) : Bool :=
  s.arm.orders.any fun o => o.source = .drive d && o.status != .waiting

def withdrawAll (ns : List Nat) (s : State) : State := ns.foldl (fun s n => tryWithdraw n s) s

/-! ### The filing request (R90, R91) -/

def filingWant (n : Nat) (x : Side) : Want := ⟨.filing, .filing, .filingRun, .number n, x, none⟩

def State.filingPlan (s : State) : Option Plan := s.planner.plans.find? fun p => p.purpose = .filing

def dropFilingPlan (s : State) : State :=
  s.updPlanner fun q => { q with plans := q.plans.filter fun p => p.purpose ≠ .filing }

/-- The side is up in `d`: the request is met and leaves the Planner, and the Filing Writer is told (R90). -/
def reportFiling (d : DriveId) (s : State) : State :=
  sideReported d ((dropFilingPlan s).updPlanner fun q => { q with filingReq := none })

/-- A drive in which the Planner reports a side up (R90): READY, ACTIVE or STANDBY, and held by no inspection, since an
inspection holds its drive with no pin (R68). -/
def reportable (s : State) (d : DriveId) : Bool := driveUp (s.drive d) && (s.heldBy d).isNone

/-- The orders of a claim of drive `d` can be given (R91): its queue is empty, its pin clear, and no inspection holds it
(R79). -/
def claimDrained (s : State) (d : DriveId) : Bool :=
  let r := s.drive d
  r.queueIdle && !r.pin && r.state != .faulted && r.state != .resetting && (s.heldBy d).isNone

/-- A claim of drive `d` is examined (R91): its FLIP, or its DEMOUNT and MOUNT, are ordered once the queue is empty and the
pin clear, and no inspection holds the drive (R79). A drive reset that finds the claimed cartridge gone leaves the claim as
it is (R94). A FAULTED or RESETTING drive's claim waits (notes/assumptions/14.md). DESIGN CHOICE: a claimed drive that has
become EMPTY gets the MOUNT alone, and the kind becomes MOUNT (notes/assumptions/67.md); the claim is kept while the
cartridge is MISSING, however it was lost, and given up once it is on the arm, in the loading slot, EXPORTED or in another
drive (notes/assumptions/85.md). -/
def examineClaim (n : Nat) (x : Side) (d : DriveId) (s : State) : State :=
  match (s.cart? n).map Cartridge.location with
  | some (.drive e) =>
    if e = d then
      if s.upIn n x d then
        if reportable s d then reportFiling d s else s
      else if claimDrained s d then (planFlip (filingWant n x) d s).getD s
      else s
    else dropFilingPlan s
  | some .shelf =>
    if (s.drive d).state = .empty then (planMount (filingWant n x) d s).getD s
    else if claimDrained s d then (planVictim (filingWant n x) d s).getD s
    else s
  | some .missing => s
  | _ => dropFilingPlan s

/-- A claim: a FILING plan of kind CLAIM names the drive (R91), and the claim is examined. -/
def claim (n : Nat) (x : Side) (d : DriveId) (s : State) : State :=
  examineClaim n x d (putPlan ⟨d, .filing, .claim, .number n, x, none, none, none, false⟩ s)

/-- The filing request refused by the halted arm (R93, R121). -/
def refuseFiling (s : State) : State :=
  runFailure .libraryHalted (s.updPlanner fun q => { q with filingReq := none })

/-- The filing request for side `x` of cartridge `n` is planned, having no plan (R90, R91). A halted arm refuses it for
the chosen blank of a rollover wherever the blank is (R121), and for the OPEN side unless that side is up (R93, R97). -/
def planFilingNew (n : Nat) (x : Side) (s : State) : State :=
  match (s.cart? n).map Cartridge.location with
  | some (.drive d) =>
    if s.planned d then s
    else if s.upIn n x d then
      if s.arm.level = .halted ∧ s.run.chosen.isSome then refuseFiling s
      else
        let s := withdrawAll (waitingFrom s d) s
        if reportable s d then reportFiling d s else s
    else if s.arm.level = .halted then refuseFiling s
    else if (s.heldBy d).isSome || inMotionFrom s d then s
    else claim n x d (withdrawAll (waitingFrom s d) s)
  | some .shelf =>
    if s.arm.level = .halted then refuseFiling s
    else
      match s.emptyDrive false with
      | some d => (planMount (filingWant n x) d s).getD s
      | none =>
        match s.victim with
        | some d => (planVictim (filingWant n x) d s).getD s
        | none => match s.claimable with | some d => claim n x d s | none => s
  | _ => if s.arm.level = .halted then refuseFiling s else s

/-- Cartridge `n` is MISSING (R36). -/
def State.lost (s : State) (n : Nat) : Bool := (s.cart? n).any fun c => c.location = .missing

/-- The filing request at a pass (R86, R90, R91). A plan whose move is done stays, as a claim does, when a drive reset
finds its cartridge gone (R94, notes/assumptions/85.md); otherwise, with the side not up, the request is planned anew
(notes/assumptions/41.md). -/
def planFiling (s : State) : State :=
  match s.planner.filingReq with
  | none => s
  | some (n, x) =>
    match s.filingPlan with
    | none => planFilingNew n x s
    | some p =>
      if p.kind = .claim then examineClaim n x p.drive s
      else if !p.moved then s
      else if s.upIn n x p.drive then
        if reportable s p.drive then reportFiling p.drive s else s
      else if s.lost n then s
      else planFilingNew n x (dropFilingPlan s)

/-! ### Waiters (R80-R85) -/

def fetchWant (w : Waiter) : Want := ⟨.fetch, .fetch, .volumeWait, .number w.cart, w.side, some w.volume⟩

def updWaiter (id : FetchId) (f : Waiter → Waiter) (s : State) : State :=
  s.updPlanner fun q => { q with waiters := q.waiters.map fun w => if w.id = id then f w else w }

/-- The Drive Unit accepts an attachment (R67). -/
def attachOk (s : State) (w : Waiter) (d : DriveId) : Bool :=
  let x := s.drive d
  x.cart == some (.number w.cart) && x.sideUp == some w.side
    && (x.state == .loading || x.state == .ready || x.state == .active || x.state == .standby || x.state == .waking)
    && (s.heldBy d).isNone && !inMotionFrom s d

/-- The orders a Drive Unit withdraws at an attachment: a DEMOUNT or FLIP still WAITING from it (R67). -/
def attachWithdraws (s : State) (d : DriveId) : List Nat :=
  (s.arm.orders.filter fun o =>
    o.source = .drive d && o.status = .waiting && (o.kind = .demount || o.kind = .flip)).map (·.number)

/-- A waiter is offered to drive `d` for attachment (R67, R80). -/
def attach (w : Waiter) (d : DriveId) (s : State) : State :=
  if attachOk s w d then
    let s := s.updPlanner fun q => { q with waiters := q.waiters.filter fun x => x.id ≠ w.id }
    let s := s.updOrder w.id fun o => { o with place := .drive d }
    let s := s.updDrive d fun x => { x with queue := if x.queue.contains w.id then x.queue else x.queue ++ [w.id] }
    withdrawAll (attachWithdraws s d) s
  else s

/-- The FLIP of R81 for a waiter whose cartridge is in drive `d` with the other side up. A drive that the volume label is
offered to counts as ACTIVE (R101). -/
def planWaiterFlip (w : Waiter) (d : DriveId) (marked : Bool) (s : State) : State :=
  let x := s.drive d
  let hold := x.pendingHold.filter fun n => s.orderWaiting n
  let others := s.arm.orders.any fun o => o.usesDrive d && some o.number != hold
  if x.queueIdle && !x.pin && (x.state == .loading || x.state == .ready || x.state == .standby || x.state == .waking)
      && !s.labelling d && !s.planned d && !others && (s.heldBy d).isNone && !marked && (hold.isSome || 0 < s.listRoom) then
    let s := match hold with | some n => tryWithdraw n s | none => s
    match planFlip (fetchWant w) d s with
    | some s => updWaiter w.id (fun w => { w with plan := some d }) s
    | none => s
  else s

/-- The waiter rides on the FETCH plan made for it just now. -/
def rideNew (w : Waiter) (s : State) : State :=
  match s.planner.plans.find? fun p => p.purpose = .fetch && p.volume = some w.volume with
  | some p => updWaiter w.id (fun w => { w with plan := some p.drive }) s
  | none => s

/-- A waiter that rides on no plan is planned (R80-R85). DESIGN CHOICE (notes/assumptions/76.md): a pass in HALTED marks
waiters off line, with OFF_LINE_WANTED, and clears the mark, as any pass does. -/
def planWaiter (w : Waiter) (s : State) : State :=
  match s.cart? w.cart with
  | none => s
  | some c =>
    match c.location with
    | .loadingSlot | .exported | .missing =>
      if w.offLine then s else noticeSet nOffLineWanted (updWaiter w.id (fun w => { w with offLine := true }) s)
    | loc =>
      let s := updWaiter w.id (fun w => { w with offLine := false }) s
      if s.planner.plans.any fun p => p.purpose = .fetch && p.volume = some w.volume then rideNew w s
      else
        match loc with
        | .drive d =>
          if c.sideUp = some w.side then
            if s.planned d then s else attach w d s
          else if s.arm.level = .halted then s
          else planWaiterFlip w d c.exportPending s
        | .shelf =>
          if c.exportPending ∨ s.arm.level = .halted then s
          else
            match planBring (fetchWant w) true s with
            | some s => rideNew w s
            | none => s
        | _ => s

/-- The waiters of the list that ride on no plan, oldest first, each planned as the list then stands (R86). -/
def planWaiters (s : State) : State :=
  (s.planner.waiters.map (·.id)).foldl (fun s id =>
    match s.planner.waiters.find? fun w => w.id = id with
    | some w => if w.plan.isSome then s else planWaiter w s
    | none => s) s

/-! ### The inspection request (R92) -/

/-- The inspection request at a pass (R92). -/
def planInspection (s : State) : State :=
  match s.planner.inspReq with
  | none => s
  | some id =>
    if s.arm.level = .halted || s.planner.plans.any (fun p => p.purpose = .importJob) then s
    else
      match planBring ⟨.importJob, .lib, .importJob, .inspection id, .a, none⟩ true s with
      | none => s
      | some s =>
        match s.planner.plans.find? fun p => p.purpose = .importJob with
        | none => s
        | some p => s.updInsp id fun i => { i with phase := .carrying, order := p.move }

/-! ### The pass (R86) -/

/-- A planning pass, taken whole: the filing request, the waiters oldest first, the inspection request (R86). -/
def planPass (s : State) : State :=
  planInspection (planWaiters (planFiling (s.updPlanner fun q => { q with passesDue := q.passesDue - 1 })))

end Sys2Proof.Machine
end

