-- ==== Sys2Proof/Machine/ArmMoves.lean ====
section
/-! DEFINITION. The Arm Controller (chapter 3): readiness and the arbiter, the three phases of a move, the faults of a move
with their levels, the halt, and the bookkeeping of PICK and PLACE completions (R25, R27). -/

namespace Sys2Proof.Machine

open Sys2Proof

/-! ### Readiness and choice (R44, R45) -/

/-- The location of an order's cartridge is SHELF (R44). -/
def onShelf (s : State) (c : CartRef) : Bool :=
  match c with
  | .number n => (s.cart? n).any fun c => c.location = .shelf
  | .inspection _ => false

/-- The source holds the cartridge (R44). -/
def sourceReady (s : State) (o : MoveOrder) : Bool :=
  match o.source with
  | .shelf n => onShelf s o.cart || (o.kind == .returnMove && s.slotReads n)
  | .drive d =>
    let x := s.drive d
    cartAt s o.cart d && (x.state == .ready || x.state == .standby) && x.unit.isNone
  | .loadingSlot =>
    s.library.slot == .arrived &&
      match o.cart with
      | .number _ => false
      | .inspection id => (s.insp? id).any fun i => i.place = .loadingSlot
  | .arm => s.arm.gripSensor

/-- The destination is clear (R44). -/
def destReady (s : State) (o : MoveOrder) : Bool :=
  match o.dest with
  | .shelf n => !s.slotReads n
  | .drive d =>
    if o.kind = .flip then true
    else
      (s.drive d).fitted && (s.drive d).state == .empty
        && !s.arm.orders.any fun p => p.dest = .drive d && p.status != .waiting
  | .loadingSlot => s.library.slot == .empty
  | .arm => false

/-- An order of the list is ready (R44). -/
def ready (s : State) (o : MoveOrder) : Bool :=
  o.status == .waiting && sourceReady s o && destReady s o
    && !(o.after.any fun n => (s.armOrder? n).isSome)

/-- The priority value of a group (R46). -/
def Priorities.of (p : Priorities) : Group → Nat
  | .filing => p.filing
  | .fetch => p.fetch
  | .lib => p.lib
  | .hold => p.hold

/-- Of two ready orders, the one of the higher group; the earlier one on a tie (R45). -/
def higher (p : Priorities) (a b : MoveOrder) : MoveOrder := if p.of a.group < p.of b.group then b else a

/-- The order the arbiter takes, if any is ready (R45). -/
def arbiterChoice (s : State) : Option MoveOrder :=
  match s.arm.orders.filter (ready s) with
  | [] => none
  | o :: os => some (os.foldl (higher s.arm.priorities) o)

def setStatus (n : Nat) (st : OrderStatus) (s : State) : State :=
  s.updOrders fun os => os.map fun o => if o.number = n then { o with status := st } else o

/-! ### Faults of a move (R50, R51, R55, R56) -/

/-- The record of a fault of move `m` (R51). DESIGN CHOICE (notes/assumptions/73.md): its copy is of the order as the move
ran it, with status RUNNING. -/
def faultRecord (code : MoveFault) (m : Move) (s : State) : FaultRec := ⟨code, m.order, s.seconds, m.phase, false, m.inList⟩

/-- The arm stops where it is (R50); the order of the list is SUSPENDED. A move that ends in a fault starts a planning pass,
as one that ends at its completion does (R85). -/
def stopMove (m : Move) (s : State) : State :=
  let s := (s.updArm fun a => { a with moving := none }).wantPass
  if m.inList then setStatus m.order.number .suspended s else s

/-- A first fault (R51). -/
def firstFault (code : MoveFault) (m : Move) (s : State) : State :=
  noticeSet nArmAttention
    ((stopMove m s).updArm fun a => { a with primary := some (faultRecord code m s), level := .attention })

/-- A fault of a move run in ATTENTION (R55). -/
def secondFault (code : MoveFault) (m : Move) (s : State) : State :=
  noticeSet nArmDouble
    ((stopMove m s).updArm fun a =>
      { a with
        secondary := some (faultRecord code m s), level := .double
        primary := if m.cause = .retryPrimary then a.primary.map fun r => { r with settled := true } else a.primary })

/-- A waiter's volume is up in a drive (R93). -/
def waiterUp (s : State) (w : Waiter) : Bool := allDrives.any fun d => s.upIn w.cart w.side d

/-- The reply of an export on the list (R34, R35): none after a link reset of its station. -/
def replyExport (e : ExportEntry) (c : Status) (s : State) : State :=
  if e.replyDue then replyLong e.station ⟨e.tag, 0x40, c, .none⟩ s else s

/-- The exports on the list are answered LIBRARY_HALTED, their marks cleared, and the list emptied (R35). DESIGN CHOICE: the
exports are taken in the arrival order of the list, each with its mark cleared and then its reply
(notes/assumptions/83.md), and each mark cleared is judged by R26 on its own (notes/assumptions/53.md). -/
def exportsHalted (s : State) : State :=
  let es := s.library.exports
  let s := s.updLibrary fun l => { l with exports := [] }
  es.foldl (fun s e =>
    let s := withPool (fun s => s.updCart e.cart fun c => { c with exportPending := false }) s
    replyExport e .libraryHalted s) s

/-- The arm halts, as one step (R56, R93). DESIGN CHOICE (notes/assumptions/79.md): the waiters without their side up are
completed in the order of the wait list. -/
def halt (code : MoveFault) (m : Move) (s : State) : State :=
  let s := stopMove m s
  let s := noticeSet nArmHalted (s.updArm fun a =>
    { a with
      level := .halted
      history := some ⟨a.primary, a.secondary, faultRecord code m s, s.fee.date⟩ })
  let gone := s.arm.orders
  let s := ordersGone gone .discarded (s.updOrders fun _ => [])
  let s := s.updPlanner fun q =>
    { q with plans := [], waiters := q.waiters.map fun w => { w with plan := none } }
  let stranded := (s.planner.waiters.filter fun w => !waiterUp s w).map (·.id)
  let s := completeAll stranded .libraryHalted s
  let s := if s.planner.filingReq.isSome then refuseFiling s else s
  exportsHalted s

/-- A move faults, by the level at the time (R50, R51, R55, R56). -/
def moveFault (code : MoveFault) (s : State) : State :=
  match s.arm.moving with
  | none => s
  | some m =>
    match s.arm.level with
    | .normal => firstFault code m s
    | .attention => secondFault code m s
    | .double => halt code m s
    | .halted => s

/-! ### PICK (R47) -/

/-- The cartridge is on the arm: the Library Map's part of a PICK completion (R25). A completion naming a record that is
EXPORTED or absent only raises the mismatch note (R56). DESIGN CHOICE (notes/assumptions/56.md): the note's copy of the
completion holds the cartridge, the order number and the phase. -/
def mismatch (n : Nat) (m : Move) (s : State) : State :=
  s.updArm fun a =>
    { a with mismatchCount := min (a.mismatchCount + 1) Config.countMax, mismatch := some ⟨n, m.order.number, m.phase⟩ }

/-- The inspection that waits on order `k`. -/
def State.inspOfOrder (s : State) (k : Nat) : Option Inspection := s.library.inspections.find? fun i => i.order = some k

/-- Cartridge `n` is in the table and not EXPORTED (R25). -/
def tracked (s : State) (n : Nat) : Bool := (s.cart? n).any fun c => c.location != .exported

/-- A pick from a drive by an inspection's order releases the drive to the Planner (R31), an event of R86. -/
def releaseDrive (m : Move) (s : State) : State := if m.order.source.isDrive then s.wantPass else s

/-- The place of the cartridge after a PICK completion (R25). DESIGN CHOICE (notes/assumptions/50.md): R25 gives the side
up of a pick from a drive, a shelf slot and the loading slot; a pick whose source is ARM sets A like the last two, in place
of a recorded side. -/
def pickLocation (m : Move) (s : State) : State :=
  match m.order.cart with
  | .inspection id => releaseDrive m (s.updInsp id fun i => { i with place := .arm })
  | .number n =>
    if tracked s n then
      let up :=
        match m.order.source with
        | .drive _ => (s.cart? n).bind (·.sideUp)
        | _ => some (m.order.side.getD .a)
      let missing : Bool := (s.cart? n).any fun c => c.location = .missing
      let s := setLocation n .arm up s
      let s :=
        match s.inspOfOrder m.order.number with
        | some i => releaseDrive m (s.updInsp i.id fun i => { i with place := .arm })
        | none => s
      if missing then s.wantPass else s
    else mismatch n m s

/-- The sensors and the Drive Unit at a PICK completion (R27, R47, R62). -/
def pickSource (m : Move) (s : State) : State :=
  match m.order.source with
  | .drive d => driveTaken d s
  | .shelf n =>
    let s := setShelf n false s
    if s.slotFree n then slotRetry s else s
  | .loadingSlot => s.updLibrary fun l => { l with slot := .empty, slotSensor := false }
  | .arm => s

/-- A PICK completion (R47). -/
def pickDone (m : Move) (s : State) : State :=
  let s := pickSource m (pickLocation m s)
  s.updArm fun a => { a with gripSensor := true, moving := some { m with phase := .travel } }

/-- The PICK phase begins at the source (R47), its own fault of R50 being `fault`: the drive asked to unload, the grip at a
shelf slot or the loading slot whose sensor reports empty, or the completion at once of a cartridge already held. A
re-run asks a drive only if it still holds the cartridge (R52). -/
def beginPick (fault : MoveFault → State → State) (s : State) : State :=
  match s.arm.moving with
  | none => s
  | some m =>
    match m.order.source with
    | .drive d =>
      if m.cause != .arbiter && (s.drive d).cart.isNone then s
      else
        match requestUnload d s with
        | none => fault .driveRefused s
        | some s => s
    | .shelf n => if s.slotReads n then s else fault .pickEmpty s
    | .loadingSlot =>
      let reads := s.library.slotSensor
      let s := s.updLibrary fun l => { l with slot := .busy }
      if reads then s else fault .pickEmpty s
    | .arm => pickDone m s

/-- A fault of a move that the arbiter has just taken, in NORMAL (R51). -/
def arbiterFault (code : MoveFault) (s : State) : State :=
  match s.arm.moving with
  | none => s
  | some m => firstFault code m s

/-- The arbiter takes the order it chose: RUNNING, MOVING, and the move begins (R45, R47). -/
def takeOrder (o : MoveOrder) (s : State) : State :=
  let s := setStatus o.number .running s
  beginPick arbiterFault
    (s.updArm fun a => { a with moving := some ⟨{ o with status := .running }, .pick, s.seconds, .arbiter, true⟩ })

/-- The arbiter's next act (R45). -/
def arbiterAct (s : State) : Option State :=
  if s.arm.level = .normal ∧ s.arm.moving.isNone then (arbiterChoice s).map fun o => takeOrder o s else none

/-! ### PLACE (R48, R49, R63) -/

/-- The PLACE phase begins (R48, R50, R63): the loading slot BUSY, a drive that is not EMPTY refuses, an occupied
destination blocks. -/
def beginPlace (s : State) : State :=
  match s.arm.moving with
  | none => s
  | some m =>
    let s := s.updArm fun a => { a with moving := some { m with phase := .place } }
    match m.order.dest with
    | .drive d =>
      if (s.drive d).state ≠ .empty ∨ !(s.drive d).fitted then moveFault .driveRefused s
      else if (s.drive d).presence then moveFault .placeBlocked s
      else s
    | .shelf n => if s.slotReads n then moveFault .placeBlocked s else s
    | .loadingSlot =>
      let occupied := s.library.slotSensor
      let s := s.updLibrary fun l => { l with slot := .busy }
      if occupied then moveFault .placeBlocked s else s
    | .arm => s

/-- The side up that a PLACE in a drive sets (R25). -/
def placedSide (m : Move) (s : State) : Side :=
  match m.order.kind with
  | .flip =>
    match m.order.cart with
    | .number n => otherSide (((s.cart? n).bind (·.sideUp)).getD .b)
    | .inspection _ => .b
  | _ => m.order.side.getD .a

/-- The location after a PLACE completion (R25). -/
def placeLocation (m : Move) (s : State) : State :=
  match m.order.cart with
  | .inspection id =>
    match m.order.dest with
    | .drive d => drivePlaced d (.inspection id) (placedSide m s) (s.updInsp id fun i => { i with place := .drive d })
    | _ => s
  | .number n =>
    if tracked s n then
      match m.order.dest with
      | .drive d => drivePlaced d (.number n) (placedSide m s) (setLocation n (.drive d) (some (placedSide m s)) s)
      | .loadingSlot => setLocation n .loadingSlot none s
      | _ => setLocation n .shelf none s
    else mismatch n m s

/-- The destination's sensor and the loading slot's state at a PLACE completion (R27, R49). -/
def placeDest (m : Move) (s : State) : State :=
  match m.order.dest with
  | .shelf n => setShelf n true s
  | .loadingSlot =>
    s.updLibrary fun l =>
      { l with
        slotSensor := true
        slot := match m.order.cart with | .number _ => .held | .inspection _ => .rejected }
  | _ => s

/-- A plan hears that one of its orders has completed (R87, R90, R92). DESIGN CHOICE (notes/assumptions/68.md): the
inspection request is met at the INSPECT_LOAD's PLACE completion. -/
def planCompleted (k : Nat) (s : State) : State :=
  match s.planner.plans.find? fun p => p.holds [k] with
  | none => s
  | some p =>
    if p.demount = some k then putPlan { p with demount := none } s
    else
      match p.purpose with
      | .fetch => dropPlan p s
      | .filing => putPlan { p with moved := true } s
      | .importJob =>
        match p.cart with
        | .inspection id => (dropInspReq id (dropPlan p s)).updInsp id fun i => { i with phase := .loading, order := none }
        | .number _ => dropPlan p s

/-- An inspection hears that its order has completed (R30, R31, R37). -/
def inspectionCompleted (k : Nat) (s : State) : State :=
  match s.inspOfOrder k with
  | none => s
  | some i =>
    match i.phase with
    | .flipping => s.updInsp i.id fun i => { i with order := none }
    | .shelving => noticeSet nImportDone (endInspection i.id s)
    | .rejecting => endInspection i.id s
    | .returning =>
      let s := (endInspection i.id s).updLibrary fun l => { l with slot := .arrived }
      let id := s.library.inspectionSeq
      slotCheck id (addInspection .loadingSlot .loadingSlot .waitingSlot s)
    | _ => s

/-- An export hears that its order has completed (R34). -/
def exportCompleted (k : Nat) (s : State) : State :=
  match s.library.exports.find? fun e => e.order = some k with
  | none => s
  | some e =>
    let s := noticeSet nExportReady
      (s.updLibrary fun l => { l with exports := l.exports.filter fun x => x.cart ≠ e.cart })
    replyExport e .done s

/-- The Drive Unit that asked for a hold order hears of its completion (R72). -/
def holdCompleted (k : Nat) (s : State) : State :=
  { s with drives := s.drives.map fun x => if x.pendingHold = some k then { x with pendingHold := none } else x }

/-- The originator of an order of the list is told that it has completed (R49). -/
def tellCompleted (k : Nat) (s : State) : State :=
  holdCompleted k (exportCompleted k (inspectionCompleted k (planCompleted k s)))

/-- The level steps down (R52, R53): the record acted on is emptied. -/
def stepDown (secondary : Bool) (s : State) : State :=
  (s.updArm fun a =>
    if secondary then { a with secondary := none, level := .attention }
    else { a with primary := none, level := .normal }).wantPass

/-- A PLACE completion, as one step (R49, R52). -/
def placeDone (m : Move) (s : State) : State :=
  let s := placeDest m (placeLocation m s)
  let s := s.updArm fun a => { a with gripSensor := false, moving := none }
  let k := m.order.number
  let s := if m.inList then tellCompleted k (s.updOrders fun os => os.filter fun o => o.number ≠ k) else s
  let s :=
    match m.cause with
    | .retryPrimary => stepDown false s
    | .retrySecondary => stepDown true s
    | _ => s
  s.wantPass

/-! ### FAULT_CLEAR and RECOVER (R52-R55) -/

/-- The record FAULT_CLEAR acts on, and whether it is the secondary (R52). -/
def actingRecord (s : State) : Option (FaultRec × Bool) :=
  match s.arm.secondary with
  | some r => some (r, true)
  | none => s.arm.primary.map fun r => (r, false)

/-- The refusals FAULT_CLEAR has in common (R52, R53). -/
def clearRefusal (s : State) : Option Status :=
  match s.arm.level with
  | .normal => some .noFault
  | .halted => some .libraryHalted
  | _ => if s.arm.moving.isSome then some .armBusy else none

/-- The re-run of a record's move from the phase at which it faulted (R52). DESIGN CHOICE (notes/assumptions/74.md): a grip
reading that is empty already is no GRIP_LOST when TRAVEL or PLACE begins again. -/
def rerun (r : FaultRec) (secondary : Bool) (s : State) : State :=
  let s := if r.inList then setStatus r.order.number .running s else s
  let s := s.updArm fun a =>
    { a with
      moving := some ⟨r.order, r.phase, s.seconds, if secondary then .retrySecondary else .retryPrimary, r.inList⟩ }
  match r.phase with
  | .pick => beginPick moveFault s
  | .travel => s
  | .place => beginPlace s

/-- The operator's declarations (R53). -/
inductive Declared where
  | home | loadingSlot | missing
  deriving DecidableEq, Repr

/-- The fault was met in a PICK from the loading slot or a PLACE into it, which left the slot BUSY (R27). -/
def FaultRec.atSlot (r : FaultRec) : Bool :=
  (r.phase == .pick && r.order.source == .loadingSlot) || (r.phase == .place && r.order.dest == .loadingSlot)

/-- The loading slot's state after a declaration (R27, R53): a slot that the record's fault left BUSY becomes EMPTY when
the cartridge is declared elsewhere. -/
def declareSlot (at_ : Declared) (r : FaultRec) (s : State) : State :=
  s.updLibrary fun l =>
    { l with
      slot :=
        match at_, r.order.cart with
        | .loadingSlot, .number _ => .held
        | .loadingSlot, .inspection _ => .rejected
        | _, _ => if l.slot = .busy ∧ r.atSlot then .empty else l.slot }

/-- The location that a declaration gives (R36). -/
def Declared.location : Declared → Location
  | .home => .shelf
  | .loadingSlot => .loadingSlot
  | .missing => .missing

/-- A cartridge of the table takes the declared location (R36); one that leaves MISSING starts a pass (R86). -/
def declareCart (at_ : Declared) (n : Nat) (s : State) : State :=
  let found : Bool := at_ != .missing && (s.cart? n).any fun c => c.location = .missing
  let s := setLocation n at_.location none s
  if found then s.wantPass else s

/-- The inspection that an IMPORT plan holding order `k` as its DEMOUNT serves (R89, R92). -/
def importOfDemount (s : State) (k : Nat) : Option Inspection :=
  match s.planner.plans.find? fun p => p.purpose = .importJob && p.demount = some k with
  | some p => match p.cart with | .inspection id => s.insp? id | .number _ => none
  | none => none

/-- The inspection that an abandoned order belongs to: of its cartridge, the one waiting on it, or the one for which its
IMPORT plan cleared a drive (R32, R53, R89). -/
def abandonedInspection (s : State) (o : MoveOrder) : Option Inspection :=
  match o.cart with
  | .inspection id => s.insp? id
  | .number _ => (s.inspOfOrder o.number).or (importOfDemount s o.number)

/-- The export of an abandoned order is answered ABANDONED and its mark cleared (R35, R53). -/
def exportAbandoned (k : Nat) (s : State) : State :=
  match s.library.exports.find? fun e => e.order = some k with
  | none => s
  | some e =>
    let s := s.updLibrary fun l => { l with exports := l.exports.filter fun x => x.cart ≠ e.cart }
    let s := withPool (fun s => s.updCart e.cart fun c => { c with exportPending := false }) s
    replyExport e .abandoned s

/-- FAULT_CLEAR ABANDON taken for a record, as one step (R53). A cartridge the operator has put somewhere by hand is no
longer in the grip (notes/assumptions/16.md). -/
def abandon (r : FaultRec) (secondary : Bool) (at_ : Declared) (s : State) : State :=
  let o := r.order
  let s := if at_ = .missing then s else s.updArm fun a => { a with gripSensor := false }
  let s := match o.cart with | .number n => declareCart at_ n s | .inspection _ => s
  let s := declareSlot at_ r s
  let s :=
    match o.source with
    | .drive d => if r.phase = .pick then driveTaken d s else s
    | _ => s
  let s :=
    if r.inList then
      let insp := abandonedInspection s o
      let s := dropOrders [o.number] .abandoned (exportAbandoned o.number s)
      match insp with
      | some i => abandonInspection i.id s
      | none => s
    else s
  stepDown secondary s

end Sys2Proof.Machine
end

