-- ==== Sys2Proof/Machine/Settle.lean ====
section
/-! DEFINITION. The blocks' own acts inside a step. A command changes some records; every act that its change has made
possible (a delivery, a filing act between units, a selection, a planning pass, an order asked for, an order taken by the
arm) is then taken, one at a time and each whole, until none is left. The order in which acts possible at once are taken is
a DESIGN CHOICE (notes/assumptions/5.md). -/

namespace Sys2Proof.Machine

open Sys2Proof

/-- The next act of any block, if any: deliveries (R136), stall timers (R138), the Filing Writer (R106), the Drive Units in
ascending order (R68, R71), a planning pass that is due (R86), the Library Map (R28-R34), the arbiter (R45). -/
def nextAct (s : State) : Option State :=
  match deliveryCandidate s with
  | some o => some (beginDelivery o s)
  | none =>
    match stallCandidate s with
    | some o => some (adjustStall o s)
    | none =>
      match filingAct s with
      | some s => some s
      | none =>
        match allDrives.findSome? (driveAct s) with
        | some s => some s
        | none =>
          if 0 < s.planner.passesDue then some (planPass s)
          else
            match libraryAct s with
            | some s => some s
            | none => arbiterAct s

/-- Acts taken until none is left, at most `fuel` of them. -/
def settleFor : Nat → State → State
  | 0, s => s
  | fuel + 1, s =>
    match nextAct s with
    | none => s
    | some s => settleFor fuel s

/-- The bound on the acts of one step: an act still possible after so many is taken in a later step
(notes/assumptions/5.md). -/
def settleFuel : Nat := 1000

/-- The part at rest after a command: every possible act taken. -/
def settle (s : State) : State := settleFor settleFuel s

end Sys2Proof.Machine
end

