-- ==== Sys2Proof/Machine/FetchRequests.lean ====
section
/-! DEFINITION. The requests of the FETCH family: FETCH and its admission (R126-R129), CANCEL_FETCH (R142), QUOTE (R146),
LOCATE (R6) and FIND (R7, R8). -/

namespace Sys2Proof.Machine

open Sys2Proof

/-! ### Admission (R126-R128) -/

/-- The fields of FETCH and QUOTE (section 11.3). -/
structure FetchFields where
  instrument : Nat
  first : Nat
  count : Nat
  kind : Nat
  account : Nat
  deriving DecidableEq, Repr

def fetchFields (b : List Byte) : FetchFields := ⟨field b 0 4, field b 4 2, field b 6 2, byteAt b 8, field b 9 2⟩

/-- What admission has settled (R127, R128). -/
structure Admission where
  entry : CatEntry
  effective : Nat
  kind : FetchKind
  account : Option Account
  snap : FeeSnapshot
  estimate : Nat
  cart : Nat
  side : Side
  deriving DecidableEq, Repr

/-- Check 4 (R126). -/
def fetchFieldsOk (f : FetchFields) : Bool :=
  validInstrument f.instrument && (1 ≤ f.first && f.first ≤ 1000) && f.count ≤ 1000 && f.kind ≤ 1 && f.account ≤ 9999

/-- The effective page count (R127). -/
def effectiveCount (pages first count : Nat) : Nat :=
  let rest := pages - first + 1
  if count = 0 then rest else min count rest

/-- The volume's cartridge cannot be brought to a drive (R127 check 7). -/
def offLine (c : Cartridge) : Bool :=
  c.exportPending ||
    match c.location with
    | .exported | .missing | .loadingSlot => true
    | _ => false

/-- Journal room taken: records and reservations (R128 check 10). -/
def State.journalUse (s : State) : Nat := s.fee.journal.length + s.fee.reservations

/-- Checks 4 to 10 of admission, in order, with the estimate (R126-R128, R157); the first failure is the refusal. -/
def admissionChecks (f : FetchFields) (s : State) : Except Status Admission :=
  if !fetchFieldsOk f then .error .badRequest
  else
    match lookup s f.instrument with
    | .error c => .error c
    | .ok e =>
      if f.first > e.pages then .error .range
      else
        match s.volume? e.volume with
        | none => .error .offLine
        | some v =>
          match s.cart? v.cart with
          | none => .error .offLine
          | some c =>
            if offLine c then .error .offLine
            else if s.arm.level = .halted ∧ !(allDrives.any fun d => s.upIn v.cart v.side d) then .error .libraryHalted
            else
              let acc := if f.account = 0 then none else s.account? f.account
              if f.account ≠ 0 ∧ acc.isNone then .error .noAccount
              else if acc.any (fun a => a.state = .suspended) then .error .suspended
              else
                let snap := snapshot s.fee e.feeClass acc
                if journalled snap.category ∧ s.journalUse ≥ Config.journalMax then .error .journalFull
                else
                  let n := effectiveCount e.pages f.first f.count
                  let kind := if f.kind = 0 then FetchKind.view else .copy
                  .ok ⟨e, n, kind, acc, snap, feeEstimate snap kind n (dayTotalOf acc), v.cart, v.side⟩

/-- The available funds of an admission's account, where it is a SOLICITOR's. -/
def admissionFunds (s : State) (a : Admission) : Option Nat :=
  if a.snap.category = .solicitor then some ((a.account.map s.available).getD 0) else none

/-- Check 11 fails (R128). -/
def fundsShort (s : State) (a : Admission) : Bool := (admissionFunds s a).any fun v => v < a.estimate

/-- The fetch order of an admission (R129). -/
def newOrder (id : FetchId) (f : FetchFields) (a : Admission) : FetchOrder where
  id := id
  instrument := f.instrument
  volume := a.entry.volume
  extents := a.entry.extents
  pages := a.entry.pages
  content := a.entry.content
  trailer := a.entry.trailer.getD 0
  filingDate := a.entry.filingDate
  first := f.first
  effective := a.effective
  kind := a.kind
  account := f.account
  snap := a.snap
  estimate := a.estimate
  hold := if a.snap.category = .solicitor then some a.estimate else none
  reservation := journalled a.snap.category
  lengths := none
  next := f.first
  delivered := 0
  unreadable := 0
  reading := none
  staged := none
  delivery := none
  stall := none
  place := .waitList

/-- A FETCH is admitted, as one step (R129). -/
def admitFetch (id : FetchId) (f : FetchFields) (a : Admission) (s : State) : State :=
  let o := newOrder id f a
  let s := s.updFetch fun e => { e with orders := e.orders ++ [o] }
  let s := s.updFee fun u =>
    { u with
      holds := if a.snap.category = .solicitor then u.holds ++ [⟨id, f.account, a.estimate⟩] else u.holds
      reservations := if journalled a.snap.category then u.reservations + 1 else u.reservations }
  let s := addOutstanding id.station ⟨id.tag, .fetch, .fetchEngine⟩ s
  (s.updPlanner fun q =>
    { q with waiters := q.waiters ++ [⟨id, a.entry.volume, a.cart, a.side, none, false⟩] }).wantPass

/-- A refusal of admission; OFF_LINE also sets OFF_LINE_WANTED (R127, R146). -/
def refuseFetch (st : Station) (tag kind : Byte) (c : Status) (s : State) : State :=
  let s := refuse st tag kind c s
  if c = .offLine then noticeSet nOffLineWanted s else s

/-- FETCH (R126-R129). -/
def fetchRequest (st : Station) (tag : Byte) (b : List Byte) (s : State) : State :=
  let f := fetchFields b
  match admissionChecks f s with
  | .error c => refuseFetch st tag 0x10 c s
  | .ok a => if fundsShort s a then refuse st tag 0x10 .funds s else settle (admitFetch ⟨st, tag⟩ f a s)

/-- CANCEL_FETCH (R142): FETCH_DONE first, then the reply with the pages delivered. -/
def cancelRequest (st : Station) (tag : Byte) (b : List Byte) (s : State) : State :=
  let id : FetchId := ⟨st, b.getD 0 0⟩
  match s.order? id with
  | none => refuse st tag 0x11 .notOutstanding s
  | some o => settle (addReply st ⟨tag, 0x11, .done, .delivered o.delivered⟩ (completeFetch id .cancelled s))

/-- QUOTE (R146). -/
def quoteRequest (st : Station) (tag : Byte) (b : List Byte) (s : State) : State :=
  let f := fetchFields b
  match admissionChecks f s with
  | .error c => refuseFetch st tag 0x12 c s
  | .ok a =>
    let q : QuoteInfo :=
      ⟨a.effective, f.first + a.effective - 1, a.entry.feeClass, a.snap.category, a.snap.discount, a.snap.cap, a.estimate,
        !fundsShort s a, admissionFunds s a⟩
    addReply st ⟨tag, 0x12, .done, .quote q⟩ s

/-- LOCATE (R6). -/
def locateRequest (st : Station) (tag : Byte) (b : List Byte) (s : State) : State :=
  match lookup s (field b 0 4) with
  | .error c => refuse st tag 0x13 c s
  | .ok e =>
    match (s.volume? e.volume).bind fun v => (s.cart? v.cart).map fun c => (v, c) with
    | none => refuse st tag 0x13 .notFiled s
    | some (v, c) =>
      let up : Bool := match c.location with | .drive _ => c.sideUp == some v.side | _ => false
      addReply st ⟨tag, 0x13, .done, .located ⟨e, v.cart, v.side, c.location, c.home, up⟩⟩ s

/-- FIND (R7, R8). -/
def findRequest (st : Station) (tag : Byte) (b : List Byte) (s : State) : State :=
  let start := field b 0 4
  let dateFrom := field b 4 2
  let dateTo := field b 6 2
  let cls := byteAt b 8
  let station := byteAt b 11
  if start > Config.instrumentMax ∨ (dateFrom ≠ 0 ∧ dateTo ≠ 0 ∧ dateFrom > dateTo) ∨ (cls > 7 ∧ cls ≠ 255) ∨ station > 4
  then refuse st tag 0x14 .badRequest s
  else
    let (numbers, last, complete) :=
      findEntries s start ⟨dateFrom, dateTo, if cls = 255 then none else some cls, field b 9 2, station⟩
    addReply st ⟨tag, 0x14, .done, .found numbers last complete⟩ s

end Sys2Proof.Machine
end

