-- ==== Sys2Proof/Machine/FilingRequests.lean ====
section
/-! DEFINITION. The requests of the FILE family and the PAGE frame: OPEN_INSTRUMENT (R97, R98), POST_PAGE (R104), PAGE
(R105), CLOSE_INSTRUMENT (R111) and ABORT_INSTRUMENT (R113). -/

namespace Sys2Proof.Machine

open Sys2Proof

/-! ### OPEN_INSTRUMENT (R97, R98) -/

/-- The fields of OPEN_INSTRUMENT (section 11.3). -/
structure OpenFields where
  source : Nat
  number : Nat
  feeClass : Nat
  deriving DecidableEq, Repr

def openFields (b : List Byte) : OpenFields := ⟨byteAt b 0, field b 1 4, byteAt b 5⟩

/-- The OPEN side is up in a drive (R97). -/
def openUp (s : State) : Bool :=
  match s.openSide with
  | none => false
  | some (n, x) => allDrives.any fun d => s.upIn n x d

/-- The OPEN side's cartridge is in a FAULTED drive (R97 check 6). -/
def openFaulted (s : State) : Bool :=
  match s.openSide with
  | none => false
  | some (n, _) =>
    match (s.cart? n).map Cartridge.location with
    | some (.drive d) => (s.drive d).state == .faulted
    | _ => false

/-- The checks of OPEN_INSTRUMENT, in order (R97). -/
def openRefusal (f : OpenFields) (s : State) : Option Status :=
  if f.source > 1 ∨ f.feeClass > 7 then some .badRequest
  else if s.run.state ≠ .closed then some .busy
  else if f.source = 0 ∧ !validInstrument f.number then some .badRequest
  else if f.source = 0 ∧ (s.entry? f.number).isSome then some .duplicate
  else if !catalogueRoom s then some .catalogueFull
  else if openFaulted s then some .filingDriveFault
  else if s.arm.level = .halted ∧ (rolloverNeeded s || !openUp s) then some .libraryHalted
  else if rolloverNeeded s ∧ (blankChoice s (s.openSide.map (·.1))).isNone then some .noBlank
  else none

/-- The run record at acceptance (R98). The ring stands as it is: empty, since a CLOSED run's ring was flushed. -/
def openRun (st : Station) (tag : Byte) (f : OpenFields) (r : Run) : Run :=
  { Run.atReset with
    state := .opening, owner := st, source := if f.source = 0 then .given else .separator, feeClass := f.feeClass
    given := f.number, openTag := some tag, lastTag := r.lastTag, head := r.head, ring := r.ring }

/-- OPEN_INSTRUMENT (R97, R98). -/
def openRequest (st : Station) (tag : Byte) (b : List Byte) (s : State) : State :=
  let f := openFields b
  match openRefusal f s with
  | some c => refuse st tag 0x20 c s
  | none =>
    let rollover := rolloverNeeded s
    let s := addOutstanding st ⟨tag, .openInstrument, .filingWriter⟩ (s.updRun (openRun st tag f))
    settle (if rollover then beginRollover s
      else match s.openSide with
        | some p => makeFilingReq p s
        | none => s)

/-! ### POST_PAGE and PAGE (R104, R105) -/

/-- The checks of POST_PAGE, in order (R104). -/
def postRefusal (st : Station) (len n : Nat) (s : State) : Option Status :=
  let r := s.run
  if len = 0 ∨ len > 65536 then some .badRequest
  else if r.state = .closed ∨ r.state = .closing ∨ r.closeRequested ∨ r.owner ≠ st then some .notOpen
  else if r.ring.length ≥ Config.ringSlots then some .ringFull
  else if r.source = .given ∧ (r.postedPages + 1 > Config.pagesMax ∨ r.postedSectors + n > Config.contentMax) then
    some .limit
  else none

/-- POST_PAGE (R104): the tail slot is taken as FILLING. -/
def postRequest (st : Station) (tag : Byte) (b : List Byte) (s : State) : State :=
  let len := field b 0 4
  let n := ceilDiv len Config.sectorBytes
  match postRefusal st len n s with
  | some c => refuse st tag 0x21 c s
  | none =>
    let slot := s.run.tail
    let s := s.updRun fun r =>
      { r with
        ring := r.ring ++ [⟨len, n, [], byteAt b 4 = 1, tag, false⟩]
        postedPages := if r.source = .given then r.postedPages + 1 else r.postedPages
        postedSectors := if r.source = .given then r.postedSectors + n else r.postedSectors }
    addReply st ⟨tag, 0x21, .done, .slot slot⟩ s

/-- Bytes added to a FILLING slot (R105): those beyond the declared length discarded, and the last sector completed with
zero bytes when the declared length is reached. -/
def RingSlot.receive (p : RingSlot) (bytes : List Byte) : RingSlot :=
  let got := (p.bytes ++ bytes).take p.declared
  if got.length = p.declared then
    { p with bytes := got ++ List.replicate (p.sectors * Config.sectorBytes - p.declared) 0, complete := true }
  else { p with bytes := got }

/-- The oldest FILLING slot that holds the tag receives the bytes; without one they are discarded (R105). -/
def receiveInto (tag : Byte) (bytes : List Byte) : List RingSlot → List RingSlot
  | [] => []
  | p :: ps => if !p.complete ∧ p.tag = tag then p.receive bytes :: ps else p :: receiveInto tag bytes ps

/-- A PAGE frame that fits, from a link that is UP (R105, R177, R203). -/
def pageFrame (st : Station) (tag : Byte) (bytes : List Byte) (s : State) : State :=
  if s.run.owner = st ∧ s.run.state ≠ .closed ∧ 1 ≤ bytes.length ∧ bytes.length ≤ Config.frameBytes then
    settle (s.updRun fun r => { r with ring := receiveInto tag bytes r.ring })
  else s

/-! ### CLOSE_INSTRUMENT and ABORT_INSTRUMENT (R111, R113) -/

/-- CLOSE_INSTRUMENT (R111). -/
def closeRequest (st : Station) (tag : Byte) (s : State) : State :=
  let r := s.run
  if r.state = .closed ∨ r.owner ≠ st then refuse st tag 0x22 .notOpen s
  else if r.closeTag.isSome then refuse st tag 0x22 .busy s
  else
    match r.failure with
    | some c => addReply st ⟨tag, 0x22, c, .closed r.counts none none⟩ (closeRun s)
    | none =>
      let s := addOutstanding st ⟨tag, .closeInstrument, .filingWriter⟩ s
      if r.state = .opening then settle (s.updRun fun r => { r with closeTag := some tag, closeRequested := true })
      else settle (s.updRun fun r => { r with closeTag := some tag, stall := none, state := .closing })

/-- The run is aborted (R113, R120): a pending OPEN_INSTRUMENT and a pending CLOSE_INSTRUMENT are answered ABORTED. -/
def abortRun (s : State) : State :=
  let s := abortCore s
  closeRun (replyClose .aborted (.closed s.run.counts none none) (replyOpen .aborted .none s))

/-- ABORT_INSTRUMENT (R113). -/
def abortRequest (st : Station) (tag : Byte) (s : State) : State :=
  if s.run.state = .closed ∨ s.run.owner ≠ st then refuse st tag 0x23 .notOpen s
  else
    let s := abortRun s
    settle (addReply st ⟨tag, 0x23, .done, .counts s.run.counts⟩ s)

end Sys2Proof.Machine
end

