-- ==== Sys2Proof/Machine/CashRequests.lean ====
section
/-! DEFINITION. The requests of the CASH family, and SET_DATE (sections 8.5 to 8.7). Each is quick, taken whole, and its reply
joins the queue at once. -/

namespace Sys2Proof.Machine

open Sys2Proof

def moneyOk (v : Nat) : Bool := 1 ≤ v && v ≤ Config.moneyMax
def accountNumberOk (n : Nat) : Bool := 1 ≤ n && n ≤ 9999

/-- A category an account can carry (R150, section 11.3). -/
def accountCategory : Nat → Option Category
  | 1 => some .solicitor
  | 2 => some .government
  | 3 => some .staff
  | _ => none

/-- ACCOUNT_OPEN (R167). -/
def accountOpenRequest (st : Station) (tag : Byte) (b : List Byte) (s : State) : State :=
  let n := field b 0 2
  let m := byteAt b 3
  let cap := masked m 0 (field b 4 4)
  let discount := masked m 1 (byteAt b 8)
  let low := masked m 2 (field b 9 4)
  match accountCategory (byteAt b 2) with
  | none => refuse st tag 0x30 .badRequest s
  | some cat =>
    if !accountNumberOk n || cap.any (fun v => !moneyOk v) || discount.any (fun v => 100 < v)
        || low.any (fun v => !moneyOk v) || (low.isSome && cat != .solicitor)
        || (cat == .staff && (cap.isSome || discount.isSome)) then
      refuse st tag 0x30 .badRequest s
    else if (s.account? n).isSome then refuse st tag 0x30 .duplicate s
    else if s.fee.accounts.length ≥ Config.accountsMax then refuse st tag 0x30 .accountsFull s
    else
      let a : Account := ⟨n, cat, .opened, if cat = .solicitor then some 0 else none, cap, 0, discount, low⟩
      addReply st ⟨tag, 0x30, .done, .none⟩ (s.updFee fun u => { u with accounts := insertAccount a u.accounts })

/-- The record an ACCOUNT_UPDATE makes (R168): 0 and FFh are the value ABSENT (R205). -/
def updatedAccount (a : Account) (state cap discount low : Option Nat) : Account :=
  { a with
    state := match state with | some v => if v = 0 then .opened else .suspended | none => a.state
    cap := match cap with | some v => if v = 0 then none else some v | none => a.cap
    discount := match discount with | some v => if v = 255 then none else some v | none => a.discount
    lowMark := match low with | some v => if v = 0 then none else some v | none => a.lowMark }

/-- Check 3 of ACCOUNT_UPDATE (R168). -/
def updateRefused (a : Account) (state cap discount low : Option Nat) : Bool :=
  state.any (fun v => 1 < v) || cap.any (fun v => v != 0 && !moneyOk v) || low.any (fun v => v != 0 && !moneyOk v)
    || discount.any (fun v => 100 < v && v != 255)
    || (a.category == .staff && (cap.isSome || discount.isSome)) || (low.isSome && a.category != .solicitor)

/-- ACCOUNT_UPDATE (R168). -/
def accountUpdateRequest (st : Station) (tag : Byte) (b : List Byte) (s : State) : State :=
  let n := field b 0 2
  let m := byteAt b 2
  let state := masked m 0 (byteAt b 3)
  let cap := masked m 1 (field b 4 4)
  let discount := masked m 2 (byteAt b 8)
  let low := masked m 3 (field b 9 4)
  if !accountNumberOk n then refuse st tag 0x31 .badRequest s
  else
    match s.account? n with
    | none => refuse st tag 0x31 .noAccount s
    | some a =>
      if updateRefused a state cap discount low then refuse st tag 0x31 .badRequest s
      else
        let a' := updatedAccount a state cap discount low
        addReply st ⟨tag, 0x31, .done, .account a'⟩ (s.updAccount n fun _ => a')

/-- ACCOUNT_CREDIT (R169). -/
def accountCreditRequest (st : Station) (tag : Byte) (b : List Byte) (s : State) : State :=
  let n := field b 0 2
  let amount := field b 2 4
  if !accountNumberOk n || !moneyOk amount then refuse st tag 0x32 .badRequest s
  else
    match s.account? n with
    | none => refuse st tag 0x32 .noAccount s
    | some a =>
      if a.category ≠ .solicitor then refuse st tag 0x32 .notPrepaid s
      else
        let balance := a.balance.getD 0 + amount
        if balance > Config.moneyMax then refuse st tag 0x32 .limit s
        else
          addReply st ⟨tag, 0x32, .done, .funds balance (balance - s.heldTotal n)⟩
            (s.updAccount n fun a => { a with balance := some balance })

/-- Fetch orders that name an account (R170, R171). -/
def State.fetchesOf (s : State) (n : Nat) : Nat := (s.fetch.orders.filter fun o => o.account = n).length

/-- ACCOUNT_CLOSE (R170). -/
def accountCloseRequest (st : Station) (tag : Byte) (b : List Byte) (s : State) : State :=
  let n := field b 0 2
  if !accountNumberOk n then refuse st tag 0x33 .badRequest s
  else
    match s.account? n with
    | none => refuse st tag 0x33 .noAccount s
    | some a =>
      if !(s.holdsOf n).isEmpty || 0 < s.fetchesOf n then refuse st tag 0x33 .accountBusy s
      else
        addReply st ⟨tag, 0x33, .done, .finalBalance a.balance⟩
          (s.updFee fun u => { u with accounts := u.accounts.filter fun a => a.number ≠ n })

/-- ACCOUNT_QUERY (R171). -/
def accountQueryRequest (st : Station) (tag : Byte) (b : List Byte) (s : State) : State :=
  let n := field b 0 2
  if n > 9999 then refuse st tag 0x34 .badRequest s
  else if n = 0 then
    let u := s.fee
    addReply st
      ⟨tag, 0x34, .done, .feeTables u.discountCounter u.discountSolicitor u.discountGovernment 100 u.schedule⟩ s
  else
    match s.account? n with
    | none => refuse st tag 0x34 .noAccount s
    | some a =>
      let available := if a.category = .solicitor then some (s.available a) else none
      addReply st
        ⟨tag, 0x34, .done, .accountInfo ⟨a, s.heldTotal n, (s.holdsOf n).length, available, s.fetchesOf n⟩⟩ s

/-- SET_SCHEDULE (R172). -/
def setScheduleRequest (st : Station) (tag : Byte) (b : List Byte) (s : State) : State :=
  let c := byteAt b 0
  let k := byteAt b 1
  let m := masked k 4 (field b 10 4)
  let x := masked k 5 (field b 14 4)
  let old := s.fee.rates c
  let new : ClassRates :=
    ⟨(masked k 0 (field b 2 2)).getD old.v, (masked k 1 (field b 4 2)).getD old.f, (masked k 2 (field b 6 2)).getD old.g,
      (masked k 3 (field b 8 2)).getD old.c, m.getD old.m, x.getD old.x⟩
  if c > 7 ∨ m.any (fun v => Config.moneyMax < v) ∨ x.any (fun v => Config.moneyMax < v) ∨ new.m > new.x then
    refuse st tag 0x35 .badRequest s
  else
    addReply st ⟨tag, 0x35, .done, .rates new⟩
      (s.updFee fun u => { u with schedule := u.schedule.setIfInBounds c new })

/-- SET_CATEGORY_DISCOUNT (R173). -/
def setDiscountRequest (st : Station) (tag : Byte) (b : List Byte) (s : State) : State :=
  let v := min (byteAt b 1) 100
  let done (s : State) : State := addReply st ⟨tag, 0x36, .done, .discount v⟩ s
  match byteAt b 0 with
  | 0 => done (s.updFee fun u => { u with discountCounter := v })
  | 1 => done (s.updFee fun u => { u with discountSolicitor := v })
  | 2 => done (s.updFee fun u => { u with discountGovernment := v })
  | _ => refuse st tag 0x36 .badRequest s

/-- DAY_CLOSE (R165). -/
def dayCloseRequest (st : Station) (tag : Byte) (s : State) : State :=
  if s.fee.date ≥ Config.dateMax then refuse st tag 0x37 .dateLimit s
  else addReply st ⟨tag, 0x37, .done, .date (s.fee.date + 1)⟩ (closeDay (s.fee.date + 1) s)

/-- JOURNAL_TAKE (R163). -/
def journalTakeRequest (st : Station) (tag : Byte) (s : State) : State :=
  addReply st ⟨tag, 0x38, .done, .journal (s.fee.journal.take 8) (s.fee.journal.drop 8).length⟩
    (s.updFee fun u => { u with journal := u.journal.drop 8 })

/-- TALLY_QUERY (R164). -/
def tallyQueryRequest (st : Station) (tag : Byte) (b : List Byte) (s : State) : State :=
  match byteAt b 0 with
  | 0 => addReply st ⟨tag, 0x39, .done, .tally s.fee.today⟩ s
  | 1 => addReply st ⟨tag, 0x39, .done, .tally s.fee.previous⟩ s
  | _ => refuse st tag 0x39 .badRequest s

/-- SET_DATE (R166). DESIGN CHOICE (notes/assumptions/81.md): its DONE reply carries no date. -/
def setDateRequest (st : Station) (tag : Byte) (b : List Byte) (s : State) : State :=
  let d := field b 0 4
  if d > Config.dateMax then refuse st tag 0x53 .badRequest s
  else if d < s.fee.date then refuse st tag 0x53 .dateBack s
  else if d = s.fee.date then addReply st ⟨tag, 0x53, .done, .none⟩ s
  else addReply st ⟨tag, 0x53, .done, .none⟩ (closeDay d s)

end Sys2Proof.Machine
end

