-- ==== Sys2Proof/Machine/LibraryRequests.lean ====
section
/-! DEFINITION. The requests of the LIBRARY family: EXPORT (R33), DRIVE_RESET (R75), FAULT_CLEAR (R52, R53), RECOVER (R54),
FAULT_QUERY (R57) and LIBRARY_QUERY (R39). -/

namespace Sys2Proof.Machine

open Sys2Proof

/-! ### EXPORT (R33) -/

/-- A RECOVERY order for cartridge `n` is in the list or running (R33, R54). -/
def recovering (s : State) (n : Nat) : Bool :=
  s.arm.orders.any (fun o => o.originator = .recovery && o.cart = .number n)
    || s.arm.moving.any (fun m => m.order.originator = .recovery && m.order.cart = .number n)

/-- A fetch for either side of cartridge `n` is queued in a drive or waiting (R33). DEDUCED (notes/assumptions/54.md): so
is one whose unit is running, since its order goes back to the queue (R68). -/
def fetchWants (s : State) (n : Nat) : Bool :=
  s.fetch.orders.any fun o => (s.volume? o.volume).any fun v => v.cart = n

/-- Check 4 of EXPORT (R33). -/
def exportBusy (s : State) (c : Cartridge) : Bool :=
  let named := s.planner.filingReq.any fun (n, _) => n = c.number
  let opened := c.sideA.state == .opened || c.sideB.state == .opened
  c.location == .arm || c.exportPending || (opened && !(c.location == .missing && !named))
    || (s.run.chosen.any (fun (n, _) => n = c.number) && s.run.label.any (·.issued))
    || recovering s c.number || fetchWants s c.number

/-- The checks of EXPORT, in order (R33), giving the cartridge. -/
def exportChecks (n : Nat) (s : State) : Except Status Cartridge :=
  if n = 0 then .error .badRequest
  else
    match s.cart? n with
    | none => .error .noCartridge
    | some c =>
      if c.location = .exported then .error .notPresent
      else if exportBusy s c then .error .cartridgeBusy
      else if s.arm.level = .halted ∧ c.location ≠ .loadingSlot ∧ c.location ≠ .missing then .error .libraryHalted
      else .ok c

/-- EXPORT (R33): answered at once in the loading slot, a MISSING cartridge written off, otherwise marked and listed.
DESIGN CHOICE (notes/assumptions/72.md): so is a cartridge without the mark that has an entry on the list already. -/
def exportRequest (st : Station) (tag : Byte) (b : List Byte) (s : State) : State :=
  let n := field b 0 2
  match exportChecks n s with
  | .error c => refuse st tag 0x40 c s
  | .ok c =>
    if c.location = .loadingSlot then noticeSet nExportReady (addReply st ⟨tag, 0x40, .done, .none⟩ s)
    else if c.location = .missing then settle (addReply st ⟨tag, 0x40, .done, .none⟩ (leaveCabinet n s).wantPass)
    else if s.library.exports.length ≥ Config.exportListMax then refuse st tag 0x40 .listFull s
    else
      let s := withPool (fun s => s.updCart n fun c => { c with exportPending := true }) s
      let s := s.updLibrary fun l => { l with exports := l.exports ++ [⟨n, st, tag, none, true⟩] }
      settle (addOutstanding st ⟨tag, .exportCartridge, .libraryMap⟩ s)

/-! ### DRIVE_RESET (R75) -/

/-- A drive number 0-3. -/
def driveOf (n : Nat) : Option DriveId := if h : n < 4 then some ⟨n, h⟩ else none

/-- DRIVE_RESET (R75): the reset command issued, and the station and tag kept for the reply. -/
def driveResetRequest (st : Station) (tag : Byte) (b : List Byte) (s : State) : State :=
  let kind := byteAt b 1
  match driveOf (byteAt b 0) with
  | none => refuse st tag 0x41 .badRequest s
  | some d =>
    if kind > 1 then refuse st tag 0x41 .badRequest s
    else if !(s.drive d).fitted then refuse st tag 0x41 .notFitted s
    else if (s.drive d).state = .resetting then refuse st tag 0x41 .busy s
    else if (s.drive d).state ≠ .faulted then refuse st tag 0x41 .notNeeded s
    else
      let s := s.updDrive d fun x => { x with state := .resetting, resetBy := some ⟨st, tag⟩ }
      let s := issue d (if kind = 0 then .reinit else .powerCycle) .driveUnit s
      addOutstanding st ⟨tag, .driveReset, .driveUnit d⟩ s

/-! ### FAULT_CLEAR (R52, R53, R55) -/

/-- FAULT_CLEAR that meets a settled primary record only empties it (R55). -/
def clearSettled (st : Station) (tag : Byte) (s : State) : State :=
  settle (addReply st ⟨tag, 0x42, .done, .recordCleared⟩ (stepDown false s))

/-- FAULT_CLEAR RETRY (R52): the reply is sent when the re-run begins. -/
def retryRequest (st : Station) (tag : Byte) (s : State) : State :=
  match clearRefusal s, actingRecord s with
  | some c, _ => refuse st tag 0x42 c s
  | none, none => refuse st tag 0x42 .noFault s
  | none, some (r, secondary) =>
    if r.settled then clearSettled st tag s
    else settle (rerun r secondary (addReply st ⟨tag, 0x42, .done, .none⟩ s))

def declared : Nat → Declared
  | 0 => .home
  | 1 => .loadingSlot
  | _ => .missing

/-- The loading slot is taken, so that a declaration of LOADING_SLOT is refused (R53). -/
def slotTaken (s : State) : Bool :=
  s.library.slot == .held || s.library.slot == .arrived || s.library.slot == .rejected

/-- FAULT_CLEAR ABANDON (R53). -/
def abandonRequest (st : Station) (tag : Byte) (at_ : Declared) (s : State) : State :=
  match clearRefusal s, actingRecord s with
  | some c, _ => refuse st tag 0x42 c s
  | none, none => refuse st tag 0x42 .noFault s
  | none, some (r, secondary) =>
    if r.settled then clearSettled st tag s
    else if at_ = .loadingSlot ∧ slotTaken s then refuse st tag 0x42 .slotOccupied s
    else settle (addReply st ⟨tag, 0x42, .done, .none⟩ (abandon r secondary at_ s))

/-- FAULT_CLEAR, by its kind byte (R205). -/
def faultClearRequest (st : Station) (tag : Byte) (b : List Byte) (s : State) : State :=
  if byteAt b 0 = 0 then retryRequest st tag s else abandonRequest st tag (declared (byteAt b 1)) s

/-! ### RECOVER (R54) -/

/-- Something is at ARM: a cartridge record or an inspection record (R54 check 6). -/
def armTaken (s : State) : Bool :=
  s.library.table.any (fun c => c.location = .arm) || s.library.inspections.any (fun i => i.place = .arm)

/-- The named slot is another record's home slot with location SHELF (R54 check 6). -/
def slotOwned (s : State) (n place : Nat) : Bool :=
  s.library.table.any fun c => c.number != n && c.home = some place && c.location = .shelf

/-- The checks of RECOVER, in order (R54), giving the cartridge. Place 0 is ARM, 1-96 a shelf slot (R205). -/
def recoverChecks (n place : Nat) (s : State) : Except Status Cartridge :=
  if n = 0 ∨ place > 96 then .error .badRequest
  else
    match s.cart? n with
    | none => .error .noCartridge
    | some c =>
      if c.location ≠ .missing then .error .notMissing
      else if recovering s n then .error .cartridgeBusy
      else if s.arm.level = .halted then .error .libraryHalted
      else if place = 0 ∧ armTaken s ∨ place ≠ 0 ∧ slotOwned s n place then .error .slotOccupied
      else .ok c

/-- The RETURN of RECOVER. -/
def recoverOrder (n place home : Nat) : MoveOrder :=
  ⟨0, .returnMove, .number n, if place = 0 then .arm else .shelf place, .shelf home, none, .lib, none, .recovery, .waiting⟩

/-- The RETURN carried out at once, outside the list (R54): its number taken, the reply given, the move begun. -/
def recoverNow (st : Station) (tag : Byte) (o : MoveOrder) (s : State) : State :=
  let (k, s) := takeOrderNumber s
  let s := addReply st ⟨tag, 0x43, .done, .order k⟩ s
  beginPick moveFault (s.updArm fun a =>
    { a with moving := some ⟨{ o with number := k, status := .running }, .pick, s.seconds, .recover, false⟩ })

/-- RECOVER (R54). -/
def recoverRequest (st : Station) (tag : Byte) (b : List Byte) (s : State) : State :=
  let n := field b 0 2
  let place := byteAt b 2
  match recoverChecks n place s with
  | .error c => refuse st tag 0x43 c s
  | .ok c =>
    let home := c.home.getD 0
    if place ≠ 0 ∧ place = home then
      if s.slotReads home then
        settle (addReply st ⟨tag, 0x43, .done, .none⟩ (setLocation n .shelf none s).wantPass)
      else refuse st tag 0x43 .sourceEmpty s
    else if s.arm.level = .normal then
      match askOrder (recoverOrder n place home) s with
      | .error _ => refuse st tag 0x43 .listFull s
      | .ok (k, s) => settle (addReply st ⟨tag, 0x43, .done, .order k⟩ s)
    else if s.arm.moving.isSome then refuse st tag 0x43 .armBusy s
    else settle (recoverNow st tag (recoverOrder n place home) s)

/-! ### FAULT_QUERY and LIBRARY_QUERY (R57, R39) -/

def groupCount (s : State) (g : Group) : GroupCount :=
  let os := s.arm.orders.filter fun o => o.group = g
  ⟨(os.filter fun o => o.status = .waiting).length, (os.filter (ready s)).length⟩

/-- The FAULT_QUERY reply (R57). -/
def faultInfo (s : State) : FaultInfo where
  level := s.arm.level
  moving := s.arm.moving.isSome
  running := s.arm.moving.map fun m => (m.order, m.phase, Config.moveTime - s.elapsed m.started)
  primary := s.arm.primary
  secondary := s.arm.secondary
  orders := s.arm.orders.length
  filing := groupCount s .filing
  fetch := groupCount s .fetch
  lib := groupCount s .lib
  hold := groupCount s .hold
  priorities := s.arm.priorities
  history := s.arm.history
  mismatchCount := s.arm.mismatchCount
  mismatch := s.arm.mismatch

/-- FAULT_QUERY (R57). -/
def faultQueryRequest (st : Station) (tag : Byte) (s : State) : State :=
  addReply st ⟨tag, 0x44, .done, .faults (faultInfo s)⟩ s

def locationCount (s : State) (p : Location → Bool) : Nat := (s.library.table.filter fun c => p c.location).length

/-- The LIBRARY_QUERY reply for the whole library (R39). -/
def libraryInfo (s : State) : LibraryInfo where
  onShelf := locationCount s (· == .shelf)
  inDrive := locationCount s fun l => match l with | .drive _ => true | _ => false
  onArm := locationCount s (· == .arm)
  inSlot := locationCount s (· == .loadingSlot)
  exported := locationCount s (· == .exported)
  missing := locationCount s (· == .missing)
  records := s.library.table.length
  pool := s.poolSize
  lowMark := s.library.lowMark
  slot := s.library.slot
  inspections := s.library.inspections.map fun i => (i.phase, i.place)
  exports := s.library.exports.length
  nextCart := s.library.nextCart
  nextVol := s.library.nextVol
  lastReject := s.library.lastReject

/-- LIBRARY_QUERY (R39). -/
def libraryQueryRequest (st : Station) (tag : Byte) (b : List Byte) (s : State) : State :=
  let n := field b 0 2
  if n = 0 then addReply st ⟨tag, 0x45, .done, .library (libraryInfo s)⟩ s
  else
    match s.cart? n with
    | none => refuse st tag 0x45 .noCartridge s
    | some c => addReply st ⟨tag, 0x45, .done, .cartridge c⟩ s

end Sys2Proof.Machine
end

