-- ==== Sys2Proof/Machine/SuperviseRequests.lean ====
section
/-! DEFINITION. The requests of the SUPERVISE family (R46, R182, R188, R189, R197, R198; SET_DATE stands with the day close),
and those any station may send: TAKE_NOTICE (R195), SET_THRESHOLD (R196), NOTICE_QUERY (R199) and STATUS (R190). -/

namespace Sys2Proof.Machine

open Sys2Proof

/-! ### SET_PROFILE (R182) -/

def stationOf (n : Nat) : Option Station := if h : n < 4 then some ⟨n, h⟩ else none

/-- Station `t` is the only one whose profile holds SUPERVISE (R182). -/
def onlySupervisor (s : State) (t : Station) : Bool :=
  (s.link t).profile.supervise && allStations.all fun u => u = t || !(s.link u).profile.supervise

/-- SET_PROFILE (R182). -/
def setProfileRequest (st : Station) (tag : Byte) (b : List Byte) (s : State) : State :=
  let f := familiesOf (byteAt b 1)
  match stationOf (byteAt b 0) with
  | none => refuse st tag 0x50 .badRequest s
  | some t =>
    if !f.supervise && onlySupervisor s t then refuse st tag 0x50 .lastSupervisor s
    else addReply st ⟨tag, 0x50, .done, .profile f⟩ (s.updLink t fun l => { l with profile := f })

/-! ### SET_TIMERS (R188, R59) -/

/-- A value clamped to a range (R188). -/
def clamp (lo hi v : Nat) : Nat := max lo (min v hi)

/-- The settings after a SET_TIMERS (R188). -/
def newTimers (b : List Byte) (t : Timers) : Timers :=
  let m := byteAt b 0
  ⟨((masked m 0 (field b 1 4)).map (clamp 0 3600)).getD t.idleDelay,
    ((masked m 1 (field b 5 4)).map (clamp 0 86400)).getD t.holdLimit,
    ((masked m 2 (field b 9 4)).map (clamp 10 600)).getD t.fetchStall,
    ((masked m 3 (field b 13 4)).map (clamp 30 3600)).getD t.filingStall⟩

/-- An order's stall timer has run for the limit (R138). -/
def fetchStallDue (s : State) (o : FetchOrder) : Bool :=
  match o.stall with
  | some t => s.timers.fetchStall ≤ s.elapsed t
  | none => false

/-- The filing stall timer has run for the limit and its mark is clear (R115). -/
def filingStallDue (s : State) : Bool :=
  match s.run.stall with
  | some t => s.timers.filingStall ≤ s.elapsed t && !s.run.stallSent
  | none => false

/-- The idle timer of drive `d` expires, if it has run its time (R71). -/
def idleExpiry (d : DriveId) (s : State) : State := if idleDue s (s.drive d) then goStandby d s else s

/-- The hold timer of drive `d` expires, if it has run its time (R72). -/
def holdExpiry (d : DriveId) (s : State) : State := if holdDue s (s.drive d) then askHold d s else s

/-- A fetch's stall timer reaches the limit, if it has run its time (R138). -/
def fetchStallExpiry (id : FetchId) (s : State) : State :=
  match s.order? id with
  | some o => if fetchStallDue s o then completeFetch id .stalled s else s
  | none => s

/-- The filing stall timer reaches its limit, if it has run its time (R115). -/
def filingStallExpiry (s : State) : State :=
  if filingStallDue s then noticeSet nFilingStalled (s.updRun fun r => { r with stallSent := true }) else s

/-- The hold timer of a drive in STANDBY after a change of the hold limit: it runs while the limit is not 0 (R72). -/
def holdAfter (now old new : Nat) (x : Drive) : Drive :=
  if new = 0 then { x with hold := none }
  else if old = 0 ∧ x.state = .standby ∧ x.hold.isNone ∧ x.pendingHold.isNone ∧ !x.holdKept then { x with hold := some now }
  else x

/-- A change of the settings applies at once to timers already running: one that has run its new time expires (R59). DESIGN
CHOICE (notes/assumptions/80.md): of several, after the reply, for each drive ascending idle and hold, then the fetches in
admission order, then the filing stall. -/
def applyTimers (old : Timers) (s : State) : State :=
  let s := { s with drives := s.drives.map (holdAfter s.seconds old.holdLimit s.timers.holdLimit) }
  let s := allDrives.foldl (fun s d => holdExpiry d (idleExpiry d s)) s
  let s := (s.fetch.orders.map (·.id)).foldl (fun s id => fetchStallExpiry id s) s
  filingStallExpiry s

/-- SET_TIMERS (R188). -/
def setTimersRequest (st : Station) (tag : Byte) (b : List Byte) (s : State) : State :=
  let new := newTimers b s.timers
  let old := s.timers
  let s := addReply st ⟨tag, 0x51, .done, .timers new⟩ { s with timers := new }
  if byteAt b 0 = 0 then s else settle (applyTimers old s)

/-! ### SET_OPTIONS and SET_ARM_PRIORITY (R189, R46) -/

/-- SET_OPTIONS (R189). DESIGN CHOICE (notes/assumptions/82.md): a low mark that is named is judged by R26 also when it is
the one already held. -/
def setOptionsRequest (st : Station) (tag : Byte) (b : List Byte) (s : State) : State :=
  let m := byteAt b 0
  let reserve := masked m 0 (byteAt b 1)
  let low := (masked m 1 (byteAt b 2)).map (min 64)
  if reserve.any (fun v => 1 < v) then refuse st tag 0x52 .badRequest s
  else
    let s := s.updPlanner fun q => { q with reserve := match reserve with | some v => v == 1 | none => q.reserve }
    let s :=
      match low with
      | some v => judgePool (s.updLibrary fun l => { l with lowMark := v })
      | none => s
    addReply st ⟨tag, 0x52, .done, .options s.planner.reserve s.library.lowMark⟩ s

/-- SET_ARM_PRIORITY (R46). -/
def setPriorityRequest (st : Station) (tag : Byte) (b : List Byte) (s : State) : State :=
  let p : Priorities := ⟨byteAt b 0, byteAt b 1, byteAt b 2, byteAt b 3⟩
  let vs := [p.filing, p.fetch, p.lib, p.hold]
  if vs.all (fun v => v ≤ 3) ∧ vs.Nodup then
    addReply st ⟨tag, 0x54, .done, .none⟩ (s.updArm fun a => { a with priorities := p })
  else refuse st tag 0x54 .priorityConflict s

/-! ### NOTICE_CONFIG and the station signals (R197, R198) -/

/-- A source's settings after a NOTICE_CONFIG. -/
def configured (x : Source) (level target enable : Option Nat) : Source :=
  { x with
    level := level.getD x.level
    target := (target.bind stationOf).getD x.target
    enabled := match enable with | some v => v == 1 | none => x.enabled }

/-- NOTICE_CONFIG (R197). -/
def noticeConfigRequest (st : Station) (tag : Byte) (b : List Byte) (s : State) : State :=
  let i := byteAt b 0
  let m := byteAt b 1
  let level := masked m 0 (byteAt b 2)
  let target := masked m 1 (byteAt b 3)
  let enable := masked m 2 (byteAt b 4)
  if i = 0 ∨ i > 24 ∨ level.any (fun v => 7 < v) ∨ target.any (fun v => 3 < v) ∨ enable.any (fun v => 1 < v) then
    refuse st tag 0x55 .badRequest s
  else
    let old := s.source i
    let new := configured old level target enable
    let s := addReply st ⟨tag, 0x55, .done, .source i new⟩ (s.updSource i fun _ => new)
    if m = 0 then s
    else
      let s := judge old.target s
      if new.target = old.target then s else judge new.target s

/-- SIGNAL_SET and SIGNAL_CLEAR (R198): `v` is the flag's new value. -/
def signalRequest (st : Station) (tag code : Byte) (v : Bool) (b : List Byte) (s : State) : State :=
  let k := byteAt b 0
  if k > 2 then refuse st tag code .badRequest s
  else
    let i := nSignal k
    let x := s.source i
    judge x.target
      (addReply st ⟨tag, code, .done, .wasPending x.pending⟩ (s.updSource i fun x => { x with pending := v }))

/-! ### TAKE_NOTICE, SET_THRESHOLD and NOTICE_QUERY (R195, R196, R199) -/

/-- The second judgement of TAKE_NOTICE: a set still not empty brings a further attention frame (R195). -/
def judgeTaken (st : Station) (s : State) : State :=
  if (deliverable s st).isEmpty then s.updLink st fun l => { l with attentionSent := false }
  else askAttention st (s.updLink st fun l => { l with attentionSent := true })

/-- TAKE_NOTICE (R195). -/
def takeNoticeRequest (st : Station) (tag : Byte) (s : State) : State :=
  match mostUrgent s (deliverable s st) with
  | none => addReply st ⟨tag, 0x60, .done, .notice 0 0⟩ (s.updLink st fun l => { l with attentionSent := false })
  | some i =>
    let s := addReply st ⟨tag, 0x60, .done, .notice i (s.source i).level⟩ s
    judgeTaken st (s.updSource i fun x => { x with pending := false })

/-- SET_THRESHOLD (R196). -/
def setThresholdRequest (st : Station) (tag : Byte) (b : List Byte) (s : State) : State :=
  let v := min (byteAt b 0) 7
  judge st (addReply st ⟨tag, 0x61, .done, .threshold v⟩ (s.updLink st fun l => { l with threshold := v }))

/-- The pending sources in ascending index (R199). -/
def pendingLines (s : State) : List NoticeLine :=
  (sourceNumbers.filter fun i => (s.source i).pending).map fun i =>
    ⟨i, (s.source i).level, (s.source i).target, (s.source i).enabled⟩

/-- NOTICE_QUERY (R199). -/
def noticeQueryRequest (st : Station) (tag : Byte) (s : State) : State :=
  addReply st ⟨tag, 0x62, .done, .notices (pendingLines s) (s.link st).threshold (deliverable s st).length⟩ s

/-! ### STATUS (R77, R94, R123, R147, R174, R190, R199) -/

def stationStatus (s : State) (t : Station) : StationStatus where
  link := (s.link t).state
  profile := (s.link t).profile
  outstanding := (s.link t).outstanding.map fun e => (e.tag, e.kind)
  credit := (s.link t).credit
  threshold := (s.link t).threshold
  cause := (s.link t).cause
  deliverable := (deliverable s t).length
  attentionSent := (s.link t).attentionSent

def driveStatus (s : State) (d : DriveId) : DriveStatus where
  state := (s.drive d).state
  fitted := (s.drive d).fitted
  cart := (s.drive d).cart
  sideUp := (s.drive d).sideUp
  queued := (s.drive d).queue.length
  pin := (s.drive d).pin
  fault := (s.drive d).fault
  sinceActive := s.elapsed (s.drive d).lastActive

def runStatus (s : State) : RunStatus where
  state := s.run.state
  owner := s.run.owner
  source := s.run.source
  feeClass := s.run.feeClass
  failure := s.run.failure
  current := s.run.current.map fun i => (i.number, i.pages, i.content, i.extentCount, i.rewrites)
  postedPages := s.run.postedPages
  postedSectors := s.run.postedSectors
  discard := s.run.discard
  pendingSep := s.run.pendingSep
  head := s.run.head
  tail := s.run.tail
  slots := s.run.ring.map (·.complete)
  engaged := s.run.engaged
  counts := s.run.counts
  lastTag := s.run.lastTag
  stallSeconds := s.run.stall.map s.elapsed

/-- The unit running on the order's drive is the order's (R125). -/
def runningUnit (s : State) (o : FetchOrder) : Option UnitWork :=
  match o.place with
  | .waitList => none
  | .drive d =>
    match (s.drive d).unit with
    | some ⟨.trailerRead id a b, false⟩ => if id = o.id then some (.trailerRead id a b) else none
    | some ⟨.pageRead id b ps i n, false⟩ => if id = o.id then some (.pageRead id b ps i n) else none
    | _ => none

/-- The phase of an order, by the first line of R125 that fits. -/
def fetchPhase (s : State) (o : FetchOrder) : FetchPhase :=
  match o.place, runningUnit s o with
  | .waitList, _ => .waitingVolume
  | _, some (.trailerRead ..) => .readingIndex
  | _, some (.pageRead ..) => .readingPage
  | _, _ => if o.staged.isSome then .staged else if o.delivery.isSome then .delivering else .queued

def fetchStatus (s : State) (o : FetchOrder) : FetchStatus where
  id := o.id
  phase := fetchPhase s o
  place := o.place
  next := o.next
  delivered := o.delivered
  unreadable := o.unreadable
  stallSeconds := o.stall.map s.elapsed

/-- The number of fetch orders in phase `p` (R147). -/
def phaseCount (s : State) (p : FetchPhase) : Nat := (s.fetch.orders.filter fun o => fetchPhase s o = p).length

/-- The number of fetch orders in each phase (R147). -/
def phaseCounts (s : State) : PhaseCounts where
  waitingVolume := phaseCount s .waitingVolume
  readingIndex := phaseCount s .readingIndex
  readingPage := phaseCount s .readingPage
  staged := phaseCount s .staged
  delivering := phaseCount s .delivering
  queued := phaseCount s .queued

def feeStatus (s : State) : FeeStatus where
  date := s.fee.date
  journal := s.fee.journal.length
  reservations := s.fee.reservations
  holds := s.fee.holds.length
  receipt := s.fee.receipt
  accounts := s.fee.accounts.length
  todaySaturated := s.fee.today.saturated
  previousSaturated := s.fee.previous.saturated

/-- The STATUS reply (R190). -/
def statusInfo (s : State) : StatusInfo where
  seconds := s.seconds
  initialised := s.initialised
  stations := #v[stationStatus s 0, stationStatus s 1, stationStatus s 2, stationStatus s 3]
  level := s.arm.level
  moving := s.arm.moving.isSome
  armOrders := s.arm.orders.length
  timers := s.timers
  reserve := s.planner.reserve
  lowMark := s.library.lowMark
  pool := s.poolSize
  drives := #v[driveStatus s 0, driveStatus s 1, driveStatus s 2, driveStatus s 3]
  waiters := s.planner.waiters.length
  offLine := (s.planner.waiters.filter (·.offLine)).length
  plans := s.planner.plans
  filingReq := s.planner.filingReq.isSome
  inspReq := s.planner.inspReq.isSome
  run := runStatus s
  phases := phaseCounts s
  fetches := s.fetch.orders.map (fetchStatus s)
  buffersInUse := (s.fetch.buffers.toList.filter (·.isSome)).length
  fee := feeStatus s
  pendingSources := (pendingLines s).length

/-- STATUS (R190). -/
def statusRequest (st : Station) (tag : Byte) (s : State) : State :=
  addReply st ⟨tag, 0x63, .done, .status (statusInfo s)⟩ s

end Sys2Proof.Machine
end

