-- ==== Sys2Proof/Machine/Links.lean ====
section
/-! DEFINITION. The Station Link Units (chapter 9): admission of requests (R183), received frames (R177, R178, R186, R203),
link reset (R186, R187), the station events, and the end of a sent frame (R179). -/

namespace Sys2Proof.Machine

open Sys2Proof

/-! ### Admission (R181, R183, R204) -/

/-- A request that has passed the Station Links checks and decoding, taken by its owning block. -/
def serve (r : Req) (st : Station) (tag : Byte) (b : List Byte) (s : State) : State :=
  match r with
  | .fetch => fetchRequest st tag b s
  | .cancelFetch => cancelRequest st tag b s
  | .quote => quoteRequest st tag b s
  | .locate => locateRequest st tag b s
  | .find => findRequest st tag b s
  | .openInstrument => openRequest st tag b s
  | .postPage => postRequest st tag b s
  | .closeInstrument => closeRequest st tag s
  | .abortInstrument => abortRequest st tag s
  | .accountOpen => accountOpenRequest st tag b s
  | .accountUpdate => accountUpdateRequest st tag b s
  | .accountCredit => accountCreditRequest st tag b s
  | .accountClose => accountCloseRequest st tag b s
  | .accountQuery => accountQueryRequest st tag b s
  | .setSchedule => setScheduleRequest st tag b s
  | .setCategoryDiscount => setDiscountRequest st tag b s
  | .dayClose => dayCloseRequest st tag s
  | .journalTake => journalTakeRequest st tag s
  | .tallyQuery => tallyQueryRequest st tag b s
  | .exportCartridge => exportRequest st tag b s
  | .driveReset => driveResetRequest st tag b s
  | .faultClear => faultClearRequest st tag b s
  | .recover => recoverRequest st tag b s
  | .faultQuery => faultQueryRequest st tag s
  | .libraryQuery => libraryQueryRequest st tag b s
  | .setProfile => setProfileRequest st tag b s
  | .setTimers => setTimersRequest st tag b s
  | .setOptions => setOptionsRequest st tag b s
  | .setDate => setDateRequest st tag b s
  | .setArmPriority => setPriorityRequest st tag b s
  | .noticeConfig => noticeConfigRequest st tag b s
  | .signalSet => signalRequest st tag 0x56 true b s
  | .signalClear => signalRequest st tag 0x57 false b s
  | .takeNotice => takeNoticeRequest st tag s
  | .setThreshold => setThresholdRequest st tag b s
  | .noticeQuery => noticeQueryRequest st tag s
  | .status => statusRequest st tag s

/-- The Station Link Unit's refusal of a request that names one, if any (R183 checks 2 to 4). -/
def linkRefusal (r : Req) (l : Link) (tag : Byte) : Option Status :=
  if !r.allowed l.profile then some .notPermitted
  else if r.isLong ∧ l.outstanding.length ≥ Config.outstandingMax then some .queueFull
  else if l.outstanding.any (fun e => e.tag = tag) then some .tagInUse
  else none

/-- A REQUEST frame is taken (R183, R204): the Station Links checks, the decoding, then the owning block. -/
def takeRequest (st : Station) (tag code : Byte) (b : List Byte) (s : State) : State :=
  match Req.ofCode code with
  | none => refuse st tag code .badRequest s
  | some r =>
    match linkRefusal r (s.link st) tag with
    | some c => refuse st tag code c s
    | none => if decodes r b then serve r st tag b s else refuse st tag code .badRequest s

/-- A REQUEST frame is taken with its whole body: one of 0 bytes is answered BAD_REQUEST with reply kind 00h (R203). -/
def takeBody (st : Station) (tag : Byte) (body : List Byte) (s : State) : State :=
  match body with
  | [] => refuse st tag 0x00 .badRequest s
  | code :: b => takeRequest st tag code b s

/-! ### Link reset (R186, R187) -/

/-- Steps 1 to 3 and 6 of a link reset, and the LINK_RESET frame that is due (R180, R186, R187): a frame being received is
discarded, so that the receiver hunts. -/
def cleanLink (cause : ResetCause) (l : Link) : Link :=
  { l with
    state := .resetting, cause := cause, outstanding := [], buffer := none, replies := [], attentionWaiting := false
    sending := none, credit := 0, threshold := 0, attentionSent := false, resetDue := true, receiver := .hunting }

/-- The EXPORTs and DRIVE_RESETs of a station go on without their replies (R35, R76, R187), whatever tags it uses next. -/
def dropReplies (st : Station) (s : State) : State :=
  let s := s.updLibrary fun l =>
    { l with exports := l.exports.map fun e => if e.station = st then { e with replyDue := false } else e }
  { s with drives := s.drives.map fun x => if x.resetBy.any (·.station = st) then { x with resetBy := none } else x }

/-- A link reset of a station, as one step (R187, R201): its context cleaned, its exports and drive resets left to end
without replies, its fetches completed LINK_RESET in admission order, and a filing run it owns aborted without replies
(R120). -/
def resetLink (st : Station) (cause : ResetCause) (s : State) : State :=
  let s := dropReplies st (s.updLink st (cleanLink cause))
  let mine := (s.fetch.orders.filter fun o => o.id.station = st).map (·.id)
  let s := completeAll mine .linkReset s
  let s := if s.run.state ≠ .closed ∧ s.run.owner = st then abortRun s else s
  settle (s.updLink st fun l => { l with sendList := [] })

/-- A LINK_RESET is due again while RESETTING (R186). -/
def resetAgain (st : Station) (s : State) : State := s.updLink st fun l => { l with resetDue := true }

/-- A valid station frame brings a RESETTING link UP, and the deliverable set is judged (R186, R194). -/
def linkUp (st : Station) (s : State) : State :=
  if (s.link st).state = .resetting then judge st (s.updLink st fun l => { l with state := .up }) else s

/-- A frame that cannot be trusted: link reset in UP, a LINK_RESET due again in RESETTING (R177, R186). Before the
receivers are turned on nothing is received (R191). -/
def badFrame (st : Station) (cause : ResetCause) (s : State) : State :=
  if !s.reconciled then s
  else if (s.link st).state = .up then resetLink st cause s
  else resetAgain st s

/-! ### Received frames (R177, R178, R186, R203) -/

/-- A valid frame of kind REQUEST, PAGE or CREDIT: not received before the receivers are on (R191); an overrun while the
buffer holds a REQUEST (R178); otherwise the link is UP and the frame is dealt with. -/
def receiveFrame (st : Station) (deal : State → State) (s : State) : State :=
  if !s.reconciled then s
  else if (s.link st).buffer.isSome then resetLink st .overrun s
  else deal (linkUp st s)

/-- A REQUEST is taken while fewer than 16 replies wait, and held in the receive buffer otherwise (R178); one with an
empty body too (notes/assumptions/18.md). -/
def dealRequest (st : Station) (tag : Byte) (body : List Byte) (s : State) : State :=
  if (s.link st).replies.length < Config.heldAt then takeBody st tag body s
  else s.updLink st fun l => { l with buffer := some ⟨tag, body⟩ }

/-- A REQUEST frame is received. -/
def receiveRequest (st : Station) (tag : Byte) (body : List Byte) (s : State) : State :=
  receiveFrame st (dealRequest st tag body) s

/-- The stall timers of a station's orders stop when its credit has risen above 0; one that holds a staged page still,
once the credit is spent, starts afresh (R138, R185). -/
def stopStalls (st : Station) (s : State) : State :=
  if (s.link st).credit = 0 then s
  else
    s.updFetch fun e => { e with orders := e.orders.map fun o => if o.id.station = st then { o with stall := none } else o }

/-- A CREDIT frame (R185, R203): the credit rises, clamped to 8, stall timers stop and deliveries are judged; a body that
is not 1 byte is discarded. -/
def dealCredit (st : Station) (b : List Byte) (s : State) : State :=
  match b with
  | [n] => settle (stopStalls st (s.updLink st fun l => { l with credit := min (l.credit + n.toNat) Config.creditMax }))
  | _ => s

/-- A valid LINK_RESET frame from the station (R177, R186): a link reset in UP, the link UP in RESETTING. -/
def receiveReset (st : Station) (s : State) : State :=
  if !s.reconciled then s
  else if (s.link st).buffer.isSome then resetLink st .overrun s
  else if (s.link st).state = .up then resetLink st .stationReset s
  else linkUp st s

/-- A valid frame of a kind the part does not receive (R177, R178, R186): an overrun while the buffer holds a REQUEST. -/
def receiveKind (st : Station) (s : State) : State :=
  badFrame st (if (s.link st).buffer.isSome then .overrun else .unknownKind) s

/-- Carrier loss (R175, R186): a link reset in UP; RESETTING stays. -/
def loseCarrier (st : Station) (s : State) : State :=
  if s.reconciled ∧ (s.link st).state = .up then resetLink st .carrierLoss s else s

/-- An overrun (R178): a frame has completed while the buffer held a REQUEST; both are discarded and the link is reset. -/
def overrunReset (st : Station) (s : State) : State :=
  if s.reconciled ∧ (s.link st).state = .up then resetLink st .overrun s else s

/-! ### The end of a sent frame (R178, R179) -/

/-- A reply has left the queue: a REQUEST held in the buffer is taken once fewer than 16 wait (R178). -/
def takeHeld (st : Station) (s : State) : State :=
  match (s.link st).buffer with
  | none => s
  | some h =>
    if (s.link st).replies.length < Config.heldAt then
      takeBody st h.tag h.body (s.updLink st fun l => { l with buffer := none })
    else s

/-- What follows the end of a frame, by its source (R137, R179). -/
def afterSent (st : Station) (f : TxFrame) (s : State) : State :=
  match f with
  | .reply _ => takeHeld st (s.updLink st fun l => { l with replies := l.replies.drop 1 })
  | .data (some id) _ _ _ last _ => dataSent id last s
  | .data none .. => s
  | .attention => s
  | .linkReset _ => s

/-- The transmitter has finished a frame (R179); with none being sent nothing happens. -/
def frameDone (st : Station) (s : State) : State :=
  match (s.link st).sending with
  | none => s
  | some f => settle (afterSent st f (s.updLink st fun l => { l with sending := none }))

end Sys2Proof.Machine
end

