-- ==== Sys2Proof/Machine/Requests.lean ====
section
/-! DEFINITION. The meaning of each REQUEST row: the frame is received (R177, R178, R186), admitted (R183), decoded (R204)
and served by its owning block, with its own rule. -/

namespace Sys2Proof.Machine

open Sys2Proof

/-- A command has had its whole effect: the transmitters choose their next frames (R179), and the state is the next. -/
def done (s : State) : Host.Outcome State Fault Refusal := .next (transmit s)

/-- FETCH (R126-R129). -/
def execFetch (st : Station) (tag : Byte) (body : List Byte) (s : State) : Host.Outcome State Fault Refusal :=
  done (receiveRequest st tag (Req.fetch.code :: body) s)

/-- CANCEL_FETCH (R142). -/
def execCancelFetch (st : Station) (tag : Byte) (body : List Byte) (s : State) : Host.Outcome State Fault Refusal :=
  done (receiveRequest st tag (Req.cancelFetch.code :: body) s)

/-- QUOTE (R146). -/
def execQuote (st : Station) (tag : Byte) (body : List Byte) (s : State) : Host.Outcome State Fault Refusal :=
  done (receiveRequest st tag (Req.quote.code :: body) s)

/-- LOCATE (R6). -/
def execLocate (st : Station) (tag : Byte) (body : List Byte) (s : State) : Host.Outcome State Fault Refusal :=
  done (receiveRequest st tag (Req.locate.code :: body) s)

/-- FIND (R7, R8). -/
def execFind (st : Station) (tag : Byte) (body : List Byte) (s : State) : Host.Outcome State Fault Refusal :=
  done (receiveRequest st tag (Req.find.code :: body) s)

/-- OPEN_INSTRUMENT (R97, R98). -/
def execOpenInstrument (st : Station) (tag : Byte) (body : List Byte) (s : State) : Host.Outcome State Fault Refusal :=
  done (receiveRequest st tag (Req.openInstrument.code :: body) s)

/-- POST_PAGE (R104). -/
def execPostPage (st : Station) (tag : Byte) (body : List Byte) (s : State) : Host.Outcome State Fault Refusal :=
  done (receiveRequest st tag (Req.postPage.code :: body) s)

/-- CLOSE_INSTRUMENT (R111). -/
def execCloseInstrument (st : Station) (tag : Byte) (body : List Byte) (s : State) : Host.Outcome State Fault Refusal :=
  done (receiveRequest st tag (Req.closeInstrument.code :: body) s)

/-- ABORT_INSTRUMENT (R113). -/
def execAbortInstrument (st : Station) (tag : Byte) (body : List Byte) (s : State) : Host.Outcome State Fault Refusal :=
  done (receiveRequest st tag (Req.abortInstrument.code :: body) s)

/-- ACCOUNT_OPEN (R167). -/
def execAccountOpen (st : Station) (tag : Byte) (body : List Byte) (s : State) : Host.Outcome State Fault Refusal :=
  done (receiveRequest st tag (Req.accountOpen.code :: body) s)

/-- ACCOUNT_UPDATE (R168). -/
def execAccountUpdate (st : Station) (tag : Byte) (body : List Byte) (s : State) : Host.Outcome State Fault Refusal :=
  done (receiveRequest st tag (Req.accountUpdate.code :: body) s)

/-- ACCOUNT_CREDIT (R169). -/
def execAccountCredit (st : Station) (tag : Byte) (body : List Byte) (s : State) : Host.Outcome State Fault Refusal :=
  done (receiveRequest st tag (Req.accountCredit.code :: body) s)

/-- ACCOUNT_CLOSE (R170). -/
def execAccountClose (st : Station) (tag : Byte) (body : List Byte) (s : State) : Host.Outcome State Fault Refusal :=
  done (receiveRequest st tag (Req.accountClose.code :: body) s)

/-- ACCOUNT_QUERY (R171). -/
def execAccountQuery (st : Station) (tag : Byte) (body : List Byte) (s : State) : Host.Outcome State Fault Refusal :=
  done (receiveRequest st tag (Req.accountQuery.code :: body) s)

/-- SET_SCHEDULE (R172). -/
def execSetSchedule (st : Station) (tag : Byte) (body : List Byte) (s : State) : Host.Outcome State Fault Refusal :=
  done (receiveRequest st tag (Req.setSchedule.code :: body) s)

/-- SET_CATEGORY_DISCOUNT (R173). -/
def execSetCategoryDiscount (st : Station) (tag : Byte) (body : List Byte) (s : State) : Host.Outcome State Fault Refusal :=
  done (receiveRequest st tag (Req.setCategoryDiscount.code :: body) s)

/-- DAY_CLOSE (R165). -/
def execDayClose (st : Station) (tag : Byte) (body : List Byte) (s : State) : Host.Outcome State Fault Refusal :=
  done (receiveRequest st tag (Req.dayClose.code :: body) s)

/-- JOURNAL_TAKE (R163). -/
def execJournalTake (st : Station) (tag : Byte) (body : List Byte) (s : State) : Host.Outcome State Fault Refusal :=
  done (receiveRequest st tag (Req.journalTake.code :: body) s)

/-- TALLY_QUERY (R164). -/
def execTallyQuery (st : Station) (tag : Byte) (body : List Byte) (s : State) : Host.Outcome State Fault Refusal :=
  done (receiveRequest st tag (Req.tallyQuery.code :: body) s)

/-- EXPORT (R33). -/
def execExportCartridge (st : Station) (tag : Byte) (body : List Byte) (s : State) : Host.Outcome State Fault Refusal :=
  done (receiveRequest st tag (Req.exportCartridge.code :: body) s)

/-- DRIVE_RESET (R75). -/
def execDriveReset (st : Station) (tag : Byte) (body : List Byte) (s : State) : Host.Outcome State Fault Refusal :=
  done (receiveRequest st tag (Req.driveReset.code :: body) s)

/-- FAULT_CLEAR_RETRY (R52; a body of kind 00h, R205). -/
def execFaultClearRetry (st : Station) (tag : Byte) (body : List Byte) (s : State) : Host.Outcome State Fault Refusal :=
  done (receiveRequest st tag (Req.faultClear.code :: body) s)

/-- FAULT_CLEAR_ABANDON (R53; a body of kind 01h, R205). -/
def execFaultClearAbandon (st : Station) (tag : Byte) (body : List Byte) (s : State) : Host.Outcome State Fault Refusal :=
  done (receiveRequest st tag (Req.faultClear.code :: body) s)

/-- RECOVER (R54). -/
def execRecover (st : Station) (tag : Byte) (body : List Byte) (s : State) : Host.Outcome State Fault Refusal :=
  done (receiveRequest st tag (Req.recover.code :: body) s)

/-- FAULT_QUERY (R57). -/
def execFaultQuery (st : Station) (tag : Byte) (body : List Byte) (s : State) : Host.Outcome State Fault Refusal :=
  done (receiveRequest st tag (Req.faultQuery.code :: body) s)

/-- LIBRARY_QUERY (R39). -/
def execLibraryQuery (st : Station) (tag : Byte) (body : List Byte) (s : State) : Host.Outcome State Fault Refusal :=
  done (receiveRequest st tag (Req.libraryQuery.code :: body) s)

/-- SET_PROFILE (R182). -/
def execSetProfile (st : Station) (tag : Byte) (body : List Byte) (s : State) : Host.Outcome State Fault Refusal :=
  done (receiveRequest st tag (Req.setProfile.code :: body) s)

/-- SET_TIMERS (R188). -/
def execSetTimers (st : Station) (tag : Byte) (body : List Byte) (s : State) : Host.Outcome State Fault Refusal :=
  done (receiveRequest st tag (Req.setTimers.code :: body) s)

/-- SET_OPTIONS (R189). -/
def execSetOptions (st : Station) (tag : Byte) (body : List Byte) (s : State) : Host.Outcome State Fault Refusal :=
  done (receiveRequest st tag (Req.setOptions.code :: body) s)

/-- SET_DATE (R166). -/
def execSetDate (st : Station) (tag : Byte) (body : List Byte) (s : State) : Host.Outcome State Fault Refusal :=
  done (receiveRequest st tag (Req.setDate.code :: body) s)

/-- SET_ARM_PRIORITY (R46). -/
def execSetArmPriority (st : Station) (tag : Byte) (body : List Byte) (s : State) : Host.Outcome State Fault Refusal :=
  done (receiveRequest st tag (Req.setArmPriority.code :: body) s)

/-- NOTICE_CONFIG (R197). -/
def execNoticeConfig (st : Station) (tag : Byte) (body : List Byte) (s : State) : Host.Outcome State Fault Refusal :=
  done (receiveRequest st tag (Req.noticeConfig.code :: body) s)

/-- SIGNAL_SET (R198). -/
def execSignalSet (st : Station) (tag : Byte) (body : List Byte) (s : State) : Host.Outcome State Fault Refusal :=
  done (receiveRequest st tag (Req.signalSet.code :: body) s)

/-- SIGNAL_CLEAR (R198). -/
def execSignalClear (st : Station) (tag : Byte) (body : List Byte) (s : State) : Host.Outcome State Fault Refusal :=
  done (receiveRequest st tag (Req.signalClear.code :: body) s)

/-- TAKE_NOTICE (R195). -/
def execTakeNotice (st : Station) (tag : Byte) (body : List Byte) (s : State) : Host.Outcome State Fault Refusal :=
  done (receiveRequest st tag (Req.takeNotice.code :: body) s)

/-- SET_THRESHOLD (R196). -/
def execSetThreshold (st : Station) (tag : Byte) (body : List Byte) (s : State) : Host.Outcome State Fault Refusal :=
  done (receiveRequest st tag (Req.setThreshold.code :: body) s)

/-- NOTICE_QUERY (R199). -/
def execNoticeQuery (st : Station) (tag : Byte) (body : List Byte) (s : State) : Host.Outcome State Fault Refusal :=
  done (receiveRequest st tag (Req.noticeQuery.code :: body) s)

/-- STATUS (R190). -/
def execStatus (st : Station) (tag : Byte) (body : List Byte) (s : State) : Host.Outcome State Fault Refusal :=
  done (receiveRequest st tag (Req.status.code :: body) s)

/-- REQUEST_UNKNOWN_CODE (R183): the code names no request, BAD_REQUEST with that code as reply kind. -/
def execRequestUnknownCode (st : Station) (tag code : Byte) (body : List Byte) (s : State) :
    Host.Outcome State Fault Refusal :=
  done (receiveRequest st tag (code :: body) s)

/-- REQUEST_EMPTY_BODY (R203). -/
def execRequestEmptyBody (st : Station) (tag : Byte) (s : State) : Host.Outcome State Fault Refusal :=
  done (receiveRequest st tag [] s)

end Sys2Proof.Machine
end

