-- ==== Sys2Proof/Machine/LinkEvents.lean ====
section
/-! DEFINITION. The meaning of each row for the other frames of a link and for the link's own events (chapter 9). -/

namespace Sys2Proof.Machine

open Sys2Proof

/-- PAGE (R105, R177, R203). -/
def execPage (st : Station) (tag : Byte) (body : List Byte) (s : State) : Host.Outcome State Fault Refusal :=
  done (receiveFrame st (pageFrame st tag body) s)

/-- CREDIT (R185, R203); its tag is ignored (R177). -/
def execCredit (st : Station) (_tag : Byte) (body : List Byte) (s : State) : Host.Outcome State Fault Refusal :=
  done (receiveFrame st (dealCredit st body) s)

/-- LINK_RESET (R186); its tag and body are not examined (R177, section 11.2). -/
def execLinkReset (st : Station) (_tag : Byte) (_body : List Byte) (s : State) : Host.Outcome State Fault Refusal :=
  done (receiveReset st s)

/-- UNKNOWN_KIND (R177, R186). -/
def execUnknownKind (st : Station) (s : State) : Host.Outcome State Fault Refusal :=
  done (receiveKind st s)

/-- MALFORMED_CRC (R176, R186). -/
def execMalformedCrc (st : Station) (s : State) : Host.Outcome State Fault Refusal :=
  done (badFrame st .crc s)

/-- MALFORMED_LENGTH (R176, R186). -/
def execMalformedLength (st : Station) (s : State) : Host.Outcome State Fault Refusal :=
  done (badFrame st .length s)

/-- FRAME_TIMEOUT (R176, R186). -/
def execFrameTimeout (st : Station) (s : State) : Host.Outcome State Fault Refusal :=
  done (badFrame st .frameTimeout s)

/-- OVERRUN (R178, R186). -/
def execOverrun (st : Station) (s : State) : Host.Outcome State Fault Refusal :=
  done (overrunReset st s)

/-- CARRIER_LOSS (R175, R186). -/
def execCarrierLoss (st : Station) (s : State) : Host.Outcome State Fault Refusal :=
  done (loseCarrier st s)

/-- FRAME_SENT (R179, R137, R178). -/
def execFrameSent (st : Station) (s : State) : Host.Outcome State Fault Refusal :=
  done (frameDone st s)

end Sys2Proof.Machine
end

