-- ==== Sys2Proof/Machine/StartUp.lean ====
section
/-! DEFINITION. Power-on reset and registry initialisation (R191 and each chapter's values after resets), the identification
of drives (R60), and start-up reconciliation (R17, R37, R38). -/

namespace Sys2Proof.Machine

open Sys2Proof

/-! ### Power-on reset -/

/-- Registry memory at its initial values, the signature written last (R191). -/
def initRegistry (s : State) : State :=
  { s with
    signature := true
    timers := Timers.initial
    catalogue := []
    library := Library.initial
    arm := Arm.initial
    planner := Planner.initial
    fee := FeeUnit.initial
    links := #v[Link.atReset (Families.initial 0), Link.atReset (Families.initial 1), Link.atReset (Families.initial 2),
      Link.atReset (Families.initial 3)]
    notices := Vector.replicate 24 Source.initial }

/-- The Library Map after power-on reset (R40): marks, export list, inspections and latest rejection cleared. -/
def Library.restart (l : Library) : Library :=
  { Library.initial with
    table := l.table.map fun c => { c with exportPending := false }
    volumes := l.volumes
    nextCart := l.nextCart
    nextVol := l.nextVol
    lowMark := l.lowMark }

/-- The Arm Controller after power-on reset (R58). -/
def Arm.restart (a : Arm) : Arm :=
  { Arm.initial with
    priorities := a.priorities, history := a.history, mismatchCount := a.mismatchCount, mismatch := a.mismatch }

/-- Volatile state started afresh, registry memory kept (00_scope 4.5, R40, R58, R59, R94, R95, R147, R174, R180, R200). -/
def restartVolatile (s : State) : State :=
  { s with
    seconds := 0
    reconciled := false
    library := s.library.restart
    arm := s.arm.restart
    drives := Vector.replicate 4 (Drive.atReset 0)
    planner := { Planner.initial with reserve := s.planner.reserve }
    run := Run.atReset
    fetch := FetchEngine.atReset
    fee := { s.fee with holds := [], reservations := 0 }
    links := s.links.map fun l => Link.atReset l.profile
    notices := s.notices.map fun x => { x with pending := false } }

/-- The signature is found and the battery has kept registry memory (R191). -/
def registryKept (lost : Bool) (s : State) : Bool := s.signature && !lost

/-- POWER_ON_RESET (R191): the signature read, registry memory initialised where it is absent, volatile state started
afresh, and every drive position asked to identify itself (R60). The block's queue of commands is no part of it. -/
def powerOn (lost : Bool) (s : State) : State :=
  let kept := registryKept lost s
  restartVolatile { (if kept then s else initRegistry s) with initialised := !kept }

/-! ### Identification (R60) -/

/-- A drive's answer: fitted, then FAULTED, LOADING or EMPTY (R60). A cartridge that the map records in a drive found
FAULTED counts as present, whatever presence the drive could tell (R60); where the map records none, the answer's own
presence stands (DEDUCED, notes/assumptions/43.md). A position that has answered or is given up is not asked again. -/
def identified (d : DriveId) (present faulty : Bool) (s : State) : State :=
  if (s.drive d).identSince.isNone then s
  else
    let found := present || (faulty && (s.cartIn d).isSome)
    let s := s.updDrive d fun x => { x with fitted := true, identSince := none, presence := found }
    if faulty then driveFault d .hardwareFault s
    else if present then spinUp d (s.updDrive d fun x => { x with state := .loading })
    else s.updDrive d fun x => { x with state := .empty }

/-- A position has given no answer within 30 seconds (R60). -/
def identDue (s : State) (x : Drive) : Bool :=
  match x.identSince with
  | some t => Config.identifyTime ≤ s.elapsed t
  | none => false

def notFitted (d : DriveId) (s : State) : State :=
  if identDue s (s.drive d) then s.updDrive d fun x => { x with fitted := false, identSince := none, state := .empty } else s

/-! ### Start-up reconciliation (R17, R37) -/

/-- The extent lengths of the COMMITTED entries on a volume (R17). -/
def committedOn (s : State) (v : Nat) : Nat :=
  ((s.catalogue.filter fun e => e.state = .committed && e.volume = v).map fun e => extentSum e.extents).sum

/-- The removal of a FILING entry, and its side's dead sectors (R17, R21). -/
def removeFiling (s : State) : State :=
  match s.filingEntry with
  | none => s
  | some e =>
    let s := { s with catalogue := s.catalogue.filter fun x => x.number ≠ e.number }
    match s.volume? e.volume with
    | none => s
    | some v =>
      s.updCart v.cart fun c => c.updSide v.side fun r =>
        { r with dead := r.frontier - Config.firstData - committedOn s e.volume }

/-- A START_UP order (R37). -/
def startUpOrder (kind : MoveKind) (n : Nat) (source : ArmPlace) (home : Nat) : MoveOrder :=
  ⟨0, kind, .number n, source, .shelf home, none, .lib, none, .startUp, .waiting⟩

def askStartUp (o : MoveOrder) (s : State) : State :=
  match askOrder o s with
  | .ok (_, s) => s
  | .error _ => s

/-- The sensor readings of start-up reconciliation taken in (R37). -/
def readSensors (grip slot : Bool) (shelf : BitVec 96) (s : State) : State :=
  (s.updArm fun a => { a with gripSensor := grip }).updLibrary fun l =>
    { l with slotSensor := slot, shelfSensors := shelf, slot := .empty }

/-- A drive reports a cartridge (R37, R60). -/
def reportsCart (s : State) (d : DriveId) : Bool := (s.drive d).fitted && (s.drive d).presence

def lose (n : Nat) (s : State) : State := s.updCart n fun c => { c with location := .missing, sideUp := none }

/-- The correction of one record of the table (R37). -/
def correctCart (c : Cartridge) (s : State) : State :=
  match c.location with
  | .arm =>
    if s.arm.gripSensor then
      match c.home with
      | some h => askStartUp (startUpOrder .returnMove c.number .arm h) s
      | none => s
    else lose c.number s
  | .drive d =>
    if reportsCart s d then
      let s := s.updDrive d fun x => { x with cart := some (.number c.number), sideUp := c.sideUp }
      match c.home with
      | some h => askStartUp (startUpOrder .demount c.number (.drive d) h) s
      | none => s
    else lose c.number s
  | .shelf =>
    match c.home with
    | some h => if s.slotReads h then s else lose c.number s
    | none => lose c.number s
  | .loadingSlot =>
    if s.library.slotSensor then s.updLibrary fun l => { l with slot := .held } else leaveCabinet c.number s
  | .exported | .missing => s

/-- A drive that reports a cartridge the map does not record there: a START_UP inspection (R37, R38). -/
def correctDrive (d : DriveId) (s : State) : State :=
  if reportsCart s d ∧ (s.cartIn d).isNone then inspectDrive d s else s

/-- The grip holds a cartridge the map does not record: an inspection whose RETURN to the loading slot is asked for (R37).
DESIGN CHOICE (notes/assumptions/64.md): it is in a phase of its own. -/
def correctGrip (s : State) : State :=
  if s.arm.gripSensor ∧ !(s.library.table.any fun c => c.location = .arm) then
    let id := s.library.inspectionSeq
    (addInspection .startUp .arm .returning s).updInsp id fun i => { i with orderDue := true }
  else s

/-- The loading slot holds a cartridge the map does not record: ARRIVED, with an inspection record. -/
def correctSlot (s : State) : State :=
  if s.library.slotSensor ∧ s.library.slot ≠ .held then
    let id := s.library.inspectionSeq
    slotCheck id (addInspection .loadingSlot .loadingSlot .waitingSlot (s.updLibrary fun l => { l with slot := .arrived }))
  else s

/-- The map corrected from all sensors, R26 applied once, and the OPEN side marked due for the probe (R37). DESIGN CHOICE:
the orders join the list in ascending cartridge number, the RETURN of an unidentified cartridge on the arm last
(notes/assumptions/55.md); the inspections in drives reserve slots in ascending drive number, and then the one of the
loading slot (notes/assumptions/63.md); BLANKS_LOW is set when the pool is at or below the low mark, whether or not the
correction has changed it (notes/assumptions/52.md). -/
def correctMap (s : State) : State :=
  let s := s.library.table.foldl (fun s c => correctCart c s) s
  let s := correctSlot (allDrives.foldl (fun s d => correctDrive d s) (correctGrip s))
  judgePool (s.updLibrary fun l => { l with probeDue := s.openSide.isSome })

/-- The receivers are turned on with every link RESETTING, and a LINK_RESET is due on each (R191). -/
def receiversOn (s : State) : State :=
  { s with reconciled := true, links := s.links.map fun l => { l with state := .resetting, cause := .powerOn, resetDue := true } }

/-- START_UP_RECONCILIATION (R17, R37, R191). It comes once after a power-on reset, when every drive position has answered
or been given up (notes/assumptions/11.md). -/
def reconcile (grip slot : Bool) (shelf : BitVec 96) (s : State) : State :=
  if s.reconciled ∨ (allDrives.any fun d => (s.drive d).identSince.isSome) then s
  else settle (receiversOn (correctMap (readSensors grip slot shelf (removeFiling s)))).wantPass

end Sys2Proof.Machine
end

