-- ==== Sys2Proof/Machine/CabinetEvents.lean ====
section
/-! DEFINITION. What the sensors, the arm's mechanism and the drives report, and the timers that expire (R24, R27, R47-R50,
R61, R62, R64, R66, R76, R138, R71, R72, R115): the effect of each on the state. A report that finds no sensor phase, no
command or no timer it could belong to changes nothing (notes/assumptions/12.md). -/

namespace Sys2Proof.Machine

open Sys2Proof

/-! ### Sensors (R24, R27) -/

/-- The loading-slot sensor reports a cartridge (R27). -/
def slotCartridge (s : State) : State :=
  let s := s.updLibrary fun l => { l with slotSensor := true }
  if s.reconciled ∧ s.library.slot = .empty then
    let id := s.library.inspectionSeq
    settle (slotCheck id
      (addInspection .loadingSlot .loadingSlot .waitingSlot (s.updLibrary fun l => { l with slot := .arrived })))
  else s

/-- The inspection whose cartridge is in the loading slot. -/
def State.slotInsp (s : State) : Option Inspection := s.library.inspections.find? fun i => i.place = .loadingSlot

/-- The orders still WAITING of the IMPORT plan of inspection `id` (R27, R89). -/
def importOrders (s : State) (id : Nat) : List Nat :=
  match s.planner.plans.find? fun p => p.cart = .inspection id with
  | none => []
  | some p => p.orders.reverse.filter fun n => s.orderWaiting n

/-- An ARRIVED cartridge has been taken out (R27, R89): its INSPECT_LOAD and its plan's DEMOUNT withdrawn if WAITING, the
inspection ended. -/
def arrivedRemoved (s : State) : State :=
  match s.slotInsp with
  | none => s
  | some i => endInspection i.id (withdrawAll (importOrders s i.id) s)

/-- A HELD cartridge has been taken out: it has left the cabinet (R27, R34). -/
def heldRemoved (s : State) : State :=
  match s.library.table.find? fun c => c.location = .loadingSlot with
  | none => s
  | some c => leaveCabinet c.number s

/-- The loading-slot sensor reports empty (R27). A report taken while BUSY is ignored. -/
def slotEmptied (s : State) : State :=
  let s := s.updLibrary fun l => { l with slotSensor := false }
  if !s.reconciled then s
  else
    let cleared (s : State) : State := settle (s.updLibrary fun l => { l with slot := .empty })
    match s.library.slot with
    | .arrived => cleared (arrivedRemoved s)
    | .held => cleared (heldRemoved s)
    | .rejected => cleared s
    | .empty | .busy => s

/-- A shelf-slot sensor changes (R24, R44). -/
def shelfChanged (n : Nat) (present : Bool) (s : State) : State :=
  let s := setShelf n present s
  if !s.reconciled then s
  else settle (if s.slotFree n then slotRetry s else s)

/-! ### The arm (R47-R50) -/

/-- The drive of a PICK has given the cartridge up: ejected, or found FAULTED with the cartridge out. -/
def pickPossible (s : State) (m : Move) : Bool :=
  match m.order.source with
  | .drive d =>
    let x := s.drive d
    match x.state with
    | .unloading => x.command.isNone && !x.presence
    | .faulted | .resetting | .empty => true
    | _ => false
  | _ => true

/-- PICK_COMPLETION (R47). -/
def pickCompleted (s : State) : State :=
  match s.arm.moving with
  | none => s
  | some m => if m.phase = .pick ∧ pickPossible s m then settle (pickDone m s) else s

/-- TRAVEL_COMPLETION (R48). -/
def travelCompleted (s : State) : State :=
  match s.arm.moving with
  | none => s
  | some m => if m.phase = .travel then settle (beginPlace s) else s

/-- The drive of a PLACE takes the cartridge: it is fitted and EMPTY (R63). -/
def placeTaken (s : State) (m : Move) : Bool :=
  match m.order.dest with
  | .drive d => (s.drive d).fitted && (s.drive d).state == .empty
  | _ => true

/-- PLACE_COMPLETION (R49). DEDUCED (notes/assumptions/59.md): a drive that has left EMPTY since the PLACE began refuses the
cartridge now, its record unchanged (R63). -/
def placeCompleted (s : State) : State :=
  match s.arm.moving with
  | none => s
  | some m =>
    if m.phase = .place then settle (if placeTaken s m then placeDone m s else moveFault .driveRefused s) else s

/-- The move timer has reached 0 (R47, R50). -/
def moveDue (s : State) : Bool := s.arm.moving.any fun m => Config.moveTime ≤ s.elapsed m.started

/-- MOVE_TIMEOUT (R50). -/
def moveTimedOut (s : State) : State := if moveDue s then settle (moveFault .moveTimeout s) else s

/-- PICK_EMPTY (R50): in PICK; a source that is ARM is already held. -/
def pickFoundEmpty (s : State) : State :=
  if s.arm.moving.any fun m => m.phase = .pick then settle (moveFault .pickEmpty s) else s

/-- DRIVE_REFUSED (R50, R63): in PICK the source drive reports that it cannot eject; in PLACE the mechanism of the
destination drive will not take the cartridge, and an EMPTY drive goes to FAULTED with NOT_READY. -/
def driveRefuses (s : State) : State :=
  match s.arm.moving with
  | none => s
  | some m =>
    match m.phase, m.order.source, m.order.dest with
    | .pick, .drive _, _ => settle (moveFault .driveRefused s)
    | .place, _, .drive d =>
      let empty : Bool := (s.drive d).state == .empty
      let s := moveFault .driveRefused s
      settle (if empty then driveFault d .notReady s else s)
    | _, _, _ => s

/-- PLACE_BLOCKED (R50): in PLACE. -/
def placeStopped (s : State) : State :=
  if s.arm.moving.any fun m => m.phase = .place then settle (moveFault .placeBlocked s) else s

/-- GRIP_LOST (R50): in TRAVEL or PLACE; the grip sensor reports nothing held. -/
def gripEmpty (s : State) : State :=
  if s.arm.moving.any fun m => m.phase = .travel || m.phase = .place then
    settle (moveFault .gripLost (s.updArm fun a => { a with gripSensor := false }))
  else s

/-! ### Drive completions (R61, R62, R64, R76) -/

/-- The command in flight on drive `d`, if it is one that `p` accepts. -/
def flying (s : State) (d : DriveId) (p : DriveCmd → Bool) : Bool := (s.drive d).command.any fun c => p c.cmd

/-- SPIN_UP has completed with DONE (R61, R62, R71): READY, or EMPTY after an ABANDON taken meanwhile, or UNLOADING for a
kept request. -/
def spunUp (d : DriveId) (s : State) : State :=
  let s := (clearCommand d s).updDrive d fun x =>
    { x with state := .ready, lastActive := if x.state = .loading then s.seconds else x.lastActive }
  let s := s.wantPass
  if (s.drive d).vacate then becomeEmpty d s
  else if (s.drive d).unloadKept then startUnload d s
  else s

/-- SPIN_UP_COMPLETION (R61): with NOT_READY the drive is FAULTED, or EMPTY if an ABANDON has vacated it (R62), and a pass
is made (R86). -/
def spinUpCompleted (d : DriveId) (r : SpinUpResult) (s : State) : State :=
  if flying s d (· == .spinUp) then
    match r with
    | .done => settle (spunUp d s)
    | .notReady => settle (driveFault d .notReady s)
  else s

/-- What follows the end of a SPIN_DOWN, or of an EJECT that an ABANDON has overtaken: EMPTY after an ABANDON taken meanwhile
(R62), or the command that waited for it is issued: EJECT in UNLOADING, SPIN_UP in WAKING or LOADING (R62, R71). -/
def issueNext (d : DriveId) (s : State) : State :=
  if (s.drive d).vacate then becomeEmpty d s
  else
    match (s.drive d).state with
    | .unloading => issue d .eject .driveUnit s
    | .waking | .loading => issue d .spinUp .driveUnit s
    | _ => s

/-- SPIN_DOWN_COMPLETION (R62, R71). -/
def spinDownCompleted (d : DriveId) (s : State) : State :=
  if flying s d (· == .spinDown) then settle (issueNext d (clearCommand d s)) else s

/-- The arm meets DRIVE_REFUSED in PICK at drive `d` (R62). -/
def pickRefusedAt (d : DriveId) (s : State) : State :=
  if s.arm.moving.any fun m => m.phase = .pick && m.order.source = .drive d then moveFault .driveRefused s else s

/-- EJECT_COMPLETION (R62): the cartridge ejected, or the drive FAULTED (EMPTY if vacated) and the arm refused. An EJECT that
an ABANDON has overtaken leaves the next command to be issued. -/
def ejectCompleted (d : DriveId) (r : EjectResult) (s : State) : State :=
  if flying s d (· == .eject) then
    match r with
    | .done =>
      let s := (clearCommand d s).updDrive d fun x =>
        { x with presence := if x.state = .unloading then false else x.presence }
      settle (if (s.drive d).state = .unloading then s else issueNext d s)
    | .failed => settle (pickRefusedAt d (driveFault d .ejectFailed s))
  else s

/-- READ_COMPLETION (R64): a report of another count of sectors than the command names is discarded. -/
def readCompleted (d : DriveId) (rs : List SectorRead) (s : State) : State :=
  if flying s d fun c => match c with | .read _ n => n == rs.length | _ => false then
    settle (readAnswer d rs false (clearCommand d s))
  else s

/-- WRITE_COMPLETION (R64). -/
def writeCompleted (d : DriveId) (r : WriteResult) (s : State) : State :=
  if flying s d fun c => match c with | .write .. => true | _ => false then
    settle (writeAnswer d (some r) (clearCommand d s))
  else s

/-- VERIFY_COMPLETION (R64). -/
def verifyCompleted (d : DriveId) (rs : List SectorVerify) (s : State) : State :=
  if flying s d fun c => match c with | .verify _ n _ => n == rs.length | _ => false then
    settle (verifyAnswer d (rs.all (· == .pass)) false (clearCommand d s))
  else s

/-- BLANK_CHECK_COMPLETION (R64, R102). -/
def blankCompleted (d : DriveId) (r : BlankResult) (s : State) : State :=
  if flying s d fun c => match c with | .blankCheck _ => true | _ => false then
    settle (blankAnswer d r (clearCommand d s))
  else s

/-- A reset command has completed with DONE (R76): the presence report decides the state and goes to the Library Map, and
the DRIVE_RESET is answered. -/
def resetCompleted (d : DriveId) (present : Bool) (s : State) : State :=
  let who := (s.drive d).resetBy
  let s := (clearCommand d s).updDrive d fun x => { x with fault := none, presence := present, resetBy := none }
  let s :=
    if present then spinUp d (s.updDrive d fun x => { x with state := .loading })
    else s.updDrive d fun x => { x with state := .empty, cart := none, sideUp := none }
  let s := (presenceReported d present s).wantPass
  match who with
  | some w => replyLong w.station ⟨w.tag, 0x41, .done, .presence present⟩ s
  | none => s

/-- REINIT_COMPLETION (R76). -/
def reinitCompleted (d : DriveId) (present : Bool) (s : State) : State :=
  if flying s d (· == .reinit) then settle (resetCompleted d present s) else s

/-- POWER_CYCLE_COMPLETION (R76). -/
def powerCycleCompleted (d : DriveId) (present : Bool) (s : State) : State :=
  if flying s d (· == .powerCycle) then settle (resetCompleted d present s) else s

/-! ### Drive faults and timers (R66, R71, R72, R115, R138) -/

/-- The command in flight has had no completion within 30 seconds (R66). -/
def commandDue (s : State) (x : Drive) : Bool := x.command.any fun c => Config.commandTime ≤ s.elapsed c.started

/-- COMMAND_TIMEOUT (R66). -/
def commandTimedOut (d : DriveId) (s : State) : State :=
  if commandDue s (s.drive d) then settle (driveFault d .timeout s) else s

/-- DRIVE_HARDWARE_FAULT (R66, R74): from a fitted drive. -/
def hardwareFault (d : DriveId) (s : State) : State :=
  if (s.drive d).fitted then settle (driveFault d .hardwareFault s) else s

end Sys2Proof.Machine
end

