-- ==== Sys2Proof/Machine/PartEvents.lean ====
section
/-! DEFINITION. The meaning of each row for the reset pin, start-up, sensors, the arm, the drives and the timers. -/

namespace Sys2Proof.Machine

open Sys2Proof

/-- FETCH_STALL_LIMIT (R138). -/
def execFetchStallLimit (st : Station) (tag : Byte) (s : State) : Host.Outcome State Fault Refusal :=
  done (settle (fetchStallExpiry ⟨st, tag⟩ s))

/-- POWER_ON_RESET (R191). -/
def execPowerOnReset (lost : Bool) (s : State) : Host.Outcome State Fault Refusal :=
  done (powerOn lost s)

/-- DRIVE_IDENTIFY_ANSWER (R60). -/
def execDriveIdentifyAnswer (d : DriveId) (present : Bool) (faulty : Bool) (s : State) : Host.Outcome State Fault Refusal :=
  done (identified d present faulty s)

/-- DRIVE_IDENTIFY_TIMEOUT (R60). -/
def execDriveIdentifyTimeout (d : DriveId) (s : State) : Host.Outcome State Fault Refusal :=
  done (notFitted d s)

/-- START_UP_RECONCILIATION (R37, R17, R191). -/
def execStartUpReconciliation (grip : Bool) (slot : Bool) (shelf : BitVec 96) (s : State) : Host.Outcome State Fault Refusal :=
  done (reconcile grip slot shelf s)

/-- LOADING_SLOT_CARTRIDGE (R27). -/
def execLoadingSlotCartridge (s : State) : Host.Outcome State Fault Refusal :=
  done (slotCartridge s)

/-- LOADING_SLOT_EMPTY (R27, R34). -/
def execLoadingSlotEmpty (s : State) : Host.Outcome State Fault Refusal :=
  done (slotEmptied s)

/-- SHELF_SLOT_SENSOR (R24). -/
def execShelfSlotSensor (slot : Nat) (present : Bool) (s : State) : Host.Outcome State Fault Refusal :=
  done (shelfChanged slot present s)

/-- PICK_COMPLETION (R47). -/
def execPickCompletion (s : State) : Host.Outcome State Fault Refusal :=
  done (pickCompleted s)

/-- TRAVEL_COMPLETION (R48). -/
def execTravelCompletion (s : State) : Host.Outcome State Fault Refusal :=
  done (travelCompleted s)

/-- PLACE_COMPLETION (R49). -/
def execPlaceCompletion (s : State) : Host.Outcome State Fault Refusal :=
  done (placeCompleted s)

/-- MOVE_TIMEOUT (R50). -/
def execMoveTimeout (s : State) : Host.Outcome State Fault Refusal :=
  done (moveTimedOut s)

/-- PICK_EMPTY (R50). -/
def execPickEmpty (s : State) : Host.Outcome State Fault Refusal :=
  done (pickFoundEmpty s)

/-- DRIVE_REFUSED (R50, R63). -/
def execDriveRefused (s : State) : Host.Outcome State Fault Refusal :=
  done (driveRefuses s)

/-- PLACE_BLOCKED (R50). -/
def execPlaceBlocked (s : State) : Host.Outcome State Fault Refusal :=
  done (placeStopped s)

/-- GRIP_LOST (R50). -/
def execGripLost (s : State) : Host.Outcome State Fault Refusal :=
  done (gripEmpty s)

/-- SPIN_UP_COMPLETION (R61). -/
def execSpinUpCompletion (d : DriveId) (r : SpinUpResult) (s : State) : Host.Outcome State Fault Refusal :=
  done (spinUpCompleted d r s)

/-- SPIN_DOWN_COMPLETION (R62). -/
def execSpinDownCompletion (d : DriveId) (s : State) : Host.Outcome State Fault Refusal :=
  done (spinDownCompleted d s)

/-- EJECT_COMPLETION (R62). -/
def execEjectCompletion (d : DriveId) (r : EjectResult) (s : State) : Host.Outcome State Fault Refusal :=
  done (ejectCompleted d r s)

/-- READ_COMPLETION (R133, R131, R29). -/
def execReadCompletion (d : DriveId) (sectors : List SectorRead) (s : State) : Host.Outcome State Fault Refusal :=
  done (readCompleted d sectors s)

/-- WRITE_COMPLETION (R107, R101, R30). -/
def execWriteCompletion (d : DriveId) (r : WriteResult) (s : State) : Host.Outcome State Fault Refusal :=
  done (writeCompleted d r s)

/-- VERIFY_COMPLETION (R108, R101, R30). -/
def execVerifyCompletion (d : DriveId) (sectors : List SectorVerify) (s : State) : Host.Outcome State Fault Refusal :=
  done (verifyCompleted d sectors s)

/-- BLANK_CHECK_COMPLETION (R102). -/
def execBlankCheckCompletion (d : DriveId) (r : BlankResult) (s : State) : Host.Outcome State Fault Refusal :=
  done (blankCompleted d r s)

/-- REINIT_COMPLETION (R76). -/
def execReinitCompletion (d : DriveId) (present : Bool) (s : State) : Host.Outcome State Fault Refusal :=
  done (reinitCompleted d present s)

/-- POWER_CYCLE_COMPLETION (R76). -/
def execPowerCycleCompletion (d : DriveId) (present : Bool) (s : State) : Host.Outcome State Fault Refusal :=
  done (powerCycleCompleted d present s)

/-- COMMAND_TIMEOUT (R66). -/
def execCommandTimeout (d : DriveId) (s : State) : Host.Outcome State Fault Refusal :=
  done (commandTimedOut d s)

/-- DRIVE_HARDWARE_FAULT (R66). -/
def execDriveHardwareFault (d : DriveId) (s : State) : Host.Outcome State Fault Refusal :=
  done (hardwareFault d s)

/-- IDLE_TIMER_EXPIRY (R71). -/
def execIdleTimerExpiry (d : DriveId) (s : State) : Host.Outcome State Fault Refusal :=
  done (settle (idleExpiry d s))

/-- HOLD_TIMER_EXPIRY (R72). -/
def execHoldTimerExpiry (d : DriveId) (s : State) : Host.Outcome State Fault Refusal :=
  done (settle (holdExpiry d s))

/-- FILING_STALL_LIMIT (R115). -/
def execFilingStallLimit (s : State) : Host.Outcome State Fault Refusal :=
  done (filingStallExpiry s)

end Sys2Proof.Machine
end

