-- ==== Sys2Proof/Machine/Dispatch.lean ====
section
/-! DEFINITION. The meaning of every command: one arm per constructor, each one call of its own definition. -/

namespace Sys2Proof.Machine

open Sys2Proof

def exec (i : Instr) (s : State) : Host.Outcome State Fault Refusal :=
  match i with
  | .fetch st tag body => Sys2Proof.Machine.execFetch st tag body s
  | .cancelFetch st tag body => Sys2Proof.Machine.execCancelFetch st tag body s
  | .quote st tag body => Sys2Proof.Machine.execQuote st tag body s
  | .locate st tag body => Sys2Proof.Machine.execLocate st tag body s
  | .find st tag body => Sys2Proof.Machine.execFind st tag body s
  | .openInstrument st tag body => Sys2Proof.Machine.execOpenInstrument st tag body s
  | .postPage st tag body => Sys2Proof.Machine.execPostPage st tag body s
  | .closeInstrument st tag body => Sys2Proof.Machine.execCloseInstrument st tag body s
  | .abortInstrument st tag body => Sys2Proof.Machine.execAbortInstrument st tag body s
  | .accountOpen st tag body => Sys2Proof.Machine.execAccountOpen st tag body s
  | .accountUpdate st tag body => Sys2Proof.Machine.execAccountUpdate st tag body s
  | .accountCredit st tag body => Sys2Proof.Machine.execAccountCredit st tag body s
  | .accountClose st tag body => Sys2Proof.Machine.execAccountClose st tag body s
  | .accountQuery st tag body => Sys2Proof.Machine.execAccountQuery st tag body s
  | .setSchedule st tag body => Sys2Proof.Machine.execSetSchedule st tag body s
  | .setCategoryDiscount st tag body => Sys2Proof.Machine.execSetCategoryDiscount st tag body s
  | .dayClose st tag body => Sys2Proof.Machine.execDayClose st tag body s
  | .journalTake st tag body => Sys2Proof.Machine.execJournalTake st tag body s
  | .tallyQuery st tag body => Sys2Proof.Machine.execTallyQuery st tag body s
  | .exportCartridge st tag body => Sys2Proof.Machine.execExportCartridge st tag body s
  | .driveReset st tag body => Sys2Proof.Machine.execDriveReset st tag body s
  | .faultClearRetry st tag body => Sys2Proof.Machine.execFaultClearRetry st tag body s
  | .faultClearAbandon st tag body => Sys2Proof.Machine.execFaultClearAbandon st tag body s
  | .recover st tag body => Sys2Proof.Machine.execRecover st tag body s
  | .faultQuery st tag body => Sys2Proof.Machine.execFaultQuery st tag body s
  | .libraryQuery st tag body => Sys2Proof.Machine.execLibraryQuery st tag body s
  | .setProfile st tag body => Sys2Proof.Machine.execSetProfile st tag body s
  | .setTimers st tag body => Sys2Proof.Machine.execSetTimers st tag body s
  | .setOptions st tag body => Sys2Proof.Machine.execSetOptions st tag body s
  | .setDate st tag body => Sys2Proof.Machine.execSetDate st tag body s
  | .setArmPriority st tag body => Sys2Proof.Machine.execSetArmPriority st tag body s
  | .noticeConfig st tag body => Sys2Proof.Machine.execNoticeConfig st tag body s
  | .signalSet st tag body => Sys2Proof.Machine.execSignalSet st tag body s
  | .signalClear st tag body => Sys2Proof.Machine.execSignalClear st tag body s
  | .takeNotice st tag body => Sys2Proof.Machine.execTakeNotice st tag body s
  | .setThreshold st tag body => Sys2Proof.Machine.execSetThreshold st tag body s
  | .noticeQuery st tag body => Sys2Proof.Machine.execNoticeQuery st tag body s
  | .status st tag body => Sys2Proof.Machine.execStatus st tag body s
  | .requestUnknownCode st tag code body => Sys2Proof.Machine.execRequestUnknownCode st tag code body s
  | .requestEmptyBody st tag => Sys2Proof.Machine.execRequestEmptyBody st tag s
  | .page st tag body => Sys2Proof.Machine.execPage st tag body s
  | .credit st tag body => Sys2Proof.Machine.execCredit st tag body s
  | .linkReset st tag body => Sys2Proof.Machine.execLinkReset st tag body s
  | .unknownKind st => Sys2Proof.Machine.execUnknownKind st s
  | .malformedCrc st => Sys2Proof.Machine.execMalformedCrc st s
  | .malformedLength st => Sys2Proof.Machine.execMalformedLength st s
  | .frameTimeout st => Sys2Proof.Machine.execFrameTimeout st s
  | .overrun st => Sys2Proof.Machine.execOverrun st s
  | .carrierLoss st => Sys2Proof.Machine.execCarrierLoss st s
  | .frameSent st => Sys2Proof.Machine.execFrameSent st s
  | .fetchStallLimit st tag => Sys2Proof.Machine.execFetchStallLimit st tag s
  | .powerOnReset lost => Sys2Proof.Machine.execPowerOnReset lost s
  | .driveIdentifyAnswer d present faulty => Sys2Proof.Machine.execDriveIdentifyAnswer d present faulty s
  | .driveIdentifyTimeout d => Sys2Proof.Machine.execDriveIdentifyTimeout d s
  | .startUpReconciliation grip slot shelf => Sys2Proof.Machine.execStartUpReconciliation grip slot shelf s
  | .loadingSlotCartridge => Sys2Proof.Machine.execLoadingSlotCartridge s
  | .loadingSlotEmpty => Sys2Proof.Machine.execLoadingSlotEmpty s
  | .shelfSlotSensor slot present => Sys2Proof.Machine.execShelfSlotSensor slot present s
  | .pickCompletion => Sys2Proof.Machine.execPickCompletion s
  | .travelCompletion => Sys2Proof.Machine.execTravelCompletion s
  | .placeCompletion => Sys2Proof.Machine.execPlaceCompletion s
  | .moveTimeout => Sys2Proof.Machine.execMoveTimeout s
  | .pickEmpty => Sys2Proof.Machine.execPickEmpty s
  | .driveRefused => Sys2Proof.Machine.execDriveRefused s
  | .placeBlocked => Sys2Proof.Machine.execPlaceBlocked s
  | .gripLost => Sys2Proof.Machine.execGripLost s
  | .spinUpCompletion d r => Sys2Proof.Machine.execSpinUpCompletion d r s
  | .spinDownCompletion d => Sys2Proof.Machine.execSpinDownCompletion d s
  | .ejectCompletion d r => Sys2Proof.Machine.execEjectCompletion d r s
  | .readCompletion d sectors => Sys2Proof.Machine.execReadCompletion d sectors s
  | .writeCompletion d r => Sys2Proof.Machine.execWriteCompletion d r s
  | .verifyCompletion d sectors => Sys2Proof.Machine.execVerifyCompletion d sectors s
  | .blankCheckCompletion d r => Sys2Proof.Machine.execBlankCheckCompletion d r s
  | .reinitCompletion d present => Sys2Proof.Machine.execReinitCompletion d present s
  | .powerCycleCompletion d present => Sys2Proof.Machine.execPowerCycleCompletion d present s
  | .commandTimeout d => Sys2Proof.Machine.execCommandTimeout d s
  | .driveHardwareFault d => Sys2Proof.Machine.execDriveHardwareFault d s
  | .idleTimerExpiry d => Sys2Proof.Machine.execIdleTimerExpiry d s
  | .holdTimerExpiry d => Sys2Proof.Machine.execHoldTimerExpiry d s
  | .filingStallLimit => Sys2Proof.Machine.execFilingStallLimit s

end Sys2Proof.Machine
end

