-- ==== Sys2Proof/Machine/Ticks.lean ====
section
/-! DEFINITION. The running seconds count (00_scope 4.1): a second passes while no command waits, and the timers that have
run their time join the queue as the commands of their rows (notes/assumptions/21.md). -/

namespace Sys2Proof.Machine

open Sys2Proof

/-- `c` when `p` holds, as a list. -/
def commandIf (p : Bool) (c : Instr) : List Instr := if p then [c] else []

/-- The expiries of drive `d`'s timers: identification (R60), command timeout (R66), idle (R71), hold (R72). -/
def driveExpiries (s : State) (d : DriveId) : List Instr :=
  let x := s.drive d
  commandIf (identDue s x) (.driveIdentifyTimeout d) ++ commandIf (commandDue s x) (.commandTimeout d)
    ++ commandIf (idleDue s x) (.idleTimerExpiry d) ++ commandIf (holdDue s x) (.holdTimerExpiry d)

/-- The expiries of the fetches' stall timers (R138). -/
def fetchExpiries (s : State) : List Instr :=
  (s.fetch.orders.filter (fetchStallDue s)).map fun o => .fetchStallLimit o.id.station o.id.tag

/-- Every timer that has run its time, each as the command of its row. -/
def dueEvents (s : State) : List Instr :=
  allDrives.flatMap (driveExpiries s) ++ fetchExpiries s ++ commandIf (filingStallDue s) .filingStallLimit
    ++ commandIf (moveDue s) .moveTimeout

/-- The seconds count one second on; it stays at 4,294,967,295 (00_scope 4.1). -/
def nextSecond (n : Nat) : Nat := min (n + 1) Config.secondsMax

/-- A second passes. -/
def tick (s : State) : State :=
  let s := { s with seconds := nextSecond s.seconds }
  { s with pending := dueEvents s }

/-- The first waiting command is carried out with the rest of the queue left waiting; with none waiting a second passes. -/
def advance (s : State) : Host.Outcome State Fault Refusal :=
  match s.pending with
  | [] => .next (tick s)
  | c :: rest => exec c { s with pending := rest }

/-- A command put at the front of the queue. -/
def State.putFirst (s : State) (c : Instr) : State := { s with pending := c :: s.pending }

end Sys2Proof.Machine
end

