-- ==== Sys2Proof/Machine/Receiver.lean ====
section
/-! DEFINITION. The receiver of a link, byte by byte (R176): how the bytes that stations send become the commands of the
queue. A sender of whole commands has no need of it. -/

namespace Sys2Proof.Machine

open Sys2Proof

/-- The receiver takes a byte (R176): hunting, any byte but the start byte is discarded; inside a frame, a body length above
4,100 ends it at once with cause LENGTH, and the last CRC byte ends it as the command of its row or with cause CRC. After
either the receiver hunts again, from the next byte. Answers the command, if a frame has ended. -/
def Receiver.take (st : Station) (r : Receiver) (b : Byte) : Receiver × Option Instr :=
  match r with
  | .hunting => if b = startByte then (.inside [], none) else (.hunting, none)
  | .inside got =>
    let got := got ++ [b]
    match got with
    | _ :: _ :: hi :: lo :: rest =>
      let n := beNat [hi, lo]
      if n > Config.bodyMax then (.hunting, some (.malformedLength st))
      else if rest.length < n + 2 then (.inside got, none)
      else (.hunting, decodeFrame st (startByte :: got))
    | _ => (.inside got, none)

/-- Station `st`'s receiver takes a byte; the frame it completes joins the queue as the command of its row. Before start-up
reconciliation has turned the receivers on, nothing is received (R191). -/
def State.takeByte (s : State) (st : Station) (b : Byte) : State :=
  if s.reconciled then
    let (r, c) := (s.link st).receiver.take st b
    let s := s.updLink st fun l => { l with receiver := r }
    { s with pending := s.pending ++ c.toList }
  else s

/-- Bytes from station `st`, in the order received. -/
def State.takeBytes (s : State) (st : Station) (bs : List Byte) : State := bs.foldl (fun s b => s.takeByte st b) s

/-- The gap after the last byte of station `st` has reached 1 s (R176): a frame begun ends as malformed, cause
FRAME_TIMEOUT, and the receiver hunts again. -/
def State.byteGap (s : State) (st : Station) : State :=
  match (s.link st).receiver with
  | .hunting => s
  | .inside _ =>
    let s := s.updLink st fun l => { l with receiver := .hunting }
    { s with pending := s.pending ++ [.frameTimeout st] }

end Sys2Proof.Machine
end

