-- ==== Sys2Proof/Safety.lean ====
section
/-! DEFINITION. The terms in which statements about the part are made: when a station's request is admitted, what
follows a command, which orders leave the list with one and what a halt does, and the laws that hold between steps
(the catalogue's R1 to R3 and R12, the supervisor law of R182, the ranges of the settings held in registry memory). -/

namespace Sys2Proof.Machine

open Sys2Proof

/-! ### What a command leads to -/

/-- The state after a command that only answers: the reply at the end of station `st`'s queue (R183). -/
def State.answering (s : State) (st : Station) (r : Reply) : State := addReply st r s

/-- What `exec` answers once the command's own effect has left `s`: the transmitters choose their frames (R179). -/
def finished (s : State) : Host.Outcome State Fault Refusal := .next (transmit s)

/-- What `exec` answers once the command's own effect has left `s`: every act that is now possible is taken, then the
transmitters choose their frames. -/
def followed (s : State) : Host.Outcome State Fault Refusal := .next (transmit (settle s))

/-- No block has an act to take. -/
def State.rests (s : State) : Prop := nextAct s = none

/-- The receiver of station `st` is on, its link is UP and its buffer is free (R178, R186, R191). -/
def State.receives (s : State) (st : Station) : Prop :=
  s.reconciled = true ∧ (s.link st).state = .up ∧ (s.link st).buffer = none

/-- A REQUEST of station `st` is taken at once: fewer than 16 replies wait (R178). -/
def State.takes (s : State) (st : Station) : Prop := s.receives st ∧ (s.link st).replies.length < 16

/-- Station `st`'s request `r` with this tag is taken and passes the Station Link Unit's checks (R178, R183). -/
def State.admits (s : State) (st : Station) (r : Req) (tag : Byte) : Prop :=
  s.takes st ∧ r.allowed (s.link st).profile = true
    ∧ (r.isLong = true → (s.link st).outstanding.length < 8) ∧ ∀ e ∈ (s.link st).outstanding, e.tag ≠ tag

/-- What `exec` answers to a request refused with status `c`: the reply joins the queue, and nothing else changes. -/
def State.refusing (s : State) (st : Station) (tag code : Byte) (c : Status) : Host.Outcome State Fault Refusal :=
  finished (addReply st ⟨tag, code, c, .none⟩ s)

/-- Side `x` of the cartridge is up in a drive (R19). -/
def Cartridge.isUp (c : Cartridge) (x : Side) : Prop := ∃ d, c.location = .drive d ∧ c.sideUp = some x

/-- The account that a request names with `a`: none for 0, the public counter; an OPEN account of the table otherwise. -/
def State.pays (s : State) (a : Nat) (acc : Option Account) : Prop :=
  if a = 0 then acc = none else s.account? a = acc ∧ ∃ x, acc = some x ∧ x.state = .opened

/-- Checks 4 to 10 of admission (R126 to R128) in their order, as `out`, the answer to a FETCH or QUOTE with these fields
and request code `code`, shows them: BAD_REQUEST for a field out of range, NOT_FILED and IN_FILING from the lookup, RANGE,
OFF_LINE with OFF_LINE_WANTED set, LIBRARY_HALTED while the volume is not up in a drive, NO_ACCOUNT, SUSPENDED and
JOURNAL_FULL. -/
def refusesAdmission (s : State) (st : Station) (tag code : Byte) (n p k a : Nat) (kind : Byte)
    (out : Host.Outcome State Fault Refusal) : Prop :=
  let no (c : Status) := s.refusing st tag code c
  (n = 0 ∨ 999999999 < n ∨ p = 0 ∨ 1000 < p ∨ 1000 < k ∨ 1 < kind.toNat ∨ 9999 < a → out = no .badRequest)
    ∧ (1 ≤ n ∧ n ≤ 999999999 ∧ 1 ≤ p ∧ p ≤ 1000 ∧ k ≤ 1000 ∧ kind.toNat ≤ 1 ∧ a ≤ 9999 →
      (s.entry? n = none → out = no .notFiled)
      ∧ ∀ e, s.entry? n = some e →
        (e.state = .filing → out = no .inFiling)
        ∧ (e.state = .committed →
          (e.pages < p → out = no .range)
          ∧ (p ≤ e.pages → ∀ v c, s.volume? e.volume = some v → s.cart? v.cart = some c →
            (c.location = .exported ∨ c.location = .missing ∨ c.location = .loadingSlot ∨ c.exportPending = true →
              out = finished (noticeSet 20 (addReply st ⟨tag, code, .offLine, .none⟩ s)))
            ∧ (c.location ≠ .exported → c.location ≠ .missing → c.location ≠ .loadingSlot → c.exportPending = false →
              (s.arm.level = .halted → ¬ c.isUp v.side → out = no .libraryHalted)
              ∧ ((s.arm.level = .halted → c.isUp v.side) →
                (a ≠ 0 → s.account? a = none → out = no .noAccount)
                ∧ (∀ x, a ≠ 0 → s.account? a = some x → x.state = .suspended → out = no .suspended)
                ∧ ∀ acc, s.pays a acc → (snapshot s.fee e.feeClass acc).category ≠ .staff →
                  256 ≤ s.fee.journal.length + s.fee.reservations → out = no .journalFull)))))

/-! ### Drives as the Mount Planner sees them (R79, R82, R83, R91) -/

/-- Drive `d` is spoken for (R79). -/
def State.isSpokenFor (s : State) (d : DriveId) : Prop :=
  (∃ p ∈ s.planner.plans, p.drive = d) ∨ (∃ o ∈ s.arm.orders, o.source = .drive d ∨ o.dest = .drive d)
    ∨ ∃ i ∈ s.library.inspections, i.place = .drive d

/-- The search of R82 can take drive `d`; `reserve`: it passes over the reserved drive while the run is CLOSED. -/
def State.canTake (s : State) (reserve : Bool) (d : DriveId) : Prop :=
  (s.drive d).fitted = true ∧ (s.drive d).state = .empty ∧ ¬ s.isSpokenFor d
    ∧ ¬ (reserve = true ∧ s.planner.reserve = true ∧ s.run.state = .closed ∧ ∀ e, (s.drive e).fitted = true → e ≤ d)

/-- Drive `d` is the one that the search of R82 takes. -/
def State.takesEmpty (s : State) (reserve : Bool) (d : DriveId) : Prop :=
  s.canTake reserve d ∧ ∀ e, s.canTake reserve e → d ≤ e

/-- Of the drives with a property, `d` is the one with the smallest last-active seconds, the lowest on a tie (R83, R91). -/
def State.leastRecent (s : State) (can : DriveId → Prop) (d : DriveId) : Prop :=
  can d ∧ ∀ e, can e → (s.drive d).lastActive < (s.drive e).lastActive
    ∨ (s.drive d).lastActive = (s.drive e).lastActive ∧ d ≤ e

/-- Drive `d` qualifies as a victim (R83). A drive that the volume label's units are offered to does not (R101), nor one on
which a unit of a fetch order of its queue is in progress (notes/assumptions/4.md). -/
def State.canYield (s : State) (d : DriveId) : Prop :=
  (s.drive d).fitted = true ∧ ((s.drive d).state = .ready ∨ (s.drive d).state = .standby)
    ∧ (∀ j, s.run.label = some j → j.drive ≠ d) ∧ (s.drive d).queue = [] ∧ (s.drive d).fetchUnit = false
    ∧ (s.drive d).pin = false ∧ ¬ s.isSpokenFor d
    ∧ ∀ w ∈ s.planner.waiters, (s.drive d).cart ≠ some (.number w.cart)

/-- Drive `d` qualifies for a filing claim (R91). -/
def State.canClaim (s : State) (d : DriveId) : Prop :=
  (s.drive d).fitted = true ∧ (s.drive d).pin = false ∧ ¬ s.isSpokenFor d
    ∧ ((s.drive d).state = .loading ∨ (s.drive d).state = .ready ∨ (s.drive d).state = .active
      ∨ (s.drive d).state = .standby ∨ (s.drive d).state = .waking)

/-- An order number that no order of the list holds or names (R41). -/
def State.unused (s : State) (k : Nat) : Prop := ∀ o ∈ s.arm.orders, o.number ≠ k ∧ o.after ≠ some k

/-- From `s` to `t` the drive found for the wants `w` is planned for (R82 to R84, R91, R92): an empty drive, with the one
order that brings the cartridge; a victim, with its DEMOUNT and then that order, which names the DEMOUNT in its after field;
nothing changes where no drive qualifies or the list has no room. `planned plan u` says what else the plan brings with it.
The home slot of the wanted cartridge is `home`. -/
def broughtBy (s t : State) (w : Want) (home : Nat) (reserve : Bool) (planned : Plan → State → State) : Prop :=
  let bring (k : Nat) (d : DriveId) (after : Option Nat) : MoveOrder :=
    match w.cart with
    | .number _ => ⟨k, .mount, w.cart, .shelf home, .drive d, some w.side, w.group, after, w.originator, .waiting⟩
    | .inspection _ => ⟨k, .inspectLoad, w.cart, .loadingSlot, .drive d, some .a, w.group, after, w.originator, .waiting⟩
  let with_ (os : List MoveOrder) (p : Plan) : State := { s with
    arm := { s.arm with orders := s.arm.orders ++ os, counter := t.arm.counter }
    planner := { s.planner with plans := s.planner.plans ++ [p] } }
  (∀ d, s.takesEmpty reserve d →
    (s.arm.orders.length < 16 → ∃ k, s.unused k
      ∧ t = (let p : Plan := ⟨d, w.purpose, .mount, w.cart, w.side, w.volume, none, some k, false⟩
        planned p (with_ [bring k d none] p)))
    ∧ (16 ≤ s.arm.orders.length → t = s))
  ∧ ((∀ d, ¬ s.canTake reserve d) →
    (∀ d c h, s.leastRecent s.canYield d → (s.drive d).cart = some c → s.homeOf c = some h →
      (s.arm.orders.length < 15 → ∃ j k, j ≠ k ∧ s.unused j ∧ s.unused k
        ∧ t = (let p : Plan := ⟨d, w.purpose, .victim, w.cart, w.side, w.volume, some j, some k, false⟩
          planned p (with_ [⟨j, .demount, c, .drive d, .shelf h, none, w.group, none, w.originator, .waiting⟩,
            bring k d (some j)] p)))
      ∧ (15 ≤ s.arm.orders.length → t = s)))

/-! ### Ends of instruments and runs (R111-R114) -/

/-- Station `st` has a long request with this tag outstanding (R183). -/
def State.awaits (s : State) (st : Station) (tag : Byte) : Prop := ∃ e ∈ (s.link st).outstanding, e.tag = tag

/-- From `s` to `t` the run has failed (R113, R114): its ring flushed, its instrument, pin, chosen blank and filing request
gone; a pending OPEN_INSTRUMENT, or else a pending CLOSE_INSTRUMENT, is answered with the code and the run is CLOSED;
without either the run is CLOSING with the code kept. -/
def runFails (s t : State) (code : Status) : Prop :=
  t.run.ring = [] ∧ t.run.current = none ∧ t.run.engaged = none ∧ t.run.chosen = none ∧ t.run.label = none
    ∧ t.planner.filingReq = none
    ∧ (s.run.openTag = none → s.run.closeTag = none → t.run.failure = some code ∧ t.run.state = .closing)
    ∧ (∀ g, s.run.openTag = some g → t.run.state = .closed
      ∧ (s.awaits s.run.owner g → ⟨g, 0x20, code, .none⟩ ∈ (t.link s.run.owner).replies))
    ∧ ∀ g, s.run.openTag = none → s.run.closeTag = some g → t.run.state = .closed
      ∧ (s.awaits s.run.owner g → ⟨g, 0x22, code, .closed t.run.counts none none⟩ ∈ (t.link s.run.owner).replies)

/-- From `s` to `t` the current instrument `i` has ended with `code`, at the head page or at its trailer (R112): counted
aborted, its entry removed, and the sectors of its extents dead on the OPEN side, beside the `dead` of its last attempt,
with the frontier as given. A SEPARATOR run goes on with the discard mark set, except for EMPTY, and a page that was under
way counted discarded; a GIVEN run in CLOSING is closed, CLOSE_INSTRUMENT answered with the code, and any other fails. -/
def instrumentEnds (s t : State) (i : Instrument) (code : Status) (place : EndAt) (n : Nat) (x : Side) (r : SideRec)
    (frontier dead : Nat) : Prop :=
  t.run.current = none
    ∧ (s.run.source = .separator ∨ s.run.pendingSep = none →
      t.run.counts.aborted = min (s.run.counts.aborted + 1) 65535)
    ∧ (∀ e, s.entry? i.number = some e → e.state = .filing →
      t.catalogue = (s.catalogue.filter fun e => e.number ≠ i.number)
        ∧ (s.openSide = some (n, x) → s.run.chosen = none →
          t.side? n x = some { r with frontier := frontier, dead := r.dead + dead + extentSum e.extents }))
    ∧ (s.run.source = .separator → t.run.state = s.run.state
      ∧ (code ≠ .empty → t.run.discard = true) ∧ (code = .empty → t.run.discard = s.run.discard)
      ∧ (place = .trailer → t.run.ring = s.run.ring ∧ t.run.counts.discarded = s.run.counts.discarded)
      ∧ (place = .page → t.run.ring = s.run.ring.drop 1
        ∧ t.run.counts.discarded = min (s.run.counts.discarded + 1) 65535))
    ∧ (s.run.source = .given → s.run.failure = none → s.run.state ≠ .closed →
      t.run.ring = [] ∧ t.run.engaged = none
        ∧ (s.run.state = .closing → t.run.state = .closed
          ∧ ∀ g, s.run.closeTag = some g → s.awaits s.run.owner g →
            ∃ v k, (t.link s.run.owner).replies
                = (s.link s.run.owner).replies ++ [⟨g, 0x22, code, .closed t.run.counts v k⟩]
              ∧ (s.openSide = some (n, x) → v = r.volume ∧ k = some frontier))
        ∧ (s.run.state ≠ .closing → runFails s t code))

/-! ### Orders that leave the list, and the halt (R35, R43, R53, R56, R93) -/

/-- The orders of the list that leave it with order `k`: that order, and those that name one of them in their after field
(R43). -/
def State.leavingWith (s : State) (k : Nat) : List MoveOrder :=
  s.arm.orders.filter fun o => (withDependents s.arm.orders 16 [k]).contains o.number

/-- The order list less order `k` and those that leave with it (R43). -/
def State.ordersWithout (s : State) (k : Nat) : List MoveOrder :=
  s.arm.orders.filter fun o => !(withDependents s.arm.orders 16 [k]).contains o.number

/-- From `s` to `t` the arm halts at the fault `record`, as one step (R56, R35, R93): the level HALTED, the history written,
ARM_HALTED set, every order and every plan gone, no pending hold and no inspection waiting on an order; every cartridge,
and every inspection's cartridge, where it lies; every waiter whose side is not up in a drive completed LIBRARY_HALTED, in
the order of the wait list, and every other one still waiting, without its plan; then a filing request that is outstanding
refused, which is the failure of a run that has not failed yet; then the exports answered LIBRARY_HALTED, their marks
cleared and the export list empty. `u` stands between the discard and the completions, `w` after the completions. The order
of the completions and of the exports is the model's choice (notes/assumptions/79.md, notes/assumptions/83.md). -/
def armHalts (s t : State) (record : FaultRec) : Prop :=
  let stranded := s.planner.waiters.filter fun x => !waiterUp s x
  t.arm.level = .halted ∧ t.arm.moving = none ∧ t.arm.orders = [] ∧ t.planner.plans = [] ∧ (t.source 3).pending = true
    ∧ t.arm.history = some ⟨s.arm.primary, s.arm.secondary, record, s.fee.date⟩
    ∧ (∀ d k, (s.drive d).pendingHold = some k → s.armOrder? k ≠ none → (t.drive d).pendingHold = none)
    ∧ (∀ i ∈ t.library.inspections, ∀ k, i.order = some k → s.armOrder? k = none)
    ∧ t.library.inspections.map (fun i => (i.id, i.place, i.reserved))
      = s.library.inspections.map (fun i => (i.id, i.place, i.reserved))
    ∧ (∀ n, (t.cart? n).map (fun c => (c.location, c.sideUp)) = (s.cart? n).map fun c => (c.location, c.sideUp))
    ∧ (∃ u w,
      u.fee = s.fee ∧ u.fetch = s.fetch ∧ u.run = s.run ∧ u.catalogue = s.catalogue ∧ u.library.table = s.library.table
        ∧ u.planner.waiters = s.planner.waiters.map (fun x => { x with plan := none })
        ∧ u.planner.filingReq = s.planner.filingReq
        ∧ (∀ st, (u.link st).replies = (s.link st).replies ∧ (u.link st).outstanding = (s.link st).outstanding)
        ∧ w = completeAll (stranded.map (·.id)) .libraryHalted u
        ∧ t.fee = w.fee ∧ t.fetch = w.fetch ∧ t.planner.waiters = w.planner.waiters
        ∧ (s.planner.filingReq = none → t.run = s.run ∧ t.catalogue = s.catalogue)
        ∧ (s.planner.filingReq ≠ none → t.planner.filingReq = none
          ∧ (s.run.state ≠ .closed → s.run.failure = none → runFails w t .libraryHalted)))
    ∧ (∀ x ∈ stranded, t.order? x.id = none
      ∧ ∀ o, s.order? x.id = some o → o.place = .waitList → ∀ y ∈ t.planner.waiters, y.id ≠ x.id)
    ∧ (∀ x ∈ s.planner.waiters, waiterUp s x = true → (∀ y ∈ stranded, y.id ≠ x.id) →
      { x with plan := none } ∈ t.planner.waiters)
    ∧ t.library.exports = []
    ∧ ∀ e ∈ s.library.exports, (∀ c, t.cart? e.cart = some c → c.exportPending = false)
      ∧ (e.replyDue = true → s.awaits e.station e.tag → (∀ x ∈ stranded, x.id ≠ ⟨e.station, e.tag⟩) →
        (s.run.owner = e.station → s.run.openTag ≠ some e.tag ∧ s.run.closeTag ≠ some e.tag) →
        ⟨e.tag, 0x40, .libraryHalted, .none⟩ ∈ (t.link e.station).replies)

/-! ### Engagement (R96, R98) -/

/-- From `s` to `t` the engagement of drive `d` with side `x` of cartridge `n`, volume `volume` and frontier `frontier`,
has completed (R98): the entry of a GIVEN run, or of a separator that waited for the volume (R117), is created as the
current instrument, the run leaves OPENING by R96, and a pending OPEN_INSTRUMENT is answered DONE. A creation refused for a
GIVEN run ends the engagement (R114). -/
def completesEngagement (s t : State) (n : Nat) (x : Side) (d : DriveId) (volume frontier : Nat) : Prop :=
  let ring := if s.run.source = .separator ∧ s.run.pendingSep ≠ none then s.run.ring.drop 1 else s.run.ring
  let next : RunState :=
    if s.run.closeRequested then .closing else if ring.head?.any (·.complete) then .running else .waitingPage
  let leaves : Prop := t.run.state = next ∧ t.run.ring = ring ∧ t.run.engaged = some d
    ∧ (next = .waitingPage → t.run.stall = some s.seconds ∧ t.run.stallSent = false)
    ∧ (∀ g, s.run.openTag = some g → (∃ e ∈ (s.link s.run.owner).outstanding, e.tag = g) →
        (t.link s.run.owner).replies = (s.link s.run.owner).replies
          ++ [⟨g, 0x20, .done, .opened volume n x d frontier⟩] ∧ t.run.openTag = none)
  let create (number : Nat) := createEntry s (some volume) number s.run.feeClass s.run.owner
  (s.run.source = .given →
      (∀ u, create s.run.given = .ok u →
        t.catalogue = u.catalogue ∧ t.run.current = some (newInstrument s.run.given) ∧ leaves)
      ∧ ∀ e, create s.run.given = .error e → s.run.failure = none → s.run.state ≠ .closed →
        t.run.engaged = none ∧ t.run.current = none ∧ (t.drive d).pin = false
          ∧ (s.run.openTag = none → s.run.closeTag = none → t.run.failure = some (catStatus e) ∧ t.run.state = .closing))
    ∧ (s.run.source = .separator → s.run.pendingSep = none →
      t.catalogue = s.catalogue ∧ t.run.current = s.run.current ∧ leaves)
    ∧ ∀ k u, s.run.source = .separator → s.run.pendingSep = some k → create k = .ok u →
      t.catalogue = u.catalogue ∧ t.run.current = some (newInstrument k) ∧ t.run.pendingSep = none ∧ leaves

/-! ### The catalogue (R1-R3) -/

/-- An entry's counts are as R2 and R3 state for its state: at most 4 extents of at most 4,096 sectors, 1,000 pages and
3,840 content sectors; while FILING no trailer and extents that sum to the content; once COMMITTED a trailer at the content
position, extents that sum to one sector more, and a page at least. -/
def entryFits (e : CatEntry) : Prop :=
  e.extents.length ≤ 4 ∧ e.pages ≤ 1000 ∧ e.content ≤ 3840 ∧ (∀ x ∈ e.extents, x.len ≤ 4096)
    ∧ match e.state with
      | .filing => e.trailer = none ∧ extentSum e.extents = e.content
      | .committed => e.trailer = some e.content ∧ extentSum e.extents = e.content + 1 ∧ 1 ≤ e.pages

/-- The catalogue: at most 65,536 entries in strictly ascending number, the counts of each as `entryFits` says, one at most
FILING. -/
structure CatalogueOk (c : List CatEntry) : Prop where
  ascending : c.Pairwise fun a b => a.number < b.number
  room : c.length ≤ 65536
  fits : ∀ e ∈ c, entryFits e
  oneFiling : ∀ a ∈ c, ∀ b ∈ c, a.state = .filing → b.state = .filing → a = b

/-! ### Settings held in registry memory -/

/-- Some station's profile includes SUPERVISE (R182). -/
def supervised (s : State) : Prop := ∃ st, (s.link st).profile.supervise = true

/-- The four timer settings are in their ranges (R188). -/
def timersOk (t : Timers) : Prop :=
  t.idleDelay ≤ 3600 ∧ t.holdLimit ≤ 86400 ∧ (10 ≤ t.fetchStall ∧ t.fetchStall ≤ 600)
    ∧ 30 ≤ t.filingStall ∧ t.filingStall ≤ 3600

/-- The group priorities are a permutation of 0-3 (R46). -/
def prioritiesOk (p : Priorities) : Prop :=
  p.filing ≤ 3 ∧ p.fetch ≤ 3 ∧ p.lib ≤ 3 ∧ p.hold ≤ 3 ∧ [p.filing, p.fetch, p.lib, p.hold].Nodup

/-- The fee schedule and the category discounts are in their ranges, and M does not exceed X (R148, R149). -/
def feesOk (u : FeeUnit) : Prop :=
  (∀ r ∈ u.schedule.toList,
      r.v ≤ 65535 ∧ r.f ≤ 65535 ∧ r.g ≤ 65535 ∧ r.c ≤ 65535 ∧ r.m ≤ r.x ∧ r.x ≤ 99999999)
    ∧ u.discountCounter ≤ 100 ∧ u.discountSolicitor ≤ 100 ∧ u.discountGovernment ≤ 100

/-- The settings of a notice source are in their ranges (R192). -/
def sourcesOk (s : State) : Prop := ∀ x ∈ s.notices.toList, x.level ≤ 7

/-- The settings that stations change, as registry memory holds them between steps. -/
structure SettingsOk (s : State) : Prop where
  timers : timersOk s.timers
  lowMark : s.library.lowMark ≤ 64
  priorities : prioritiesOk s.arm.priorities
  fees : feesOk s.fee
  date : s.fee.date ≤ 65535
  sources : sourcesOk s

end Sys2Proof.Machine
end

