-- ==== Sys2Proof/WellFormed.lean ====
section
/-! DEFINITION. The commands that can arrive: the lengths a frame's header admits, the request a code names, and the values a
sensor or a drive can report. `exec` has a meaning for every command, well-formed or not. -/

namespace Sys2Proof

open Sys2Proof.Machine

/-- A request body after its code: with the code at most 4,100 bytes (R176). -/
def bodyFits (b : List Byte) : Bool := b.length + 1 ≤ Config.bodyMax

/-- A frame's body: at most 4,100 bytes (R176). -/
def frameFits (b : List Byte) : Bool := b.length ≤ Config.bodyMax

/-- FAULT_CLEAR's kind byte says ABANDON (R205). -/
def saysAbandon (b : List Byte) : Bool := b.getD 0 0 == 1

/-- A code that names no request (R205). -/
def namesNone (code : Byte) : Bool := (Req.ofCode code).isNone

/-- A shelf slot of the cabinet, 1-96 (00_scope 4.3). -/
def slotNumber (n : Nat) : Bool := 1 ≤ n && n ≤ 96

/-- What a READ reports of a sector: 1,024 bytes with DATA (R64, 00_scope 4.2). -/
def sectorFits : SectorRead → Bool
  | .data bytes => bytes.length == Config.sectorBytes
  | .unwritten | .unreadable => true

/-- The sectors one command names, 1-64 (R64, R133). -/
def sectorCount (n : Nat) : Bool := 1 ≤ n && n ≤ 64

/-- A command that can arrive. -/
def Instr.wf : Instr → Bool
  | .fetch _ _ b | .cancelFetch _ _ b | .quote _ _ b | .locate _ _ b | .find _ _ b => bodyFits b
  | .openInstrument _ _ b | .postPage _ _ b | .closeInstrument _ _ b | .abortInstrument _ _ b => bodyFits b
  | .accountOpen _ _ b | .accountUpdate _ _ b | .accountCredit _ _ b | .accountClose _ _ b | .accountQuery _ _ b =>
    bodyFits b
  | .setSchedule _ _ b | .setCategoryDiscount _ _ b | .dayClose _ _ b | .journalTake _ _ b | .tallyQuery _ _ b =>
    bodyFits b
  | .exportCartridge _ _ b | .driveReset _ _ b | .recover _ _ b | .faultQuery _ _ b | .libraryQuery _ _ b => bodyFits b
  | .faultClearRetry _ _ b => bodyFits b && !saysAbandon b
  | .faultClearAbandon _ _ b => bodyFits b && saysAbandon b
  | .setProfile _ _ b | .setTimers _ _ b | .setOptions _ _ b | .setDate _ _ b | .setArmPriority _ _ b => bodyFits b
  | .noticeConfig _ _ b | .signalSet _ _ b | .signalClear _ _ b => bodyFits b
  | .takeNotice _ _ b | .setThreshold _ _ b | .noticeQuery _ _ b | .status _ _ b => bodyFits b
  | .requestUnknownCode _ _ code b => bodyFits b && namesNone code
  | .requestEmptyBody _ _ => true
  | .page _ _ b | .credit _ _ b | .linkReset _ _ b => frameFits b
  | .unknownKind _ | .malformedCrc _ | .malformedLength _ | .frameTimeout _ | .overrun _ | .carrierLoss _ | .frameSent _ =>
    true
  | .fetchStallLimit .. | .powerOnReset _ | .driveIdentifyAnswer .. | .driveIdentifyTimeout _ | .startUpReconciliation .. =>
    true
  | .loadingSlotCartridge | .loadingSlotEmpty => true
  | .shelfSlotSensor n _ => slotNumber n
  | .pickCompletion | .travelCompletion | .placeCompletion | .moveTimeout | .pickEmpty | .driveRefused | .placeBlocked
  | .gripLost => true
  | .spinUpCompletion .. | .spinDownCompletion _ | .ejectCompletion .. | .writeCompletion .. | .blankCheckCompletion .. =>
    true
  | .readCompletion _ rs => sectorCount rs.length && rs.all sectorFits
  | .verifyCompletion _ rs => sectorCount rs.length
  | .reinitCompletion .. | .powerCycleCompletion .. | .commandTimeout _ | .driveHardwareFault _ => true
  | .idleTimerExpiry _ | .holdTimerExpiry _ | .filingStallLimit => true

end Sys2Proof
end

