-- ==== Sys2Proof/Certificates/Slice0/Obligations.lean ====
section
/-! DEFINITION. The statements for the provers. Where a conclusion is `finished t` or `followed t`, `exec` answers a next
state: `t` with the transmitters' choice made (`finished`), after the acts that `t` makes possible (`followed`). Every field
that the update written in `t` does not name is as it was. -/

open Sys2Proof Sys2Proof.Machine

/-! ### The queue and time -/

/-- A step with a command at the front of the queue is that command's meaning on the state with the queue's rest. A
step on an empty queue is one second: the seconds count rises by one, stays at 4,294,967,295 once it has reached it
(00_scope 4.1), and the timers that have then run their time are queued. That a second passes only on an empty queue
is the model's choice (notes/assumptions/21.md). -/
def Obligations.StepAndSecond : Prop :=
  (∀ (c : Instr) (rest : List Instr) (s : State),
    step { s with pending := c :: rest } = exec c { s with pending := rest })
    ∧ (∀ s : State, s.pending = [] →
    ∃ t, step s = .next t ∧ t.seconds = (if s.seconds < 4294967295 then s.seconds + 1 else 4294967295)
      ∧ (s.seconds ≤ 4294967295 →
          t = { s with seconds := t.seconds, pending := dueEvents { s with seconds := t.seconds } }))

/-- Every command has an effect in every state: `exec` neither faults nor refuses, and it leaves the queue of waiting
commands as it is, and the seconds count too, which is 0 after POWER_ON_RESET (00_scope 4.1). It is the model's choice
that a command takes no time (notes/assumptions/21.md), and that a report out of its place and a timer command before
its time have an outcome at all, which is to change nothing (notes/assumptions/9.md, notes/assumptions/12.md). -/
def Obligations.EveryCommandCompletes : Prop :=
  ∀ (c : Instr) (s : State), ∃ t, exec c s = .next t ∧ t.pending = s.pending
    ∧ t.seconds = (match c with | .powerOnReset _ => 0 | _ => s.seconds)

/-! ### Frames and bytes -/

/-- The CRC-16 of R202 over the nine ASCII bytes of "123456789" is 29B1h, and the frame of an empty REQUEST with tag 0
is its start byte, kind, tag, length and CRC. A whole frame whose body length is above 4,100 is malformed with cause
LENGTH, and one of a body up to 4,100 bytes whose CRC bytes differ from the CRC computed over kind, tag, length and
body is malformed with cause CRC (R176). -/
def Obligations.CrcAndMalformedFrames : Prop :=
  (crc16 [0x31, 0x32, 0x33, 0x34, 0x35, 0x36, 0x37, 0x38, 0x39] = 0x29B1#16
    ∧ wireFrame 0x01 0x00 [] = 0xC9 :: 0x01 :: 0x00 :: 0x00 :: 0x00 :: beBytes 2 (crc16 [0x01, 0x00, 0x00, 0x00]).toNat)
    ∧ ((∀ (st : Station) (kind tag hi lo : Byte) (rest : List Byte), 4100 < hi.toNat * 256 + lo.toNat →
      decodeFrame st (0xC9 :: kind :: tag :: hi :: lo :: rest) = some (.malformedLength st))
    ∧ ∀ (st : Station) (kind tag a b : Byte) (body : List Byte), body.length ≤ 4100 →
      [a, b] ≠ beBytes 2 (crc16 (kind :: tag :: beBytes 2 body.length ++ body)).toNat →
      decodeFrame st (0xC9 :: kind :: tag :: beBytes 2 body.length ++ body ++ [a, b]) = some (.malformedCrc st))

/-- Every command that arrives as a frame is read back from the bytes of its frame: start byte, kind, tag, length,
body and CRC (R176, R177, R202, R205). -/
def Obligations.FrameRoundTrip : Prop :=
  ∀ (i : Instr) (st : Station) (bytes : List Byte),
    i.wf = true → encodeFrame i = some (st, bytes) → decodeFrame st bytes = some i

/-! ### Admission (R178, R183, R203, R204) -/

/-- The checks of R183 in their order, for a REQUEST taken at once: a code that names no request is answered
BAD_REQUEST; then NOT_PERMITTED by the profile; then QUEUE_FULL for a long request with 8 entries outstanding; then
TAG_IN_USE. The reply carries the frame's tag and the request code, joins the reply queue, and nothing else changes. A
request that passes the checks of R183 is answered BAD_REQUEST, its owning block not seeing it, when its body has
another length than R205 gives, or a flag byte above 1, a mask or family set with an undefined bit, or a FAULT_CLEAR
kind or ABANDON location that is not defined (R204); a REQUEST with a body of 0 bytes is answered BAD_REQUEST with
reply kind 00h (R203). That the reply to a code that names no request has that code as its reply kind is the model's
reading (notes/assumptions/47.md). A REQUEST that arrives while 16 replies wait stays in the receive buffer, and is
taken when a reply that has been sent leaves fewer than 16 (R178); a PAGE, CREDIT or REQUEST frame that completes
meanwhile is an overrun, and resets the link. -/
def Obligations.RequestAdmission : Prop :=
  ((∀ (s : State) (st : Station) (tag : Byte) (b : List Byte), s.takes st →
    let l := s.link st
    (∀ code, Req.ofCode code = none →
        exec (.requestUnknownCode st tag code b) s = finished (addReply st ⟨tag, code, .badRequest, .none⟩ s))
      ∧ ∀ r : Req,
        (r.allowed l.profile = false →
            exec (requestOf st tag r.code b) s = finished (addReply st ⟨tag, r.code, .notPermitted, .none⟩ s))
          ∧ (r.allowed l.profile = true → r.isLong = true → 8 ≤ l.outstanding.length →
            exec (requestOf st tag r.code b) s = finished (addReply st ⟨tag, r.code, .queueFull, .none⟩ s))
          ∧ (r.allowed l.profile = true → (r.isLong = true → l.outstanding.length < 8) →
            (∃ e ∈ l.outstanding, e.tag = tag) →
            exec (requestOf st tag r.code b) s = finished (addReply st ⟨tag, r.code, .tagInUse, .none⟩ s)))
    ∧ (∀ (s : State) (st : Station) (tag : Byte),
    (∀ (r : Req) (b : List Byte), s.admits st r tag →
        let at_ (i : Nat) : Nat := (b.getD i 0).toNat
        let undefined : Prop := match r with
          | .postPage => 1 < at_ 4
          | .accountOpen => 8 ≤ at_ 3
          | .accountUpdate => 16 ≤ at_ 2
          | .setSchedule => 64 ≤ at_ 1
          | .setProfile => 32 ≤ at_ 1
          | .setTimers => 16 ≤ at_ 0
          | .setOptions => 4 ≤ at_ 0
          | .noticeConfig => 8 ≤ at_ 1
          | .faultClear => 1 < at_ 0 ∨ at_ 0 = 1 ∧ 2 < at_ 1
          | _ => False
        b.length + 1 ≠ r.bodyLength ∨ undefined →
        exec (requestOf st tag r.code b) s = finished (addReply st ⟨tag, r.code, .badRequest, .none⟩ s))
      ∧ (s.takes st → exec (.requestEmptyBody st tag) s = finished (addReply st ⟨tag, 0x00, .badRequest, .none⟩ s))))
    ∧ (∀ (s : State) (st : Station) (tag : Byte) (r : Req) (b : List Byte),
    (s.receives st → 16 ≤ (s.link st).replies.length →
        exec (requestOf st tag r.code b) s
          = finished (s.updLink st fun l => { l with buffer := some ⟨tag, r.code :: b⟩ }))
      ∧ (∀ x h, (s.link st).sending = some (.reply x) → (s.link st).buffer = some h → (s.link st).replies.length ≤ 16 →
        1 ≤ (s.link st).replies.length →
        exec (.frameSent st) s
          = followed (takeBody st h.tag h.body
              (s.updLink st fun l => { l with sending := none, replies := l.replies.drop 1, buffer := none })))
      ∧ (∀ body, s.reconciled = true → (s.link st).buffer.isSome = true →
        exec (.page st tag body) s = finished (resetLink st .overrun s)
          ∧ exec (.credit st tag body) s = finished (resetLink st .overrun s)
          ∧ exec (requestOf st tag r.code b) s = finished (resetLink st .overrun s)))


/-! ### Fetching (chapter 7) and the catalogue's requests (chapter 1) -/

/-- A FETCH that passes every check of R126 to R128 is admitted as R129 states: the fetch order with its snapshot and
estimate, a hold for SOLICITOR, a journal reservation for every category but STAFF, the outstanding entry, and the
order at the end of the volume wait list with a planning pass to be made. No reply is queued. -/
def Obligations.FetchAdmitted : Prop :=
  ∀ (s : State) (st : Station) (tag : Byte) (n p k a : Nat) (copy : Bool) (e : CatEntry) (v : VolumeEntry) (c : Cartridge)
    (acc : Option Account),
    s.admits st .fetch tag →
    1 ≤ n → n ≤ 999999999 → 1 ≤ p → p ≤ 1000 → k ≤ 1000 → a ≤ 9999 →
    s.entry? n = some e → e.state = .committed → p ≤ e.pages →
    s.volume? e.volume = some v → s.cart? v.cart = some c → c.exportPending = false →
    c.location ≠ .exported → c.location ≠ .missing → c.location ≠ .loadingSlot →
    (s.arm.level = .halted → c.isUp v.side) → s.pays a acc →
    let kind : FetchKind := if copy then .copy else .view
    let snap := snapshot s.fee e.feeClass acc
    let count := if k = 0 then e.pages - p + 1 else min k (e.pages - p + 1)
    let est := feeEstimate snap kind count (dayTotalOf acc)
    (snap.category ≠ .staff → s.fee.journal.length + s.fee.reservations < 256) →
    (snap.category = .solicitor → ∀ x, acc = some x → est ≤ s.available x) →
    let id : FetchId := ⟨st, tag⟩
    let order : FetchOrder :=
      { id := id, instrument := n, volume := e.volume, extents := e.extents, pages := e.pages, content := e.content
        trailer := e.trailer.getD 0, filingDate := e.filingDate, first := p, effective := count, kind := kind, account := a
        snap := snap, estimate := est, hold := if snap.category = .solicitor then some est else none
        reservation := snap.category != .staff, lengths := none, next := p, delivered := 0, unreadable := 0, reading := none
        staged := none, delivery := none, stall := none, place := .waitList }
    exec (.fetch st tag (beBytes 4 n ++ beBytes 2 p ++ beBytes 2 k ++ [boolByte copy] ++ beBytes 2 a)) s
      = followed (State.updLink
          { s with
            fetch := { s.fetch with orders := s.fetch.orders ++ [order] }
            fee := { s.fee with
              holds := if snap.category = .solicitor then s.fee.holds ++ [⟨id, a, est⟩] else s.fee.holds
              reservations := if snap.category ≠ .staff then s.fee.reservations + 1 else s.fee.reservations }
            planner := { s.planner with
              waiters := s.planner.waiters ++ [⟨id, e.volume, v.cart, v.side, none, false⟩]
              passesDue := s.planner.passesDue + 1 } }
          st fun l => { l with outstanding := l.outstanding ++ [⟨tag, .fetch, .fetchEngine⟩] })

/-- The refusals of admission in their order (R126 to R128): BAD_REQUEST for a field out of range, NOT_FILED and
IN_FILING from the lookup, RANGE, OFF_LINE with OFF_LINE_WANTED set, LIBRARY_HALTED while the volume is not up in a
drive, NO_ACCOUNT, SUSPENDED, JOURNAL_FULL, and last FUNDS for a SOLICITOR whose available funds are below the
estimate. -/
def Obligations.FetchRefused : Prop :=
  ∀ (s : State) (st : Station) (tag : Byte) (n p k a : Nat) (kind : Byte),
    s.admits st .fetch tag → n < 256 ^ 4 → p < 256 ^ 2 → k < 256 ^ 2 → a < 256 ^ 2 →
    let out := exec (.fetch st tag (beBytes 4 n ++ beBytes 2 p ++ beBytes 2 k ++ [kind] ++ beBytes 2 a)) s
    refusesAdmission s st tag 0x10 n p k a kind out
      ∧ ∀ e v c x, 1 ≤ n → n ≤ 999999999 → 1 ≤ p → k ≤ 1000 → kind.toNat ≤ 1 → 1 ≤ a → a ≤ 9999 → p ≤ 1000 →
        s.entry? n = some e → e.state = .committed → p ≤ e.pages → s.volume? e.volume = some v →
        s.cart? v.cart = some c → c.exportPending = false →
        c.location ≠ .exported → c.location ≠ .missing → c.location ≠ .loadingSlot →
        (s.arm.level = .halted → c.isUp v.side) → s.account? a = some x → x.state = .opened → x.category = .solicitor →
        s.fee.journal.length + s.fee.reservations < 256 →
        let count := if k = 0 then e.pages - p + 1 else min k (e.pages - p + 1)
        s.available x < feeEstimate (snapshot s.fee e.feeClass (some x)) (if kind.toNat = 0 then .view else .copy) count
          x.dayTotal →
        out = s.refusing st tag 0x10 .funds

/-- CANCEL_FETCH (R142): no order of the same station with the named tag, NOT_OUTSTANDING and nothing changes; otherwise
the order is completed CANCELLED, its FETCH_DONE before the reply of DONE with the pages delivered. -/
def Obligations.CancelFetch : Prop :=
  ∀ (s : State) (st : Station) (tag named : Byte), s.admits st .cancelFetch tag →
    (s.order? ⟨st, named⟩ = none →
        exec (.cancelFetch st tag [named]) s = finished (addReply st ⟨tag, 0x11, .notOutstanding, .none⟩ s))
      ∧ ∀ o, s.order? ⟨st, named⟩ = some o →
        exec (.cancelFetch st tag [named]) s
          = followed (addReply st ⟨tag, 0x11, .done, .delivered o.delivered⟩ (completeFetch ⟨st, named⟩ .cancelled s))

/-- A completion with its settlement (R139 to R141, R158 to R160, R162, R164), wherever the order is: the order is
freed, the buffers of its pages are free, the charge is the fee computation for the pages delivered and the account's
day total, clamped to the estimate. A SOLICITOR account is debited and its hold removed, and its day total and that of
a GOVERNMENT account rise, up to 99,999,999; ACCOUNT_LOW is set for a SOLICITOR charged to below the low mark. A
journal record takes the receipt number in place of the reservation, for every category but STAFF. Today's tallies
rise under the class and kind and under the category, and stay at 999,999,999, with the saturated mark. FETCH_DONE
joins the queue where the outstanding table holds the tag; where a link reset has emptied it (R143) no reply is sent,
and all the rest is done as well. An order in the wait list leaves it (R88), and nothing else changes there where it
rode on no FETCH plan, where another waiter rides on the plan, or where no order of the plan is still WAITING;
otherwise the plan's first order still WAITING, its DEMOUNT before its move order, is withdrawn with the orders that
name it, the plan is removed, and a planning pass is made due. -/
def Obligations.FetchCompletion : Prop :=
  ∀ (s : State) (id : FetchId) (outcome : Status) (o : FetchOrder) (acc : Option Account),
    s.order? id = some o → (if o.account = 0 then acc = none else s.account? o.account = acc ∧ acc ≠ none) →
    let t := completeFetch id outcome s
    let cat := o.snap.category
    let charge := min (feeEstimate o.snap o.kind o.delivered (dayTotalOf acc)) o.estimate
    let receipt := if cat = .staff then 0 else s.fee.receipt
    let raised (a : Account) : Account := match cat with
      | .solicitor =>
        { a with balance := a.balance.map (· - charge), dayTotal := min (a.dayTotal + charge) 99999999 }
      | .government => { a with dayTotal := min (a.dayTotal + charge) 99999999 }
      | _ => a
    let ofKind (k : ClassTally) : KindTally := match o.kind with | .view => k.view | .copy => k.copy
    let ofCat (u : TallySet) : CategoryTally := match cat with
      | .counter => u.counter | .solicitor => u.solicitor | .government => u.government | .staff => u.staff
    t.order? id = none
      ∧ t.fee.accounts = (if o.account = 0 then s.fee.accounts
          else s.fee.accounts.map fun a => if a.number = o.account then raised a else a)
      ∧ t.fee.holds = s.fee.holds.filter (fun h => h.id ≠ id)
      ∧ (cat ≠ .staff → t.fee.journal = s.fee.journal ++ [⟨s.fee.receipt, s.fee.date, id.station, o.account, cat,
            o.instrument, o.kind, o.delivered, o.unreadable, charge, outcome⟩]
          ∧ t.fee.receipt = (if s.fee.receipt < 999999 then s.fee.receipt + 1 else 1)
          ∧ t.fee.reservations = s.fee.reservations - 1
          ∧ (224 ≤ s.fee.journal.length + 1 → (t.source 21).pending = true))
      ∧ (cat = .staff → t.fee.journal = s.fee.journal ∧ t.fee.receipt = s.fee.receipt
          ∧ t.fee.reservations = s.fee.reservations)
      ∧ (∀ a m b, acc = some a → cat = .solicitor → 0 < charge → a.lowMark = some m → a.balance = some b →
          b - charge < m → (t.source 18).pending = true)
      ∧ (∀ k, s.fee.today.classes.toList[o.snap.cls]? = some k → ∃ k', t.fee.today.classes.toList[o.snap.cls]? = some k'
          ∧ ofKind k' = ⟨min ((ofKind k).fetches + 1) 999999999, min ((ofKind k).pages + o.delivered) 999999999,
              min ((ofKind k).charges + charge) 999999999⟩
          ∧ ofCat t.fee.today
            = ⟨min ((ofCat s.fee.today).fetches + 1) 999999999, min ((ofCat s.fee.today).charges + charge) 999999999⟩
          ∧ (t.fee.today.saturated = true ↔ s.fee.today.saturated = true
              ∨ 999999999 < (ofKind k).fetches + 1 ∨ 999999999 < (ofKind k).pages + o.delivered
              ∨ 999999999 < (ofKind k).charges + charge ∨ 999999999 < (ofCat s.fee.today).fetches + 1
              ∨ 999999999 < (ofCat s.fee.today).charges + charge))
      ∧ (∀ i, i ≠ o.snap.cls → t.fee.today.classes.toList[i]? = s.fee.today.classes.toList[i]?)
      ∧ t.fee.previous = s.fee.previous ∧ t.fee.date = s.fee.date
      ∧ (s.awaits id.station id.tag → (t.link id.station).replies = (s.link id.station).replies ++ [⟨id.tag, 0x90, outcome,
          .fetchDone ⟨o.instrument, o.first, o.effective, o.delivered, o.unreadable, charge, receipt⟩⟩])
      ∧ (¬ s.awaits id.station id.tag → (t.link id.station).replies = (s.link id.station).replies)
      ∧ (t.link id.station).outstanding = (s.link id.station).outstanding.filter (fun e => e.tag ≠ id.tag)
      ∧ (∀ k b, o.staged = some (k, b) → b < 16 → t.fetch.buffers.toList[b]? = some none)
      ∧ (∀ p, o.delivery = some p → p.buf < 16 → t.fetch.buffers.toList[p.buf]? = some none)
      ∧ t.catalogue = s.catalogue ∧ t.run = s.run
      ∧ (∀ w, o.place = .waitList → s.planner.waiters.find? (fun w => w.id = id) = some w → w.plan = none →
          t.planner.waiters = s.planner.waiters.filter (fun w => w.id ≠ id) ∧ t.library = s.library ∧ t.arm = s.arm
            ∧ t.drives = s.drives)
      ∧ (∀ w d, o.place = .waitList → s.planner.waiters.find? (fun w => w.id = id) = some w → w.plan = some d →
          let rest := s.planner.waiters.filter (fun w => w.id ≠ id)
          let u : State := { s with planner := { s.planner with waiters := rest } }
          let kept : Prop := t.planner = u.planner ∧ t.library = s.library ∧ t.arm = s.arm ∧ t.drives = s.drives
          ((∀ p ∈ s.planner.plans, p.drive = d → p.purpose ≠ .fetch) → kept)
          ∧ ∀ before p after, s.planner.plans = before ++ p :: after → p.drive = d → p.purpose = .fetch →
            (∀ q ∈ before, q.drive = d → q.purpose ≠ .fetch) →
            ((∃ v ∈ rest, v.plan = some d) → kept)
            ∧ ((∀ v ∈ rest, v.plan ≠ some d) →
              ((∀ k ∈ p.orders, s.orderWaiting k = false) → kept)
              ∧ ∀ k, p.orders.find? (fun n => s.orderWaiting n) = some k →
                t.arm = { s.arm with orders := s.ordersWithout k }
                  ∧ (∀ x ∈ s.arm.orders, x.number = k ∨ x.after = some k → x ∉ t.arm.orders)
                  ∧ (∀ q ∈ t.planner.plans, q.drive ≠ d) ∧ t.planner.waiters.map (·.id) = rest.map (·.id)
                  ∧ s.planner.passesDue < t.planner.passesDue
                  ∧ t.planner = (dropOrders [k] .withdrawn u).planner ∧ t.library = (dropOrders [k] .withdrawn u).library
                  ∧ t.drives = (dropOrders [k] .withdrawn u).drives))
      ∧ (∀ d, o.place = .drive d →
          (t.drive d).queue = (s.drive d).queue.filter (fun x => x ≠ id) ∧ t.library = s.library ∧ t.arm = s.arm
            ∧ ∀ e, e ≠ d → t.drive e = s.drive e)

/-- LOCATE (R6) answers a COMMITTED entry with the entry's fields, the cartridge and side of its volume, the
cartridge's location and home slot, and for a drive whether the side is up; it changes nothing else. FIND is refused
BAD_REQUEST for a start number above 999,999,999, a first date after the last, a fee class above 7 that is not FFh, or
a filing station above 4 (R7). Otherwise (R7, R8) it examines the entries above the start number in ascending order
and stops at 16 matches, at 4,096 entries or at the last entry: the reply carries the COMMITTED entries examined that
match, the last number examined, and whether no entry lies above it. Nothing else changes. -/
def Obligations.LocateAndFind : Prop :=
  (∀ (s : State) (st : Station) (tag : Byte) (n : Nat), s.admits st .locate tag → n < 256 ^ 4 →
    let out := exec (.locate st tag (beBytes 4 n)) s
    (n = 0 ∨ 999999999 < n → out = finished (addReply st ⟨tag, 0x13, .badRequest, .none⟩ s))
      ∧ (1 ≤ n → n ≤ 999999999 →
        (s.entry? n = none → out = finished (addReply st ⟨tag, 0x13, .notFiled, .none⟩ s))
        ∧ ∀ e, s.entry? n = some e →
          (e.state = .filing → out = finished (addReply st ⟨tag, 0x13, .inFiling, .none⟩ s))
          ∧ ∀ v c, e.state = .committed → s.volume? e.volume = some v → s.cart? v.cart = some c →
            ∃ up, (up = true ↔ (∃ d, c.location = .drive d) ∧ c.sideUp = some v.side)
              ∧ out = finished (addReply st
                  ⟨tag, 0x13, .done, .located ⟨e, v.cart, v.side, c.location, c.home, up⟩⟩ s)))
    ∧ (∀ (s : State) (st : Station) (tag : Byte) (start df dt vol : Nat) (cls fs : Byte),
    s.admits st .find tag → start < 256 ^ 4 → df ≤ 65535 → dt ≤ 65535 → vol ≤ 65535 →
    let out := exec (.find st tag (beBytes 4 start ++ beBytes 2 df ++ beBytes 2 dt ++ [cls] ++ beBytes 2 vol ++ [fs])) s
    let bad : Prop := 999999999 < start ∨ (df ≠ 0 ∧ dt ≠ 0 ∧ dt < df) ∨ (7 < cls.toNat ∧ cls.toNat ≠ 255) ∨ 4 < fs.toNat
    let above := s.catalogue.filter fun e => start < e.number
    let hit (e : CatEntry) : Bool :=
      e.state = .committed && (df = 0 || df ≤ e.filingDate) && (dt = 0 || e.filingDate ≤ dt)
        && (cls.toNat = 255 || e.feeClass = cls.toNat) && (vol = 0 || e.volume = vol)
        && (fs.toNat = 0 || e.filingStation.val + 1 = fs.toNat)
    (bad → out = s.refusing st tag 0x14 .badRequest)
      ∧ (¬ bad → ∃ k, k ≤ 4096 ∧ k ≤ above.length ∧
        let seen := above.take k
        let found := seen.filter hit
        let last := (seen.getLast?.map fun e => e.number).getD start
        found.length ≤ 16
          ∧ (found.length = 16 → seen.getLast?.any hit = true)
          ∧ (found.length < 16 → k = 4096 ∨ k = above.length)
          ∧ out = finished (addReply st ⟨tag, 0x14, .done, .found (found.map fun e => e.number) last
              (!s.catalogue.any fun e => last < e.number)⟩ s)))


/-- QUOTE (R146): the refusals of checks 4 to 10 as for FETCH. Otherwise, for the public counter and for an account,
the effective page count, the last page, the fee class, the category with the discount and the cap of the snapshot,
the estimate, and for a SOLICITOR the available funds with the funds flag, which is set when they reach the estimate;
the flag is set for every other category. No record changes. -/
def Obligations.Quote : Prop :=
  ∀ (s : State) (st : Station) (tag : Byte) (n p k a : Nat) (kind : Byte),
    s.admits st .quote tag → n < 256 ^ 4 → p < 256 ^ 2 → k < 256 ^ 2 → a < 256 ^ 2 →
    let out := exec (.quote st tag (beBytes 4 n ++ beBytes 2 p ++ beBytes 2 k ++ [kind] ++ beBytes 2 a)) s
    refusesAdmission s st tag 0x12 n p k a kind out
      ∧ ∀ e v c acc, 1 ≤ n → n ≤ 999999999 → 1 ≤ p → p ≤ 1000 → k ≤ 1000 → kind.toNat ≤ 1 → a ≤ 9999 →
        s.entry? n = some e → e.state = .committed → p ≤ e.pages → s.volume? e.volume = some v →
        s.cart? v.cart = some c → c.exportPending = false →
        c.location ≠ .exported → c.location ≠ .missing → c.location ≠ .loadingSlot →
        (s.arm.level = .halted → c.isUp v.side) → s.pays a acc →
        let snap := snapshot s.fee e.feeClass acc
        (snap.category ≠ .staff → s.fee.journal.length + s.fee.reservations < 256) →
        let count := if k = 0 then e.pages - p + 1 else min k (e.pages - p + 1)
        let est := feeEstimate snap (if kind.toNat = 0 then .view else .copy) count (dayTotalOf acc)
        ∃ funds available, out = finished (addReply st ⟨tag, 0x12, .done, .quote ⟨count, p + count - 1, e.feeClass,
            snap.category, snap.discount, snap.cap, est, funds, available⟩⟩ s)
          ∧ (acc = none → snap.category = .counter ∧ snap.discount = s.fee.discountCounter ∧ snap.cap = none)
          ∧ (snap.category ≠ .solicitor → funds = true ∧ available = none)
          ∧ ∀ x, acc = some x → snap.category = x.category
            ∧ (x.category = .solicitor → available = some (s.available x) ∧ (funds = true ↔ est ≤ s.available x))

/-- Every logical sector below the sum of the extent lengths maps to exactly one physical sector, which lies in one of
the extents at the place that R3 gives; a logical sector at or beyond the sum has none. The catalogue's acts (R13,
R14): an accepted extension adds 1 to the pages and n to the content and to the extents' sum, an accepted commit adds
1 to the extents' sum, sets the trailer position to the content and makes the entry COMMITTED; neither touches another
entry or anything but the catalogue. -/
def Obligations.SectorsAndCatalogueActs : Prop :=
  (∀ (es : List Extent) (l : Nat),
    (extentSum es ≤ l → mapSector es l = none)
      ∧ (l < extentSum es → ∃ i x, es[i]? = some x ∧ extentSum (es.take i) ≤ l ∧ l < extentSum (es.take i) + x.len
          ∧ mapSector es l = some (i, x.start + (l - extentSum (es.take i)))))
    ∧ (∀ (s t : State) (n start len : Nat) (e : CatEntry), s.entry? n = some e →
    (extendEntry s n start len = .ok t →
        e.state = .filing ∧ e.pages + 1 ≤ 1000 ∧ e.content + len ≤ 3840
          ∧ (∃ e', t.entry? n = some e' ∧ e'.state = .filing ∧ e'.pages = e.pages + 1 ∧ e'.content = e.content + len
              ∧ extentSum e'.extents = extentSum e.extents + len ∧ e'.trailer = e.trailer)
          ∧ (∀ m, m ≠ n → t.entry? m = s.entry? m) ∧ t = { s with catalogue := t.catalogue })
      ∧ (commitEntry s n start = .ok t →
        e.state = .filing ∧ 1 ≤ e.pages
          ∧ (∃ e', t.entry? n = some e' ∧ e'.state = .committed ∧ e'.pages = e.pages ∧ e'.content = e.content
              ∧ extentSum e'.extents = extentSum e.extents + 1 ∧ e'.trailer = some e.content)
          ∧ (∀ m, m ≠ n → t.entry? m = s.entry? m) ∧ t = { s with catalogue := t.catalogue }))


/-! ### Copy fees (chapter 8) -/

/-- Stages S1 and S2 (R153).
Stages S3 and S4 (R154): the discount rounded down, the net figure, and the conversion to minor units.
Stages S5 and S6 (R155): the cap room, and the settlement clamp.
The limits of R156: with the rates in their ranges an estimate is at most 10,000,000 minor units, and with every other
input fixed it does not decrease as the page count grows. -/
def Obligations.FeeComputation : Prop :=
  (∀ (r : ClassRates) (p : Nat),
    (feeGross .view r 0 = 0 ∧ feeGross .copy r 0 = 0)
      ∧ (1 ≤ p → feeGross .view r p = p * r.v ∧ feeGross .copy r p = r.f + (p - 1) * r.g + r.c)
      ∧ (∀ g, 1 ≤ p → feeBounded .view r p g = (if g ≤ r.x then g else r.x))
      ∧ (∀ g, 1 ≤ p → r.m ≤ r.x → feeBounded .copy r p g = (if g < r.m then r.m else if r.x < g then r.x else g))
      ∧ ∀ kind g, feeBounded kind r 0 g = g)
    ∧ ((∀ d g : Nat, feeNet d g = g - g * d / 100) ∧ (∀ n : Nat, feeAmount n = (n + 5) / 10)
    ∧ (∀ g : Nat, feeNet 0 g = g ∧ feeNet 100 g = 0) ∧ feeAmount 6505 = 651 ∧ feeAmount 6504 = 650
    ∧ ∀ q : Nat, (∀ r, r ≤ 4 → feeAmount (10 * q + r) = q) ∧ ∀ r, 5 ≤ r → r ≤ 9 → feeAmount (10 * q + r) = q + 1)
    ∧ (∀ (snap : FeeSnapshot) (kind : FetchKind) (p t est : Nat),
    let amount := feeAmount (feeNet snap.discount (feeBounded kind snap.rates p (feeGross kind snap.rates p)))
    (snap.cap = none → feeEstimate snap kind p t = amount)
      ∧ (∀ k, snap.cap = some k → t < k → feeEstimate snap kind p t = min amount (k - t))
      ∧ (∀ k, snap.cap = some k → k ≤ t → feeEstimate snap kind p t = 0)
      ∧ feeCharge snap kind p t est = min (feeEstimate snap kind p t) est)
    ∧ ∀ (snap : FeeSnapshot) (kind : FetchKind) (t : Nat), snap.rates.m ≤ snap.rates.x → snap.rates.x ≤ 99999999 →
      snap.discount ≤ 100 →
      (∀ p, feeEstimate snap kind p t ≤ 10000000)
        ∧ (∀ p q, p ≤ q → feeEstimate snap kind p t ≤ feeEstimate snap kind q t)
        ∧ feeEstimate snap kind 0 t = 0


/-! ### Filing (chapter 6) -/

/-- OPEN_INSTRUMENT (R97, R98): the checks in their order; then the run record as R98 gives it, in OPENING, its entry
in the outstanding table, and the filing request made for the OPEN side, or, where fewer than 4,096 sectors of it are
free or no side is OPEN, rollover: the OPEN side FULL with VOLUME_FULL set, and the request made for the blank chosen
by R26. The run's last tag, and the ring's head, are as they were; so is the ring, which is empty while a run is
CLOSED. -/
def Obligations.OpenInstrument : Prop :=
  ∀ (s : State) (st : Station) (tag src cls : Byte) (n : Nat), s.admits st .openInstrument tag → n < 256 ^ 4 →
    let out := exec (.openInstrument st tag ([src] ++ beBytes 4 n ++ [cls])) s
    let no (c : Status) := finished (addReply st ⟨tag, 0x20, c, .none⟩ s)
    let run : Run :=
      { Run.atReset with
        state := .opening, owner := st, source := if src = 0 then .given else .separator, feeClass := cls.toNat, given := n
        openTag := some tag, lastTag := s.run.lastTag, head := s.run.head, ring := s.run.ring }
    let opened (chosen : Option (Nat × Side)) (p : Nat × Side) (s : State) : State :=
      { s with
        run := { run with chosen := chosen }
        planner := { s.planner with filingReq := some p, passesDue := s.planner.passesDue + 1 } }
    let listed : State := s.updLink st fun l =>
      { l with outstanding := l.outstanding ++ [⟨tag, .openInstrument, .filingWriter⟩] }
    (1 < src.toNat ∨ 7 < cls.toNat → out = no .badRequest)
      ∧ (src.toNat ≤ 1 → cls.toNat ≤ 7 →
        (s.run.state ≠ .closed → out = no .busy)
        ∧ (s.run.state = .closed →
          (src = 0 → n = 0 ∨ 999999999 < n → out = no .badRequest)
          ∧ (src = 0 → 1 ≤ n → n ≤ 999999999 → s.entry? n ≠ none → out = no .duplicate)
          ∧ ((src = 0 → 1 ≤ n ∧ n ≤ 999999999 ∧ s.entry? n = none) →
            (65536 ≤ s.catalogue.length → out = no .catalogueFull)
            ∧ (s.catalogue.length < 65536 →
              (∀ m x c d, s.openSide = some (m, x) → s.cart? m = some c → c.location = .drive d →
                (s.drive d).state = .faulted → out = no .filingDriveFault)
              ∧ ((∀ m x c d, s.openSide = some (m, x) → s.cart? m = some c → c.location = .drive d →
                  (s.drive d).state ≠ .faulted) →
                (s.arm.level = .halted →
                  s.freeSectors < 4096 ∨ (∀ m x d, s.openSide = some (m, x) → s.upIn m x d = false) →
                  out = no .libraryHalted)
                ∧ (∀ m x, 4096 ≤ s.freeSectors → s.openSide = some (m, x) →
                  (s.arm.level = .halted → ∃ d, s.upIn m x d = true) →
                  out = followed (opened none (m, x) listed))
                ∧ (s.arm.level ≠ .halted → s.freeSectors < 4096 →
                  (blankChoice s (s.openSide.map (·.1)) = none → out = no .noBlank)
                  ∧ ∀ p, blankChoice s (s.openSide.map (·.1)) = some p →
                    out = followed (opened (some p) p
                      (match s.openSide with
                      | some (m, x) => makeFull m x listed
                      | none => listed))))))))

/-- POST_PAGE (R104): the checks in their order; then the tail slot is in use as FILLING with the declared length, its
sectors, the notify flag and the tag, the posted counts of a GIVEN run are raised, and the reply carries the slot
number. PAGE (R105): from the station that owns the run, its bytes join the oldest FILLING slot that holds the tag;
the slot becomes COMPLETE when its declared length has arrived, bytes beyond it discarded and its last sector filled
with zeros. A frame that finds no such slot, one of another station, one with no bytes or more than 4,096, and one
while the run is CLOSED change nothing. -/
def Obligations.PostedPages : Prop :=
  (∀ (s : State) (st : Station) (tag : Byte) (len : Nat) (notify : Bool), s.admits st .postPage tag → len < 256 ^ 4 →
    let out := exec (.postPage st tag (beBytes 4 len ++ [boolByte notify])) s
    let no (c : Status) := finished (addReply st ⟨tag, 0x21, c, .none⟩ s)
    let r := s.run
    let n := (len + 1023) / 1024
    (len = 0 ∨ 65536 < len → out = no .badRequest)
      ∧ (1 ≤ len → len ≤ 65536 →
        (r.state = .closed ∨ r.state = .closing ∨ r.closeRequested = true ∨ r.owner ≠ st → out = no .notOpen)
        ∧ (r.state ≠ .closed → r.state ≠ .closing → r.closeRequested = false → r.owner = st →
          (16 ≤ r.ring.length → out = no .ringFull)
          ∧ (r.ring.length < 16 →
            (r.source = .given → 1000 < r.postedPages + 1 ∨ 3840 < r.postedSectors + n → out = no .limit)
            ∧ ((r.source = .given → r.postedPages + 1 ≤ 1000 ∧ r.postedSectors + n ≤ 3840) →
              out = finished (addReply st ⟨tag, 0x21, .done, .slot ((r.head + r.ring.length) % 16)⟩
                { s with run := { r with
                  ring := r.ring ++ [⟨len, n, [], notify, tag, false⟩]
                  postedPages := if r.source = .given then r.postedPages + 1 else r.postedPages
                  postedSectors := if r.source = .given then r.postedSectors + n else r.postedSectors } }))))))
    ∧ (∀ (s : State) (st : Station) (tag : Byte) (bytes : List Byte), s.receives st →
    let out := exec (.page st tag bytes) s
    let mine (p : RingSlot) : Prop := p.complete = false ∧ p.tag = tag
    (s.run.owner ≠ st ∨ s.run.state = .closed ∨ bytes.length = 0 ∨ 4096 < bytes.length → out = finished s)
      ∧ (s.run.owner = st → s.run.state ≠ .closed → 1 ≤ bytes.length → bytes.length ≤ 4096 →
        ((∀ p ∈ s.run.ring, ¬ mine p) → out = followed s)
        ∧ ∀ before p after, s.run.ring = before ++ p :: after → (∀ q ∈ before, ¬ mine q) → mine p →
          out = followed { s with run := { s.run with ring := before ++
            (if p.bytes.length + bytes.length < p.declared then { p with bytes := p.bytes ++ bytes }
              else { p with
                bytes := (p.bytes ++ bytes).take p.declared ++ List.replicate (p.sectors * 1024 - p.declared) 0
                complete := true }) :: after } }))


/-- CLOSE_INSTRUMENT (R111): NOT_OPEN while the run is CLOSED or another station's, BUSY while one is pending; a run
that has failed is answered with its reason and its counts and is CLOSED; otherwise the request is outstanding, and
the run is CLOSING, or its close is pending while it is OPENING. That the reply of a failed run carries the counts,
with volume and frontier absent, is the model's choice (notes/assumptions/24.md). ABORT_INSTRUMENT (R113): NOT_OPEN
while the run is CLOSED or another station's; otherwise the run is CLOSED, the current instrument's entry removed and
counted aborted, the ring flushed and counted discarded, the filing request gone and the pin of the engaged drive
lifted; an instrument that a separator named, waiting for its rollover, is counted aborted too (R95); the sectors of
the current instrument's extents and those of its attempt in progress are counted dead on the OPEN side, whose
frontier stays (R112); a pending OPEN_INSTRUMENT and a pending CLOSE_INSTRUMENT are answered ABORTED, and the reply
carries the four counts. Of a volume label under way the WRITE not yet issued leaves the side BLANK, a command in
flight is to end at its completion, and an issued one with none in flight has failed: the side is FULL with its number
taken. That a count stays at 65,535, that separator sheets of the ring are counted, and that the ABORTED reply to
CLOSE_INSTRUMENT carries the counts with volume and frontier absent, is the model's choice (notes/assumptions/69.md,
notes/assumptions/71.md, notes/assumptions/24.md). -/
def Obligations.CloseAndAbortInstrument : Prop :=
  (∀ (s : State) (st : Station) (tag : Byte), s.admits st .closeInstrument tag →
    let out := exec (.closeInstrument st tag []) s
    let no (c : Status) := finished (addReply st ⟨tag, 0x22, c, .none⟩ s)
    let r := s.run
    let listed (run : Run) : State := State.updLink { s with run := run } st fun l =>
      { l with outstanding := l.outstanding ++ [⟨tag, .closeInstrument, .filingWriter⟩] }
    (r.state = .closed ∨ r.owner ≠ st → out = no .notOpen)
      ∧ (r.state ≠ .closed → r.owner = st →
        (r.closeTag ≠ none → out = no .busy)
        ∧ (r.closeTag = none →
          (∀ c, r.failure = some c →
            out = finished (addReply st ⟨tag, 0x22, c, .closed r.counts none none⟩
              { s with run := { r with state := .closed, openTag := none, closeTag := none, stall := none } }))
          ∧ (r.failure = none →
            (r.state = .opening → out = followed (listed { r with closeTag := some tag, closeRequested := true }))
            ∧ (r.state ≠ .opening →
              out = followed (listed { r with closeTag := some tag, stall := none, state := .closing }))))))
    ∧ (∀ (s : State) (st : Station) (tag : Byte), s.admits st .abortInstrument tag →
    let out := exec (.abortInstrument st tag []) s
    let r := s.run
    (r.state = .closed ∨ r.owner ≠ st → out = finished (addReply st ⟨tag, 0x23, .notOpen, .none⟩ s))
      ∧ (r.state ≠ .closed → r.owner = st →
        ∃ t, out = followed (addReply st ⟨tag, 0x23, .done, .counts t.run.counts⟩ t)
          ∧ t.run.state = .closed ∧ t.run.ring = [] ∧ t.run.current = none ∧ t.run.engaged = none ∧ t.run.chosen = none
          ∧ t.run.openTag = none ∧ t.run.closeTag = none ∧ t.run.lastTag = r.lastTag ∧ t.run.label = none
          ∧ t.run.pendingSep = none ∧ t.run.stall = none
          ∧ t.run.counts = { r.counts with
              aborted := if r.current = none ∧ r.pendingSep = none then r.counts.aborted
                else min (r.counts.aborted + (if r.current = none ∨ r.pendingSep = none then 1 else 2)) 65535
              discarded := min (r.counts.discarded + r.ring.length) 65535 }
          ∧ t.planner.filingReq = none ∧ (∀ d, r.engaged = some d → (t.drive d).pin = false)
          ∧ (r.current = none → t.catalogue = s.catalogue)
          ∧ (∀ i e, r.current = some i → s.entry? i.number = some e → e.state = .filing →
              t.catalogue = s.catalogue.filter fun x => x.number ≠ i.number)
          ∧ (∀ i n x q, r.current = some i → r.chosen = none → s.openSide = some (n, x) → s.side? n x = some q →
              t.side? n x = some { q with
                dead := q.dead + (((s.entry? i.number).map fun e => extentSum e.extents).getD 0 + i.attemptSectors) })
          ∧ (r.current = none → r.label = none → t.library.table = s.library.table)
          ∧ (∀ g, r.openTag = some g → r.closeTag = none → s.awaits st g →
              (t.link st).replies = (s.link st).replies ++ [⟨g, 0x20, .aborted, .none⟩])
          ∧ (∀ g, r.openTag = none → r.closeTag = some g → s.awaits st g →
              (t.link st).replies = (s.link st).replies ++ [⟨g, 0x22, .aborted, .closed t.run.counts none none⟩])
          ∧ (∀ g h, r.openTag = some g → r.closeTag = some h → g ≠ h → s.awaits st g → s.awaits st h →
              (t.link st).replies = (s.link st).replies
                ++ [⟨g, 0x20, .aborted, .none⟩, ⟨h, 0x22, .aborted, .closed t.run.counts none none⟩])
          ∧ (∀ j n x c, r.label = some j → r.chosen = some (n, x) → r.current = none → s.cart? n = some c →
            let unit := (s.drive j.drive).unit
            (j.issued = false → t.library.table = s.library.table)
            ∧ (∀ u, j.issued = true → unit = some u → u.work.isFiling = true →
              t.library.table = s.library.table ∧ (t.drive j.drive).unit = some { u with ended := true })
            ∧ (j.issued = true → (∀ u, unit = some u → u.work.isFiling = false) →
              t.side? n x = some ⟨.full, some s.library.nextVol, 32, 0, 0⟩
                ∧ t.library.nextVol = s.library.nextVol + 1
                ∧ t.library.volumes = s.library.volumes ++ [⟨s.library.nextVol, n, x⟩]))
          ∧ (r.openTag = none → r.closeTag = none → (t.link st).replies = (s.link st).replies)
          ∧ t.fetch = s.fetch ∧ t.fee = s.fee))


/-- The Filing Writer's own acts (R100, R106, R110 to R112, R116 to R119). The scan of R116: a page that begins with
bytes other than FFh, goes on with eight or more bytes FFh and with six copies of a number from 1 to 999,999,999, all
within its first 512 bytes, is a separator with that number; a page with no eight bytes FFh in a row among its first
512 is a content page. A chosen blank that leaves the pool before its label's WRITE is issued is chosen again, naming
the same cartridge. In RUNNING or CLOSING, between units: a current instrument whose ring is drained in CLOSING, or at
a separator, ends with EMPTY or SIDE_END, or its trailer is offered; at a content page it ends with LIMIT or SIDE_END,
or the page is offered; a page under the discard mark is discarded, and one without an instrument is an orphan. A
separator is a duplicate, or finds the catalogue full or no blank, counted aborted, or begins a rollover, or its
instrument. A drained run is closed, and CLOSE_INSTRUMENT answered DONE; a head slot still FILLING is waited for in
CLOSING. That a rollover in CLOSING has the close requested again is the model's choice (notes/assumptions/70.md), as
it is that a count stays at 65,535 (notes/assumptions/69.md). -/
def Obligations.FilingWriterActs : Prop :=
  (∀ (before after : List Byte) (k n : Nat), (∀ b ∈ before, b ≠ 0xFF) → 8 ≤ k → before.length + k + 24 ≤ 512 →
      1 ≤ n → n ≤ 999999999 →
      separatorNumber (before ++ List.replicate k 0xFF ++ (List.replicate 6 (beBytes 4 n)).flatten ++ after) = some n)
    ∧ (∀ page : List Byte,
      (∀ i, i + 8 ≤ 512 → ∃ k, k < 8 ∧ page.getD (i + k) 0 ≠ 0xFF) → separatorNumber page = none)
    ∧ ∀ s : State,
      let r := s.run
      let act := filingAct s
      let out : Run := { r with head := (r.head + 1) % 16, ring := r.ring.drop 1 }
      let sheet (n : Nat) : Prop := r.source = .separator
        ∧ ∃ p, r.ring.head? = some p ∧ p.complete = true ∧ separatorNumber p.bytes = some n
      let content (p : RingSlot) : Prop := r.ring.head? = some p ∧ p.complete = true
        ∧ (r.source = .separator → separatorNumber p.bytes = none)
      let drained : Prop := r.state = .closing ∧ r.ring = []
      let named := s.openSide.map fun p => p.1
      (∀ p, r.chosen = some p →
        (r.state ≠ .opening ∨ (∃ j, r.label = some j ∧ j.issued = true) ∨ p ∈ s.pool → act = none)
        ∧ (r.state = .opening → (∀ j, r.label = some j → j.issued = false) → p ∉ s.pool →
          (∀ q, blankChoice s (some p.1) = some q → ∃ t, act = some t ∧ t.run = { r with label := none, chosen := some q }
            ∧ t.planner.filingReq = some q ∧ s.planner.passesDue < t.planner.passesDue
            ∧ t.library.table = s.library.table)
          ∧ (blankChoice s (some p.1) = none → r.failure = none → ∃ t, act = some t ∧ runFails s t .noBlank)))
      ∧ ∀ d, r.chosen = none → r.label = none → r.engaged = some d → r.failure = none → r.probing = none →
        (∀ u, (s.drive d).unit = some u → u.work.isFiling = true → u.ended = true) →
        r.state = .running ∨ r.state = .closing →
        (∀ i, r.current = some i →
          let fresh : Prop := i.attempts = 0 ∧ i.verifyDue = false
          let ended (code : Status) (place : EndAt) : Prop := ∃ t, act = some t ∧ ∀ n x q,
            (s.openSide = some (n, x) → s.side? n x = some q) →
            instrumentEnds s t i code place n x q q.frontier i.attemptSectors
          (drained ∨ (∃ n, sheet n) →
            (fresh → i.pages = 0 → ended .empty .trailer)
            ∧ (fresh → i.pages ≠ 0 → 300000 ≤ s.frontier → ended .sideEnd .trailer)
            ∧ (¬ fresh ∨ (i.pages ≠ 0 ∧ s.frontier < 300000) → act = none
              ∧ filingStep s d = some (if i.verifyDue then .verify .trailer else .write .trailer)))
          ∧ ∀ p, content p → r.discard = false →
            let limit : Prop := r.source = .separator ∧ (1000 ≤ i.pages ∨ 3840 < i.content + p.sectors)
            (fresh → limit → ended .limit .page)
            ∧ (fresh → ¬ limit → 300000 < s.frontier + p.sectors → ended .sideEnd .page)
            ∧ (¬ fresh ∨ (¬ limit ∧ s.frontier + p.sectors ≤ 300000) → act = none
              ∧ filingStep s d = some (if i.verifyDue then .verify .page else .write .page)))
        ∧ (∀ p, content p → r.source = .separator →
          (r.discard = true → act = some { s with run := { out with
            counts := { r.counts with discarded := min (r.counts.discarded + 1) 65535 } } })
          ∧ (r.discard = false → r.current = none → act = some { s with run := { out with
            counts := { r.counts with orphans := min (r.counts.orphans + 1) 65535 } } }))
        ∧ (∀ n, sheet n → r.current = none →
          let lost (t : State) : Prop := act = some t ∧ t.catalogue = s.catalogue ∧ t.library = s.library
            ∧ t.drives = s.drives ∧ t.run = { out with
                discard := true, pendingSep := none
                counts := { r.counts with aborted := min (r.counts.aborted + 1) 65535 } }
          (s.entry? n ≠ none → ∃ t, lost t ∧ (t.source 17).pending = true)
          ∧ (s.entry? n = none → 65536 ≤ s.catalogue.length → ∃ t, lost t)
          ∧ (s.entry? n = none → s.catalogue.length < 65536 →
            (s.freeSectors < 4096 → blankChoice s named = none → ∃ t, lost t)
            ∧ (∀ q, s.freeSectors < 4096 → blankChoice s named = some q → ∃ t, act = some t
              ∧ t.run = { r with
                  discard := false, pendingSep := some n, closeRequested := r.state = .closing, chosen := some q
                  state := .opening, stall := none, engaged := none }
              ∧ t.planner.filingReq = some q ∧ (t.drive d).pin = false ∧ t.catalogue = s.catalogue
              ∧ ∀ m y z, s.openSide = some (m, y) → s.side? m y = some z → t.side? m y = some { z with state := .full }
                ∧ (t.source 13).pending = true ∧ t.library.probeDue = false)
            ∧ (∀ u, 4096 ≤ s.freeSectors → createEntry s s.openVolume n r.feeClass r.owner = .ok u →
              act = some { s with catalogue := u.catalogue, run := { out with
                discard := false, pendingSep := none, current := some (newInstrument n) } })))
        ∧ (drained → r.current = none → ∃ t, act = some t ∧ t.run.state = .closed ∧ t.run.engaged = none
          ∧ t.run.discard = false ∧ t.run.closeTag = none ∧ (t.drive d).pin = false ∧ t.catalogue = s.catalogue
          ∧ t.library = s.library ∧ (r.counts.discarded ≤ 65535 → t.run.counts = r.counts)
          ∧ ∀ g, r.closeTag = some g → s.awaits r.owner g → ∃ k,
            (t.link r.owner).replies = (s.link r.owner).replies ++ [⟨g, 0x22, .done, .closed t.run.counts s.openVolume k⟩]
              ∧ ∀ n x q, s.openSide = some (n, x) → s.side? n x = some q → k = some q.frontier)
        ∧ (∀ p, r.state = .closing → r.ring.head? = some p → p.complete = false → act = none)


/-! ### Accounts, schedule, day and journal (chapter 8) -/

/-- ACCOUNT_OPEN (R167): BAD_REQUEST for a field out of range, or one that the category cannot carry; DUPLICATE and
ACCOUNTS_FULL; then the account is in the table, OPEN, with balance 0 for SOLICITOR and none otherwise, the optional
fields that the mask names, and day total 0, and every other account is as it was. ACCOUNT_UPDATE (R168): BAD_REQUEST
for an account number out of range, NO_ACCOUNT, BAD_REQUEST for a named field out of range or that the category cannot
carry; then the named fields are set, 0 (FFh for the discount) clearing an optional one, and the reply carries the
account. -/
def Obligations.AccountOpenAndUpdate : Prop :=
  (∀ (s : State) (st : Station) (tag cat mask discount : Byte) (n cap low : Nat), s.admits st .accountOpen tag →
    n < 256 ^ 2 → cap < 256 ^ 4 → low < 256 ^ 4 → mask.toNat < 8 →
    let out := exec (.accountOpen st tag (beBytes 2 n ++ [cat, mask] ++ beBytes 4 cap ++ [discount] ++ beBytes 4 low)) s
    let no (c : Status) := finished (addReply st ⟨tag, 0x30, c, .none⟩ s)
    let names (i : Nat) : Prop := mask.toNat.testBit i = true
    let bad : Prop := n = 0 ∨ 9999 < n ∨ cat = 0 ∨ 3 < cat.toNat ∨ (names 0 ∧ (cap = 0 ∨ 99999999 < cap))
      ∨ (names 1 ∧ 100 < discount.toNat) ∨ (names 2 ∧ (low = 0 ∨ 99999999 < low)) ∨ (names 2 ∧ cat ≠ 1)
      ∨ (cat = 3 ∧ (names 0 ∨ names 1))
    (bad → out = no .badRequest)
      ∧ (¬ bad → s.account? n ≠ none → out = no .duplicate)
      ∧ (¬ bad → s.account? n = none → 2048 ≤ s.fee.accounts.length → out = no .accountsFull)
      ∧ (¬ bad → s.account? n = none → s.fee.accounts.length < 2048 →
        ∃ t a, out = finished (addReply st ⟨tag, 0x30, .done, .none⟩ t)
          ∧ a = { number := n
                  category := if cat = 1 then .solicitor else if cat = 2 then .government else .staff
                  state := .opened, balance := if cat = 1 then some 0 else none
                  cap := if mask.toNat.testBit 0 then some cap else none, dayTotal := 0
                  discount := if mask.toNat.testBit 1 then some discount.toNat else none
                  lowMark := if mask.toNat.testBit 2 then some low else none }
          ∧ t = { s with fee := { s.fee with accounts := t.fee.accounts } }
          ∧ t.fee.accounts.length = s.fee.accounts.length + 1
          ∧ ∀ m, t.account? m = if m = n then some a else s.account? m))
    ∧ (∀ (s : State) (st : Station) (tag mask state discount : Byte) (n cap low : Nat), s.admits st .accountUpdate tag →
    n < 256 ^ 2 → cap < 256 ^ 4 → low < 256 ^ 4 → mask.toNat < 16 →
    let out := exec (.accountUpdate st tag (beBytes 2 n ++ [mask, state] ++ beBytes 4 cap ++ [discount] ++ beBytes 4 low)) s
    let no (c : Status) := finished (addReply st ⟨tag, 0x31, c, .none⟩ s)
    let names (i : Nat) : Prop := mask.toNat.testBit i = true
    (n = 0 ∨ 9999 < n → out = no .badRequest)
      ∧ (1 ≤ n → n ≤ 9999 →
        (s.account? n = none → out = no .noAccount)
        ∧ ∀ a, s.account? n = some a →
          let bad : Prop := (names 0 ∧ 1 < state.toNat) ∨ (names 1 ∧ 99999999 < cap) ∨ (names 3 ∧ 99999999 < low)
            ∨ (names 2 ∧ 100 < discount.toNat ∧ discount ≠ 0xFF) ∨ (a.category = .staff ∧ (names 1 ∨ names 2))
            ∨ (names 3 ∧ a.category ≠ .solicitor)
          (bad → out = no .badRequest)
          ∧ (¬ bad → ∀ b : Account,
            b = { a with
                  state := if mask.toNat.testBit 0 then (if state = 0 then .opened else .suspended) else a.state
                  cap := if mask.toNat.testBit 1 then (if cap = 0 then none else some cap) else a.cap
                  discount := if mask.toNat.testBit 2 then (if discount = 0xFF then none else some discount.toNat)
                    else a.discount
                  lowMark := if mask.toNat.testBit 3 then (if low = 0 then none else some low) else a.lowMark } →
            out = finished (addReply st ⟨tag, 0x31, .done, .account b⟩
              { s with fee := { s.fee with
                accounts := s.fee.accounts.map fun x => if x.number = n then b else x } }))))


/-- ACCOUNT_CREDIT and ACCOUNT_CLOSE (R169, R170): their checks in order; then the balance is raised by the amount, the
reply carrying it with the available funds; or the account leaves the table, the reply carrying its final balance. -/
def Obligations.AccountCreditAndClose : Prop :=
  ∀ (s : State) (st : Station) (tag : Byte) (n v : Nat), n < 256 ^ 2 → v < 256 ^ 4 →
    (s.admits st .accountCredit tag →
        let out := exec (.accountCredit st tag (beBytes 2 n ++ beBytes 4 v)) s
        let no (c : Status) := finished (addReply st ⟨tag, 0x32, c, .none⟩ s)
        (n = 0 ∨ 9999 < n ∨ v = 0 ∨ 99999999 < v → out = no .badRequest)
        ∧ (1 ≤ n → n ≤ 9999 → 1 ≤ v → v ≤ 99999999 →
          (s.account? n = none → out = no .noAccount)
          ∧ ∀ a, s.account? n = some a →
            (a.category ≠ .solicitor → out = no .notPrepaid)
            ∧ ∀ b, a.category = .solicitor → a.balance = some b →
              (99999999 < b + v → out = no .limit)
              ∧ (b + v ≤ 99999999 →
                out = finished (addReply st ⟨tag, 0x32, .done, .funds (b + v) (b + v - s.heldTotal n)⟩
                  { s with fee := { s.fee with
                    accounts := s.fee.accounts.map fun x => if x.number = n then { x with balance := some (b + v) } else x } }))))
      ∧ (s.admits st .accountClose tag →
        let out := exec (.accountClose st tag (beBytes 2 n)) s
        let no (c : Status) := finished (addReply st ⟨tag, 0x33, c, .none⟩ s)
        (n = 0 ∨ 9999 < n → out = no .badRequest)
        ∧ (1 ≤ n → n ≤ 9999 →
          (s.account? n = none → out = no .noAccount)
          ∧ ∀ a, s.account? n = some a →
            ((∃ h ∈ s.fee.holds, h.account = n) ∨ (∃ o ∈ s.fetch.orders, o.account = n) → out = no .accountBusy)
            ∧ ((∀ h ∈ s.fee.holds, h.account ≠ n) → (∀ o ∈ s.fetch.orders, o.account ≠ n) →
              out = finished (addReply st ⟨tag, 0x33, .done, .finalBalance a.balance⟩
                { s with fee := { s.fee with accounts := s.fee.accounts.filter fun x => x.number ≠ n } }))))

/-- SET_SCHEDULE and SET_CATEGORY_DISCOUNT (R172, R173): the named rates of the class are replaced, or none is, with
BAD_REQUEST, where a value is out of range or M would exceed X; a category's discount is set, clamped to 100. -/
def Obligations.RatesAndDiscounts : Prop :=
  ∀ (s : State) (st : Station) (tag : Byte),
    (∀ (cls mask : Byte) (v f g c m x : Nat), s.admits st .setSchedule tag → mask.toNat < 64 →
        v < 256 ^ 2 → f < 256 ^ 2 → g < 256 ^ 2 → c < 256 ^ 2 → m < 256 ^ 4 → x < 256 ^ 4 →
        let out := exec (.setSchedule st tag ([cls, mask] ++ beBytes 2 v ++ beBytes 2 f ++ beBytes 2 g ++ beBytes 2 c
          ++ beBytes 4 m ++ beBytes 4 x)) s
        let no := finished (addReply st ⟨tag, 0x35, .badRequest, .none⟩ s)
        let named (i : Nat) (new old : Nat) : Nat := if mask.toNat.testBit i then new else old
        (7 < cls.toNat → out = no)
        ∧ ∀ old : ClassRates, s.fee.schedule.toList[cls.toNat]? = some old →
          let new : ClassRates :=
            ⟨named 0 v old.v, named 1 f old.f, named 2 g old.g, named 3 c old.c, named 4 m old.m, named 5 x old.x⟩
          (mask.toNat.testBit 4 = true ∧ 99999999 < m ∨ mask.toNat.testBit 5 = true ∧ 99999999 < x ∨ new.x < new.m →
            out = no)
          ∧ ((mask.toNat.testBit 4 = true → m ≤ 99999999) → (mask.toNat.testBit 5 = true → x ≤ 99999999) →
            new.m ≤ new.x →
            out = finished (addReply st ⟨tag, 0x35, .done, .rates new⟩
              { s with fee := { s.fee with schedule := s.fee.schedule.setIfInBounds cls.toNat new } })))
      ∧ ∀ (cat v : Byte), s.admits st .setCategoryDiscount tag →
        let out := exec (.setCategoryDiscount st tag [cat, v]) s
        let set (u : FeeUnit) := finished (addReply st ⟨tag, 0x36, .done, .discount (min v.toNat 100)⟩ { s with fee := u })
        (cat = 0 → out = set { s.fee with discountCounter := min v.toNat 100 })
        ∧ (cat = 1 → out = set { s.fee with discountSolicitor := min v.toNat 100 })
        ∧ (cat = 2 → out = set { s.fee with discountGovernment := min v.toNat 100 })
        ∧ (3 ≤ cat.toNat → out = finished (addReply st ⟨tag, 0x36, .badRequest, .none⟩ s))

/-- DAY_CLOSE and SET_DATE (R165, R166): a day close moves the date on, makes the present tally set the previous one,
begins an empty one for the new date, zeroes every day total and sets DAY_CLOSED; DATE_LIMIT at 65,535. SET_DATE
refuses a date outside 0-65,535 or before the registry date, changes nothing for the same date, and is a day close to
a later one, whose reply DONE carries no date, which is the model's choice (notes/assumptions/81.md). JOURNAL_TAKE
(R163): the eight oldest records, or all of fewer, go out in the reply in the order in which they were written, with
the count of those that stay, and leave the journal. -/
def Obligations.DayAndJournal : Prop :=
  (∀ (s : State) (st : Station) (tag : Byte),
    let closed (date : Nat) (r : Reply) := finished (addReply st r (noticeSet 19
      { s with fee := { s.fee with
        date := date, previous := s.fee.today, today := TallySet.zero (some date)
        accounts := s.fee.accounts.map fun a => { a with dayTotal := 0 } } }))
    (s.admits st .dayClose tag →
        let out := exec (.dayClose st tag []) s
        (65535 ≤ s.fee.date → out = finished (addReply st ⟨tag, 0x37, .dateLimit, .none⟩ s))
        ∧ (s.fee.date < 65535 → out = closed (s.fee.date + 1) ⟨tag, 0x37, .done, .date (s.fee.date + 1)⟩))
      ∧ (∀ d : Nat, s.admits st .setDate tag → d < 256 ^ 4 →
        let out := exec (.setDate st tag (beBytes 4 d)) s
        (65535 < d → out = finished (addReply st ⟨tag, 0x53, .badRequest, .none⟩ s))
        ∧ (d ≤ 65535 → d < s.fee.date → out = finished (addReply st ⟨tag, 0x53, .dateBack, .none⟩ s))
        ∧ (d ≤ 65535 → d = s.fee.date → out = finished (addReply st ⟨tag, 0x53, .done, .none⟩ s))
        ∧ (d ≤ 65535 → s.fee.date < d → out = closed d ⟨tag, 0x53, .done, .none⟩)))
    ∧ (∀ (s : State) (st : Station) (tag : Byte) (out stay : List JournalRecord), s.admits st .journalTake tag →
    s.fee.journal = out ++ stay → out.length = min 8 s.fee.journal.length →
    exec (.journalTake st tag []) s
      = finished (addReply st ⟨tag, 0x38, .done, .journal out stay.length⟩ { s with fee := { s.fee with journal := stay } }))

/-- The queries (R39, R57, R77, R94, R123, R147, R164, R171, R174, R190, R199): each answers DONE with what it reads
from the records, and changes nothing; ACCOUNT_QUERY, TALLY_QUERY and LIBRARY_QUERY refuse what names no record. -/
def Obligations.Queries : Prop :=
  ∀ (s : State) (st : Station) (tag : Byte) (n : Nat) (k : Byte), n < 256 ^ 2 →
    let gives (r : Reply) := finished (addReply st r s)
    (s.admits st .accountQuery tag →
        let out := exec (.accountQuery st tag (beBytes 2 n)) s
        (9999 < n → out = gives ⟨tag, 0x34, .badRequest, .none⟩)
        ∧ (n = 0 → out = gives ⟨tag, 0x34, .done,
            .feeTables s.fee.discountCounter s.fee.discountSolicitor s.fee.discountGovernment 100 s.fee.schedule⟩)
        ∧ (1 ≤ n → n ≤ 9999 →
          (s.account? n = none → out = gives ⟨tag, 0x34, .noAccount, .none⟩)
          ∧ ∀ a, s.account? n = some a →
            out = gives ⟨tag, 0x34, .done, .accountInfo ⟨a, s.heldTotal n, (s.holdsOf n).length,
              if a.category = .solicitor then some (s.available a) else none, s.fetchesOf n⟩⟩))
      ∧ (s.admits st .tallyQuery tag →
        let out := exec (.tallyQuery st tag [k]) s
        (k = 0 → out = gives ⟨tag, 0x39, .done, .tally s.fee.today⟩)
        ∧ (k = 1 → out = gives ⟨tag, 0x39, .done, .tally s.fee.previous⟩)
        ∧ (2 ≤ k.toNat → out = gives ⟨tag, 0x39, .badRequest, .none⟩))
      ∧ (s.admits st .libraryQuery tag →
        let out := exec (.libraryQuery st tag (beBytes 2 n)) s
        (n ≠ 0 → s.cart? n = none → out = gives ⟨tag, 0x45, .noCartridge, .none⟩)
        ∧ (∀ c, n ≠ 0 → s.cart? n = some c → out = gives ⟨tag, 0x45, .done, .cartridge c⟩)
        ∧ (n = 0 → ∃ i, out = gives ⟨tag, 0x45, .done, .library i⟩ ∧ i.records = s.library.table.length
            ∧ i.onShelf + i.inDrive + i.onArm + i.inSlot + i.exported + i.missing = i.records ∧ i.pool = s.pool.length
            ∧ i.lowMark = s.library.lowMark ∧ i.slot = s.library.slot ∧ i.exports = s.library.exports.length
            ∧ i.inspections = s.library.inspections.map (fun x => (x.phase, x.place))
            ∧ i.nextCart = s.library.nextCart ∧ i.nextVol = s.library.nextVol ∧ i.lastReject = s.library.lastReject))
      ∧ (s.admits st .faultQuery tag →
        ∃ i, exec (.faultQuery st tag []) s = gives ⟨tag, 0x44, .done, .faults i⟩ ∧ i.level = s.arm.level
          ∧ i.moving = s.arm.moving.isSome ∧ i.primary = s.arm.primary ∧ i.secondary = s.arm.secondary
          ∧ (∀ m, s.arm.moving = some m → i.running = some (m.order, m.phase, 25 - (s.seconds - m.started)))
          ∧ i.orders = s.arm.orders.length ∧ i.priorities = s.arm.priorities ∧ i.history = s.arm.history
          ∧ i.lib.waiting = (s.arm.orders.filter fun o => o.group = .lib ∧ o.status = .waiting).length
          ∧ i.mismatchCount = s.arm.mismatchCount ∧ i.mismatch = s.arm.mismatch)
      ∧ (s.admits st .noticeQuery tag →
        ∃ lines, exec (.noticeQuery st tag []) s
            = gives ⟨tag, 0x62, .done, .notices lines (s.link st).threshold (deliverable s st).length⟩
          ∧ ∀ i x, 1 ≤ i → i ≤ 24 → s.source i = x →
            (⟨i, x.level, x.target, x.enabled⟩ ∈ lines ↔ x.pending = true))
      ∧ (s.admits st .status tag →
        ∃ i, exec (.status st tag []) s = gives ⟨tag, 0x63, .done, .status i⟩ ∧ i.seconds = s.seconds
          ∧ i.initialised = s.initialised ∧ i.level = s.arm.level ∧ i.moving = s.arm.moving.isSome
          ∧ i.armOrders = s.arm.orders.length ∧ i.timers = s.timers ∧ i.reserve = s.planner.reserve
          ∧ i.lowMark = s.library.lowMark ∧ i.pool = s.pool.length ∧ i.plans = s.planner.plans
          ∧ i.waiters = s.planner.waiters.length ∧ i.run.state = s.run.state ∧ i.run.counts = s.run.counts
          ∧ i.fetches.length = s.fetch.orders.length
          ∧ (let number (p : FetchPhase) : Nat := (i.fetches.filter fun f => f.phase = p).length
            i.phases = ⟨number .waitingVolume, number .readingIndex, number .readingPage, number .staged,
              number .delivering, number .queued⟩)
          ∧ i.fee.date = s.fee.date ∧ i.fee.receipt = s.fee.receipt
          ∧ (∀ d : DriveId, (i.drives.get d).state = (s.drive d).state ∧ (i.drives.get d).fitted = (s.drive d).fitted
              ∧ (i.drives.get d).cart = (s.drive d).cart ∧ (i.drives.get d).pin = (s.drive d).pin
              ∧ (i.drives.get d).sinceActive = s.seconds - (s.drive d).lastActive)
          ∧ ∀ t : Station, (i.stations.get t).link = (s.link t).state ∧ (i.stations.get t).profile = (s.link t).profile
              ∧ (i.stations.get t).credit = (s.link t).credit ∧ (i.stations.get t).cause = (s.link t).cause
              ∧ (i.stations.get t).deliverable = (deliverable s t).length)


/-! ### Library requests (chapters 2 to 4) -/

/-- EXPORT (R33): the checks in their order, where a fetch whose unit is running in a drive counts as queued there,
which is the model's reading of check 4 (notes/assumptions/54.md), and where the entry of a cartridge that came back
stays on the list, so that a second EXPORT makes a second entry, which is its choice (notes/assumptions/72.md); in the
loading slot answered DONE at once with EXPORT_READY set, a MISSING cartridge written off and answered DONE, LIST_FULL
with 32 exports on the list, and otherwise the cartridge marked, put on the list and the request outstanding, with no
other cartridge changed. The record of a cartridge written off stays, EXPORTED without home slot, an OPEN side of it
FULL with VOLUME_FULL set, unless both its sides are BLANK: then it is removed. -/
def Obligations.Export : Prop :=
  ∀ (s : State) (st : Station) (tag : Byte) (n : Nat), s.admits st .exportCartridge tag → n < 256 ^ 2 →
    let out := exec (.exportCartridge st tag (beBytes 2 n)) s
    let no (c : Status) := finished (addReply st ⟨tag, 0x40, c, .none⟩ s)
    (n = 0 → out = no .badRequest)
      ∧ (n ≠ 0 → s.cart? n = none → out = no .noCartridge)
      ∧ ∀ c, n ≠ 0 → s.cart? n = some c →
        (c.location = .exported → out = no .notPresent)
        ∧ (c.location = .arm ∨ (c.exportPending = true ∧ c.location ≠ .exported) → out = no .cartridgeBusy)
        ∧ (c.location ≠ .exported → exportBusy s c = true → out = no .cartridgeBusy)
        ∧ (c.location ≠ .exported → exportBusy s c = false →
          (s.arm.level = .halted → c.location ≠ .loadingSlot → c.location ≠ .missing → out = no .libraryHalted)
          ∧ (c.location = .loadingSlot →
            out = finished (noticeSet 11 (addReply st ⟨tag, 0x40, .done, .none⟩ s)))
          ∧ (c.location = .missing → (s.library.table.map (·.number)).Nodup → ∃ t, out = followed (addReply st ⟨tag, 0x40, .done, .none⟩ t)
            ∧ (c.sideA.state = .blank → c.sideB.state = .blank → t.cart? n = none)
            ∧ (c.sideA.state ≠ .blank ∨ c.sideB.state ≠ .blank → t.cart? n = some { c with
                location := .exported, home := none, sideUp := none, exportPending := false
                sideA := if s.openSide = some (n, .a) then { c.sideA with state := .full } else c.sideA
                sideB := if s.openSide = some (n, .b) then { c.sideB with state := .full } else c.sideB })
            ∧ (∀ y, s.openSide = some (n, y) → (t.source 13).pending = true)
            ∧ (∀ m, m ≠ n → t.cart? m = s.cart? m) ∧ t.catalogue = s.catalogue)
          ∧ (s.arm.level ≠ .halted → c.location = .shelf ∨ (∃ d, c.location = .drive d) →
            (32 ≤ s.library.exports.length → out = no .listFull)
            ∧ (s.library.exports.length < 32 → ∃ t, out = followed t
              ∧ t.cart? n = some { c with exportPending := true } ∧ (∀ m, m ≠ n → t.cart? m = s.cart? m)
              ∧ t.library.exports = s.library.exports ++ [⟨n, st, tag, none, true⟩]
              ∧ (t.link st).outstanding = (s.link st).outstanding ++ [⟨tag, .exportCartridge, .libraryMap⟩]
              ∧ (t.link st).replies = (s.link st).replies ∧ t.arm = s.arm ∧ t.drives = s.drives
              ∧ t.catalogue = s.catalogue ∧ t.fee = s.fee)))

/-- DRIVE_RESET (R75): the checks in their order; then the drive is RESETTING with the reset command in flight, the
requester kept for the reply, and the request outstanding. REINIT_COMPLETION and POWER_CYCLE_COMPLETION (R76): the
drive's fault is cleared; with a cartridge reported it is LOADING and its SPIN_UP is issued, without one EMPTY; the
DRIVE_RESET that asked is answered DONE with the presence. The Library Map (R76, R40, R32): with a cartridge reported,
its records stay where the map has a cartridge or an inspection in the drive, and otherwise an inspection of origin
START_UP begins there, with the lowest free slot reserved or SLOT_WAITING set; with none reported, a cartridge
recorded in the drive is MISSING, with R26 applied, and an inspection in the drive is over with reason ABANDONED and
IMPORT_REJECTED set. No arm state, plan or waiter changes (R58, R94), and a planning pass is made due. A report that
no reset command in flight could have given changes nothing, which is the model's reading (notes/assumptions/12.md). -/
def Obligations.DriveResets : Prop :=
  (∀ (s : State) (st : Station) (tag k kind : Byte), s.admits st .driveReset tag →
    let out := exec (.driveReset st tag [k, kind]) s
    let no (c : Status) := finished (addReply st ⟨tag, 0x41, c, .none⟩ s)
    (3 < k.toNat ∨ 1 < kind.toNat → out = no .badRequest)
      ∧ ∀ d : DriveId, k.toNat = d.val → kind.toNat ≤ 1 →
        ((s.drive d).fitted = false → out = no .notFitted)
        ∧ ((s.drive d).fitted = true →
          ((s.drive d).state = .resetting → out = no .busy)
          ∧ ((s.drive d).state ≠ .resetting → (s.drive d).state ≠ .faulted → out = no .notNeeded)
          ∧ ((s.drive d).state = .faulted →
            out = finished ((s.updDrive d fun x =>
                { x with
                  state := .resetting, resetBy := some ⟨st, tag⟩
                  command := some ⟨if kind = 0 then .reinit else .powerCycle, .driveUnit, s.seconds⟩ }).updLink st fun l =>
                { l with outstanding := l.outstanding ++ [⟨tag, .driveReset, .driveUnit d⟩] }))))
    ∧ (∀ (s : State) (d : DriveId) (present : Bool) (cmd : DriveCmd) (c : Instr),
    (cmd = .reinit ∧ c = .reinitCompletion d present) ∨ (cmd = .powerCycle ∧ c = .powerCycleCompletion d present) →
    ((∀ f, (s.drive d).command = some f → f.cmd ≠ cmd) → exec c s = finished s)
      ∧ ∀ f, (s.drive d).command = some f → f.cmd = cmd → ∃ t, exec c s = followed t
        ∧ (t.drive d).fault = none ∧ (t.drive d).resetBy = none ∧ (t.drive d).presence = present
        ∧ (present = true → (t.drive d).state = .loading ∧ (t.drive d).command = some ⟨.spinUp, .driveUnit, s.seconds⟩)
        ∧ (present = false → (t.drive d).state = .empty ∧ (t.drive d).command = none ∧ (t.drive d).cart = none
            ∧ (t.drive d).sideUp = none)
        ∧ (∀ e, e ≠ d → t.drive e = s.drive e)
        ∧ (∀ w, (s.drive d).resetBy = some w → (∃ e ∈ (s.link w.station).outstanding, e.tag = w.tag) →
            (t.link w.station).replies
              = (s.link w.station).replies ++ [⟨w.tag, 0x41, .done, .presence present⟩])
        ∧ (present = true → (∃ y ∈ s.library.table, y.location = .drive d)
              ∨ (∃ i ∈ s.library.inspections, i.place = .drive d) →
            t.library = s.library ∧ (t.drive d).cart = (s.drive d).cart ∧ (t.drive d).sideUp = (s.drive d).sideUp)
        ∧ (present = true → (∀ y ∈ s.library.table, y.location ≠ .drive d) →
            (∀ i ∈ s.library.inspections, i.place ≠ .drive d ∧ i.id < s.library.inspectionSeq) →
            let id := s.library.inspectionSeq
            let begun (phase : InspPhase) (reserved : Option Nat) : Library := { s.library with
              inspections := s.library.inspections
                ++ [⟨id, .startUp, .drive d, phase, reserved, none, none, none, false, false⟩]
              inspectionSeq := id + 1 }
            (t.drive d).cart = some (.inspection id) ∧ (t.drive d).sideUp = none
              ∧ (s.lowestFree = none → t.library = begun .waitingSlot none ∧ (t.source 8).pending = true)
              ∧ ∀ n, s.lowestFree = some n → t.library = begun .loading (some n))
        ∧ (present = false → (s.library.table.map (·.number)).Nodup → (s.library.inspections.map (·.id)).Nodup →
            (∀ y, s.cartIn d = some y → t.cart? y.number = some { y with location := .missing, sideUp := none })
            ∧ (∀ m, (∀ y, s.cartIn d = some y → m ≠ y.number) → t.cart? m = s.cart? m)
            ∧ (t.poolSize ≠ s.poolSize → t.poolSize ≤ s.library.lowMark → (t.source 12).pending = true)
            ∧ (∀ i, s.heldBy d = some i → t.insp? i.id = none
              ∧ t.library.lastReject = some (.abandoned, i.numberRead) ∧ (t.source 10).pending = true)
            ∧ (s.heldBy d = none → t.library.inspections = s.library.inspections
              ∧ t.library.lastReject = s.library.lastReject))
        ∧ t.library.exports = s.library.exports ∧ t.arm = s.arm ∧ t.planner.plans = s.planner.plans
        ∧ t.planner.waiters = s.planner.waiters ∧ t.planner.filingReq = s.planner.filingReq
        ∧ s.planner.passesDue < t.planner.passesDue
        ∧ t.catalogue = s.catalogue ∧ t.fee = s.fee ∧ t.run = s.run)


/-- FAULT_CLEAR (R52, R53, R55): NO_FAULT in NORMAL, LIBRARY_HALTED in HALTED, ARM_BUSY while a move runs. It acts on
the secondary record in DOUBLE and on the primary in ATTENTION. A settled primary record is only emptied, by either
kind: the level NORMAL, a planning pass made due and the reply sent, and nothing else; that this comes before
SLOT_OCCUPIED is the model's reading (notes/assumptions/38.md). RETRY runs the record's move again from the phase at
which it faulted: in TRAVEL, in PICK at a shelf slot that reports a cartridge and in PLACE into one that reports none,
the order is RUNNING, the move timer starts again, the reply is sent, and nothing else changes; that a TRAVEL or PLACE
goes on until a report of GRIP_LOST, whatever the kept grip reading, is the model's choice (notes/assumptions/74.md).
ABANDON: SLOT_OCCUPIED for LOADING_SLOT while the slot is ARRIVED, HELD or REJECTED; otherwise the order leaves the
list with the orders that name it and no other, the record is emptied and the level steps down. A cartridge of the
table takes the declared location, no other cartridge moves, and the loading slot follows R27; that the grip reading
is cleared with HOME and LOADING_SLOT is the model's reading (notes/assumptions/16.md). A drive whose pick had not
completed changes as R62 states, every other keeps its state and cartridge. The originators are told: a plan that held
a gone order is removed and its riders stay in the wait list without it; the inspection that the order belonged to is
over with reason ABANDONED and IMPORT_REJECTED set, a DEMOUNT of its IMPORT plan counting as its order by the model's
reading (notes/assumptions/36.md); the export is answered ABANDONED, off the list and its mark cleared; a pending hold
is cleared, and the hold timer of a STANDBY drive starts again. A planning pass is made due. -/
def Obligations.FaultClear : Prop :=
  ∀ (s : State) (st : Station) (tag : Byte), s.admits st .faultClear tag →
    let retry (b : Byte) := exec (.faultClearRetry st tag [0, b]) s
    let abandon (b : Byte) := exec (.faultClearAbandon st tag [1, b]) s
    let no (c : Status) := finished (addReply st ⟨tag, 0x42, c, .none⟩ s)
    let refused (c : Status) : Prop := (∀ b, retry b = no c) ∧ ∀ b, b.toNat ≤ 2 → abandon b = no c
    (s.arm.level = .normal → refused .noFault) ∧ (s.arm.level = .halted → refused .libraryHalted)
      ∧ (s.arm.level = .attention ∨ s.arm.level = .double → s.arm.moving ≠ none → refused .armBusy)
      ∧ (s.arm.moving = none → ∀ r, s.arm.level = .attention → s.arm.secondary = none → s.arm.primary = some r →
        r.settled = true →
        let t : State := { s with
          arm := { s.arm with primary := none, level := .normal }
          planner := { s.planner with passesDue := s.planner.passesDue + 1 } }
        (∀ b, retry b = followed (addReply st ⟨tag, 0x42, .done, .recordCleared⟩ t))
          ∧ ∀ b, b.toNat ≤ 2 → abandon b = followed (addReply st ⟨tag, 0x42, .done, .recordCleared⟩ t))
      ∧ (s.arm.moving = none → ∀ r double, r.settled = false →
        (if double = true then s.arm.level = .double ∧ s.arm.secondary = some r
          else s.arm.level = .attention ∧ s.arm.secondary = none ∧ s.arm.primary = some r) →
        let k := r.order.number
        (∀ b, retry b = followed (rerun r double (addReply st ⟨tag, 0x42, .done, .none⟩ s)))
          ∧ (∀ b, r.phase = .travel ∨ (r.phase = .pick ∧ ∃ n, r.order.source = .shelf n ∧ s.slotReads n = true)
              ∨ (r.phase = .place ∧ ∃ n, r.order.dest = .shelf n ∧ s.slotReads n = false) →
            retry b = followed (addReply st ⟨tag, 0x42, .done, .none⟩ { s with arm := { s.arm with
              orders := if r.inList = true then
                  s.arm.orders.map fun o => if o.number = k then { o with status := .running } else o
                else s.arm.orders
              moving := some ⟨r.order, r.phase, s.seconds, if double then .retrySecondary else .retryPrimary, r.inList⟩ } }))
          ∧ (s.library.slot = .held ∨ s.library.slot = .arrived ∨ s.library.slot = .rejected →
              abandon 1 = no .slotOccupied)
          ∧ ∀ b, b.toNat ≤ 2 → (b = 1 → s.library.slot = .empty ∨ s.library.slot = .busy) → ∃ t,
            abandon b = followed (addReply st ⟨tag, 0x42, .done, .none⟩ t)
              ∧ t.arm = { s.arm with
                  orders := if r.inList = true then s.ordersWithout k else s.arm.orders
                  level := if double then .attention else .normal
                  primary := if double then s.arm.primary else none
                  secondary := none
                  gripSensor := if b = 2 then s.arm.gripSensor else false }
              ∧ (r.inList = true → ∀ o ∈ s.arm.orders, o.number = k ∨ o.after = some k → o ∉ t.arm.orders)
              ∧ (∀ n c, r.order.cart = .number n → s.cart? n = some c → ∃ x, t.cart? n = some x
                ∧ x = { c with
                    location := if b = 0 then .shelf else if b = 1 then .loadingSlot else .missing, sideUp := none
                    exportPending := x.exportPending })
              ∧ (∀ n, r.order.cart ≠ .number n →
                (t.cart? n).map (fun c => (c.location, c.sideUp)) = (s.cart? n).map fun c => (c.location, c.sideUp))
              ∧ t.library.slot = (if b = 1 then (match r.order.cart with | .number _ => .held | .inspection _ => .rejected)
                else if s.library.slot = .busy ∧ r.atSlot = true then .empty else s.library.slot)
              ∧ (∀ d, let x := s.drive d
                let y := t.drive d
                (r.phase = .pick → r.order.source = .drive d →
                  (x.state = .unloading ∨ x.state = .ready ∨ x.state = .standby → y.state = .empty)
                  ∧ (x.state = .loading ∨ x.state = .waking ∨ x.state = .active → y.state = x.state ∧ y.vacate = true)
                  ∧ (x.state = .faulted ∨ x.state = .resetting ∨ x.state = .empty → y.state = x.state)
                  ∧ (x.state ≠ .empty → y.cart = none ∧ y.sideUp = none)
                  ∧ (x.state = .empty → y.cart = x.cart ∧ y.sideUp = x.sideUp))
                ∧ (r.phase ≠ .pick ∨ r.order.source ≠ .drive d →
                  y.state = x.state ∧ y.cart = x.cart ∧ y.sideUp = x.sideUp ∧ y.vacate = x.vacate))
              ∧ (r.inList = true →
                (∀ p ∈ s.planner.plans, (∃ o ∈ s.leavingWith k, o.number ∈ p.orders) →
                  (∀ q ∈ t.planner.plans, q.drive ≠ p.drive) ∧ ∀ w ∈ t.planner.waiters, w.plan ≠ some p.drive)
                ∧ (∀ d, s.armOrder? k ≠ none → (s.drive d).pendingHold = some k → (t.drive d).pendingHold = none
                  ∧ ((t.drive d).state = .standby → (t.drive d).hold = s.holdStart))
                ∧ (∀ i, (s.library.inspections.map (·.id)).Nodup → abandonedInspection s r.order = some i →
                  t.insp? i.id = none ∧ t.library.lastReject = some (.abandoned, i.numberRead)
                    ∧ (t.source 10).pending = true)
                ∧ (abandonedInspection s r.order = none → t.library.lastReject = s.library.lastReject
                  ∧ t.library.inspections.map (·.id) = s.library.inspections.map (·.id))
                ∧ (∀ before e after, s.library.exports = before ++ e :: after → (∀ x ∈ before, x.order ≠ some k) →
                  e.order = some k →
                  t.library.exports.map (·.cart) = (s.library.exports.filter fun x => x.cart ≠ e.cart).map (·.cart)
                    ∧ (∀ c, t.cart? e.cart = some c → c.exportPending = false)
                    ∧ (e.replyDue = true → s.awaits e.station e.tag →
                      (t.link e.station).replies = (s.link e.station).replies ++ [⟨e.tag, 0x40, .abandoned, .none⟩]))
                ∧ ((∀ e ∈ s.library.exports, e.order ≠ some k) →
                  t.library.exports.map (·.cart) = s.library.exports.map (·.cart)
                    ∧ ∀ x, (t.link x).replies = (s.link x).replies))
              ∧ (r.inList = false → t.library.exports = s.library.exports ∧ t.planner.plans = s.planner.plans
                ∧ t.library.inspections = s.library.inspections)
              ∧ t.planner.waiters.map (·.id) = s.planner.waiters.map (·.id)
              ∧ t.planner.filingReq = s.planner.filingReq ∧ s.planner.passesDue < t.planner.passesDue
              ∧ t.catalogue = s.catalogue ∧ t.fee = s.fee ∧ t.fetch = s.fetch ∧ t.run = s.run)

/-- RECOVER (R54): the checks in their order; a cartridge found in its own home slot is back on the shelf at once if
the slot's sensor reports it, SOURCE_EMPTY otherwise; elsewhere a RETURN to its home slot joins the order list in
NORMAL, its number in the reply, and outside NORMAL it is the move under way at once, ARM_BUSY while one runs; a slot
whose sensor reports empty is PICK_EMPTY (R50) at once, from the reading kept, which is the model's choice
(notes/assumptions/34.md), and a cartridge already on the arm needs no pick (R47). -/
def Obligations.Recover : Prop :=
  ∀ (s : State) (st : Station) (tag place : Byte) (n : Nat), s.admits st .recover tag → n < 256 ^ 2 →
    let out := exec (.recover st tag (beBytes 2 n ++ [place])) s
    let no (c : Status) := finished (addReply st ⟨tag, 0x43, c, .none⟩ s)
    let p := place.toNat
    (n = 0 ∨ 96 < p → out = no .badRequest)
      ∧ (n ≠ 0 → p ≤ 96 → s.cart? n = none → out = no .noCartridge)
      ∧ ∀ c, n ≠ 0 → p ≤ 96 → s.cart? n = some c →
        (c.location ≠ .missing → out = no .notMissing)
        ∧ (c.location = .missing →
          (recovering s n = true → out = no .cartridgeBusy)
          ∧ (recovering s n = false →
            (s.arm.level = .halted → out = no .libraryHalted)
            ∧ (s.arm.level ≠ .halted →
              (p = 0 → (∃ x ∈ s.library.table, x.location = .arm) ∨ (∃ i ∈ s.library.inspections, i.place = .arm) →
                out = no .slotOccupied)
              ∧ (p ≠ 0 → (∃ x ∈ s.library.table, x.number ≠ n ∧ x.home = some p ∧ x.location = .shelf) →
                out = no .slotOccupied)
              ∧ ((p = 0 → (∀ x ∈ s.library.table, x.location ≠ .arm) ∧ ∀ i ∈ s.library.inspections, i.place ≠ .arm) →
                (p ≠ 0 → ∀ x ∈ s.library.table, x.number = n ∨ x.home ≠ some p ∨ x.location ≠ .shelf) →
                ∀ h, c.home = some h → h ≠ 0 →
                (p = h → s.slotReads h = false → out = no .sourceEmpty)
                ∧ (p = h → s.slotReads h = true → ∃ t, out = followed (addReply st ⟨tag, 0x43, .done, .none⟩ t)
                  ∧ t.cart? n = some { c with location := .shelf, sideUp := none }
                  ∧ (∀ m, m ≠ n → t.cart? m = s.cart? m) ∧ t.arm = s.arm)
                ∧ (p ≠ h → s.arm.level = .normal →
                  (16 ≤ s.arm.orders.length → out = no .listFull)
                  ∧ (s.arm.orders.length < 16 → ∃ t k, out = followed (addReply st ⟨tag, 0x43, .done, .order k⟩ t)
                    ∧ (∀ o ∈ s.arm.orders, o.number ≠ k ∧ o.after ≠ some k)
                    ∧ t.arm.orders = s.arm.orders ++ [⟨k, .returnMove, .number n, if p = 0 then .arm else .shelf p,
                        .shelf h, none, .lib, none, .recovery, .waiting⟩]
                    ∧ t = { s with arm := { s.arm with orders := t.arm.orders, counter := t.arm.counter } }))
                ∧ (p ≠ h → s.arm.level = .attention ∨ s.arm.level = .double →
                  (s.arm.moving ≠ none → out = no .armBusy)
                  ∧ (s.arm.moving = none → p ≠ 0 → s.slotReads p = true → ∃ t k,
                    out = followed t ∧ t.arm.orders = s.arm.orders ∧ t.arm.level = s.arm.level
                      ∧ t.arm.moving = some ⟨⟨k, .returnMove, .number n, .shelf p, .shelf h, none, .lib, none, .recovery,
                          .running⟩, .pick, s.seconds, .recover, false⟩
                      ∧ (t.link st).replies = (s.link st).replies ++ [⟨tag, 0x43, .done, .order k⟩])
                  ∧ (s.arm.moving = none → p ≠ 0 → s.slotReads p = false → ∃ t k,
                    out = followed (moveFault .pickEmpty t) ∧ t.arm.orders = s.arm.orders ∧ t.arm.level = s.arm.level
                      ∧ t.arm.moving = some ⟨⟨k, .returnMove, .number n, .shelf p, .shelf h, none, .lib, none, .recovery,
                          .running⟩, .pick, s.seconds, .recover, false⟩
                      ∧ (t.link st).replies = (s.link st).replies ++ [⟨tag, 0x43, .done, .order k⟩])
                  ∧ (s.arm.moving = none → p = 0 → ∃ t k,
                    out = followed t ∧ t.arm.orders = s.arm.orders ∧ t.arm.level = s.arm.level
                      ∧ t.arm.moving = some ⟨⟨k, .returnMove, .number n, .arm, .shelf h, none, .lib, none, .recovery,
                          .running⟩, .travel, s.seconds, .recover, false⟩
                      ∧ (∃ x, t.cart? n = some x ∧ x.location = .arm)
                      ∧ (t.link st).replies = (s.link st).replies ++ [⟨tag, 0x43, .done, .order k⟩]))))))


/-! ### Settings and notices (chapters 3, 9 and 10) -/

/-- SET_PROFILE (R182): BAD_REQUEST for a station above 3, LAST_SUPERVISOR for a change that would leave no station with
SUPERVISE; otherwise the named station's profile is replaced, the reply carrying it, and nothing else changes. -/
def Obligations.SetProfile : Prop :=
  ∀ (s : State) (st : Station) (tag k set : Byte), s.admits st .setProfile tag → set.toNat < 32 →
    let out := exec (.setProfile st tag [k, set]) s
    let no (c : Status) := finished (addReply st ⟨tag, 0x50, c, .none⟩ s)
    let has (i : Nat) : Bool := set.toNat.testBit i
    let new : Families := ⟨has 0, has 1, has 2, has 3, has 4⟩
    (3 < k.toNat → out = no .badRequest)
      ∧ ∀ t : Station, k.toNat = t.val →
        (has 4 = false → (s.link t).profile.supervise = true → (∀ u, u ≠ t → (s.link u).profile.supervise = false) →
          out = no .lastSupervisor)
        ∧ (has 4 = true ∨ (s.link t).profile.supervise = false ∨ (∃ u, u ≠ t ∧ (s.link u).profile.supervise = true) →
          out = finished (addReply st ⟨tag, 0x50, .done, .profile new⟩ (s.updLink t fun l => { l with profile := new })))

/-- SET_TIMERS (R188): each named setting is set, clamped to its range; the reply carries all four. A mask that names
none changes nothing; otherwise the settings apply at once to the timers that run (R59), and nothing else is set. What
`applyTimers` does to them (a timer that has reached its new limit expires in the same act; a hold limit set to 0 or
from 0) is the model's reading (notes/assumptions/10.md), and the order in which several expire, after the reply, its
choice (notes/assumptions/80.md). SET_OPTIONS and SET_ARM_PRIORITY (R189, R46): the filing reserve is 0 or 1,
BAD_REQUEST otherwise with nothing changed; the blank low mark is clamped to 64, and a change of it is judged by R26,
setting BLANKS_LOW, where naming the value it has counts as a change, the model's choice (notes/assumptions/82.md);
the priorities become the four values when they are a permutation of 0 to 3, PRIORITY_CONFLICT otherwise. -/
def Obligations.TimersOptionsPriorities : Prop :=
  (∀ (s : State) (st : Station) (tag mask : Byte) (a b c d : Nat), s.admits st .setTimers tag → mask.toNat < 16 →
    a < 256 ^ 4 → b < 256 ^ 4 → c < 256 ^ 4 → d < 256 ^ 4 →
    let out := exec (.setTimers st tag ([mask] ++ beBytes 4 a ++ beBytes 4 b ++ beBytes 4 c ++ beBytes 4 d)) s
    let set (i lo hi v old : Nat) : Nat :=
      if mask.toNat.testBit i then (if v < lo then lo else if hi < v then hi else v) else old
    let new : Timers :=
      ⟨set 0 0 3600 a s.timers.idleDelay, set 1 0 86400 b s.timers.holdLimit, set 2 10 600 c s.timers.fetchStall,
        set 3 30 3600 d s.timers.filingStall⟩
    let told : State := addReply st ⟨tag, 0x51, .done, .timers new⟩ { s with timers := new }
    (mask = 0 → new = s.timers ∧ out = finished told)
      ∧ (mask ≠ 0 → out = followed (applyTimers s.timers told))
      ∧ (mask ≠ 0 → (∀ e : DriveId, (s.drive e).idle = none ∧ (s.drive e).hold = none ∧ (s.drive e).state ≠ .standby) →
        (∀ o ∈ s.fetch.orders, o.stall = none) → s.run.stall = none → out = followed told))
    ∧ (∀ (s : State) (st : Station) (tag : Byte),
    (∀ mask reserve low : Byte, s.admits st .setOptions tag → mask.toNat < 4 →
        let out := exec (.setOptions st tag [mask, reserve, low]) s
        let on : Bool := if mask.toNat.testBit 0 then reserve == 1 else s.planner.reserve
        let mark : Nat := if mask.toNat.testBit 1 then min low.toNat 64 else s.library.lowMark
        let set : State := { s with
          planner := { s.planner with reserve := on }, library := { s.library with lowMark := mark } }
        let told (s : State) := finished (addReply st ⟨tag, 0x52, .done, .options on mark⟩ s)
        (mask.toNat.testBit 0 = true → 1 < reserve.toNat →
            out = finished (addReply st ⟨tag, 0x52, .badRequest, .none⟩ s))
        ∧ ((mask.toNat.testBit 0 = true → reserve.toNat ≤ 1) →
          (mask.toNat.testBit 1 = true → s.pool.length ≤ mark → out = told (noticeSet 12 set))
          ∧ (mask.toNat.testBit 1 = false ∨ mark < s.pool.length → out = told set)))
      ∧ ∀ f g l h : Byte, s.admits st .setArmPriority tag →
        let out := exec (.setArmPriority st tag [f, g, l, h]) s
        let p : Priorities := ⟨f.toNat, g.toNat, l.toNat, h.toNat⟩
        (prioritiesOk p →
          out = finished (addReply st ⟨tag, 0x54, .done, .none⟩ { s with arm := { s.arm with priorities := p } }))
        ∧ (¬ prioritiesOk p → out = finished (addReply st ⟨tag, 0x54, .priorityConflict, .none⟩ s)))

/-- NOTICE_CONFIG (R197): BAD_REQUEST for an index outside 1 to 24, a level above 7, a target above 3 or an enable
above 1; otherwise the named settings are set, the reply carrying the source, and, when any is named, the deliverable
sets of the old and the new target are judged. The pending flag stays. SIGNAL_SET and SIGNAL_CLEAR (R198): BAD_REQUEST
for a signal above 2; otherwise the pending flag of source 22, 23 or 24 is set or cleared, its target's set is judged,
and the reply carries whether the flag was set before. -/
def Obligations.NoticeConfigAndSignals : Prop :=
  (∀ (s : State) (st : Station) (tag idx mask level target enable : Byte), s.admits st .noticeConfig tag → mask.toNat < 8 →
    let out := exec (.noticeConfig st tag [idx, mask, level, target, enable]) s
    let i := idx.toNat
    let names (k : Nat) : Prop := mask.toNat.testBit k = true
    let bad : Prop := i = 0 ∨ 24 < i ∨ (names 0 ∧ 7 < level.toNat) ∨ (names 1 ∧ 3 < target.toNat)
      ∨ (names 2 ∧ 1 < enable.toNat)
    (bad → out = finished (addReply st ⟨tag, 0x55, .badRequest, .none⟩ s))
      ∧ ∀ (old : Source) (aim : Station), ¬ bad → s.source i = old →
        (if mask.toNat.testBit 1 then target.toNat = aim.val else old.target = aim) →
        let new : Source :=
          ⟨old.pending, if mask.toNat.testBit 0 then level.toNat else old.level, aim,
            if mask.toNat.testBit 2 then enable == 1 else old.enabled⟩
        let told : State := addReply st ⟨tag, 0x55, .done, .source i new⟩ (s.updSource i fun _ => new)
        (mask = 0 → out = finished told)
        ∧ (mask ≠ 0 → aim = old.target → out = finished (judge aim told))
        ∧ (mask ≠ 0 → aim ≠ old.target → out = finished (judge aim (judge old.target told))))
    ∧ (∀ (s : State) (st : Station) (tag k : Byte) (set : Bool),
    s.admits st (if set then .signalSet else .signalClear) tag →
    let code : Byte := if set then 0x56 else 0x57
    let out := exec (if set then .signalSet st tag [k] else .signalClear st tag [k]) s
    (2 < k.toNat → out = finished (addReply st ⟨tag, code, .badRequest, .none⟩ s))
      ∧ (k.toNat ≤ 2 →
        out = finished (judge (s.source (22 + k.toNat)).target
          (addReply st ⟨tag, code, .done, .wasPending (s.source (22 + k.toNat)).pending⟩
            (s.updSource (22 + k.toNat) fun x => { x with pending := set })))))

/-- The judgement of a deliverable set (R193, R194), and an event's setting of a source: pending, enabled, targeted
and above the threshold is deliverable; on a link that is UP an empty set clears the attention-sent flag, and a set
that is not empty, with the flag clear, sets it and asks for an attention frame; on a link that is RESETTING nothing
is judged. -/
def Obligations.NoticeJudgement : Prop :=
  ∀ (s : State) (st : Station),
    (∀ i, i ∈ deliverable s st ↔ (1 ≤ i ∧ i ≤ 24) ∧ (s.source i).pending = true ∧ (s.source i).enabled = true
        ∧ (s.link st).threshold < (s.source i).level ∧ (s.source i).target = st)
      ∧ ((s.link st).state = .resetting → judge st s = s)
      ∧ ((s.link st).state = .up → deliverable s st = [] →
          judge st s = s.updLink st fun l => { l with attentionSent := false })
      ∧ ((s.link st).state = .up → deliverable s st ≠ [] →
          ((s.link st).attentionSent = true → judge st s = s)
          ∧ ((s.link st).attentionSent = false →
            judge st s = s.updLink st fun l => { l with attentionSent := true, attentionWaiting := true }))
      ∧ ∀ i, 1 ≤ i → i ≤ 24 →
          noticeSet i s = judge (s.source i).target (s.updSource i fun x => { x with pending := true })
          ∧ ((noticeSet i s).source i).pending = true

/-- TAKE_NOTICE and SET_THRESHOLD (R195, R196): the deliverable source of the highest level, and of those the one of
the highest index, is answered with its level and is no longer pending; a further attention frame is asked for while
the set is not empty; with an empty set the reply carries index 0 and the attention-sent flag is cleared. The
threshold is set, clamped to 7, and the set judged. -/
def Obligations.TakeNoticeAndThreshold : Prop :=
  ∀ (s : State) (st : Station) (tag : Byte),
    (s.admits st .takeNotice tag →
        let out := exec (.takeNotice st tag []) s
        (deliverable s st = [] →
          out = finished (addReply st ⟨tag, 0x60, .done, .notice 0 0⟩ (s.updLink st fun l => { l with attentionSent := false })))
        ∧ ∀ i, i ∈ deliverable s st →
          (∀ j ∈ deliverable s st, (s.source j).level < (s.source i).level
            ∨ (s.source j).level = (s.source i).level ∧ j ≤ i) →
          let more := (deliverable s st).any fun j => j ≠ i
          ∃ t, out = finished t ∧ t.source i = { s.source i with pending := false }
            ∧ (∀ j, j ≠ i → 1 ≤ j → t.source j = s.source j)
            ∧ t = { s.updLink st (fun l => { l with
                replies := l.replies ++ [⟨tag, 0x60, .done, .notice i (s.source i).level⟩]
                attentionSent := more, attentionWaiting := l.attentionWaiting || more }) with notices := t.notices })
      ∧ ∀ v : Byte, s.admits st .setThreshold tag →
        exec (.setThreshold st tag [v]) s
          = finished (judge st (addReply st ⟨tag, 0x61, .done, .threshold (min v.toNat 7)⟩
              (s.updLink st fun l => { l with threshold := min v.toNat 7 })))


/-! ### Station links (chapter 9) -/

/-- CREDIT (R185): its one byte is added to the station's credit, up to 8, and with credit above 0 the stall timers of
the station's orders stop; a CREDIT frame whose body is not one byte is discarded (R203). -/
def Obligations.CreditFrame : Prop :=
  ∀ (s : State) (st : Station) (tag : Byte), s.receives st →
    (∀ body : List Byte, body.length ≠ 1 → exec (.credit st tag body) s = finished s)
      ∧ ∀ n : Byte,
        let credit := min ((s.link st).credit + n.toNat) 8
        let raised : State := s.updLink st fun l => { l with credit := credit }
        (credit = 0 → exec (.credit st tag [n]) s = followed raised)
        ∧ (0 < credit → exec (.credit st tag [n]) s = followed
            { raised with fetch := { s.fetch with orders := s.fetch.orders.map fun o =>
                if o.id.station = st then { o with stall := none } else o } })

/-- A link reset in UP (R186, R187), by its cause: the station context at its reset values with its profile kept and a
LINK_RESET due, every fetch of the station completed LINK_RESET in admission order with its settlement (R141, R143),
no outstanding entry being left for a reply, and freed, those of other stations kept, and a filing run of the station
CLOSED; its exports and drive resets go on without a reply (R35, R76). Before the receivers are on (R191) nothing is
received. A link that is RESETTING (R186): a frame that cannot be trusted has a LINK_RESET due again; a valid
LINK_RESET, or a valid REQUEST, PAGE or CREDIT frame, brings the link UP, its deliverable set judged, and the frame is
then dealt with; a loss of carrier changes nothing. That a malformed frame keeps its own cause while a REQUEST is held
is the model's reading (notes/assumptions/17.md), and so is it that a PAGE or CREDIT of a wrong size brings the link
UP, and that no frame acts before reconciliation (notes/assumptions/19.md). -/
def Obligations.LinkResetAndRecovery : Prop :=
  (∀ (s : State) (st : Station) (tag : Byte) (body : List Byte) (c : Instr) (cause : ResetCause),
    (c = .malformedCrc st ∧ cause = .crc) ∨ (c = .malformedLength st ∧ cause = .length)
      ∨ (c = .frameTimeout st ∧ cause = .frameTimeout) ∨ (c = .overrun st ∧ cause = .overrun)
      ∨ (c = .carrierLoss st ∧ cause = .carrierLoss)
      ∨ (c = .unknownKind st ∧ (s.link st).buffer = none ∧ cause = .unknownKind)
      ∨ (c = .linkReset st tag body ∧ (s.link st).buffer = none ∧ cause = .stationReset) →
    (s.reconciled = false → exec c s = finished s)
      ∧ (s.reconciled = true → (s.link st).state = .up → ∃ t, exec c s = followed t
        ∧ t.link st = { Link.atReset (s.link st).profile with cause := cause, resetDue := true }
        ∧ (∀ o ∈ t.fetch.orders, o.id.station ≠ st)
        ∧ (∃ u, u.fee = s.fee ∧ u.fetch = s.fetch ∧ (u.link st).outstanding = []
          ∧ t.fee = (((s.fetch.orders.filter fun o => o.id.station = st).map fun o => o.id).foldl
              (fun v id => completeFetch id .linkReset v) u).fee)
        ∧ (∀ o ∈ s.fetch.orders, o.id.station ≠ st → o ∈ t.fetch.orders)
        ∧ (∀ e ∈ t.library.exports, e.station = st → e.replyDue = false)
        ∧ (∀ (d : DriveId) (who : FetchId), (t.drive d).resetBy = some who → who.station ≠ st)
        ∧ (s.run.owner = st → t.run.state = .closed)
        ∧ (s.run.owner ≠ st → t.run = s.run ∧ t.catalogue = s.catalogue)))
    ∧ (∀ (s : State) (st : Station) (tag : Byte) (body : List Byte) (r : Req), s.reconciled = true →
    (s.link st).state = .resetting → (s.link st).buffer = none →
    let again := finished (s.updLink st fun l => { l with resetDue := true })
    let up : State := judge st (s.updLink st fun l => { l with state := .up })
    exec (.malformedCrc st) s = again ∧ exec (.malformedLength st) s = again ∧ exec (.frameTimeout st) s = again
      ∧ exec (.unknownKind st) s = again ∧ exec (.carrierLoss st) s = finished s
      ∧ exec (.linkReset st tag body) s = finished up
      ∧ exec (.page st tag body) s = exec (.page st tag body) up
      ∧ exec (.credit st tag body) s = exec (.credit st tag body) up
      ∧ exec (requestOf st tag r.code body) s = exec (requestOf st tag r.code body) up)

/-- The transmitter's choice (R179): while a frame is being sent, none; otherwise a LINK_RESET that is due, and on a
link that is UP the oldest reply, then the attention frame, then the next DATA frame of the first page on the send
list, up to 4,096 bytes of its buffer. No other link and nothing but what is being sent changes. FRAME_SENT (R137,
R178, R179): with no frame being sent nothing happens, which is the model's reading (notes/assumptions/12.md). A reply
that has been sent leaves the queue; a DATA frame that is not the last of its page is counted; after the last one the
page is delivered, its buffer is free, the order is off the send list and nothing else changes; and the order, at a
drive, is completed in that state with DONE, or DONE_PARTIAL after an unreadable page, once no page of it remains and
none is being read. -/
def Obligations.Transmitter : Prop :=
  (∀ (s : State) (st : Station),
    let l := s.link st
    let sends (f : TxFrame) : State := s.updLink st fun l => { l with sending := some f }
    (∀ f, l.sending = some f → kick st s = s)
      ∧ (l.sending = none →
        (l.resetDue = true →
          kick st s = s.updLink st fun l => { l with sending := some (.linkReset l.cause), resetDue := false })
        ∧ (l.resetDue = false →
          (l.state = .resetting → kick st s = s)
          ∧ (l.state = .up →
            (∀ r rs, l.replies = r :: rs → kick st s = sends (.reply r))
            ∧ (l.replies = [] → l.attentionWaiting = true →
              kick st s = s.updLink st fun l => { l with sending := some .attention, attentionWaiting := false })
            ∧ (l.replies = [] → l.attentionWaiting = false →
              (l.sendList = [] → kick st s = s)
              ∧ ∀ id ids o p, l.sendList = id :: ids → s.order? id = some o → o.delivery = some p →
                let n := o.pageSectors p.page
                kick st s = sends (.data (some o.id) o.id.tag p.page p.sent (p.sent + 1 = (n + 3) / 4)
                  ((((s.bufferBytes p.buf).take (n * 1024)).drop (p.sent * 4096)).take 4096)))))))
    ∧ (∀ (s : State) (st : Station),
    let out := exec (.frameSent st) s
    let free : State := s.updLink st fun l => { l with sending := none }
    ((s.link st).sending = none → out = finished s)
      ∧ (∀ r, (s.link st).sending = some (.reply r) → (s.link st).buffer = none →
          out = followed (s.updLink st fun l => { l with sending := none, replies := l.replies.drop 1 }))
      ∧ ((s.link st).sending = some .attention ∨ (∃ c, (s.link st).sending = some (.linkReset c)) → out = followed free)
      ∧ (∀ g k i last bytes, (s.link st).sending = some (.data none g k i last bytes) → out = followed free)
      ∧ (∀ id g k i bytes, (s.link st).sending = some (.data (some id) g k i false bytes) →
          out = followed { free with fetch := { s.fetch with orders := s.fetch.orders.map fun o =>
            if o.id = id then { o with delivery := o.delivery.map fun p => { p with sent := p.sent + 1 } } else o } })
      ∧ ∀ id g k i bytes o p d, (s.link st).sending = some (.data (some id) g k i true bytes) → s.order? id = some o →
          o.delivery = some p → o.place = .drive d →
          let running : Prop := ∃ w, (s.drive d).unit = some ⟨w, false⟩
            ∧ ((∃ a b, w = .trailerRead id a b) ∨ ∃ b ps a n, w = .pageRead id b ps a n)
          let u : State := State.updLink
            { free with fetch := { s.fetch with
              orders := s.fetch.orders.map fun x =>
                if x.id = id then { x with delivery := none, delivered := x.delivered + 1 } else x
              buffers := s.fetch.buffers.setIfInBounds p.buf none } }
            id.station fun l => { l with sendList := l.sendList.filter (fun x => x ≠ id) }
          u.order? id = some { o with delivery := none, delivered := o.delivered + 1 }
            ∧ (p.buf < 16 → u.fetch.buffers.toList[p.buf]? = some none)
            ∧ (o.next ≤ o.lastPage ∨ o.staged ≠ none ∨ running → out = followed u)
            ∧ (o.lastPage < o.next → o.staged = none → ¬ running →
              let t := completeFetch id (if o.unreadable = 0 then .done else .donePartial) u
              out = followed t ∧ t.order? id = none))


/-! ### Reset and start-up (chapters 2, 4 and 9) -/

/-- POWER_ON_RESET (R191, and the values after resets of R40, R58, R59, R94, R95, R103, R147, R174, R180, R200): with
registry memory kept, every volatile record is at its reset value and every registry-held record as it was; with
registry memory lost, the state after reset of the model. The model's queue of waiting commands is no part of the
machine and stays. The values of `State.reset` that the manual does not give (the loading slot's state, the sensors,
the probe mark, the fields of a CLOSED run, a drive before its identification) are the model's choice
(notes/assumptions/7.md). -/
def Obligations.PowerOnReset : Prop :=
  ∀ (s : State) (lost : Bool),
    (s.signature = false ∨ lost = true → exec (.powerOnReset lost) s = .next { State.reset with pending := s.pending })
      ∧ (s.signature = true → lost = false → exec (.powerOnReset lost) s = .next { State.reset with
          pending := s.pending
          initialised := false
          timers := s.timers
          catalogue := s.catalogue
          library := { Library.initial with
            table := s.library.table.map fun c => { c with exportPending := false }
            volumes := s.library.volumes, nextCart := s.library.nextCart, nextVol := s.library.nextVol
            lowMark := s.library.lowMark }
          arm := { Arm.initial with
            priorities := s.arm.priorities, history := s.arm.history, mismatchCount := s.arm.mismatchCount
            mismatch := s.arm.mismatch }
          planner := { Planner.initial with reserve := s.planner.reserve }
          fee := { s.fee with holds := [], reservations := 0 }
          links := s.links.map fun l => Link.atReset l.profile
          notices := s.notices.map fun x => { x with pending := false } })

/-- The values that the spec states for registry initialisation and power-on reset (R40, R46, R58, R174, R180, R188,
R191, R200), and the laws of this model that hold of them. That the loading slot is EMPTY before start-up
reconciliation, and a drive EMPTY before its identification, is the model's choice (notes/assumptions/7.md). -/
def Obligations.ResetState : Prop :=
  let s := State.reset
  s.initialised = true ∧ s.catalogue = [] ∧ s.library.table = [] ∧ s.library.volumes = [] ∧ s.library.nextCart = 1
    ∧ s.library.nextVol = 1 ∧ s.library.lowMark = 4 ∧ s.library.slot = .empty ∧ s.arm.orders = []
    ∧ s.arm.level = .normal ∧ s.arm.primary = none ∧ s.arm.secondary = none
    ∧ s.arm.priorities = ⟨3, 2, 1, 0⟩ ∧ s.timers = ⟨120, 1800, 120, 600⟩ ∧ s.run.state = .closed ∧ s.run.ring = []
    ∧ s.fetch.orders = [] ∧ s.fee.date = 0 ∧ s.fee.receipt = 1 ∧ s.fee.journal = [] ∧ s.fee.accounts = []
    ∧ (∀ st : Station, (s.link st).state = .resetting ∧ (s.link st).credit = 0 ∧ (s.link st).outstanding = []
        ∧ (s.link st).profile = if st = 0 then ⟨false, false, false, false, true⟩ else ⟨true, false, false, false, false⟩)
    ∧ (∀ d : DriveId, (s.drive d).state = .empty ∧ (s.drive d).pin = false ∧ (s.drive d).queue = []
        ∧ (s.drive d).fault = none)
    ∧ (∀ i, 1 ≤ i → i ≤ 24 → s.source i = ⟨false, 0, 0, false⟩)
    ∧ CatalogueOk s.catalogue ∧ supervised s ∧ SettingsOk s

/-- DRIVE_IDENTIFY_ANSWER and DRIVE_IDENTIFY_TIMEOUT (R60): a position that answers is fitted: FAULTED with
HARDWARE_FAULT and its notice where it reports one, else LOADING with its SPIN_UP issued where it reports a cartridge,
else EMPTY; one that has not answered for 30 seconds is not fitted. A cartridge that the map records in a drive found
FAULTED counts as present; that with none recorded the answer's own presence counts is the model's reading
(notes/assumptions/43.md). A position that is asked no longer takes no answer, which is the model's reading
(notes/assumptions/12.md), and a timeout before 30 seconds changes nothing, which is its choice
(notes/assumptions/9.md). -/
def Obligations.DriveIdentification : Prop :=
  ∀ (s : State) (d : DriveId) (present : Bool),
    ((s.drive d).identSince = none →
        (∀ faulty, exec (.driveIdentifyAnswer d present faulty) s = finished s)
          ∧ exec (.driveIdentifyTimeout d) s = finished s)
      ∧ ∀ since, (s.drive d).identSince = some since →
        (exec (.driveIdentifyAnswer d false false) s = finished (s.updDrive d fun x =>
            { x with fitted := true, identSince := none, presence := false, state := .empty }))
        ∧ ((s.drive d).command = none →
          exec (.driveIdentifyAnswer d true false) s = finished (s.updDrive d fun x =>
            { x with fitted := true, identSince := none, presence := true, state := .loading
                     command := some ⟨.spinUp, .driveUnit, s.seconds⟩ }))
        ∧ ((s.drive d).state = .empty → ∃ t, exec (.driveIdentifyAnswer d present true) s = finished t
          ∧ (t.drive d).state = .faulted ∧ (t.drive d).fault = some .hardwareFault ∧ (t.drive d).fitted = true
          ∧ (t.drive d).identSince = none ∧ (t.source (4 + d.val)).pending = true
          ∧ ((t.drive d).presence = true ↔ present = true ∨ ∃ c ∈ s.library.table, c.location = .drive d))
        ∧ (s.seconds < since + 30 → exec (.driveIdentifyTimeout d) s = finished s)
        ∧ (since + 30 ≤ s.seconds → exec (.driveIdentifyTimeout d) s = finished (s.updDrive d fun x =>
            { x with fitted := false, identSince := none, state := .empty }))

/-- START_UP_RECONCILIATION (R17, R37, R191): the FILING entry, if any, is removed; the records of the cartridge table
are corrected by the sensors and the drives' reports: a cartridge where it is recorded stays, one that is not there is
MISSING, and one recorded in the loading slot and not there has left the cabinet; the receivers are on, every link
RESETTING with a LINK_RESET due with cause POWER_ON. It comes once, when no position's identification is open, which
is the model's reading (notes/assumptions/11.md). The dead sectors of the removed entry's side are its frontier less
32 less the extents of the COMMITTED entries on the volume (R17). A cartridge found where it is recorded on the arm or
in a drive is carried home by a RETURN or a DEMOUNT with originator START_UP while the list has room; one found in a
drive, on the arm or in the loading slot that the map does not record there begins an inspection, the slot ARRIVED
(R37, R38). The phase of the one on the arm is the model's choice (notes/assumptions/64.md). The OPEN side, if any is
OPEN after the correction, is due for the frontier probe (R37, R102); one whose cartridge has not left the cabinet is
OPEN still. BLANKS_LOW is set when the corrected pool is at or below the low mark (R26), and that it is set whether or
not the correction has changed the pool is the model's choice (notes/assumptions/52.md). -/
def Obligations.StartUpReconciliation : Prop :=
  ∀ (s : State) (grip slot : Bool) (shelf : BitVec 96),
    let out := exec (.startUpReconciliation grip slot shelf) s
    (s.reconciled = true ∨ (∃ d : DriveId, (s.drive d).identSince ≠ none) → out = finished s)
      ∧ (s.reconciled = false → (∀ d : DriveId, (s.drive d).identSince = none) →
        (s.library.table.map (·.number)).Nodup → CatalogueOk s.catalogue → ∃ t, out = followed t
          ∧ t.reconciled = true
          ∧ (∀ st : Station, (t.link st).state = .resetting ∧ (t.link st).cause = .powerOn ∧ (t.link st).resetDue = true)
          ∧ t.catalogue = s.catalogue.filter (fun e => e.state = .committed)
          ∧ t.library.probeDue = t.openSide.isSome ∧ (s.openSide = none → t.openSide = none)
          ∧ (∀ n x c, s.openSide = some (n, x) → s.cart? n = some c → (c.location = .loadingSlot → slot = true) →
            t.openSide = some (n, x))
          ∧ t.library.lowMark = s.library.lowMark
          ∧ (t.poolSize ≤ s.library.lowMark → (t.source 12).pending = true)
          ∧ ∀ n c, s.cart? n = some c →
            (∀ h, c.location = .shelf → c.home = some h →
              (t.cart? n).map (·.location) = some (if shelf.getLsbD (h - 1) then .shelf else .missing))
            ∧ (∀ d, c.location = .drive d → (t.cart? n).map (·.location)
                = some (if (s.drive d).fitted = true ∧ (s.drive d).presence = true then .drive d else .missing))
            ∧ (c.location = .arm → (t.cart? n).map (·.location) = some (if grip then .arm else .missing))
            ∧ (c.location = .exported → (t.cart? n).map (·.location) = some .exported)
            ∧ (c.location = .missing → (t.cart? n).map (·.location) = some .missing)
            ∧ (c.location = .loadingSlot → slot = true → (t.cart? n).map (·.location) = some .loadingSlot)
            ∧ (c.location = .loadingSlot → slot = false → ∀ x, t.cart? n = some x → x.location = .exported ∧ x.home = none))
      ∧ (s.reconciled = false → (∀ d : DriveId, (s.drive d).identSince = none) →
        (s.library.table.map (·.number)).Nodup → s.library.inspections = [] → s.arm.orders = [] → s.arm.level = .normal →
        (s.library.table.filter fun c => c.location = .arm || c.location matches .drive _).length ≤ 16 →
        let there (d : DriveId) : Prop := (s.drive d).fitted = true ∧ (s.drive d).presence = true
        ∃ t, out = followed t
          ∧ (∀ e v c, s.filingEntry = some e → s.volume? e.volume = some v → s.cart? v.cart = some c →
            ∀ x, t.cart? v.cart = some x → (x.sideRec v.side).dead = (c.sideRec v.side).frontier - 32
              - ((s.catalogue.filter fun y => y.number ≠ e.number ∧ y.state = .committed ∧ y.volume = e.volume).map
                  fun y => extentSum y.extents).sum)
          ∧ (∀ n c h, s.cart? n = some c → c.home = some h →
            (c.location = .arm → grip = true → ∃ o ∈ t.arm.orders,
              o = ⟨o.number, .returnMove, .number n, .arm, .shelf h, none, .lib, none, .startUp, .waiting⟩)
            ∧ ∀ d, c.location = .drive d → there d →
              (∃ o ∈ t.arm.orders,
                o = ⟨o.number, .demount, .number n, .drive d, .shelf h, none, .lib, none, .startUp, .waiting⟩)
              ∧ ((∀ m c', s.cart? m = some c' → c'.location = .drive d → m = n) →
                (t.drive d).cart = some (.number n) ∧ (t.drive d).sideUp = c.sideUp))
          ∧ (∀ d, there d → (∀ c ∈ s.library.table, c.location ≠ .drive d) → ∃ i ∈ t.library.inspections,
              i.origin = .startUp ∧ i.place = .drive d ∧ (i.phase = .waitingSlot ∨ i.phase = .loading)
                ∧ (t.drive d).cart = some (.inspection i.id))
          ∧ (grip = true → (∀ c ∈ s.library.table, c.location ≠ .arm) → ∃ i ∈ t.library.inspections,
              i.origin = .startUp ∧ i.place = .arm ∧ i.phase = .returning ∧ i.orderDue = true)
          ∧ (slot = true → (∀ c ∈ s.library.table, c.location ≠ .loadingSlot) → t.library.slot = .arrived
              ∧ ∃ i ∈ t.library.inspections, i.origin = .loadingSlot ∧ i.place = .loadingSlot))

/-! ### Sensors and the arm (chapters 2 and 3) -/

/-- LOADING_SLOT_CARTRIDGE (R27, R28): with the slot EMPTY it is ARRIVED and an inspection begins, which reserves the
lowest free shelf slot and asks the Mount Planner for a drive, or waits for a slot with SLOT_WAITING set; in any other
state of the slot, and before start-up reconciliation, only the sensor's reading changes, which is the model's reading
(notes/assumptions/12.md). LOADING_SLOT_EMPTY and SHELF_SLOT_SENSOR (R24, R27, R34): a REJECTED cartridge's slot is
EMPTY again; a HELD cartridge has left the cabinet, is EXPORTED with no home slot, an OPEN side of it FULL, or is out
of the table when both its sides are BLANK; an ARRIVED cartridge's inspection is over. A report while the slot is
EMPTY or BUSY changes only the reading. A shelf slot's reading is kept, and a slot that becomes free is offered to the
inspections that wait for one, the oldest first, which is the model's choice (notes/assumptions/61.md), as it is that
the request for a drive takes the place of one not yet met (notes/assumptions/68.md). -/
def Obligations.LoadingSlotAndShelfSensors : Prop :=
  (∀ s : State, (∀ i ∈ s.library.inspections, i.id < s.library.inspectionSeq) →
    let out := exec .loadingSlotCartridge s
    let id := s.library.inspectionSeq
    let arrived (i : Inspection) : State := { s with library := { s.library with
      slotSensor := true, slot := .arrived, inspections := s.library.inspections ++ [i], inspectionSeq := id + 1 } }
    (s.reconciled = false ∨ s.library.slot ≠ .empty →
        out = finished { s with library := { s.library with slotSensor := true } })
      ∧ (s.reconciled = true → s.library.slot = .empty →
        (s.lowestFree = none → out = followed (noticeSet 8
          (arrived ⟨id, .loadingSlot, .loadingSlot, .waitingSlot, none, none, none, none, false, false⟩)))
        ∧ ∀ n, s.lowestFree = some n →
          let t := arrived ⟨id, .loadingSlot, .loadingSlot, .waitingDrive, some n, none, none, none, false, false⟩
          out = followed { t with
            planner := { s.planner with inspReq := some id, passesDue := s.planner.passesDue + 1 } }))
    ∧ (∀ s : State,
    let out := exec .loadingSlotEmpty s
    let off (slot : SlotState) : State := { s with library := { s.library with slotSensor := false, slot := slot } }
    (s.reconciled = false ∨ s.library.slot = .empty ∨ s.library.slot = .busy → out = finished (off s.library.slot))
      ∧ (s.reconciled = true → s.library.slot = .rejected → out = followed (off .empty))
      ∧ (s.reconciled = true → s.library.slot = .held → (s.library.table.map (·.number)).Nodup → ∃ t, out = followed t ∧ t.library.slot = .empty
        ∧ t.library.slotSensor = false ∧ ∀ c, s.library.table.find? (fun c => c.location = .loadingSlot) = some c →
          s.cart? c.number = some c →
          (c.sideA.state = .blank → c.sideB.state = .blank → t.cart? c.number = none)
          ∧ (c.sideA.state ≠ .blank ∨ c.sideB.state ≠ .blank → ∃ x, t.cart? c.number = some x ∧ x.location = .exported
            ∧ x.home = none ∧ x.sideUp = none ∧ x.exportPending = false
            ∧ (s.openSide = some (c.number, .a) → x.sideA.state = .full ∧ (t.source 13).pending = true)
            ∧ (s.openSide = some (c.number, .b) → x.sideB.state = .full ∧ (t.source 13).pending = true))
          ∧ ∀ m, m ≠ c.number → t.cart? m = s.cart? m)
      ∧ (s.reconciled = true → s.library.slot = .arrived → ∃ t, out = followed t ∧ t.library.slot = .empty
        ∧ t.library.slotSensor = false ∧ (∀ i, s.slotInsp = some i → t.insp? i.id = none)
        ∧ t.library.table = s.library.table)
      ∧ ∀ (n : Nat) (present : Bool), 1 ≤ n → n ≤ 96 →
        let read := setShelf n present s
        (read.slotReads n = present ∧ ∀ m, 1 ≤ m → m ≤ 96 → m ≠ n → read.slotReads m = s.slotReads m)
        ∧ (s.reconciled = false → exec (.shelfSlotSensor n present) s = finished read)
        ∧ (s.reconciled = true → read.slotFree n = false → exec (.shelfSlotSensor n present) s = followed read)
        ∧ (s.reconciled = true → read.slotFree n = true → exec (.shelfSlotSensor n present) s = followed (slotRetry read)))

/-- A PICK completion (R25, R27, R47, R62): from a shelf slot, from the loading slot, or from a drive that has
ejected; the cartridge is at ARM, the place it left is empty, the grip sensor reports it, and the move goes on to
TRAVEL. A report outside a PICK changes nothing, which is the model's reading (notes/assumptions/12.md). A PICK whose
source is ARM leaves side A up, or the side the order names, which is the model's choice (notes/assumptions/50.md).
One that names a cartridge absent from the table only raises the mismatch note (R25, R56), whose copy holds the
cartridge, the order number and the phase by the model's choice (notes/assumptions/56.md). -/
def Obligations.PickCompletion : Prop :=
  ∀ s : State,
    (s.arm.moving = none → exec .pickCompletion s = finished s)
      ∧ ∀ m, s.arm.moving = some m →
        (m.phase ≠ .pick → exec .pickCompletion s = finished s)
        ∧ (m.phase = .pick → (∀ d, m.order.source ≠ .drive d) ∨ (∃ d, m.order.source = .drive d
            ∧ (s.drive d).state = .unloading ∧ (s.drive d).command = none ∧ (s.drive d).presence = false) →
          ∃ t, exec .pickCompletion s = followed t ∧ t.arm.moving = some { m with phase := .travel }
            ∧ t.arm.gripSensor = true ∧ t.arm.orders = s.arm.orders ∧ t.arm.level = s.arm.level
            ∧ t.catalogue = s.catalogue ∧ t.fee = s.fee ∧ t.run = s.run ∧ t.fetch = s.fetch
            ∧ (∀ n c, m.order.cart = .number n → s.cart? n = some c → c.location ≠ .exported →
              t.cart? n = some { c with
                location := .arm
                sideUp := match m.order.source with | .drive _ => c.sideUp | _ => some (m.order.side.getD .a) }
              ∧ ∀ k, k ≠ n → t.cart? k = s.cart? k)
            ∧ (∀ n, m.order.cart = .number n → s.cart? n = none → t.arm.mismatchCount = min (s.arm.mismatchCount + 1) 65535
              ∧ t.arm.mismatch = some ⟨n, m.order.number, .pick⟩ ∧ t.library.table = s.library.table)
            ∧ (∀ n, m.order.source = .shelf n → 1 ≤ n → n ≤ 96 → t.slotReads n = false ∧ t.drives = s.drives)
            ∧ (m.order.source = .loadingSlot → t.library.slot = .empty ∧ t.library.slotSensor = false
              ∧ t.drives = s.drives)
            ∧ (∀ d, m.order.source = .drive d → (t.drive d).state = .empty ∧ (t.drive d).cart = none
              ∧ (t.drive d).sideUp = none ∧ (t.drive d).idle = none ∧ (t.drive d).hold = none
              ∧ ∀ e, e ≠ d → t.drive e = s.drive e))

/-- A TRAVEL completion (R48, R50, R63): the PLACE phase begins, the loading slot BUSY when it is the destination,
unless the destination is taken, which is a fault of the move: PLACE_BLOCKED at an occupied slot or loading slot,
DRIVE_REFUSED at a drive that is not EMPTY. That these are met at once, from the readings kept, is the model's choice
(notes/assumptions/34.md), and that a report outside TRAVEL changes nothing its reading (notes/assumptions/12.md). -/
def Obligations.TravelCompletion : Prop :=
  ∀ s : State,
    (s.arm.moving = none → exec .travelCompletion s = finished s)
      ∧ ∀ m, s.arm.moving = some m →
        let placing : State := { s with arm := { s.arm with moving := some { m with phase := .place } } }
        (m.phase ≠ .travel → exec .travelCompletion s = finished s)
        ∧ (m.phase = .travel →
          (∀ n, m.order.dest = .shelf n →
            (s.slotReads n = false → exec .travelCompletion s = followed placing)
            ∧ (s.slotReads n = true → exec .travelCompletion s = followed (moveFault .placeBlocked placing)))
          ∧ (∀ d, m.order.dest = .drive d →
            ((s.drive d).state = .empty → (s.drive d).fitted = true → (s.drive d).presence = false →
              exec .travelCompletion s = followed placing)
            ∧ ((s.drive d).state ≠ .empty ∨ (s.drive d).fitted = false →
              exec .travelCompletion s = followed (moveFault .driveRefused placing)))
          ∧ (m.order.dest = .loadingSlot →
            let busy : State := { placing with library := { s.library with slot := .busy } }
            (s.library.slotSensor = false → exec .travelCompletion s = followed busy)
            ∧ (s.library.slotSensor = true → exec .travelCompletion s = followed (moveFault .placeBlocked busy))))

/-- A PLACE completion (R25, R27, R49, R52, R61), of a move that the arbiter took, of a RETRY or of a RECOVER outside
the list: the arm is idle with nothing in its grip, an order of the list has left it, and the cartridge is where it
was to go: on its shelf slot with no side up, in the loading slot, HELD, or in the drive, which is LOADING with its
SPIN_UP issued, with the side the order names up, or after a FLIP the other side. After a RETRY the record acted on is
empty and the level has stepped down. The originator of an order of the list hears of it: a plan loses its DEMOUNT, a
FETCH plan is over and its waiters ride on none, a FILING plan's move is done, an IMPORT plan is over with its request
met and the inspection LOADING (R87, R92); an inspection has its cartridge flipped, shelved, with IMPORT_DONE set, or
returned to the loading slot, which is REJECTED, or, after the RETURN of a START_UP inspection, ARRIVED with a new
inspection (R30, R31, R37); an EXPORT leaves its list, EXPORT_READY set and the request answered DONE (R34); a drive's
hold order is no longer pending (R72). That the request is met at the INSPECT_LOAD's completion is the model's choice
(notes/assumptions/68.md). A drive that is no longer EMPTY refuses the cartridge (R63), which is the model's reading
of when (notes/assumptions/59.md); a report outside PLACE changes nothing, its reading too (notes/assumptions/12.md). -/
def Obligations.PlaceCompletion : Prop :=
  ∀ s : State,
    (s.arm.moving = none → exec .placeCompletion s = finished s)
      ∧ ∀ m, s.arm.moving = some m →
        let k := m.order.number
        let inspected : Prop := m.inList = true ∧ ∃ e ∈ s.library.inspections, e.order = some k
        let holds (p : Plan) : Prop := p.demount = some k ∨ (p.moved = false ∧ p.move = some k)
        let others (p : Plan) : List Plan := s.planner.plans.filter fun q => q.drive ≠ p.drive
        (m.phase ≠ .place → exec .placeCompletion s = finished s)
        ∧ (∀ d, m.phase = .place → m.order.dest = .drive d → (s.drive d).state ≠ .empty ∨ (s.drive d).fitted = false →
          exec .placeCompletion s = followed (moveFault .driveRefused s))
        ∧ (m.phase = .place → (∀ d, m.order.dest = .drive d → (s.drive d).state = .empty ∧ (s.drive d).fitted = true) →
          ∃ t, exec .placeCompletion s = followed t ∧ t.arm.moving = none ∧ t.arm.gripSensor = false
            ∧ t.arm.orders = (if m.inList then s.arm.orders.filter fun o => o.number ≠ k else s.arm.orders)
            ∧ (m.cause = .arbiter ∨ m.cause = .recover →
              t.arm.level = s.arm.level ∧ t.arm.primary = s.arm.primary ∧ t.arm.secondary = s.arm.secondary)
            ∧ (m.cause = .retryPrimary →
              t.arm.level = .normal ∧ t.arm.primary = none ∧ t.arm.secondary = s.arm.secondary)
            ∧ (m.cause = .retrySecondary →
              t.arm.level = .attention ∧ t.arm.secondary = none ∧ t.arm.primary = s.arm.primary)
            ∧ t.catalogue = s.catalogue ∧ t.fee = s.fee ∧ t.run = s.run ∧ t.fetch = s.fetch
            ∧ (∀ n c, m.order.cart = .number n → s.cart? n = some c → c.location ≠ .exported →
              (∀ j, j ≠ n → t.cart? j = s.cart? j)
              ∧ (∀ h, m.order.dest = .shelf h → t.cart? n = some { c with location := .shelf, sideUp := none }
                ∧ (1 ≤ h → h ≤ 96 → t.slotReads h = true))
              ∧ (m.order.dest = .loadingSlot → t.cart? n = some { c with location := .loadingSlot, sideUp := none }
                ∧ t.library.slotSensor = true ∧ (¬ inspected → t.library.slot = .held))
              ∧ ∀ d up, m.order.dest = .drive d → (s.drive d).command = none →
                (if m.order.kind = .flip then c.sideUp = some (otherSide up) else m.order.side = some up) →
                t.cart? n = some { c with location := .drive d, sideUp := some up }
                ∧ (t.drive d).state = .loading ∧ (t.drive d).cart = some (.number n) ∧ (t.drive d).sideUp = some up
                ∧ (t.drive d).command = some ⟨.spinUp, .driveUnit, s.seconds⟩)
            ∧ (m.inList = true → ∀ before p after, s.planner.plans = before ++ p :: after → (∀ q ∈ before, ¬ holds q) →
              holds p →
              (p.demount = some k → t.planner.plans = others p ++ [{ p with demount := none }]
                ∧ t.planner.waiters = s.planner.waiters)
              ∧ (p.demount ≠ some k →
                (p.purpose = .filing → t.planner.plans = others p ++ [{ p with moved := true }]
                  ∧ t.planner.waiters = s.planner.waiters)
                ∧ (p.purpose ≠ .filing → t.planner.plans = others p
                  ∧ t.planner.waiters = s.planner.waiters.map fun w =>
                      if w.plan = some p.drive then { w with plan := none } else w)
                ∧ ∀ id i d, p.purpose = .importJob → p.cart = .inspection id → m.order.kind = .inspectLoad →
                  m.order.cart = .inspection id →
                  m.order.dest = .drive d → s.insp? id = some i →
                  (∀ e ∈ s.library.inspections, e.order = some k → e.id = id) →
                  t.insp? id = some { i with place := .drive d, phase := .loading, order := none }
                    ∧ t.planner.inspReq ≠ some id ∧ (t.drive d).state = .loading
                    ∧ (t.drive d).cart = some (.inspection id) ∧ (t.drive d).sideUp = some (m.order.side.getD .a)))
            ∧ (m.inList = true → (∀ p ∈ s.planner.plans, ¬ holds p) →
              ∀ before i after, s.library.inspections = before ++ i :: after → (∀ e ∈ before, e.order ≠ some k) →
              i.order = some k → (s.library.inspections.map (·.id)).Nodup →
              (∀ e ∈ s.library.inspections, e.id < s.library.inspectionSeq) →
              (∀ d, i.phase = .flipping → m.order.kind = .flip → m.order.cart = .inspection i.id →
                m.order.dest = .drive d →
                t.insp? i.id = some { i with place := .drive d, order := none } ∧ (t.drive d).state = .loading
                  ∧ (t.drive d).cart = some (.inspection i.id) ∧ (t.drive d).sideUp = some .b)
              ∧ (i.phase = .shelving → t.insp? i.id = none ∧ (t.source 9).pending = true)
              ∧ (i.phase = .rejecting → t.insp? i.id = none
                ∧ (m.order.cart = .inspection i.id → m.order.dest = .loadingSlot →
                  t.library.slot = .rejected ∧ t.library.slotSensor = true))
              ∧ (i.phase = .returning → t.insp? i.id = none ∧ t.library.slot = .arrived
                ∧ ∃ e, t.insp? s.library.inspectionSeq = some e ∧ e.origin = .loadingSlot ∧ e.place = .loadingSlot
                  ∧ (e.phase = .waitingSlot ∨ e.phase = .waitingDrive ∧ e.reserved ≠ none
                    ∧ t.planner.inspReq = some e.id)))
            ∧ (m.inList = true → ∀ before e after, s.library.exports = before ++ e :: after →
              (∀ x ∈ before, x.order ≠ some k) → e.order = some k →
              t.library.exports = (s.library.exports.filter fun x => x.cart ≠ e.cart) ∧ (t.source 11).pending = true
              ∧ (e.replyDue = true → s.awaits e.station e.tag →
                (t.link e.station).replies = (s.link e.station).replies ++ [⟨e.tag, 0x40, .done, .none⟩])
              ∧ (e.replyDue = false → ∀ st : Station, (t.link st).replies = (s.link st).replies))
            ∧ (m.inList = true → ∀ d, (s.drive d).pendingHold = some k → (t.drive d).pendingHold = none))

/-- The faults of a move (R50, R51, R55, R56): in NORMAL the arm stops with the primary record filled (its copy of the
order still shows RUNNING, which is the model's choice, notes/assumptions/73.md), the order SUSPENDED, the level
ATTENTION and ARM_ATTENTION set; in ATTENTION the secondary record is filled, the order SUSPENDED, the level DOUBLE
and ARM_DOUBLE set; in both a planning pass is made due (R85) and no location, drive, fetch or run changes. In DOUBLE
the arm halts, as armHalts says (R56, R93, R35): the order list, the plans and the export list emptied, the history
filled and ARM_HALTED set, the waiters whose volume is not up in a drive completed LIBRARY_HALTED and the others still
waiting, a filing request outstanding refused, the exports answered LIBRARY_HALTED with their marks cleared, the
cartridges where they lie; the order of the completions and of the exports is the model's choice
(notes/assumptions/79.md, notes/assumptions/83.md). MOVE_TIMEOUT is such a fault once the move timer has run 25
seconds, PICK_EMPTY in PICK, DRIVE_REFUSED in PICK at a drive, PLACE_BLOCKED in PLACE and GRIP_LOST in TRAVEL or
PLACE; out of their phase they change nothing, which is the model's reading (notes/assumptions/12.md), and a
MOVE_TIMEOUT before 25 seconds changes nothing, which is its choice (notes/assumptions/9.md). DRIVE_REFUSED in PLACE
(R50, R63): the move faults at the destination drive, in each level as above, and a drive that was EMPTY is FAULTED
with NOT_READY, its notice set. -/
def Obligations.MoveFaultsAndRefusal : Prop :=
  (∀ (s : State) (c : Instr) (code : MoveFault),
    (c = .moveTimeout ∧ code = .moveTimeout) ∨ (c = .pickEmpty ∧ code = .pickEmpty)
      ∨ (c = .driveRefused ∧ code = .driveRefused) ∨ (c = .placeBlocked ∧ code = .placeBlocked)
      ∨ (c = .gripLost ∧ code = .gripLost) →
    (s.arm.moving = none → exec c s = finished s)
      ∧ ∀ m, s.arm.moving = some m →
        let met : Prop := match code with
          | .moveTimeout => m.started + 25 ≤ s.seconds
          | .pickEmpty => m.phase = .pick
          | .driveRefused => m.phase = .pick ∧ ∃ d, m.order.source = .drive d
          | .placeBlocked => m.phase = .place
          | .gripLost => m.phase = .travel ∨ m.phase = .place
        let record : FaultRec := ⟨code, m.order, s.seconds, m.phase, false, m.inList⟩
        (¬ met → (code = .driveRefused → m.phase = .place → ∀ d, m.order.dest ≠ .drive d) → exec c s = finished s)
        ∧ (met → ∃ t, exec c s = followed t ∧ (s.arm.level ≠ .double → t.catalogue = s.catalogue)
          ∧ (s.arm.level ≠ .halted → t.arm.moving = none)
          ∧ (s.arm.level = .normal → t.arm.level = .attention ∧ t.arm.primary = some record
            ∧ t.arm.secondary = s.arm.secondary ∧ (t.source 1).pending = true
            ∧ (m.inList = true → t.arm.orders = s.arm.orders.map fun o =>
                if o.number = m.order.number then { o with status := .suspended } else o))
          ∧ (s.arm.level = .attention → t.arm.level = .double ∧ t.arm.secondary = some record
            ∧ (t.source 2).pending = true
            ∧ t.arm.primary = (if m.cause = .retryPrimary then s.arm.primary.map fun r => { r with settled := true }
                else s.arm.primary)
            ∧ (m.inList = true → t.arm.orders = s.arm.orders.map fun o =>
                if o.number = m.order.number then { o with status := .suspended } else o))
          ∧ (s.arm.level = .normal ∨ s.arm.level = .attention →
            t.planner = { s.planner with passesDue := s.planner.passesDue + 1 } ∧ t.library = s.library
              ∧ t.drives = s.drives ∧ t.fetch = s.fetch ∧ t.fee = s.fee ∧ t.run = s.run
              ∧ (m.inList = false → t.arm.orders = s.arm.orders))
          ∧ (s.arm.level = .double → armHalts s t record)))
    ∧ (∀ (s : State) (m : Move) (d : DriveId), s.arm.moving = some m → m.phase = .place → m.order.dest = .drive d →
    let record : FaultRec := ⟨.driveRefused, m.order, s.seconds, .place, false, m.inList⟩
    ∃ t, exec .driveRefused s = followed t ∧ (s.arm.level ≠ .halted → t.arm.moving = none)
      ∧ (s.arm.level = .normal → t.arm.level = .attention ∧ t.arm.primary = some record
        ∧ t.arm.secondary = s.arm.secondary ∧ (t.source 1).pending = true)
      ∧ (s.arm.level = .attention → t.arm.level = .double ∧ t.arm.secondary = some record ∧ (t.source 2).pending = true
        ∧ t.arm.primary = (if m.cause = .retryPrimary then s.arm.primary.map fun r => { r with settled := true }
            else s.arm.primary))
      ∧ (s.arm.level = .double → t.arm.level = .halted ∧ t.arm.orders = [] ∧ t.planner.plans = []
        ∧ (t.source 3).pending = true ∧ t.library.exports = []
        ∧ t.arm.history = some ⟨s.arm.primary, s.arm.secondary, record, s.fee.date⟩
        ∧ ∃ h, armHalts s h record ∧ t = if (s.drive d).state = .empty then driveFault d .notReady h else h)
      ∧ (s.arm.level ≠ .halted → s.planner.passesDue < t.planner.passesDue)
      ∧ ((s.drive d).state = .empty → (t.drive d).state = .faulted ∧ (t.drive d).fault = some .notReady
          ∧ (t.source (4 + d.val)).pending = true)
      ∧ ((s.drive d).state ≠ .empty → (t.drive d).state = (s.drive d).state))

/-! ### Drives (chapter 4) and what their completions mean to the owners of units (chapters 2, 6 and 7) -/

/-- SPIN_UP, SPIN_DOWN and EJECT completions (R61, R62, R71): SPIN_UP DONE makes the drive READY, or EMPTY after an
ABANDON taken meanwhile, or UNLOADING for a kept request; NOT_READY and EJECT FAILED fault it, or leave it EMPTY after
an ABANDON taken meanwhile; either end of a SPIN_UP brings a planning pass (R86). After SPIN_DOWN the drive waits in
STANDBY, and in UNLOADING its EJECT, in WAKING its SPIN_UP is issued; after an ABANDON taken meanwhile it is EMPTY
then. That the SPIN_UP of WAKING is issued though the work has gone (notes/assumptions/22.md), that the notice of a
fault is set for a vacated drive too (notes/assumptions/58.md), and that a completion of a command not in flight
changes nothing (notes/assumptions/12.md), is the model's reading. -/
def Obligations.DriveMotion : Prop :=
  ∀ (s : State) (d : DriveId),
    let x := s.drive d
    let flies (c : DriveCmd) : Prop := ∃ f, x.command = some f ∧ f.cmd = c
    let issued (c : DriveCmd) : State := s.updDrive d fun x => { x with command := some ⟨c, .driveUnit, s.seconds⟩ }
    let faulted (code : DriveFaultCode) (t : State) : Prop := (t.source (4 + d.val)).pending = true
      ∧ (x.vacated = false → (t.drive d).state = .faulted ∧ (t.drive d).fault = some code)
      ∧ (x.vacated = true → (t.drive d).state = .empty ∧ (t.drive d).fault = none ∧ (t.drive d).cart = none
        ∧ (t.drive d).sideUp = none ∧ (t.drive d).command = none)
    (¬ flies .spinUp → ∀ r, exec (.spinUpCompletion d r) s = finished s)
      ∧ (flies .spinUp → x.vacate = false → x.unloadKept = false →
        ∃ t, exec (.spinUpCompletion d .done) s = followed t
          ∧ t.drive d = { x with
              command := none, state := .ready, lastActive := if x.state = .loading then s.seconds else x.lastActive }
          ∧ (∀ e, e ≠ d → t.drive e = s.drive e)
          ∧ t = { s with drives := t.drives, planner := { s.planner with passesDue := s.planner.passesDue + 1 } })
      ∧ (flies .spinUp → x.vacate = true → ∃ t, exec (.spinUpCompletion d .done) s = followed t
          ∧ (t.drive d).state = .empty ∧ (t.drive d).cart = none)
      ∧ (flies .spinUp → x.vacate = false → x.unloadKept = true → ∃ t, exec (.spinUpCompletion d .done) s = followed t
          ∧ (t.drive d).state = .unloading ∧ (t.drive d).command = some ⟨.spinDown, .driveUnit, s.seconds⟩)
      ∧ (flies .spinUp → x.state ≠ .faulted → ∃ t, exec (.spinUpCompletion d .notReady) s = followed t ∧ faulted .notReady t
          ∧ s.planner.passesDue < t.planner.passesDue)
      ∧ (¬ flies .spinDown → exec (.spinDownCompletion d) s = finished s)
      ∧ (flies .spinDown → x.vacate = true → ∃ t, exec (.spinDownCompletion d) s = followed t
          ∧ (t.drive d).state = .empty ∧ (t.drive d).cart = none ∧ (t.drive d).command = none)
      ∧ (flies .spinDown → x.vacate = false → x.state = .unloading →
          exec (.spinDownCompletion d) s = followed (issued .eject))
      ∧ (flies .spinDown → x.vacate = false → x.state = .waking →
          exec (.spinDownCompletion d) s = followed (issued .spinUp))
      ∧ (flies .spinDown → x.vacate = false → x.state = .standby →
          exec (.spinDownCompletion d) s = followed (s.updDrive d fun x => { x with command := none }))
      ∧ (¬ flies .eject → ∀ r, exec (.ejectCompletion d r) s = finished s)
      ∧ (flies .eject → x.state = .unloading → exec (.ejectCompletion d .done) s
          = followed (s.updDrive d fun x => { x with command := none, presence := false }))
      ∧ (flies .eject → x.state ≠ .unloading → x.vacate = true → ∃ t, exec (.ejectCompletion d .done) s = followed t
          ∧ (t.drive d).state = .empty ∧ (t.drive d).cart = none ∧ (t.drive d).command = none)
      ∧ (flies .eject → x.state ≠ .faulted → ∃ t, exec (.ejectCompletion d .failed) s = followed t ∧ faulted .ejectFailed t
          ∧ (∀ m, s.arm.moving = some m → m.phase = .pick → m.order.source = .drive d → s.arm.level = .normal →
            t.arm.level = .attention ∧ t.arm.moving = none ∧ ∃ r, t.arm.primary = some r ∧ r.code = .driveRefused)
          ∧ (s.arm.moving = none → t.arm.level = s.arm.level ∧ t.arm.primary = s.arm.primary))

/-- COMMAND_TIMEOUT and DRIVE_HARDWARE_FAULT (R66, R74): once a command has been 30 seconds in flight, or when a
fitted drive reports one, the drive is FAULTED with the code, its notice set, its timers stopped and no unit or
command in progress; the fetches of its queue, and the one whose unit ran, are completed, DRIVE_FAULT where nothing
else ends them first, a DRIVE_RESET is answered RESET_FAILED, and a run that had the drive engaged, or a filing unit
in progress there, fails with FILING_DRIVE_FAULT. The command in flight is handed to its owner first: a page's READ
makes the page unreadable, a trailer's ends the fetch UNREADABLE_INDEX (R132, R134); a WRITE moves the frontier on and
its attempt has failed, as has a VERIFY's (R107 to R109); a BLANK_CHECK is taken as WRITTEN, the probe still due
(R102); a volume label's side is FULL (R101); an inspection in a label write is rejected with LABEL_WRITE_FAILED, its
RETURN waiting for READY, and one in READING stays as it is (R32). An attempt that was the third, or met four extents,
has ended the GIVEN run's instrument before, and the run keeps that reason (notes/assumptions/20.md). A drive that an
ABANDON has vacated during the command is EMPTY in place of FAULTED (R62), and that the rest of R74 is done for it too
is the model's reading (notes/assumptions/58.md). Otherwise nothing happens: for a timeout before 30 seconds that is
the model's choice (notes/assumptions/9.md), for a report from a drive that is not fitted its reading
(notes/assumptions/12.md). -/
def Obligations.DriveFaults : Prop :=
  ∀ (s : State) (d : DriveId) (c : Instr) (code : DriveFaultCode) (met : Prop),
    let x := s.drive d
    let run := s.run
    let ofRun (id : FetchId) : Prop := id.station = run.owner ∧ (run.openTag = some id.tag ∨ run.closeTag = some id.tag)
    let apart : Prop := (∀ o ∈ s.fetch.orders, x.resetBy ≠ some o.id ∧ ¬ ofRun o.id) ∧ ∀ w, x.resetBy = some w → ¬ ofRun w
    let works (w : UnitWork) (cmd : DriveCmd → Prop) : Prop :=
      x.unit = some ⟨w, false⟩ ∧ ∃ f, x.command = some f ∧ cmd f.cmd
    let reads (cmd : DriveCmd) : Prop := ∃ k n, cmd = .read k n
    let writes (cmd : DriveCmd) : Prop := ∃ k b, cmd = .write k b
    let verifies (cmd : DriveCmd) : Prop := ∃ k n b, cmd = .verify k n b
    let own (id : FetchId) : Prop := id ∈ x.queue ∨ (∃ k n, x.unit = some ⟨.trailerRead id k n, false⟩)
      ∨ ∃ b ps i n, x.unit = some ⟨.pageRead id b ps i n, false⟩
    let cut (id : FetchId) (o : FetchOrder) (outcome : Status) (t : State) : Prop := t.order? id = none
      ∧ ∃ u, u.order? id = some o ∧ u.fee = s.fee ∧ (∀ st : Station, u.link st = s.link st)
        ∧ t.fee = (completeFetch id outcome u).fee
        ∧ (x.resetBy = none → x.pin = false →
          ∀ st : Station, (t.link st).replies = ((completeFetch id outcome u).link st).replies)
    let fails (t : State) : Prop := run.failure = none → run.state ≠ .closed →
      t.run.failure = some .filingDriveFault ∧ (apart → runFails s t .filingDriveFault)
    let passCut (kind : PassKind) (n : Nat) (y : Side) (r : SideRec) (i : Instrument) (frontier dead : Nat)
        (t : State) : Prop :=
      let entry := s.entry? i.number
      let again : Prop := i.attempts + 1 < 3 ∧ ∀ e, entry = some e → e.extents.length < 4
      run.current = some i → run.failure = none → run.state ≠ .closed →
        (∀ e, entry = some e → e.state = .filing → t.catalogue = (s.catalogue.filter fun e => e.number ≠ i.number)
          ∧ (s.openSide = some (n, y) → run.chosen = none →
            t.side? n y = some { r with frontier := frontier, dead := r.dead + dead + extentSum e.extents }))
        ∧ (again ∨ run.source = .separator → fails t)
        ∧ (¬ again → run.source = .given → x.queue = [] → x.resetBy = none →
          instrumentEnds s t i (if 3 ≤ i.attempts + 1 then .verifyFailed else .extentLimit) kind.endAt n y r frontier dead)
    (c = .commandTimeout d ∧ code = .timeout ∧ (met ↔ ∃ f, x.command = some f ∧ f.started + 30 ≤ s.seconds))
      ∨ (c = .driveHardwareFault d ∧ code = .hardwareFault ∧ (met ↔ x.fitted = true)) →
    (¬ met → exec c s = finished s) ∧ (met → x.state = .faulted → exec c s = followed s)
      ∧ (met → x.state ≠ .faulted → ∃ t, exec c s = followed t
        ∧ (x.vacated = false → (t.drive d).state = .faulted ∧ (t.drive d).fault = some code)
        ∧ (x.vacated = true → (t.drive d).state = .empty ∧ (t.drive d).fault = none ∧ (t.drive d).cart = none)
        ∧ (t.drive d).idle = none ∧ (t.drive d).hold = none
        ∧ (t.drive d).unit = none ∧ (t.drive d).command = none ∧ (t.source (4 + d.val)).pending = true
        ∧ ((∀ id, own id → ∃ o, s.order? id = some o ∧ o.place = .drive d) →
            (t.drive d).queue = [] ∧ (∀ id ∈ x.queue, t.order? id = none)
              ∧ ∀ id, own id → (∃ f, x.command = some f ∧ reads f.cmd) → t.order? id = none)
        ∧ (x.unit = none → x.queue = [] → x.pin = false → ∀ w, x.resetBy = some w → s.awaits w.station w.tag →
            (t.link w.station).replies
              = (s.link w.station).replies ++ [⟨w.tag, 0x41, .resetFailed, .faultCode code⟩])
        ∧ (∀ w, apart → x.resetBy = some w → s.awaits w.station w.tag →
            ⟨w.tag, 0x41, .resetFailed, .faultCode code⟩ ∈ (t.link w.station).replies)
        ∧ (x.pin = true → (∀ u, x.unit = some u → u.work.isFiling = false) → run.engaged = some d → run.state ≠ .closed →
            run.failure = none → t.run.ring = [] ∧ t.run.current = none ∧ (t.drive d).pin = false ∧ fails t)
        ∧ (∀ id b ps i n o, works (.pageRead id b ps i n) reads → s.order? id = some o → o.place = .drive d →
            x.queue = [] → b < 16 → t.fetch.buffers.toList[b]? = some none
              ∧ cut id { o with next := o.next + 1, unreadable := o.unreadable + 1, reading := none }
                (if o.lastPage < o.next + 1 ∧ o.staged = none ∧ o.delivery = none then .donePartial else .driveFault) t)
        ∧ (∀ id k tries o, works (.trailerRead id k tries) reads → s.order? id = some o → o.place = .drive d →
            x.queue = [] → cut id o .unreadableIndex t)
        ∧ (∀ kind n y left r i, works (.writePass kind n y left) writes → s.side? n y = some r → r.frontier < 300000 →
            passCut kind n y r i (r.frontier + 1) (i.attemptSectors + 1) t)
        ∧ (∀ kind n y r i, works (.verifyPass kind) verifies → s.openSide = some (n, y) → s.side? n y = some r →
            passCut kind n y r i r.frontier i.attemptSectors t)
        ∧ (∀ n y r found, works (.probe n y) (fun cmd => ∃ k, cmd = .blankCheck k) → s.openSide = some (n, y) →
            s.side? n y = some r → r.frontier < 300000 → run.probing = some found → run.current = none →
            run.chosen = none →
            (found + 1 < 128 → r.frontier + 1 < 300000 →
              t.side? n y = some { r with frontier := r.frontier + 1, dead := r.dead + 1 }
                ∧ t.library.probeDue = s.library.probeDue ∧ fails t)
            ∧ (128 ≤ found + 1 ∨ r.frontier + 1 = 300000 → t.library.probeDue = false
              ∧ ∃ q, t.side? n y = some q ∧ q.state = .full ∧ q.frontier = r.frontier + 1))
        ∧ (∀ n y v e, works (.volumeLabelWrite n y v) writes ∨ works (.volumeLabelVerify n y v) verifies →
            s.cart? n = some e → t.side? n y = some ⟨.full, some s.library.nextVol, 32, 0, 0⟩
              ∧ t.library.nextVol = s.library.nextVol + 1 ∧ t.run.chosen = none ∧ t.run.label = none ∧ fails t)
        ∧ ∀ i, s.heldBy d = some i → s.insp? i.id = some i → i.order = none →
            (i.phase = .labelFirst ∨ i.phase = .labelSecond →
              t.insp? i.id = some { i with phase := .rejecting, orderDue := true, awaitReady := true, reserved := none }
                ∧ t.library.lastReject = some (.labelWriteFailed, i.numberRead) ∧ (t.source 10).pending = true)
            ∧ (i.phase = .reading → t.insp? i.id = some i ∧ t.library.lastReject = s.library.lastReject))

/-- A READ completion (R22, R29, R30, R131 to R134, R38, R208): a trailer that passes the checks gives the order its
page-length list; an unreadable one is read again, up to three times, and then, or when it does not pass, the fetch is
completed UNREADABLE_INDEX. A page whose last sector has come is staged with its bytes; while a sector is still to be
read for the first time the next run of its extent is read, then each sector without DATA again, one at a time, a
sector having all its tries before the next has its second (the model's choice, notes/assumptions/78.md); a page with
an unwritten sector, or with one that has failed three times, is unreadable, its buffer free, and when it was the last
of the order, with none staged or in delivery, the fetch is completed DONE_PARTIAL. Where a fetch is completed, the
unit has ended on the drive (R68) and everything else is as it was. The READ of a unit whose order has ended meanwhile
ends the unit, and a page read so frees its buffer (R70, R135). A label that reads as unwritten begins a new
cartridge's labelling; LABEL of an EXPORTED or MISSING cartridge accepts it, of another it is PRESENT, of a number the
table does not hold, or BAD_LABEL, FOREIGN; an unreadable label is read again, and at the third attempt
UNREADABLE_LABEL. A report of another count of sectors than the READ names changes nothing, which is the model's
choice (notes/assumptions/15.md); that sectors are read again only after all have been read once, and that a new
cartridge's side up is taken as A, is its reading (notes/assumptions/31.md, notes/assumptions/42.md). -/
def Obligations.ReadCompletion : Prop :=
  ∀ (s : State) (d : DriveId) (rs : List SectorRead) (f : InFlight) (start n : Nat),
    let x := s.drive d
    let out := exec (.readCompletion d rs) s
    let back (t : State) (id : FetchId) : Prop :=
      (t.drive d).unit = none ∧ (t.drive d).command = none ∧ (t.drive d).state = .ready
        ∧ (t.drive d).queue = x.queue ++ [id]
    let atRest (u : State) : State :=
      { (u.updDrive d fun x =>
          { x with command := none, unit := none, state := .ready, lastActive := s.seconds, share := .filing }) with
        planner := { s.planner with passesDue := s.planner.passesDue + if x.queue = [] then 1 else 0 } }
    x.command = some f → f.cmd = .read start n → x.vacate = false → x.unloadKept = false →
    (rs.length ≠ n → out = finished s)
      ∧ (∀ id sector tries o, n = 1 → x.unit = some ⟨.trailerRead id sector tries, false⟩ → s.order? id = some o →
        (∀ bytes ls, rs = [.data bytes] →
          trailerLengths bytes o.instrument o.pages o.content o.filingDate = some ls →
          ∃ t, out = followed t ∧ t.order? id = some { o with lengths := some ls } ∧ back t id)
        ∧ (rs = [.unreadable] → tries < 2 → x.state = .active → out = followed (s.updDrive d fun x =>
            { x with
              command := some ⟨.read sector 1, .fetchEngine, s.seconds⟩
              unit := some ⟨.trailerRead id sector (tries + 1), false⟩ }))
        ∧ (rs = [.unwritten] ∨ (rs = [.unreadable] ∧ 2 ≤ tries) ∨ (∃ bytes, rs = [.data bytes]
              ∧ trailerLengths bytes o.instrument o.pages o.content o.filingDate = none) →
          let t := completeFetch id .unreadableIndex (atRest s)
          out = followed t ∧ t.order? id = none))
      ∧ (∀ id sector tries, n = 1 → rs.length = 1 → x.unit = some ⟨.trailerRead id sector tries, true⟩ →
        out = followed (atRest s))
      ∧ (∀ id b ps i, rs.length = n → x.unit = some ⟨.pageRead id b ps i n, true⟩ →
        out = followed (atRest { s with fetch := { s.fetch with buffers := s.fetch.buffers.setIfInBounds b none } }))
      ∧ (∀ id b ps i o, x.unit = some ⟨.pageRead id b ps i n, false⟩ → s.order? id = some o → rs.length = n → b < 16 →
        let got := placeAnswers ps i rs
        let lost : Prop := .unwritten ∈ rs ∨ ∃ p ∈ got, p.bytes = none ∧ 3 ≤ p.tries
        let reads (j m : Nat) (q : PageSector) : Prop := out = followed (s.updDrive d fun x =>
          { x with
            command := some ⟨.read q.phys m, .fetchEngine, s.seconds⟩, unit := some ⟨.pageRead id b got j m, false⟩ })
        ((∀ p ∈ got, p.bytes.isSome = true ∧ p.tries ≠ 0) → (∀ r ∈ rs, r ≠ .unwritten) →
          ∃ t, out = followed t ∧ back t id
            ∧ t.order? id = some { o with staged := some (o.next, b), next := o.next + 1, reading := none }
            ∧ t.bufferBytes b = got.flatMap (fun p => p.bytes.getD [])
            ∧ t.fetch.stagedOrder = s.fetch.stagedOrder ++ [id])
        ∧ (¬ lost → x.state = .active → ∀ j q, got[j]? = some q →
          (q.tries = 0 → (∀ p ∈ got.take j, p.tries ≠ 0) → ∃ m, 1 ≤ m ∧ (∀ p ∈ (got.drop j).take m, p.extent = q.extent)
            ∧ (∀ p, got[j + m]? = some p → p.extent ≠ q.extent) ∧ j + m ≤ got.length ∧ reads j m q)
          ∧ ((∀ p ∈ got, p.tries ≠ 0) → q.bytes = none → (∀ p ∈ got.take j, p.bytes ≠ none) → reads j 1 q))
        ∧ (lost →
          let told : FetchOrder := { o with next := o.next + 1, unreadable := o.unreadable + 1, reading := none }
          (o.next + 1 ≤ o.lastPage ∨ o.staged ≠ none ∨ o.delivery ≠ none →
            ∃ t, out = followed t ∧ back t id ∧ t.fetch.buffers.toList[b]? = some none ∧ t.order? id = some told)
          ∧ (o.lastPage < o.next + 1 → o.staged = none → o.delivery = none →
            let u : State := atRest { s with fetch := { s.fetch with
              buffers := s.fetch.buffers.setIfInBounds b none
              orders := s.fetch.orders.map fun o => if o.id = id then
                { o with next := o.next + 1, unreadable := o.unreadable + 1, reading := none } else o } }
            let t := completeFetch id .donePartial u
            out = followed t ∧ u.order? id = some told ∧ t.order? id = none
              ∧ t.fetch.buffers.toList[b]? = some none)))
      ∧ (∀ id tries i, x.unit = some ⟨.labelRead id tries, false⟩ → n = 1 → s.insp? id = some i →
        let rejected (label : LabelResult) (reason : RejectReason) (number : Option Nat) (t : State) : Prop :=
          out = followed t ∧ t.library.table = s.library.table ∧ t.library.lastReject = some (reason, number)
            ∧ (t.source 10).pending = true ∧ (t.drive d).state = .ready ∧ (t.drive d).unit = none
            ∧ t.insp? id = some { i with
                label := some label, phase := .rejecting, orderDue := true, awaitReady := false, order := none
                reserved := none }
        (rs = [.unwritten] → s.library.table.length < 512 → s.library.nextCart ≤ 65535 →
          ∃ t, out = followed t ∧ t.library.nextCart = s.library.nextCart + 1
            ∧ t.insp? id = some { i with label := some .blank, taken := some s.library.nextCart, phase := .labelFirst }
            ∧ t.library.table = s.library.table ∧ (t.drive d).sideUp = some .a)
        ∧ (rs = [.unwritten] → 512 ≤ s.library.table.length → ∃ t, rejected .blank .tableFull none t)
        ∧ (rs = [.unwritten] → s.library.table.length < 512 → 65536 ≤ s.library.nextCart →
          ∃ t, rejected .blank .numbersExhausted none t)
        ∧ (rs = [.unreadable] → tries < 2 → x.state = .active → out = followed (s.updDrive d fun x =>
            { x with
              command := some ⟨.read 0 1, .libraryMap, s.seconds⟩, unit := some ⟨.labelRead id (tries + 1), false⟩ }))
        ∧ (rs = [.unreadable] → 2 ≤ tries → ∃ t, rejected .unreadable .unreadableLabel none t)
        ∧ ∀ bytes, rs = [.data bytes] →
          let k := (bytes.getD 4 0).toNat * 256 + (bytes.getD 5 0).toNat
          let labelled : Prop := bytes.take 4 = [0x6B, 0x43, 0x4C, 0x42] ∧ k ≠ 0
            ∧ (bytes.getD 8 0 = 0x41 ∨ bytes.getD 8 0 = 0x42)
          let y : Side := if bytes.getD 8 0 = 0x41 then .a else .b
          (¬ labelled → ∃ t, rejected .badLabel .foreign none t)
          ∧ (labelled → s.cart? k = none →
            ∃ t, rejected (.label k y) .foreign (some k) t ∧ (i.origin = .startUp → (t.drive d).sideUp = some y))
          ∧ ∀ c, labelled → s.cart? k = some c →
            (c.location ≠ .exported → c.location ≠ .missing →
              ∃ t, rejected (.label k y) .present (some k) t ∧ (i.origin = .startUp → (t.drive d).sideUp = some y))
            ∧ (c.location = .exported ∨ c.location = .missing →
              ∃ t, out = followed t ∧ t.cart? k = some { c with
                  location := .drive d, sideUp := some y, exportPending := false
                  home := if c.location = .missing then c.home else i.reserved }
                ∧ (∀ m, m ≠ k → t.cart? m = s.cart? m)
                ∧ t.insp? id = some { i with
                    label := some (.label k y), phase := .shelving, orderDue := true, awaitReady := false, reserved := none }
                ∧ (t.drive d).cart = some (.number k) ∧ (t.drive d).sideUp = some y ∧ (t.drive d).state = .ready
                ∧ (t.drive d).unit = none))

/-- The completions of filing units (R98, R102, R107 to R110, R112, R14, R21, R70): a WRITE that is DONE moves the
frontier on and the next sector of the pass is written, or the verify is due after the last, and at the side's end the
rest is refused; a WRITE that is ALREADY_WRITTEN and a VERIFY with a FAIL fail the attempt, its sectors dead, and the
page is written again, or at the third attempt, or with four extents, the instrument ends; a verified page joins the
entry and leaves the ring; a verified trailer commits the entry, counted on its side and announced; a refusal of the
catalogue ends the instrument. The frontier probe runs before the instrument's entry is created: a WRITTEN sector is
passed as dead, and at the 128th or at the side's end the side is FULL; a BLANK one ends the probe, and engagement
completes, with the entry of a GIVEN run created, or a rollover follows. A WRITE that completes after its instrument
has ended moves the frontier on over a dead sector, and the answers of a VERIFY and of a probe are then discarded. A
completion of a command not in flight changes nothing, which is the model's reading (notes/assumptions/12.md); that a
count stays at 65,535 is its choice (notes/assumptions/69.md); the status value of a catalogue refusal that cannot
come, and the ring flushed at the end of a GIVEN run that closes, are its reading (notes/assumptions/25.md,
notes/assumptions/26.md). -/
def Obligations.FilingCompletions : Prop :=
  ∀ (s : State) (d : DriveId) (n : Nat) (c : Cartridge) (x : Side) (r : SideRec) (f : InFlight),
    let drive := s.drive d
    let idle (t : State) : Prop := (t.drive d).state = .ready ∧ (t.drive d).unit = none ∧ (t.drive d).command = none
    s.cart? n = some c → c.sideRec x = r → r.state = .opened → r.frontier < 300000 → 32 ≤ r.frontier →
    drive.vacate = false → drive.unloadKept = false →
    (drive.command = none → (∀ w, exec (.writeCompletion d w) s = finished s)
        ∧ (∀ v, exec (.verifyCompletion d v) s = finished s) ∧ ∀ b, exec (.blankCheckCompletion d b) s = finished s)
      ∧ (∀ i, s.run.current = some i →
        let entry := s.entry? i.number
        let ends (code : Status) (kind : PassKind) (frontier dead : Nat) (t : State) : Prop :=
          instrumentEnds s t i code kind.endAt n x r frontier dead
        let failed (kind : PassKind) (frontier dead : Nat) (t : State) : Prop :=
          (t.drive d).state = .ready ∧ (t.drive d).unit = none
            ∧ (i.attempts + 1 < 3 → (∀ e, entry = some e → e.extents.length < 4) → t.catalogue = s.catalogue
              ∧ t.side? n x = some { r with frontier := frontier, dead := r.dead + dead }
              ∧ t.run.current = some { i with
                  attempts := i.attempts + 1, rewrites := i.rewrites + 1, attemptSectors := 0, verifyDue := false
                  dead := i.dead + dead })
            ∧ (3 ≤ i.attempts + 1 → ends .verifyFailed kind frontier dead t)
            ∧ (i.attempts + 1 < 3 → (∃ e, entry = some e ∧ 4 ≤ e.extents.length) →
              ends .extentLimit kind frontier dead t)
        (∀ k b kind left, drive.command = some f → f.cmd = .write k b →
          drive.unit = some ⟨.writePass kind n x left, false⟩ → drive.state = .active →
          (left = [] ∨ r.frontier + 1 < 300000 → ∃ t, exec (.writeCompletion d .done) s = followed t
            ∧ t.side? n x = some { r with frontier := r.frontier + 1 }
            ∧ t.run.current = some { i with
                attemptSectors := i.attemptSectors + 1, verifyDue := if left = [] then true else i.verifyDue }
            ∧ (left = [] → idle t)
            ∧ (∀ b rest, left = b :: rest →
                (t.drive d).command = some ⟨.write (r.frontier + 1) b, .filingWriter, s.seconds⟩
                ∧ (t.drive d).unit = some ⟨.writePass kind n x rest, false⟩))
          ∧ (left ≠ [] → r.frontier + 1 = 300000 → ∃ t, exec (.writeCompletion d .done) s = followed t
            ∧ (t.drive d).unit = none ∧ ends .writeRefused kind 300000 (i.attemptSectors + 1) t)
          ∧ ∃ t, exec (.writeCompletion d .alreadyWritten) s = followed t
            ∧ failed kind (r.frontier + 1) (i.attemptSectors + 1) t)
        ∧ ∀ k b kind v, drive.command = some f → f.cmd = .verify k v.length b →
          drive.unit = some ⟨.verifyPass kind, false⟩ →
          (s.openSide = some (n, x) → (∃ q ∈ v, q = .fail) →
            ∃ t, exec (.verifyCompletion d v) s = followed t ∧ failed kind r.frontier i.attemptSectors t)
          ∧ ((∀ q ∈ v, q = .pass) → ∀ e, entry = some e →
            (∀ p u, kind = .page → s.run.headPage = some p → extendEntry s i.number i.start p.sectors = .ok u →
              ∃ t, exec (.verifyCompletion d v) s = followed t ∧ t.catalogue = u.catalogue
                ∧ t.run.ring = s.run.ring.drop 1 ∧ t.run.lastTag = some p.tag
                ∧ (∃ j, t.run.current = some j ∧ j.pages = i.pages + 1 ∧ j.content = i.content + p.sectors
                    ∧ j.pageSectors = i.pageSectors ++ [p.sectors] ∧ j.verifyDue = false ∧ j.attempts = 0
                    ∧ j.attemptSectors = 0)
                ∧ (p.notify = true → (t.source 14).pending = true))
            ∧ (∀ p g, kind = .page → s.run.headPage = some p → extendEntry s i.number i.start p.sectors = .error g →
              ∃ t, exec (.verifyCompletion d v) s = followed t
                ∧ ends (catStatus g) .page r.frontier i.attemptSectors t)
            ∧ (∀ u v' c', kind = .trailer → commitEntry s i.number i.start = .ok u → s.volume? e.volume = some v' →
              s.cart? v'.cart = some c' →
              ∃ t, exec (.verifyCompletion d v) s = followed t ∧ t.catalogue = u.catalogue ∧ t.run.current = none
                ∧ t.run.counts = { s.run.counts with committed := min (s.run.counts.committed + 1) 65535 }
                ∧ t.side? v'.cart v'.side = some { c'.sideRec v'.side with
                    instruments := (c'.sideRec v'.side).instruments + 1 }
                ∧ (t.source 15).pending = true)
            ∧ (∀ g, kind = .trailer → commitEntry s i.number i.start = .error g →
              ∃ t, exec (.verifyCompletion d v) s = followed t
                ∧ ends (catStatus g) .trailer r.frontier i.attemptSectors t)))
      ∧ (∀ k, drive.command = some f → f.cmd = .blankCheck k → drive.unit = some ⟨.probe n x, false⟩ →
        s.openSide = some (n, x) → s.run.current = none →
        (∀ found, s.run.probing = some found → found + 1 < 128 → r.frontier + 1 < 300000 →
          ∃ t, exec (.blankCheckCompletion d .written) s = followed t
            ∧ t.side? n x = some { r with frontier := r.frontier + 1, dead := r.dead + 1 }
            ∧ t.run = { s.run with probing := some (found + 1) } ∧ t.library.probeDue = s.library.probeDue
            ∧ idle t ∧ t.catalogue = s.catalogue)
        ∧ (∀ found, s.run.probing = some found → 128 ≤ found + 1 ∨ r.frontier + 1 = 300000 → s.run.chosen = none →
          ∃ t, exec (.blankCheckCompletion d .written) s = followed t ∧ t.run.probing = none
            ∧ t.library.probeDue = false ∧ (t.source 13).pending = true ∧ ∃ y, t.side? n x = some y ∧ y.state = .full
              ∧ y.frontier = r.frontier + 1)
        ∧ ∃ t, exec (.blankCheckCompletion d .blank) s = followed t ∧ t.library.probeDue = false
          ∧ (t.drive d).unit = none ∧ (t.drive d).command = none
          ∧ (∀ v, 4096 ≤ s.freeSectors → s.run.engaged = some d → r.volume = some v → t.run.probing = none
            ∧ completesEngagement s t n x d v r.frontier)
          ∧ (s.freeSectors < 4096 → ∀ p, blankChoice s (some n) = some p →
            t.run.chosen = some p ∧ t.run.state = .opening ∧ t.planner.filingReq = some p ∧ t.run.engaged = none
              ∧ (∃ y, t.side? n x = some y ∧ y.state = .full) ∧ (t.source 13).pending = true)
          ∧ (s.freeSectors < 4096 → blankChoice s (some n) = none → s.run.failure = none → s.run.state ≠ .closed →
            runFails s t .noBlank))
      ∧ (drive.command = some f →
        (∀ k b kind left w, f.cmd = .write k b → drive.unit = some ⟨.writePass kind n x left, true⟩ →
          ∃ t, exec (.writeCompletion d w) s = followed t ∧ idle t ∧ t.run = s.run ∧ t.catalogue = s.catalogue
            ∧ t.side? n x = some { r with frontier := r.frontier + 1, dead := r.dead + 1 })
        ∧ (∀ k b kind v, f.cmd = .verify k v.length b → drive.unit = some ⟨.verifyPass kind, true⟩ →
          ∃ t, exec (.verifyCompletion d v) s = followed t ∧ idle t ∧ t.run = s.run ∧ t.catalogue = s.catalogue
            ∧ t.library = s.library)
        ∧ ∀ k b, f.cmd = .blankCheck k → drive.unit = some ⟨.probe n x, true⟩ →
          ∃ t, exec (.blankCheckCompletion d b) s = followed t ∧ idle t ∧ t.run = s.run ∧ t.catalogue = s.catalogue
            ∧ t.library = s.library)

/-- The completions of label units (R20, R23, R30, R101). A volume label written is to be verified; once verified its
side is OPEN with the next volume number, the pin is set and engagement completes; a WRITE that is ALREADY_WRITTEN and
a VERIFY with a FAIL use up the side, FULL with the number taken, and the blank choice is made again, naming the same
cartridge; one that completes after the run has been aborted uses up the side in the same way (R113). A cartridge
label written is verified in the same unit; side A's, verified, calls for the FLIP, side B's for the record and its
way home; either failure rejects the cartridge with LABEL_WRITE_FAILED and makes no record. That the number is the
counter's when the label is reported is the model's choice where two labels are under way (notes/assumptions/30.md);
which cartridge is named, and that side B is up after the FLIP, is its reading (notes/assumptions/27.md,
notes/assumptions/42.md). -/
def Obligations.LabelCompletions : Prop :=
  ∀ (s : State) (d : DriveId) (f : InFlight),
    let drive := s.drive d
    drive.command = some f → drive.vacate = false → drive.unloadKept = false →
    (∀ n x v c, s.cart? n = some c →
      let taken (state : SideState) (dead : Nat) (t : State) : Prop :=
        t.side? n x = some ⟨state, some s.library.nextVol, 32, dead, 0⟩ ∧ t.library.nextVol = s.library.nextVol + 1
          ∧ t.library.volumes = s.library.volumes ++ [⟨s.library.nextVol, n, x⟩]
      let again (t : State) : Prop := taken .full 0 t ∧ t.run.label = none ∧ (t.drive d).state = .ready
        ∧ (∀ p, blankChoice t (some n) = some p → t.run.chosen = some p ∧ t.planner.filingReq = some p)
        ∧ (blankChoice t (some n) = none → t.run.chosen = none ∧ t.planner.filingReq = none
          ∧ (s.run.failure = none → s.run.state ≠ .closed → s.run.openTag = none → s.run.closeTag = none →
            t.run.failure = some .noBlank ∧ t.run.state = .closing))
      (∀ k b, f.cmd = .write k b → drive.unit = some ⟨.volumeLabelWrite n x v, false⟩ →
        (∃ t, exec (.writeCompletion d .done) s = followed t ∧ t.library = s.library
          ∧ t.run = { s.run with label := s.run.label.map fun j => { j with written := true } }
          ∧ (t.drive d).state = .ready ∧ (t.drive d).unit = none ∧ (t.drive d).command = none)
        ∧ ∃ t, exec (.writeCompletion d .alreadyWritten) s = followed t ∧ again t)
      ∧ ∀ k b, f.cmd = .verify k 1 b → drive.unit = some ⟨.volumeLabelVerify n x v, false⟩ →
        (∃ t, exec (.verifyCompletion d [.fail]) s = followed t ∧ again t)
        ∧ (s.openSide = none → drive.cart = some (.number n) → drive.sideUp = some x →
          (∀ e, e ≠ d → (s.drive e).pin = false) →
          ∃ t, exec (.verifyCompletion d [.pass]) s = followed t
            ∧ (∃ dead, taken .opened dead t ∧ (s.run.current = none → dead = 0)) ∧ t.library.probeDue = false
            ∧ t.run.chosen = none ∧ t.run.label = none
            ∧ (t.run.engaged = some d → (t.drive d).pin = true ∧ (t.drive d).share = .filing)
            ∧ completesEngagement s t n x d s.library.nextVol 32))
    ∧ (∀ n x v c k b, s.cart? n = some c →
      let late (t : State) : Prop := t.side? n x = some ⟨.full, some s.library.nextVol, 32, 0, 0⟩
        ∧ t.library.nextVol = s.library.nextVol + 1 ∧ t.run = s.run ∧ (t.drive d).state = .ready ∧ (t.drive d).unit = none
      (∀ w, f.cmd = .write k b → drive.unit = some ⟨.volumeLabelWrite n x v, true⟩ →
        ∃ t, exec (.writeCompletion d w) s = followed t ∧ late t)
      ∧ ∀ q, f.cmd = .verify k 1 b → drive.unit = some ⟨.volumeLabelVerify n x v, true⟩ →
        ∃ t, exec (.verifyCompletion d [q]) s = followed t ∧ late t)
    ∧ ∀ id i, s.insp? id = some i →
      let rejected (t : State) : Prop := t.library.table = s.library.table
        ∧ t.insp? id = some { i with
            phase := .rejecting, orderDue := true, awaitReady := false, order := none, reserved := none }
        ∧ t.library.lastReject = some (.labelWriteFailed, i.numberRead) ∧ (t.source 10).pending = true
        ∧ (t.drive d).state = .ready ∧ (t.drive d).unit = none
      (∀ k b bytes, f.cmd = .write k b → drive.unit = some ⟨.labelWrite id bytes, false⟩ →
        (drive.state = .active → exec (.writeCompletion d .done) s = followed (s.updDrive d fun x =>
          { x with
            command := some ⟨.verify 0 1 bytes, .libraryMap, s.seconds⟩, unit := some ⟨.labelVerify id, false⟩ }))
        ∧ ∃ t, exec (.writeCompletion d .alreadyWritten) s = followed t ∧ rejected t)
      ∧ ∀ k b, f.cmd = .verify k 1 b → drive.unit = some ⟨.labelVerify id, false⟩ →
        (∃ t, exec (.verifyCompletion d [.fail]) s = followed t ∧ rejected t)
        ∧ (i.phase = .labelFirst → ∃ t, exec (.verifyCompletion d [.pass]) s = followed t
          ∧ t.insp? id = some { i with phase := .flipping, orderDue := true, awaitReady := false }
          ∧ t.library.table = s.library.table ∧ (t.drive d).state = .ready ∧ (t.drive d).unit = none)
        ∧ ∀ k, i.phase = .labelSecond → i.taken = some k → s.cart? k = none →
          ∃ t, exec (.verifyCompletion d [.pass]) s = followed t
            ∧ t.cart? k = some ⟨k, i.reserved, .drive d, some .b, ⟨.blank, none, 32, 0, 0⟩, ⟨.blank, none, 32, 0, 0⟩, false⟩
            ∧ (∀ m, m ≠ k → t.cart? m = s.cart? m)
            ∧ t.insp? id = some { i with phase := .shelving, orderDue := true, awaitReady := false, reserved := none }
            ∧ (t.drive d).cart = some (.number k) ∧ (t.drive d).sideUp = some .b

/-- The expiry of the four kinds of timer (R71, R72, R115, R138): a READY drive goes to STANDBY with SPIN_DOWN issued;
a drive in STANDBY asks for the G-HOLD DEMOUNT of its cartridge where R72 allows it, and its hold timer starts again
where it does not: with the pin set, a waiter for the cartridge, an order from the drive, an export mark, an
inspection at the drive, a cartridge not identified or none, one without a home slot, or the arm HALTED; a stalled
fetch is completed STALLED; FILING_STALLED is set once. A timer that has not run its time does not expire: its command
changes nothing, which is the model's choice (notes/assumptions/9.md). -/
def Obligations.TimerExpiries : Prop :=
  ∀ (s : State) (d : DriveId),
    let x := s.drive d
    let holdStart : Option Nat := if s.timers.holdLimit = 0 then none else some s.seconds
    ((∀ t, x.idle = some t → x.state = .ready → s.seconds - t < s.timers.idleDelay) →
        exec (.idleTimerExpiry d) s = followed s)
      ∧ (∀ t, x.idle = some t → x.state = .ready → s.timers.idleDelay ≤ s.seconds - t →
        exec (.idleTimerExpiry d) s = followed (s.updDrive d fun x =>
          { x with state := .standby, idle := none, hold := holdStart, command := some ⟨.spinDown, .driveUnit, s.seconds⟩ }))
      ∧ ((∀ t, x.hold = some t → x.state = .standby → s.timers.holdLimit ≠ 0 → s.seconds - t < s.timers.holdLimit) →
        exec (.holdTimerExpiry d) s = followed s)
      ∧ (∀ t, x.hold = some t → x.state = .standby → s.timers.holdLimit ≠ 0 → s.timers.holdLimit ≤ s.seconds - t →
        (x.pin = true ∨ x.cart = none ∨ (∃ w ∈ s.planner.waiters, x.cart = some (.number w.cart))
            ∨ (∃ o ∈ s.arm.orders, o.source = .drive d) ∨ (∃ id, x.cart = some (.inspection id))
            ∨ (∃ i ∈ s.library.inspections, i.place = .drive d) ∨ s.arm.level = .halted
            ∨ (∃ n, x.cart = some (.number n) ∧ s.cart? n = none)
            ∨ (∃ n c, x.cart = some (.number n) ∧ s.cart? n = some c ∧ (c.exportPending = true ∨ c.home = none)) →
          exec (.holdTimerExpiry d) s = followed (s.updDrive d fun x => { x with hold := holdStart, holdKept := false }))
        ∧ ∀ n c h, x.pin = false → x.cart = some (.number n) → s.cart? n = some c → c.home = some h →
          c.exportPending = false → (∀ w ∈ s.planner.waiters, w.cart ≠ n) → (∀ o ∈ s.arm.orders, o.source ≠ .drive d) →
          (∀ i ∈ s.library.inspections, i.place ≠ .drive d) →
          (s.arm.level ≠ .halted → s.arm.orders.length < 16 → ∃ t k, exec (.holdTimerExpiry d) s = followed t
            ∧ t.arm.orders = s.arm.orders ++ [⟨k, .demount, .number n, .drive d, .shelf h, none, .hold, none, .holdExpiry,
                .waiting⟩]
            ∧ t.drive d = { x with pendingHold := some k, hold := none, holdKept := false })
          ∧ (s.arm.level ≠ .halted → 16 ≤ s.arm.orders.length → exec (.holdTimerExpiry d) s
            = followed (s.updDrive d fun x => { x with hold := none, holdKept := true })))
      ∧ (∀ st tag, (∀ o t, s.order? ⟨st, tag⟩ = some o → o.stall = some t → s.seconds - t < s.timers.fetchStall) →
        exec (.fetchStallLimit st tag) s = followed s)
      ∧ (∀ st tag o t, s.order? ⟨st, tag⟩ = some o → o.stall = some t → s.timers.fetchStall ≤ s.seconds - t →
        exec (.fetchStallLimit st tag) s = followed (completeFetch ⟨st, tag⟩ .stalled s)
          ∧ (completeFetch ⟨st, tag⟩ .stalled s).order? ⟨st, tag⟩ = none)
      ∧ ((∀ t, s.run.stall = some t → s.run.stallSent = false → s.seconds - t < s.timers.filingStall) →
        exec .filingStallLimit s = finished s)
      ∧ (∀ t, s.run.stall = some t → s.run.stallSent = false → s.timers.filingStall ≤ s.seconds - t →
        exec .filingStallLimit s = finished (noticeSet 16 { s with run := { s.run with stallSent := true } }))

/-! ### What follows a command: the blocks' own acts -/

/-- The acts that follow a command, of which `followed` speaks: they are taken one at a time, each on the state that
the one before it has left, until none is possible, and at most 1,000 in one step. Of the acts possible at once the
order is a delivery (R136), a stall timer's change (R138), an act of the Filing Writer, of the Drive Units in
ascending number, a planning pass that is due (R86), an act of the Library Map, and the arbiter's (R45). The order and
the bound are the model's choice (notes/assumptions/5.md), and that each event brings a pass of its own is its reading
(notes/assumptions/45.md). -/
def Obligations.ActsUntilRest : Prop :=
  ∀ s : State,
    (∃ (run : Nat → State) (k : Nat), run 0 = s ∧ run k = settle s ∧ k ≤ 1000
        ∧ (∀ i, i < k → nextAct (run i) = some (run (i + 1))) ∧ (k < 1000 → (settle s).rests))
      ∧ (∀ o, deliveryCandidate s = some o → nextAct s = some (beginDelivery o s))
      ∧ (deliveryCandidate s = none →
        (∀ o, stallCandidate s = some o → nextAct s = some (adjustStall o s))
        ∧ (stallCandidate s = none →
          (∀ t, filingAct s = some t → nextAct s = some t)
          ∧ (filingAct s = none →
            (∀ d t, driveAct s d = some t → (∀ e, e < d → driveAct s e = none) → nextAct s = some t)
            ∧ ((∀ d, driveAct s d = none) →
              (0 < s.planner.passesDue → nextAct s = some (planPass s))
              ∧ (s.planner.passesDue = 0 →
                (∀ t, libraryAct s = some t → nextAct s = some t)
                ∧ (libraryAct s = none → nextAct s = arbiterAct s))))))

/-- The arbiter's act (R44, R45, R47). An order is ready while it is WAITING, its source holds the cartridge, its
destination is clear and the order its after field names is no longer in the list. With the arm idle and the level
NORMAL the ready order whose group has the highest value, and of those the first in the list, is RUNNING and is the
move under way, in PICK; otherwise the arbiter does nothing. At a shelf slot or the loading slot, which is BUSY, the
arm grips; a drive is asked to unload, and a cartridge already on the arm goes straight to TRAVEL. A source whose
sensor reads empty, or a drive that refuses because its pin is set or its queue holds fetches (R62), is a first fault
(R50, R51). That a sensor that reads empty is met at once, from the reading kept, is the model's choice
(notes/assumptions/34.md), as is that the record's copy of the order shows RUNNING (notes/assumptions/73.md). -/
def Obligations.ArbiterTakesOrder : Prop :=
  (∀ (s : State) (o : MoveOrder),
    let held : Prop := match o.source with
      | .shelf n => (∃ k c, o.cart = .number k ∧ s.cart? k = some c ∧ c.location = .shelf)
          ∨ (o.kind = .returnMove ∧ s.slotReads n = true)
      | .drive d => ((∃ k c, o.cart = .number k ∧ s.cart? k = some c ∧ c.location = .drive d)
            ∨ ∃ k i, o.cart = .inspection k ∧ s.insp? k = some i ∧ i.place = .drive d)
          ∧ ((s.drive d).state = .ready ∨ (s.drive d).state = .standby) ∧ (s.drive d).unit = none
      | .loadingSlot => s.library.slot = .arrived
          ∧ ∃ k i, o.cart = .inspection k ∧ s.insp? k = some i ∧ i.place = .loadingSlot
      | .arm => s.arm.gripSensor = true
    let clear : Prop := match o.dest with
      | .shelf n => s.slotReads n = false
      | .drive d => o.kind = .flip ∨ ((s.drive d).fitted = true ∧ (s.drive d).state = .empty
          ∧ ∀ p ∈ s.arm.orders, p.dest = .drive d → p.status = .waiting)
      | .loadingSlot => s.library.slot = .empty
      | .arm => False
    ready s o = true ↔ o.status = .waiting ∧ held ∧ clear
      ∧ ∀ n, o.after = some n → ∀ p ∈ s.arm.orders, p.number ≠ n)
    ∧ ∀ s : State,
      (s.arm.level ≠ .normal ∨ s.arm.moving ≠ none ∨ (∀ o ∈ s.arm.orders, ready s o = false) → arbiterAct s = none)
      ∧ ∀ before o after, s.arm.level = .normal → s.arm.moving = none → s.arm.orders = before ++ o :: after →
        ready s o = true →
        (∀ p ∈ s.arm.orders, ready s p = true → s.arm.priorities.of p.group ≤ s.arm.priorities.of o.group) →
        (∀ p ∈ before, ready s p = true → s.arm.priorities.of p.group < s.arm.priorities.of o.group) →
        let run : MoveOrder := { o with status := .running }
        let taken : Arm := { s.arm with
          orders := s.arm.orders.map fun p => if p.number = o.number then { p with status := .running } else p
          moving := some ⟨run, .pick, s.seconds, .arbiter, true⟩ }
        let faults (code : MoveFault) (t : State) : Prop :=
          t.arm = { s.arm with
              orders := s.arm.orders.map fun p => if p.number = o.number then { p with status := .suspended } else p
              level := .attention, primary := some ⟨code, run, s.seconds, .pick, false, true⟩ }
            ∧ (t.source 1).pending = true ∧ t.drives = s.drives
        ∃ t, arbiterAct s = some t
          ∧ (∀ n, o.source = .shelf n →
            (s.slotReads n = true → t = { s with arm := taken }) ∧ (s.slotReads n = false → faults .pickEmpty t))
          ∧ (o.source = .loadingSlot → t.library = { s.library with slot := .busy }
            ∧ (s.library.slotSensor = true → t = { s with arm := taken, library := t.library })
            ∧ (s.library.slotSensor = false → faults .pickEmpty t))
          ∧ (o.source = .arm →
            t.arm = { taken with
                moving := some ⟨run, .travel, s.seconds, .arbiter, true⟩, gripSensor := true
                mismatchCount := t.arm.mismatchCount, mismatch := t.arm.mismatch }
              ∧ t.drives = s.drives
              ∧ ∀ n c, o.cart = .number n → s.cart? n = some c → c.location ≠ .exported →
                t.arm.mismatch = s.arm.mismatch ∧ t.arm.mismatchCount = s.arm.mismatchCount
                  ∧ ∃ c', t.cart? n = some c' ∧ c'.location = .arm)
          ∧ ∀ d, o.source = .drive d →
            let x := s.drive d
            (x.pin = true ∨ x.queue ≠ [] → faults .driveRefused t)
            ∧ (x.pin = false → x.queue = [] → x.state = .ready → t = State.updDrive { s with arm := taken } d fun x =>
                { x with
                  state := .unloading, idle := none, hold := none, unloadKept := false
                  command := some ⟨.spinDown, .driveUnit, s.seconds⟩ })
            ∧ (x.pin = false → x.queue = [] → x.state = .standby → t = State.updDrive { s with arm := taken } d fun x =>
                { x with
                  state := .unloading, hold := none, holdKept := false
                  command := if x.command = none then some ⟨.eject, .driveUnit, s.seconds⟩ else x.command })

/-- A planning pass (R86) and what it does for a waiter of the volume wait list that rides on no plan (R80 to R85,
R67). The filing request comes first, then the waiters, oldest first, then the inspection request. A waiter rides on
the FETCH plan of its volume where there is one; a cartridge off line is marked, OFF_LINE_WANTED set once; one whose
side is up in a drive that no plan names is attached to the drive's queue where the Drive Unit accepts it, and a
DEMOUNT or FLIP still WAITING from the drive is withdrawn; the other side up is a FLIP where R81 allows it; on the
shelf, the empty drive of R82, or the victim of R83, is planned for with its orders. Otherwise the waiter waits as it
was. That a drive whose queue is out in a unit, or that the volume label is offered to, is not free, and which order
number is, is the model's reading (notes/assumptions/4.md, notes/assumptions/44.md); that a pass in HALTED still marks
a cartridge off line is its choice (notes/assumptions/76.md). -/
def Obligations.PlanningOfWaiters : Prop :=
  (∀ s : State,
    planPass s = planInspection (planWaiters (planFiling
        { s with planner := { s.planner with passesDue := s.planner.passesDue - 1 } }))
      ∧ ((∀ w ∈ s.planner.waiters, w.plan ≠ none) → planWaiters s = s)
      ∧ ∀ before w after, s.planner.waiters = before ++ w :: after → (s.planner.waiters.map (·.id)).Nodup →
        (∀ v ∈ before, v.plan ≠ none) → w.plan = none →
        planWaiters s = after.foldl (fun u v => match u.planner.waiters.find? fun x => x.id = v.id with
          | some x => if x.plan = none then planWaiter x u else u
          | none => u) (planWaiter w s))
    ∧ ∀ (s : State) (w : Waiter) (c : Cartridge), s.cart? w.cart = some c →
      let t := planWaiter w s
      let with_ (f : Waiter → Waiter) (s : State) : State := { s with planner := { s.planner with
        waiters := s.planner.waiters.map fun x => if x.id = w.id then f x else x } }
      let seen := with_ (fun x => { x with offLine := false }) s
      let riding (d : DriveId) (s : State) : State := with_ (fun x => { x with plan := some d }) s
      (c.location = .loadingSlot ∨ c.location = .exported ∨ c.location = .missing →
        (w.offLine = true → t = s)
        ∧ (w.offLine = false → t = noticeSet 20 (with_ (fun x => { x with offLine := true }) s)))
      ∧ (c.location ≠ .loadingSlot → c.location ≠ .exported → c.location ≠ .missing →
        (∀ before p after, s.planner.plans = before ++ p :: after → p.purpose = .fetch → p.volume = some w.volume →
          (∀ q ∈ before, q.purpose = .fetch → q.volume ≠ some w.volume) → t = riding p.drive seen)
        ∧ ((∀ p ∈ s.planner.plans, p.purpose = .fetch → p.volume ≠ some w.volume) →
          (c.location = .arm → t = seen)
          ∧ (∀ d, c.location = .drive d → c.sideUp = some w.side →
            let x := s.drive d
            let accepts : Prop := (∀ p ∈ s.planner.plans, p.drive ≠ d) ∧ x.cart = some (.number w.cart)
              ∧ x.sideUp = some w.side
              ∧ (x.state = .loading ∨ x.state = .ready ∨ x.state = .active ∨ x.state = .standby ∨ x.state = .waking)
              ∧ (∀ i ∈ s.library.inspections, i.place ≠ .drive d)
              ∧ ∀ o ∈ s.arm.orders, o.source = .drive d → o.status = .waiting
            (¬ accepts → t = seen)
            ∧ (accepts → t = withdrawAll ((s.arm.orders.filter fun o => o.source = .drive d ∧ o.status = .waiting
                  ∧ (o.kind = .demount ∨ o.kind = .flip)).map (·.number))
                (State.updDrive
                  { s with
                    planner := { s.planner with waiters := seen.planner.waiters.filter fun v => v.id ≠ w.id }
                    fetch := { s.fetch with orders := s.fetch.orders.map fun o =>
                      if o.id = w.id then { o with place := .drive d } else o } }
                  d fun x => { x with queue := if w.id ∈ x.queue then x.queue else x.queue ++ [w.id] })))
          ∧ (∀ d, c.location = .drive d → c.sideUp ≠ some w.side →
            let x := s.drive d
            let free : Prop := s.arm.level ≠ .halted ∧ x.queue = [] ∧ x.fetchUnit = false ∧ x.pin = false
              ∧ (x.state = .loading ∨ x.state = .ready ∨ x.state = .standby ∨ x.state = .waking)
              ∧ (∀ j, s.run.label = some j → j.drive ≠ d) ∧ (∀ p ∈ s.planner.plans, p.drive ≠ d)
              ∧ (∀ i ∈ s.library.inspections, i.place ≠ .drive d) ∧ c.exportPending = false
            let held (n : Nat) : Prop := x.pendingHold = some n ∧ s.orderWaiting n = true
            let flips (u : State) : Prop := ∃ k, u.unused k ∧ t = riding d { u with
              arm := { u.arm with
                orders := u.arm.orders ++ [⟨k, .flip, .number w.cart, .drive d, .drive d, none, .fetch, none, .volumeWait,
                  .waiting⟩]
                counter := t.arm.counter }
              planner := { u.planner with plans := u.planner.plans
                ++ [⟨d, .fetch, .flip, .number w.cart, w.side, some w.volume, none, some k, false⟩] } }
            (¬ free → t = seen)
            ∧ (free → (∀ n, ¬ held n) →
              ((∃ o ∈ s.arm.orders, o.source = .drive d ∨ o.dest = .drive d) ∨ 16 ≤ s.arm.orders.length → t = seen)
              ∧ ((∀ o ∈ s.arm.orders, o.source ≠ .drive d ∧ o.dest ≠ .drive d) → s.arm.orders.length < 16 → flips seen))
            ∧ (free → ∀ n, held n →
              ((∃ o ∈ s.arm.orders, o.number ≠ n ∧ (o.source = .drive d ∨ o.dest = .drive d)) → t = seen)
              ∧ ((∀ o ∈ s.arm.orders, o.number = n ∨ (o.source ≠ .drive d ∧ o.dest ≠ .drive d)) →
                (tryWithdraw n seen).arm.orders.length < 16 → flips (tryWithdraw n seen))))
          ∧ (c.location = .shelf →
            (c.exportPending = true ∨ s.arm.level = .halted → t = seen)
            ∧ (c.exportPending = false → s.arm.level ≠ .halted → ∀ h, c.home = some h →
              ((∀ d, ¬ s.canTake true d) → (∀ d, ¬ s.canYield d) → t = seen)
              ∧ broughtBy seen t (fetchWant w) h true fun p u => riding p.drive u))))

/-- What a planning pass does for the filing request and for the inspection request (R90 to R92). Filing: with its
side up in a drive that no plan names, the orders still WAITING from the drive are withdrawn and the Filing Writer is
told once the drive is READY, ACTIVE or STANDBY; with the other side up the drive is claimed, and flipped once its
queue has drained and its pin is clear; on the shelf an empty drive, a victim, or else a claimed drive is planned for.
A plan that has moved is reported, one whose move is to come stands, and a claim is examined again. A halted arm
refuses the request (R93, R121). Import: an empty drive or a victim is planned for and the inspection is CARRYING.
That a drive held by an inspection is not reported, that a FAULTED or RESETTING drive's claim waits, that a claim
withdraws the orders still WAITING, and that a plan whose side is not up is planned anew, is the model's reading
(notes/assumptions/40.md, notes/assumptions/14.md, notes/assumptions/41.md), as it is which order number is free
(notes/assumptions/44.md); that a claimed drive found EMPTY gets the MOUNT alone is its choice
(notes/assumptions/67.md). A claim, and a plan that has moved, stay when a drive reset finds the cartridge gone (R94);
that they stay however the cartridge became MISSING, and that a claim is given up once the cartridge is on the arm, in
the loading slot, EXPORTED or in another drive, is the model's choice (notes/assumptions/85.md). -/
def Obligations.PlanningOfRequests : Prop :=
  (∀ (s : State) (n : Nat) (x : Side) (c : Cartridge), s.planner.filingReq = some (n, x) → s.cart? n = some c →
    let t := planFiling s
    let refused : State := runFailure .libraryHalted { s with planner := { s.planner with filingReq := none } }
    let others (u : State) : List Plan := u.planner.plans.filter fun p => p.purpose ≠ .filing
    let withdrawn (d : DriveId) : State :=
      withdrawAll ((s.arm.orders.filter fun o => o.source = .drive d ∧ o.status = .waiting).map (·.number)) s
    let told (d : DriveId) (u : State) : State :=
      sideReported d { u with planner := { u.planner with plans := others u, filingReq := none } }
    let up (d : DriveId) : Prop :=
      ((s.drive d).state = .ready ∨ (s.drive d).state = .standby ∨ (s.drive d).state = .active)
        ∧ ∀ i ∈ s.library.inspections, i.place ≠ .drive d
    let drained (d : DriveId) : Prop := (s.drive d).queue = [] ∧ (s.drive d).fetchUnit = false ∧ (s.drive d).pin = false
      ∧ (s.drive d).state ≠ .faulted ∧ (s.drive d).state ≠ .resetting ∧ ∀ i ∈ s.library.inspections, i.place ≠ .drive d
    let with_ (u : State) (os : List MoveOrder) (p : Plan) : State := { u with
      arm := { u.arm with orders := u.arm.orders ++ os, counter := t.arm.counter }
      planner := { u.planner with plans := (u.planner.plans.filter fun q => q.drive ≠ p.drive) ++ [p] } }
    let claimed (d : DriveId) (u : State) : State :=
      with_ u [] ⟨d, .filing, .claim, .number n, x, none, none, none, false⟩
    let flips (d : DriveId) (u : State) : Prop := ∃ k, u.unused k ∧ t = with_ u
      [⟨k, .flip, .number n, .drive d, .drive d, none, .filing, none, .filingRun, .waiting⟩]
      ⟨d, .filing, .flip, .number n, x, none, none, some k, false⟩
    let mount (k : Nat) (h : Nat) (d : DriveId) (after : Option Nat) : MoveOrder :=
      ⟨k, .mount, .number n, .shelf h, .drive d, some x, .filing, after, .filingRun, .waiting⟩
    let swaps (d : DriveId) : Prop := ∀ m hm h, (s.drive d).cart = some m → s.homeOf m = some hm → c.home = some h →
      ∃ j k, j ≠ k ∧ s.unused j ∧ s.unused k ∧ t = with_ s
        [⟨j, .demount, m, .drive d, .shelf hm, none, .filing, none, .filingRun, .waiting⟩, mount k h d (some j)]
        ⟨d, .filing, .victim, .number n, x, none, some j, some k, false⟩
    ((∀ p ∈ s.planner.plans, p.purpose ≠ .filing) →
      (∀ d, c.location = .drive d →
        ((∃ p ∈ s.planner.plans, p.drive = d) → t = s)
        ∧ ((∀ p ∈ s.planner.plans, p.drive ≠ d) → c.sideUp = some x →
          (s.arm.level = .halted → s.run.chosen ≠ none → t = refused)
          ∧ (s.arm.level ≠ .halted ∨ s.run.chosen = none →
            (up d → t = told d (withdrawn d)) ∧ (¬ up d → t = withdrawn d)))
        ∧ ((∀ p ∈ s.planner.plans, p.drive ≠ d) → c.sideUp ≠ some x →
          (s.arm.level = .halted → t = refused)
          ∧ (s.arm.level ≠ .halted →
            let blocked : Prop := (∃ i ∈ s.library.inspections, i.place = .drive d)
              ∨ ∃ o ∈ s.arm.orders, o.source = .drive d ∧ o.status ≠ .waiting
            (blocked → t = s)
            ∧ (¬ blocked → ¬ drained d ∨ 16 ≤ (withdrawn d).arm.orders.length → t = claimed d (withdrawn d))
            ∧ (¬ blocked → drained d → (withdrawn d).arm.orders.length < 16 → flips d (withdrawn d)))))
      ∧ (c.location = .shelf →
        (s.arm.level = .halted → t = refused)
        ∧ (s.arm.level ≠ .halted →
          (∀ h, c.home = some h → broughtBy s t (filingWant n x) h false fun _ u => u)
          ∧ ((∀ d, ¬ s.canTake false d) → (∀ d, ¬ s.canYield d) →
            ((∀ d, ¬ s.canClaim d) → t = s)
            ∧ ∀ d, s.leastRecent s.canClaim d →
              (¬ drained d ∨ 15 ≤ s.arm.orders.length → t = claimed d s)
              ∧ (drained d → s.arm.orders.length < 15 → swaps d))))
      ∧ (c.location ≠ .shelf → (∀ d, c.location ≠ .drive d) →
        (s.arm.level = .halted → t = refused) ∧ (s.arm.level ≠ .halted → t = s)))
    ∧ ∀ before p after, s.planner.plans = before ++ p :: after → p.purpose = .filing →
      (∀ q ∈ before, q.purpose ≠ .filing) →
      (p.kind ≠ .claim → p.moved = false → t = s)
      ∧ (p.kind ≠ .claim → p.moved = true →
        (c.location = .drive p.drive → c.sideUp = some x →
          (up p.drive → t = told p.drive s) ∧ (¬ up p.drive → t = s))
        ∧ (c.location = .missing → t = s)
        ∧ (c.location ≠ .missing → c.location ≠ .drive p.drive ∨ c.sideUp ≠ some x →
          t = planFiling { s with planner := { s.planner with plans := others s } }))
      ∧ (p.kind = .claim →
        (c.location = .drive p.drive → c.sideUp = some x →
          (up p.drive → t = told p.drive s) ∧ (¬ up p.drive → t = s))
        ∧ (c.location = .drive p.drive → c.sideUp ≠ some x →
          (¬ drained p.drive ∨ 16 ≤ s.arm.orders.length ∨ s.arm.level = .halted → t = s)
          ∧ (drained p.drive → s.arm.orders.length < 16 → s.arm.level ≠ .halted → flips p.drive s))
        ∧ (c.location = .missing → t = s)
        ∧ (c.location = .arm ∨ c.location = .loadingSlot ∨ c.location = .exported
            ∨ (∃ d, d ≠ p.drive ∧ c.location = .drive d) →
          t = { s with planner := { s.planner with plans := others s } })
        ∧ (c.location = .shelf → s.arm.level ≠ .halted →
          ((s.drive p.drive).state ≠ .empty → ¬ drained p.drive ∨ 15 ≤ s.arm.orders.length → t = s)
          ∧ ((s.drive p.drive).state ≠ .empty → drained p.drive → s.arm.orders.length < 15 → swaps p.drive)
          ∧ ((s.drive p.drive).state = .empty → 16 ≤ s.arm.orders.length → t = s)
          ∧ ∀ h, (s.drive p.drive).state = .empty → s.arm.orders.length < 16 → c.home = some h → ∃ k, s.unused k
            ∧ t = with_ s [mount k h p.drive none]
              ⟨p.drive, .filing, .mount, .number n, x, none, none, some k, false⟩)))
    ∧ (∀ s : State, s.planner.filingReq = none → planFiling s = s)
    ∧ ∀ s : State,
      let t := planInspection s
      (s.planner.inspReq = none → t = s)
      ∧ ∀ id, s.planner.inspReq = some id →
        (s.arm.level = .halted ∨ (∃ p ∈ s.planner.plans, p.purpose = .importJob) → t = s)
        ∧ (s.arm.level ≠ .halted → (∀ p ∈ s.planner.plans, p.purpose ≠ .importJob) →
          ((∀ d, ¬ s.canTake true d) → (∀ d, ¬ s.canYield d) → t = s)
          ∧ broughtBy s t ⟨.importJob, .lib, .importJob, .inspection id, .a, none⟩ 0 true fun p u =>
              { u with library := { u.library with inspections := u.library.inspections.map fun i =>
                if i.id = id then { i with phase := .carrying, order := p.move } else i } })

/-- What a Drive Unit does between commands (R68, R69, R71). A READY drive with no unit starts the unit of the
inspection that holds it; else the first fetch order of its queue that can take a unit now, or the step that the
Filing Writer offers, and of the two, on the pinned drive with the share turn at FETCH, the fetch, and filing
otherwise. The unit's order leaves the queue, the drive is ACTIVE with the unit's first command in flight, and its
idle timer stops. With no work the idle timer starts, and with a delay of 0 the drive goes to STANDBY; work in STANDBY
withdraws a pending hold order and wakes the drive, its SPIN_UP issued at once or after the SPIN_DOWN in flight. Of
several free buffers the lowest is taken, which is the model's choice (notes/assumptions/2.md); that a kept hold
request is judged again is its reading (notes/assumptions/40.md). -/
def Obligations.Selection : Prop :=
  ∀ (s : State) (d : DriveId),
    let x := s.drive d
    let act := driveAct s d
    let busy (w : UnitWork) (cmd : DriveCmd) (owner : Owner) : Drive :=
      { x with
        state := .active, idle := none, lastActive := s.seconds, unit := some ⟨w, false⟩
        command := some ⟨cmd, owner, s.seconds⟩ }
    let able (id : FetchId) : Prop := ∃ o, s.order? id = some o
      ∧ (o.lengths = none ∨ (o.staged = none ∧ o.next ≤ o.lastPage ∧ none ∈ s.fetch.buffers.toList))
    let library (i : Inspection) : Prop :=
      s.heldBy d = some i ∧ (i.phase = .reading ∨ i.phase = .labelFirst ∨ i.phase = .labelSecond)
    let fetchTurn : Prop := x.pin = true ∧ x.share = .fetch
    (filingStep s d ≠ none → s.run.engaged = some d ∨ ∃ j, s.run.label = some j ∧ j.drive = d)
      ∧ (x.state ≠ .ready → x.state ≠ .standby → act = none)
      ∧ (x.state = .ready → x.unit ≠ none ∨ x.command ≠ none → act = none)
      ∧ (x.state = .ready → x.unit = none → x.command = none →
        (∀ i, library i →
          let label := cartridgeLabel (i.taken.getD 0) (if i.phase = .labelSecond then .b else .a)
          act = some (s.updDrive d fun _ => if i.phase = .reading then busy (.labelRead i.id 0) (.read 0 1) .libraryMap
            else busy (.labelWrite i.id label) (.write 0 label) .libraryMap))
        ∧ ((∀ i, ¬ library i) →
          (∀ before id after o, x.queue = before ++ id :: after → (∀ j ∈ before, ¬ able j) → able id →
            s.order? id = some o → filingStep s d = none ∨ fetchTurn →
            let left := x.queue.filter fun j => j ≠ id
            (∀ e k, o.lengths = none → mapSector o.extents o.trailer = some (e, k) → act = some (s.updDrive d fun _ =>
              { busy (.trailerRead id k 0) (.read k 1) .fetchEngine with queue := left }))
            ∧ ∀ p ps b, o.lengths ≠ none → pageSectorList o o.next = p :: ps → s.freeBuffer = some b →
              ∃ t m, act = some t ∧ 1 ≤ m ∧ (∀ q ∈ (p :: ps).take m, q.extent = p.extent)
                ∧ (∀ q, (p :: ps)[m]? = some q → q.extent ≠ p.extent)
                ∧ t.drive d = { busy (.pageRead id b (p :: ps) 0 m) (.read p.phys m) .fetchEngine with queue := left }
                ∧ t.order? id = some { o with reading := some b } ∧ t.bufferBytes b = []
                ∧ ∀ e, e ≠ d → t.drive e = s.drive e)
          ∧ ((∀ id ∈ x.queue, ¬ able id) ∨ ¬ fetchTurn →
            (∀ n y, filingStep s d = some .probe → s.openSide = some (n, y) →
              act = some (s.updDrive d fun _ => busy (.probe n y) (.blankCheck s.frontier) .filingWriter))
            ∧ (∀ kind n y r i b left, filingStep s d = some (.write kind) → s.openSide = some (n, y) →
              s.side? n y = some r → r.state = .opened → 32 ≤ r.frontier → r.frontier < 300000 →
              s.run.current = some i → passSectors s i kind = b :: left →
              act = some ((State.updRun s fun u => { u with current := some { i with start := r.frontier } }).updDrive d
                fun _ => busy (.writePass kind n y left) (.write r.frontier b) .filingWriter))
            ∧ (∀ kind i, filingStep s d = some (.verify kind) → s.run.current = some i →
              let sectors := passSectors s i kind
              act = some (s.updDrive d fun _ =>
                busy (.verifyPass kind) (.verify i.start sectors.length sectors.flatten) .filingWriter))
            ∧ (∀ n y j, filingStep s d = some .labelWrite → s.run.chosen = some (n, y) → s.run.label = some j →
              act = some ((State.updRun s fun u => { u with label := some { j with issued := true } }).updDrive d fun _ =>
                busy (.volumeLabelWrite n y j.volume) (.write 1 (volumeLabel j.volume n y)) .filingWriter))
            ∧ ∀ n y j, filingStep s d = some .labelVerify → s.run.chosen = some (n, y) → s.run.label = some j →
              act = some (s.updDrive d fun _ =>
                busy (.volumeLabelVerify n y j.volume) (.verify 1 1 (volumeLabel j.volume n y)) .filingWriter))
          ∧ (filingStep s d = none → (∀ id ∈ x.queue, ¬ able id) →
            (x.queue ≠ [] → act = if x.idle = none then none else some (s.updDrive d fun x => { x with idle := none }))
            ∧ (x.queue = [] → s.timers.idleDelay = 0 → act = some (s.updDrive d fun x =>
                { x with
                  state := .standby, idle := none, hold := if s.timers.holdLimit = 0 then none else some s.seconds
                  command := some ⟨.spinDown, .driveUnit, s.seconds⟩ }))
            ∧ (x.queue = [] → s.timers.idleDelay ≠ 0 →
              act = if x.idle = none then some (s.updDrive d fun x => { x with idle := some s.seconds }) else none))))
      ∧ (x.state = .standby →
        let work : Prop := x.queue ≠ [] ∨ x.unit ≠ none ∨ filingStep s d ≠ none ∨ ∃ i, library i
        let freed : State := match x.pendingHold with
          | some n => tryWithdraw n s
          | none => s
        (work → act = some (freed.updDrive d fun x =>
            { x with
              state := .waking, hold := none, idle := none, holdKept := false
              command := if x.command = none then some ⟨.spinUp, .driveUnit, s.seconds⟩ else x.command }))
        ∧ (¬ work → act = if x.holdKept = true ∧ s.arm.orders.length < 16 then some (askHold d s) else none))

/-- The begin of a delivery and the stall timers (R115, R136, R138). The oldest staged page whose station has credit
and whose order delivers no page takes one credit, is the order's page in delivery and joins the station's send list,
its order's stall timer stopped. An order's stall timer starts, from now, when it holds a staged page and its station
has no credit, and stops when either ceases. So at rest no such page is left, and a stall timer runs exactly for the
orders that are stalled. The filing run's stall timer starts, its notice-sent mark clear, as the run enters
WAITING_PAGE, and stops as it leaves. -/
def Obligations.DeliveryAndStallTimers : Prop :=
  (∀ s : State,
    let begins (id : FetchId) : Prop := ∃ o, s.order? id = some o ∧ o.staged ≠ none ∧ o.delivery = none
      ∧ 0 < (s.link id.station).credit
    let stalls (o : FetchOrder) : Prop := o.staged ≠ none ∧ (s.link o.id.station).credit = 0
    (∀ before id after o k b, s.fetch.stagedOrder = before ++ id :: after → (∀ j ∈ before, ¬ begins j) →
        begins id → s.order? id = some o → o.staged = some (k, b) →
        nextAct s = some (State.updLink
          { s with fetch := { s.fetch with
              orders := s.fetch.orders.map fun q =>
                if q.id = id then { q with staged := none, delivery := some ⟨k, b, 0⟩, stall := none } else q
              stagedOrder := s.fetch.stagedOrder.filter fun j => j ≠ id } }
          id.station fun l => { l with credit := l.credit - 1, sendList := l.sendList ++ [id] }))
      ∧ (∀ before o after, (∀ j ∈ s.fetch.stagedOrder, ¬ begins j) → s.fetch.orders = before ++ o :: after →
        (∀ q ∈ before, q.stall ≠ none ↔ stalls q) → ¬ (o.stall ≠ none ↔ stalls o) →
        ∃ stall, nextAct s = some { s with fetch := { s.fetch with orders := s.fetch.orders.map fun q =>
            if q.id = o.id then { q with stall := stall } else q } }
          ∧ (stalls o → stall = some s.seconds) ∧ (¬ stalls o → stall = none))
      ∧ (s.rests → (∀ j ∈ s.fetch.stagedOrder, ¬ begins j) ∧ ∀ o ∈ s.fetch.orders, o.stall ≠ none ↔ stalls o))
    ∧ ∀ (s : State) (d : DriveId), s.run.engaged = some d → s.run.failure = none → s.run.chosen = none →
      s.run.probing = none → (∀ u, (s.drive d).unit = some u → u.work.isFiling = true → u.ended = true) →
      (s.run.state = .running → (∀ p, s.run.ring.head? = some p → p.complete = false) → filingAct s
        = some { s with run := { s.run with state := .waitingPage, stall := some s.seconds, stallSent := false } })
      ∧ (s.run.state = .waitingPage → (∀ p, s.run.ring.head? = some p → p.complete = false) → filingAct s = none)
      ∧ ∀ p, s.run.state = .waitingPage → s.run.ring.head? = some p → p.complete = true →
        filingAct s = some { s with run := { s.run with state := .running, stall := none } }

/-- The Library Map's own acts (R28, R30 to R34, R37, R38, R41): of the inspections that can go on now the first of
the list, else the exports. An inspection in LOADING reads its label once its drive is up, and one whose FLIP is done
writes the second label. The orders it asks for, where one is due and, after a drive fault, once the drive is up: the
FLIP of its drive, the INSPECT_SHELVE to the cartridge's home slot, the RETURN to the loading slot. Of the exports the
first that has no order yet, and that no other order concerns, is asked for, from its home slot or its drive to the
loading slot. With 16 orders in the list a request waits; a halted arm refuses an inspection's, and no export is asked
for. That an export's order waits until no other order concerns its cartridge is the model's reading
(notes/assumptions/13.md), as are side B after the FLIP and which order number is free (notes/assumptions/42.md,
notes/assumptions/44.md). -/
def Obligations.LibraryMapActs : Prop :=
  ∀ s : State,
    let room : Prop := s.arm.orders.length < 16
    let listed (k counter : Nat) (kind : MoveKind) (cart : CartRef) (source dest : ArmPlace) (by_ : Originator) : Arm :=
      { s.arm with
        orders := s.arm.orders ++ [⟨k, kind, cart, source, dest, none, .lib, none, by_, .waiting⟩], counter := counter }
    (∀ before i after t, s.library.inspections = before ++ i :: after → (∀ j ∈ before, inspectionAct s j = none) →
        inspectionAct s i = some t → libraryAct s = some t)
      ∧ ((∀ i ∈ s.library.inspections, inspectionAct s i = none) → libraryAct s = exportAct s)
      ∧ (∀ i : Inspection,
        let act := inspectionAct s i
        let with_ (f : Inspection → Inspection) : Library := { s.library with
          inspections := s.library.inspections.map fun e => if e.id = i.id then f e else e }
        let source : ArmPlace := match i.place with
          | .drive d => .drive d
          | .arm => .arm
          | .loadingSlot => .loadingSlot
        let asks (kind : MoveKind) (cart : CartRef) (dest : ArmPlace) (by_ : Originator) : Prop :=
          (¬ room → act = none)
            ∧ (room → s.arm.level = .halted →
              act = some { s with library := with_ fun e => { e with orderDue := false } })
            ∧ (room → s.arm.level ≠ .halted → ∃ k counter, s.unused k ∧ act = some { s with
              arm := listed k counter kind cart source dest by_
              library := with_ fun e => { e with order := some k, orderDue := false, awaitReady := false } })
        let returns : Prop := (i.phase = .rejecting → asks .returnMove (.inspection i.id) .loadingSlot .importJob)
          ∧ (i.phase = .returning → asks .returnMove (.inspection i.id) .loadingSlot .startUp)
        (i.place = .loadingSlot → act = none)
        ∧ (i.place = .arm → (i.orderDue = false → act = none) ∧ (i.orderDue = true → returns))
        ∧ ∀ d, i.place = .drive d →
          let x := s.drive d
          let up : Prop := x.state = .ready ∨ x.state = .standby ∨ x.state = .active
          (i.phase = .loading →
            (up → act = some { s with library := with_ fun e => { e with phase := .reading } }) ∧ (¬ up → act = none))
          ∧ (i.phase = .flipping → i.orderDue = false →
            (i.order = none → x.sideUp = some .b → up →
              act = some { s with library := with_ fun e => { e with phase := .labelSecond } })
            ∧ (i.order ≠ none ∨ x.sideUp ≠ some .b ∨ ¬ up → act = none))
          ∧ (i.phase = .waitingSlot ∨ i.phase = .waitingDrive ∨ i.phase = .carrying ∨ i.phase = .reading
              ∨ i.phase = .labelFirst ∨ i.phase = .labelSecond → act = none)
          ∧ (i.phase = .shelving ∨ i.phase = .rejecting ∨ i.phase = .returning → i.orderDue = false → act = none)
          ∧ (i.phase ≠ .loading → i.orderDue = true → i.awaitReady = true → ¬ up → act = none)
          ∧ (i.orderDue = true → (i.awaitReady = true → up) →
            returns ∧ (i.phase = .flipping → asks .flip (.inspection i.id) source .importJob)
            ∧ ∀ n c, i.phase = .shelving → i.cartNumber = some n → s.cart? n = some c →
              (c.home = none → act = none) ∧ ∀ h, c.home = some h → asks .inspectShelve (.number n) (.shelf h) .importJob))
      ∧ (¬ room ∨ s.arm.level = .halted → exportAct s = none)
      ∧ (room → s.arm.level ≠ .halted →
        let able (e : ExportEntry) (p : ArmPlace) : Prop := e.order = none
          ∧ (∀ o ∈ s.arm.orders, o.cart ≠ .number e.cart) ∧ ∃ c, s.cart? e.cart = some c
          ∧ ((c.location = .shelf ∧ ∃ h, c.home = some h ∧ p = .shelf h) ∨ ∃ d, c.location = .drive d ∧ p = .drive d)
        ((∀ e ∈ s.library.exports, ∀ p, ¬ able e p) → exportAct s = none)
        ∧ ∀ before e after p, s.library.exports = before ++ e :: after → (∀ x ∈ before, ∀ q, ¬ able x q) → able e p →
          ∃ k counter, s.unused k ∧ exportAct s = some { s with
            arm := listed k counter .exportMove (.number e.cart) p .loadingSlot .exportJob
            library := { s.library with exports := s.library.exports.map fun x =>
              if x.cart = e.cart then { x with order := some k } else x } })

/-! ### Laws that every step keeps -/

/-- The catalogue keeps its form: numbers strictly ascending, at most 65,536 entries, at most one FILING (R1), and in
each entry the counts of R2 and R3: at most 4 extents of at most 4,096 sectors, 1,000 pages and 3,840 content sectors,
and by the entry's state the trailer and the sum of the extents. It says nothing of the ranges of number, volume, fee
class, date and extent starts, nor that extents ascend without overlap. A COMMITTED entry never changes and never
leaves (R12), but at a POWER_ON_RESET that initialises registry memory. -/
def Obligations.CatalogueLaw : Prop :=
  ∀ s t : State, CatalogueOk s.catalogue → step s = .next t →
    CatalogueOk t.catalogue
      ∧ ((∃ lost rest, s.pending = .powerOnReset lost :: rest ∧ (lost = true ∨ s.signature = false) ∧ t.catalogue = [])
        ∨ ∀ e ∈ s.catalogue, e.state = .committed → e ∈ t.catalogue)

/-- At every moment some station's profile includes SUPERVISE: a step from a state in which one does leads to a state in
which one does (R182). -/
def Obligations.SupervisorLaw : Prop :=
  ∀ s t : State, supervised s → step s = .next t → supervised t

/-- The timer settings, the blank low mark, the group priorities, the fee schedule with its discounts, the registry
date and the levels of the notice sources stay in their ranges (R26, R46, R148, R149, R165, R188, R192). -/
def Obligations.SettingsLaw : Prop :=
  ∀ s t : State, SettingsOk s → step s = .next t → SettingsOk t

/-! ### The receiver (chapter 9) -/

/-- The receiver of a link, hunting, with the receivers on (R176): bytes other than the start byte are discarded;
after them a whole frame of up to 4,100 body bytes joins the queue as the command of its row, with other CRC bytes as
MALFORMED_CRC, and a body length above 4,100 as MALFORMED_LENGTH with its last length byte; after each the receiver
hunts again and nothing else has changed. That a frame's command joins the queue at once, and that a gap is said from
outside, is the model's choice (notes/assumptions/8.md). A gap of 1 s within a frame is FRAME_TIMEOUT, and hunting it
is nothing. Before the receivers are on nothing is received (R191). -/
def Obligations.ReceiverOfFrames : Prop :=
  ∀ (s : State) (st : Station) (noise : List Byte),
    (s.reconciled = false → ∀ bytes, s.takeBytes st bytes = s)
      ∧ (s.reconciled = true → (s.link st).receiver = .hunting → (∀ b ∈ noise, b ≠ 0xC9) →
        let queued (c : Instr) : State := { s with pending := s.pending ++ [c] }
        s.takeBytes st noise = s ∧ s.byteGap st = s
          ∧ (∀ kind tag body, body.length ≤ 4100 →
            s.takeBytes st (noise ++ wireFrame kind tag body) = queued (frameCommand st kind tag body)
              ∧ ∀ a b : Byte, [a, b] ≠ beBytes 2 (crc16 (kind :: tag :: beBytes 2 body.length ++ body)).toNat →
                s.takeBytes st (noise ++ 0xC9 :: kind :: tag :: beBytes 2 body.length ++ body ++ [a, b])
                  = queued (.malformedCrc st))
          ∧ (∀ kind tag hi lo : Byte, 4100 < hi.toNat * 256 + lo.toNat →
            s.takeBytes st (noise ++ [0xC9, kind, tag, hi, lo]) = queued (.malformedLength st))
          ∧ ∀ kind tag body k, body.length ≤ 4100 → 1 ≤ k → k < (wireFrame kind tag body).length →
            (s.takeBytes st ((wireFrame kind tag body).take k)).byteGap st = queued (.frameTimeout st))
end

