-- ==== Sys2Proof/Laws/State.lean ====
section
/-! SUPPORT. The small lemmas of State's record updates: one field per update, each true by rfl, so that no later proof
unfolds an update; and reading back a link or a drive that has been set. -/

namespace Sys2Proof.Machine

open Sys2Proof

/-! ### updLibrary -/

@[simp] theorem State.updLibrary_pending (s : State) (f : Library → Library) : (s.updLibrary f).pending = s.pending := rfl
@[simp] theorem State.updLibrary_seconds (s : State) (f : Library → Library) : (s.updLibrary f).seconds = s.seconds := rfl
@[simp] theorem State.updLibrary_signature (s : State) (f : Library → Library) : (s.updLibrary f).signature = s.signature := rfl
@[simp] theorem State.updLibrary_initialised (s : State) (f : Library → Library) : (s.updLibrary f).initialised = s.initialised := rfl
@[simp] theorem State.updLibrary_reconciled (s : State) (f : Library → Library) : (s.updLibrary f).reconciled = s.reconciled := rfl
@[simp] theorem State.updLibrary_timers (s : State) (f : Library → Library) : (s.updLibrary f).timers = s.timers := rfl
@[simp] theorem State.updLibrary_catalogue (s : State) (f : Library → Library) : (s.updLibrary f).catalogue = s.catalogue := rfl
@[simp] theorem State.updLibrary_library (s : State) (f : Library → Library) : (s.updLibrary f).library = f s.library := rfl
@[simp] theorem State.updLibrary_arm (s : State) (f : Library → Library) : (s.updLibrary f).arm = s.arm := rfl
@[simp] theorem State.updLibrary_drives (s : State) (f : Library → Library) : (s.updLibrary f).drives = s.drives := rfl
@[simp] theorem State.updLibrary_planner (s : State) (f : Library → Library) : (s.updLibrary f).planner = s.planner := rfl
@[simp] theorem State.updLibrary_run (s : State) (f : Library → Library) : (s.updLibrary f).run = s.run := rfl
@[simp] theorem State.updLibrary_fetch (s : State) (f : Library → Library) : (s.updLibrary f).fetch = s.fetch := rfl
@[simp] theorem State.updLibrary_fee (s : State) (f : Library → Library) : (s.updLibrary f).fee = s.fee := rfl
@[simp] theorem State.updLibrary_links (s : State) (f : Library → Library) : (s.updLibrary f).links = s.links := rfl
@[simp] theorem State.updLibrary_notices (s : State) (f : Library → Library) : (s.updLibrary f).notices = s.notices := rfl

/-! ### updArm -/

@[simp] theorem State.updArm_pending (s : State) (f : Arm → Arm) : (s.updArm f).pending = s.pending := rfl
@[simp] theorem State.updArm_seconds (s : State) (f : Arm → Arm) : (s.updArm f).seconds = s.seconds := rfl
@[simp] theorem State.updArm_signature (s : State) (f : Arm → Arm) : (s.updArm f).signature = s.signature := rfl
@[simp] theorem State.updArm_initialised (s : State) (f : Arm → Arm) : (s.updArm f).initialised = s.initialised := rfl
@[simp] theorem State.updArm_reconciled (s : State) (f : Arm → Arm) : (s.updArm f).reconciled = s.reconciled := rfl
@[simp] theorem State.updArm_timers (s : State) (f : Arm → Arm) : (s.updArm f).timers = s.timers := rfl
@[simp] theorem State.updArm_catalogue (s : State) (f : Arm → Arm) : (s.updArm f).catalogue = s.catalogue := rfl
@[simp] theorem State.updArm_library (s : State) (f : Arm → Arm) : (s.updArm f).library = s.library := rfl
@[simp] theorem State.updArm_arm (s : State) (f : Arm → Arm) : (s.updArm f).arm = f s.arm := rfl
@[simp] theorem State.updArm_drives (s : State) (f : Arm → Arm) : (s.updArm f).drives = s.drives := rfl
@[simp] theorem State.updArm_planner (s : State) (f : Arm → Arm) : (s.updArm f).planner = s.planner := rfl
@[simp] theorem State.updArm_run (s : State) (f : Arm → Arm) : (s.updArm f).run = s.run := rfl
@[simp] theorem State.updArm_fetch (s : State) (f : Arm → Arm) : (s.updArm f).fetch = s.fetch := rfl
@[simp] theorem State.updArm_fee (s : State) (f : Arm → Arm) : (s.updArm f).fee = s.fee := rfl
@[simp] theorem State.updArm_links (s : State) (f : Arm → Arm) : (s.updArm f).links = s.links := rfl
@[simp] theorem State.updArm_notices (s : State) (f : Arm → Arm) : (s.updArm f).notices = s.notices := rfl

/-! ### updPlanner -/

@[simp] theorem State.updPlanner_pending (s : State) (f : Planner → Planner) : (s.updPlanner f).pending = s.pending := rfl
@[simp] theorem State.updPlanner_seconds (s : State) (f : Planner → Planner) : (s.updPlanner f).seconds = s.seconds := rfl
@[simp] theorem State.updPlanner_signature (s : State) (f : Planner → Planner) : (s.updPlanner f).signature = s.signature := rfl
@[simp] theorem State.updPlanner_initialised (s : State) (f : Planner → Planner) : (s.updPlanner f).initialised = s.initialised := rfl
@[simp] theorem State.updPlanner_reconciled (s : State) (f : Planner → Planner) : (s.updPlanner f).reconciled = s.reconciled := rfl
@[simp] theorem State.updPlanner_timers (s : State) (f : Planner → Planner) : (s.updPlanner f).timers = s.timers := rfl
@[simp] theorem State.updPlanner_catalogue (s : State) (f : Planner → Planner) : (s.updPlanner f).catalogue = s.catalogue := rfl
@[simp] theorem State.updPlanner_library (s : State) (f : Planner → Planner) : (s.updPlanner f).library = s.library := rfl
@[simp] theorem State.updPlanner_arm (s : State) (f : Planner → Planner) : (s.updPlanner f).arm = s.arm := rfl
@[simp] theorem State.updPlanner_drives (s : State) (f : Planner → Planner) : (s.updPlanner f).drives = s.drives := rfl
@[simp] theorem State.updPlanner_planner (s : State) (f : Planner → Planner) : (s.updPlanner f).planner = f s.planner := rfl
@[simp] theorem State.updPlanner_run (s : State) (f : Planner → Planner) : (s.updPlanner f).run = s.run := rfl
@[simp] theorem State.updPlanner_fetch (s : State) (f : Planner → Planner) : (s.updPlanner f).fetch = s.fetch := rfl
@[simp] theorem State.updPlanner_fee (s : State) (f : Planner → Planner) : (s.updPlanner f).fee = s.fee := rfl
@[simp] theorem State.updPlanner_links (s : State) (f : Planner → Planner) : (s.updPlanner f).links = s.links := rfl
@[simp] theorem State.updPlanner_notices (s : State) (f : Planner → Planner) : (s.updPlanner f).notices = s.notices := rfl

/-! ### updRun -/

@[simp] theorem State.updRun_pending (s : State) (f : Run → Run) : (s.updRun f).pending = s.pending := rfl
@[simp] theorem State.updRun_seconds (s : State) (f : Run → Run) : (s.updRun f).seconds = s.seconds := rfl
@[simp] theorem State.updRun_signature (s : State) (f : Run → Run) : (s.updRun f).signature = s.signature := rfl
@[simp] theorem State.updRun_initialised (s : State) (f : Run → Run) : (s.updRun f).initialised = s.initialised := rfl
@[simp] theorem State.updRun_reconciled (s : State) (f : Run → Run) : (s.updRun f).reconciled = s.reconciled := rfl
@[simp] theorem State.updRun_timers (s : State) (f : Run → Run) : (s.updRun f).timers = s.timers := rfl
@[simp] theorem State.updRun_catalogue (s : State) (f : Run → Run) : (s.updRun f).catalogue = s.catalogue := rfl
@[simp] theorem State.updRun_library (s : State) (f : Run → Run) : (s.updRun f).library = s.library := rfl
@[simp] theorem State.updRun_arm (s : State) (f : Run → Run) : (s.updRun f).arm = s.arm := rfl
@[simp] theorem State.updRun_drives (s : State) (f : Run → Run) : (s.updRun f).drives = s.drives := rfl
@[simp] theorem State.updRun_planner (s : State) (f : Run → Run) : (s.updRun f).planner = s.planner := rfl
@[simp] theorem State.updRun_run (s : State) (f : Run → Run) : (s.updRun f).run = f s.run := rfl
@[simp] theorem State.updRun_fetch (s : State) (f : Run → Run) : (s.updRun f).fetch = s.fetch := rfl
@[simp] theorem State.updRun_fee (s : State) (f : Run → Run) : (s.updRun f).fee = s.fee := rfl
@[simp] theorem State.updRun_links (s : State) (f : Run → Run) : (s.updRun f).links = s.links := rfl
@[simp] theorem State.updRun_notices (s : State) (f : Run → Run) : (s.updRun f).notices = s.notices := rfl

/-! ### updFetch -/

@[simp] theorem State.updFetch_pending (s : State) (f : FetchEngine → FetchEngine) : (s.updFetch f).pending = s.pending := rfl
@[simp] theorem State.updFetch_seconds (s : State) (f : FetchEngine → FetchEngine) : (s.updFetch f).seconds = s.seconds := rfl
@[simp] theorem State.updFetch_signature (s : State) (f : FetchEngine → FetchEngine) : (s.updFetch f).signature = s.signature := rfl
@[simp] theorem State.updFetch_initialised (s : State) (f : FetchEngine → FetchEngine) : (s.updFetch f).initialised = s.initialised := rfl
@[simp] theorem State.updFetch_reconciled (s : State) (f : FetchEngine → FetchEngine) : (s.updFetch f).reconciled = s.reconciled := rfl
@[simp] theorem State.updFetch_timers (s : State) (f : FetchEngine → FetchEngine) : (s.updFetch f).timers = s.timers := rfl
@[simp] theorem State.updFetch_catalogue (s : State) (f : FetchEngine → FetchEngine) : (s.updFetch f).catalogue = s.catalogue := rfl
@[simp] theorem State.updFetch_library (s : State) (f : FetchEngine → FetchEngine) : (s.updFetch f).library = s.library := rfl
@[simp] theorem State.updFetch_arm (s : State) (f : FetchEngine → FetchEngine) : (s.updFetch f).arm = s.arm := rfl
@[simp] theorem State.updFetch_drives (s : State) (f : FetchEngine → FetchEngine) : (s.updFetch f).drives = s.drives := rfl
@[simp] theorem State.updFetch_planner (s : State) (f : FetchEngine → FetchEngine) : (s.updFetch f).planner = s.planner := rfl
@[simp] theorem State.updFetch_run (s : State) (f : FetchEngine → FetchEngine) : (s.updFetch f).run = s.run := rfl
@[simp] theorem State.updFetch_fetch (s : State) (f : FetchEngine → FetchEngine) : (s.updFetch f).fetch = f s.fetch := rfl
@[simp] theorem State.updFetch_fee (s : State) (f : FetchEngine → FetchEngine) : (s.updFetch f).fee = s.fee := rfl
@[simp] theorem State.updFetch_links (s : State) (f : FetchEngine → FetchEngine) : (s.updFetch f).links = s.links := rfl
@[simp] theorem State.updFetch_notices (s : State) (f : FetchEngine → FetchEngine) : (s.updFetch f).notices = s.notices := rfl

/-! ### updFee -/

@[simp] theorem State.updFee_pending (s : State) (f : FeeUnit → FeeUnit) : (s.updFee f).pending = s.pending := rfl
@[simp] theorem State.updFee_seconds (s : State) (f : FeeUnit → FeeUnit) : (s.updFee f).seconds = s.seconds := rfl
@[simp] theorem State.updFee_signature (s : State) (f : FeeUnit → FeeUnit) : (s.updFee f).signature = s.signature := rfl
@[simp] theorem State.updFee_initialised (s : State) (f : FeeUnit → FeeUnit) : (s.updFee f).initialised = s.initialised := rfl
@[simp] theorem State.updFee_reconciled (s : State) (f : FeeUnit → FeeUnit) : (s.updFee f).reconciled = s.reconciled := rfl
@[simp] theorem State.updFee_timers (s : State) (f : FeeUnit → FeeUnit) : (s.updFee f).timers = s.timers := rfl
@[simp] theorem State.updFee_catalogue (s : State) (f : FeeUnit → FeeUnit) : (s.updFee f).catalogue = s.catalogue := rfl
@[simp] theorem State.updFee_library (s : State) (f : FeeUnit → FeeUnit) : (s.updFee f).library = s.library := rfl
@[simp] theorem State.updFee_arm (s : State) (f : FeeUnit → FeeUnit) : (s.updFee f).arm = s.arm := rfl
@[simp] theorem State.updFee_drives (s : State) (f : FeeUnit → FeeUnit) : (s.updFee f).drives = s.drives := rfl
@[simp] theorem State.updFee_planner (s : State) (f : FeeUnit → FeeUnit) : (s.updFee f).planner = s.planner := rfl
@[simp] theorem State.updFee_run (s : State) (f : FeeUnit → FeeUnit) : (s.updFee f).run = s.run := rfl
@[simp] theorem State.updFee_fetch (s : State) (f : FeeUnit → FeeUnit) : (s.updFee f).fetch = s.fetch := rfl
@[simp] theorem State.updFee_fee (s : State) (f : FeeUnit → FeeUnit) : (s.updFee f).fee = f s.fee := rfl
@[simp] theorem State.updFee_links (s : State) (f : FeeUnit → FeeUnit) : (s.updFee f).links = s.links := rfl
@[simp] theorem State.updFee_notices (s : State) (f : FeeUnit → FeeUnit) : (s.updFee f).notices = s.notices := rfl

/-! ### updLink -/

@[simp] theorem State.updLink_pending (s : State) (st : Station) (f : Link → Link) : (s.updLink st f).pending = s.pending := rfl
@[simp] theorem State.updLink_seconds (s : State) (st : Station) (f : Link → Link) : (s.updLink st f).seconds = s.seconds := rfl
@[simp] theorem State.updLink_signature (s : State) (st : Station) (f : Link → Link) : (s.updLink st f).signature = s.signature := rfl
@[simp] theorem State.updLink_initialised (s : State) (st : Station) (f : Link → Link) : (s.updLink st f).initialised = s.initialised := rfl
@[simp] theorem State.updLink_reconciled (s : State) (st : Station) (f : Link → Link) : (s.updLink st f).reconciled = s.reconciled := rfl
@[simp] theorem State.updLink_timers (s : State) (st : Station) (f : Link → Link) : (s.updLink st f).timers = s.timers := rfl
@[simp] theorem State.updLink_catalogue (s : State) (st : Station) (f : Link → Link) : (s.updLink st f).catalogue = s.catalogue := rfl
@[simp] theorem State.updLink_library (s : State) (st : Station) (f : Link → Link) : (s.updLink st f).library = s.library := rfl
@[simp] theorem State.updLink_arm (s : State) (st : Station) (f : Link → Link) : (s.updLink st f).arm = s.arm := rfl
@[simp] theorem State.updLink_drives (s : State) (st : Station) (f : Link → Link) : (s.updLink st f).drives = s.drives := rfl
@[simp] theorem State.updLink_planner (s : State) (st : Station) (f : Link → Link) : (s.updLink st f).planner = s.planner := rfl
@[simp] theorem State.updLink_run (s : State) (st : Station) (f : Link → Link) : (s.updLink st f).run = s.run := rfl
@[simp] theorem State.updLink_fetch (s : State) (st : Station) (f : Link → Link) : (s.updLink st f).fetch = s.fetch := rfl
@[simp] theorem State.updLink_fee (s : State) (st : Station) (f : Link → Link) : (s.updLink st f).fee = s.fee := rfl
@[simp] theorem State.updLink_notices (s : State) (st : Station) (f : Link → Link) : (s.updLink st f).notices = s.notices := rfl

/-! ### updDrive -/

@[simp] theorem State.updDrive_pending (s : State) (d : DriveId) (f : Drive → Drive) : (s.updDrive d f).pending = s.pending := rfl
@[simp] theorem State.updDrive_seconds (s : State) (d : DriveId) (f : Drive → Drive) : (s.updDrive d f).seconds = s.seconds := rfl
@[simp] theorem State.updDrive_signature (s : State) (d : DriveId) (f : Drive → Drive) : (s.updDrive d f).signature = s.signature := rfl
@[simp] theorem State.updDrive_initialised (s : State) (d : DriveId) (f : Drive → Drive) : (s.updDrive d f).initialised = s.initialised := rfl
@[simp] theorem State.updDrive_reconciled (s : State) (d : DriveId) (f : Drive → Drive) : (s.updDrive d f).reconciled = s.reconciled := rfl
@[simp] theorem State.updDrive_timers (s : State) (d : DriveId) (f : Drive → Drive) : (s.updDrive d f).timers = s.timers := rfl
@[simp] theorem State.updDrive_catalogue (s : State) (d : DriveId) (f : Drive → Drive) : (s.updDrive d f).catalogue = s.catalogue := rfl
@[simp] theorem State.updDrive_library (s : State) (d : DriveId) (f : Drive → Drive) : (s.updDrive d f).library = s.library := rfl
@[simp] theorem State.updDrive_arm (s : State) (d : DriveId) (f : Drive → Drive) : (s.updDrive d f).arm = s.arm := rfl
@[simp] theorem State.updDrive_planner (s : State) (d : DriveId) (f : Drive → Drive) : (s.updDrive d f).planner = s.planner := rfl
@[simp] theorem State.updDrive_run (s : State) (d : DriveId) (f : Drive → Drive) : (s.updDrive d f).run = s.run := rfl
@[simp] theorem State.updDrive_fetch (s : State) (d : DriveId) (f : Drive → Drive) : (s.updDrive d f).fetch = s.fetch := rfl
@[simp] theorem State.updDrive_fee (s : State) (d : DriveId) (f : Drive → Drive) : (s.updDrive d f).fee = s.fee := rfl
@[simp] theorem State.updDrive_links (s : State) (d : DriveId) (f : Drive → Drive) : (s.updDrive d f).links = s.links := rfl
@[simp] theorem State.updDrive_notices (s : State) (d : DriveId) (f : Drive → Drive) : (s.updDrive d f).notices = s.notices := rfl

/-! ### Links and drives read back -/

/-- A link that has been updated reads as updated; every other link reads as before. -/
theorem State.link_updLink (s : State) (st t : Station) (f : Link → Link) :
    (s.updLink st f).link t = if t = st then f (s.link st) else s.link t := by
  have get (v : Vector Link 4) (i : Station) : v.get i = v[i.val] := rfl
  unfold State.updLink State.link
  simp only [get, Vector.getElem_set, eq_comm (a := t), Fin.ext_iff]

@[simp] theorem State.link_updLink_self (s : State) (st : Station) (f : Link → Link) :
    (s.updLink st f).link st = f (s.link st) := by simp [State.link_updLink]

theorem State.link_updLink_ne (s : State) {st t : Station} (f : Link → Link) (h : t ≠ st) :
    (s.updLink st f).link t = s.link t := by simp [State.link_updLink, h]

/-- Two updates of one link are one. -/
theorem State.updLink_updLink (s : State) (st : Station) (f g : Link → Link) :
    (s.updLink st f).updLink st g = s.updLink st fun l => g (f l) := by
  have h : ((s.updLink st f).link st) = f (s.link st) := State.link_updLink_self s st f
  unfold State.updLink at *
  simp only [h, Vector.set_set]

/-- A drive record that has been updated reads as updated; every other one reads as before. -/
theorem State.drive_updDrive (s : State) (d e : DriveId) (f : Drive → Drive) :
    (s.updDrive d f).drive e = if e = d then f (s.drive d) else s.drive e := by
  have get (v : Vector Drive 4) (i : DriveId) : v.get i = v[i.val] := rfl
  unfold State.updDrive State.drive
  simp only [get, Vector.getElem_set, eq_comm (a := e), Fin.ext_iff]

@[simp] theorem State.drive_updDrive_self (s : State) (d : DriveId) (f : Drive → Drive) :
    (s.updDrive d f).drive d = f (s.drive d) := by simp [State.drive_updDrive]

theorem State.drive_updDrive_ne (s : State) {d e : DriveId} (f : Drive → Drive) (h : e ≠ d) :
    (s.updDrive d f).drive e = s.drive e := by simp [State.drive_updDrive, h]

@[simp] theorem State.link_updDrive (s : State) (d : DriveId) (f : Drive → Drive) (t : Station) :
    (s.updDrive d f).link t = s.link t := rfl
@[simp] theorem State.drive_updLink (s : State) (st : Station) (f : Link → Link) (d : DriveId) :
    (s.updLink st f).drive d = s.drive d := rfl
@[simp] theorem State.link_updLibrary (s : State) (f : Library → Library) (t : Station) : (s.updLibrary f).link t = s.link t := rfl
@[simp] theorem State.drive_updLibrary (s : State) (f : Library → Library) (d : DriveId) : (s.updLibrary f).drive d = s.drive d := rfl
@[simp] theorem State.link_updArm (s : State) (f : Arm → Arm) (t : Station) : (s.updArm f).link t = s.link t := rfl
@[simp] theorem State.drive_updArm (s : State) (f : Arm → Arm) (d : DriveId) : (s.updArm f).drive d = s.drive d := rfl
@[simp] theorem State.link_updPlanner (s : State) (f : Planner → Planner) (t : Station) : (s.updPlanner f).link t = s.link t := rfl
@[simp] theorem State.drive_updPlanner (s : State) (f : Planner → Planner) (d : DriveId) : (s.updPlanner f).drive d = s.drive d := rfl
@[simp] theorem State.link_updRun (s : State) (f : Run → Run) (t : Station) : (s.updRun f).link t = s.link t := rfl
@[simp] theorem State.drive_updRun (s : State) (f : Run → Run) (d : DriveId) : (s.updRun f).drive d = s.drive d := rfl
@[simp] theorem State.link_updFetch (s : State) (f : FetchEngine → FetchEngine) (t : Station) : (s.updFetch f).link t = s.link t := rfl
@[simp] theorem State.drive_updFetch (s : State) (f : FetchEngine → FetchEngine) (d : DriveId) : (s.updFetch f).drive d = s.drive d := rfl
@[simp] theorem State.link_updFee (s : State) (f : FeeUnit → FeeUnit) (t : Station) : (s.updFee f).link t = s.link t := rfl
@[simp] theorem State.drive_updFee (s : State) (f : FeeUnit → FeeUnit) (d : DriveId) : (s.updFee f).drive d = s.drive d := rfl

/-! ### updSource and updEntry -/

@[simp] theorem State.updSource_links (s : State) (i : Nat) (f : Source → Source) : (s.updSource i f).links = s.links := rfl
@[simp] theorem State.link_updSource (s : State) (i : Nat) (f : Source → Source) (t : Station) :
    (s.updSource i f).link t = s.link t := rfl
@[simp] theorem State.drive_updSource (s : State) (i : Nat) (f : Source → Source) (d : DriveId) :
    (s.updSource i f).drive d = s.drive d := rfl

/-- A notice source, 1-24, that has been updated reads as updated. -/
theorem State.source_updSource (s : State) {i : Nat} (f : Source → Source) (h1 : 1 ≤ i) (h2 : i ≤ 24) :
    (s.updSource i f).source i = f (s.source i) := by
  unfold State.updSource State.source
  have : i - 1 < 24 := by omega
  simp [Vector.setIfInBounds, List.getD, this]

/-- Updating one notice source leaves every other one as it was. -/
theorem State.source_updSource_ne (s : State) {i j : Nat} (f : Source → Source) (hi : 1 ≤ i) (hj : 1 ≤ j) (h : j ≠ i) :
    (s.updSource i f).source j = s.source j := by
  unfold State.updSource State.source
  have : i - 1 ≠ j - 1 := by omega
  simp [Vector.setIfInBounds, List.getD, this]

/-! ### Planning passes and issued commands -/

@[simp] theorem State.wantPasses_drives (s : State) (n : Nat) : (s.wantPasses n).drives = s.drives := rfl
@[simp] theorem State.wantPasses_links (s : State) (n : Nat) : (s.wantPasses n).links = s.links := rfl
@[simp] theorem State.wantPasses_passesDue (s : State) (n : Nat) :
    (s.wantPasses n).planner.passesDue = s.planner.passesDue + n := rfl
@[simp] theorem State.link_wantPasses (s : State) (n : Nat) (t : Station) : (s.wantPasses n).link t = s.link t := rfl
@[simp] theorem State.drive_wantPasses (s : State) (n : Nat) (d : DriveId) : (s.wantPasses n).drive d = s.drive d := rfl

/-- Everything the issue of a drive command can do (R64, R65): it stands in the drive's record with its start time, or, in a
state that does not allow it, nothing has changed. -/
theorem issue_cases (d : DriveId) (cmd : DriveCmd) (owner : Owner) (s : State) :
    (cmd.issuedIn (s.drive d).state = true ∧ issue d cmd owner s
        = s.updDrive d fun x => { x with command := some ⟨cmd, owner, s.seconds⟩ })
      ∨ cmd.issuedIn (s.drive d).state = false ∧ issue d cmd owner s = s := by
  unfold issue
  split
  · next h => exact .inl ⟨h, rfl⟩
  · next h => exact .inr ⟨by simpa using h, rfl⟩

end Sys2Proof.Machine
end

