-- ==== Sys2Proof/Laws/ArmList.lean ====
section
/-! SUPPORT. What leaving the order list can do: which orders leave with one (R43), and what the telling of their
originators leaves alone (R43, R53, R56). -/

set_option Elab.async false

namespace Sys2Proof.Machine

open Sys2Proof

variable {s : State} {os gone : List MoveOrder} {ns : List Nat} {how : Gone} {k n : Nat}

/-- An order that is to leave leaves. -/
theorem withDependents_self (fuel : Nat) (h : k ∈ ns) : k ∈ withDependents os fuel ns := by
  induction fuel generalizing ns with
  | zero => exact h
  | succ fuel ih => exact ih (List.mem_append_left _ h)

/-- An order that names a leaving one in its after field leaves with it (R43). -/
theorem withDependents_after (fuel : Nat) {o : MoveOrder} (ho : o ∈ os) (ha : o.after = some k) (h : k ∈ ns) :
    o.number ∈ withDependents os (fuel + 1) ns := by
  refine withDependents_self fuel (List.mem_append_right _ (List.mem_map_of_mem (List.mem_filter.2 ⟨ho, ?_⟩)))
  simpa [ha] using h

/-- Order `k` and those that name it are not in the list once `k` has left (R43). -/
theorem not_mem_ordersWithout {o : MoveOrder} (ho : o ∈ s.arm.orders) (h : o.number = k ∨ o.after = some k) :
    o ∉ s.ordersWithout k := by
  have hk : k ∈ [k] := List.mem_singleton_self k
  have : o.number ∈ withDependents s.arm.orders 16 [k] := by
    rcases h with h | h
    · exact h ▸ withDependents_self 16 (h ▸ hk)
    · exact withDependents_after 15 ho h hk
  simp [State.ordersWithout, this]

/-- What the telling of the originators of orders that are gone leaves alone. -/
structure ToldFrame (s t : State) : Prop where
  arm : t.arm = s.arm
  catalogue : t.catalogue = s.catalogue
  fee : t.fee = s.fee
  fetch : t.fetch = s.fetch
  run : t.run = s.run
  links : t.links = s.links
  notices : t.notices = s.notices
  table : t.library.table = s.library.table
  slot : t.library.slot = s.library.slot
  lastReject : t.library.lastReject = s.library.lastReject
  inspections : t.library.inspections.map (·.id) = s.library.inspections.map (·.id)
  exported : t.library.exports.map (·.cart) = s.library.exports.map (·.cart)
  waiters : t.planner.waiters.map (·.id) = s.planner.waiters.map (·.id)
  filingReq : t.planner.filingReq = s.planner.filingReq
  passes : s.planner.passesDue ≤ t.planner.passesDue

theorem ToldFrame.refl (s : State) : ToldFrame s s := by constructor <;> rfl

theorem ToldFrame.trans {s t u : State} (h : ToldFrame s t) (g : ToldFrame t u) : ToldFrame s u where
  arm := g.arm.trans h.arm
  catalogue := g.catalogue.trans h.catalogue
  fee := g.fee.trans h.fee
  fetch := g.fetch.trans h.fetch
  run := g.run.trans h.run
  links := g.links.trans h.links
  notices := g.notices.trans h.notices
  table := g.table.trans h.table
  slot := g.slot.trans h.slot
  lastReject := g.lastReject.trans h.lastReject
  inspections := g.inspections.trans h.inspections
  exported := g.exported.trans h.exported
  waiters := g.waiters.trans h.waiters
  filingReq := g.filingReq.trans h.filingReq
  passes := Nat.le_trans h.passes g.passes

theorem dropPlan_told (p : Plan) (s : State) : ToldFrame s (dropPlan p s) := by
  constructor <;> first | rfl | skip
  simp only [dropPlan, State.updPlanner, List.map_map]
  exact List.map_congr_left fun w _ => by dsimp only [Function.comp]; split <;> rfl

/-- An update of an inspection record that keeps its name keeps the names of all. -/
theorem updInsp_ids (l : List Inspection) (id : Nat) (f : Inspection → Inspection) (hf : ∀ i, (f i).id = i.id) :
    (l.map fun i => if i.id = id then f i else i).map (·.id) = l.map (·.id) := by
  rw [List.map_map]
  exact List.map_congr_left fun i _ => by dsimp only [Function.comp]; split <;> simp [hf]

theorem replanImport_told (p : Plan) (s : State) : ToldFrame s (replanImport p s) := by
  unfold replanImport
  repeat' split
  all_goals first
    | exact .refl s
    | (constructor <;> first
        | rfl
        | exact updInsp_ids s.library.inspections _ _ (fun _ => rfl)
        | exact Nat.le_succ _)

/-- The originators of the orders gone lose them; nothing that `ToldFrame` names changes (R43, R53, R56), and each order
gone is an event of R86. -/
theorem ordersGone_told (gone : List MoveOrder) (how : Gone) (s : State) :
    ToldFrame s (ordersGone gone how s)
      ∧ s.planner.passesDue + gone.length ≤ (ordersGone gone how s).planner.passesDue := by
  have fold : ∀ (ps : List Plan) (s : State), ToldFrame s (ps.foldl (fun s p => replanImport p (dropPlan p s)) s) := by
    intro ps
    induction ps with
    | nil => exact .refl
    | cons p ps ih => exact fun s => ((dropPlan_told p s).trans (replanImport_told p _)).trans (ih _)
  have h := fold (s.planner.plans.filter (·.holds (gone.map (·.number))))
    { s with drives := s.drives.map (holdGone (gone.map (·.number)) how s.holdStart) }
  refine ⟨⟨h.arm, h.catalogue, h.fee, h.fetch, h.run, h.links, h.notices, h.table, h.slot, h.lastReject, ?_, ?_,
    h.waiters, h.filingReq, Nat.le_trans h.passes (Nat.le_add_right _ _)⟩, Nat.add_le_add_right h.passes _⟩
  · refine Eq.trans ?_ h.inspections
    show List.map _ (List.map _ _) = _
    rw [List.map_map]
    exact List.map_congr_left fun i _ => by dsimp only [Function.comp]; split <;> rfl
  · refine Eq.trans ?_ h.exported
    show List.map _ (List.map _ _) = _
    rw [List.map_map]
    exact List.map_congr_left fun e _ => by dsimp only [Function.comp]; split <;> rfl

/-- Order `k` leaves the list with those that name it, and no other order does; nothing else of the arm changes, and
nothing else that `ToldFrame` names (R43, R53). -/
theorem dropOrders_told (k : Nat) (how : Gone) (s : State) :
    (dropOrders [k] how s).arm = { s.arm with orders := s.ordersWithout k }
      ∧ ToldFrame { s with arm := { s.arm with orders := s.ordersWithout k } } (dropOrders [k] how s)
      ∧ s.planner.passesDue + (s.leavingWith k).length ≤ (dropOrders [k] how s).planner.passesDue :=
  have h := ordersGone_told (s.leavingWith k) how { s with arm := { s.arm with orders := s.ordersWithout k } }
  ⟨h.1.arm, h⟩

end Sys2Proof.Machine
end

