-- ==== Sys2Proof/Laws/Requests.lean ====
section
/-! SUPPORT. What the shared operations of the station links can do: the transmitter, replies, and the way of a REQUEST frame
to its owning block. -/

namespace Sys2Proof.Machine

open Sys2Proof

/-! ### The transmitter (R179) -/

/-- Two links that differ only in what the transmitter has taken up: the frame being sent, and a LINK_RESET or an attention
frame that has become it. -/
def Link.sameBut (l m : Link) : Prop :=
  m = { l with sending := m.sending, resetDue := m.resetDue, attentionWaiting := m.attentionWaiting }

theorem Link.sameBut_refl (l : Link) : l.sameBut l := rfl

theorem Link.sameBut_trans {a b c : Link} (h : a.sameBut b) (k : b.sameBut c) : a.sameBut c := by
  unfold Link.sameBut at *
  rw [k, h]

/-- Everything a transmitter's choice can do: only its own link changes, and of it only what is being sent. -/
theorem kick_sameBut (st t : Station) (s : State) : (s.link t).sameBut ((kick st s).link t) := by
  have upd (f : Link → Link) (h : (s.link st).sameBut (f (s.link st))) :
      (s.link t).sameBut ((s.updLink st f).link t) := by
    rw [State.link_updLink]
    split
    · next e => subst e; exact h
    · exact rfl
  unfold kick
  dsimp only
  repeat' split
  all_goals first | exact rfl | exact upd _ rfl

theorem kick_rest (st : Station) (s : State) : kick st s = { s with links := (kick st s).links } := by
  unfold kick
  dsimp only
  repeat' split
  all_goals rfl

theorem transmit_sameBut (t : Station) (s : State) : (s.link t).sameBut ((transmit s).link t) :=
  Link.sameBut_trans (Link.sameBut_trans (kick_sameBut 0 t s) (kick_sameBut 1 t _))
    (Link.sameBut_trans (kick_sameBut 2 t _) (kick_sameBut 3 t _))

/-- The transmitters change nothing but the links. -/
theorem transmit_rest (s : State) : transmit s = { s with links := (transmit s).links } := by
  unfold transmit
  rw [kick_rest 3, kick_rest 2, kick_rest 1, kick_rest 0]

/-! ### Replies (R183, R184) -/

@[simp] theorem addReply_replies (st : Station) (r : Reply) (s : State) :
    ((addReply st r s).link st).replies = (s.link st).replies ++ [r] := by simp [addReply]

/-- Everything the reply of a long request can do (R184): with the tag in the outstanding table the reply joins the queue
and the entry leaves; without it nothing happens. -/
theorem replyLong_cases (st : Station) (r : Reply) (s : State) :
    (∃ e ∈ (s.link st).outstanding, e.tag = r.tag) ∧
        replyLong st r s = s.updLink st (fun l =>
          { l with replies := l.replies ++ [r], outstanding := l.outstanding.filter fun e => e.tag ≠ r.tag })
      ∨ (∀ e ∈ (s.link st).outstanding, e.tag ≠ r.tag) ∧ replyLong st r s = s := by
  unfold replyLong
  split
  · next h =>
    refine .inl ⟨by simpa using h, ?_⟩
    rw [addReply, State.updLink_updLink]
  · next h => exact .inr ⟨by simpa using h, rfl⟩

/-! ### The way of a REQUEST (R178, R183, R204) -/

@[simp] theorem Req.ofCode_code (r : Req) : Req.ofCode r.code = some r := by cases r <;> rfl

/-- The Station Link Unit refuses nothing of an admitted request. -/
theorem linkRefusal_none {s : State} {st : Station} {r : Req} {tag : Byte} (h : s.admits st r tag) :
    linkRefusal r (s.link st) tag = none := by
  obtain ⟨-, ha, hl, ht⟩ := h
  unfold linkRefusal
  have h1 : ¬(r.isLong = true ∧ (s.link st).outstanding.length ≥ Config.outstandingMax) := by
    rintro ⟨hr, hn⟩
    have := hl hr
    simp only [Config.outstandingMax] at hn
    omega
  have h2 : (s.link st).outstanding.any (fun e => decide (e.tag = tag)) = false := by simpa using ht
  simp [ha, h1, h2]

/-- A request frame taken at once goes to admission as it stands. -/
theorem receiveRequest_taken {s : State} {st : Station} (h : s.takes st) (tag : Byte) (body : List Byte) :
    receiveRequest st tag body s = takeBody st tag body s := by
  obtain ⟨⟨hr, hu, hb⟩, hn⟩ := h
  simp [receiveRequest, receiveFrame, dealRequest, linkUp, hr, hu, hb, hn, Config.heldAt]

/-- An admitted request with a body of its length reaches its owning block. -/
theorem receiveRequest_served {s : State} {st : Station} {r : Req} {tag : Byte} {b : List Byte}
    (h : s.admits st r tag) (hd : decodes r b = true) :
    receiveRequest st tag (r.code :: b) s = serve r st tag b s := by
  rw [receiveRequest_taken h.1]
  simp [takeBody, takeRequest, linkRefusal_none h, hd]

/-- An admitted request whose body does not decode is answered BAD_REQUEST (R204). -/
theorem receiveRequest_undecoded {s : State} {st : Station} {r : Req} {tag : Byte} {b : List Byte}
    (h : s.admits st r tag) (hd : decodes r b = false) :
    receiveRequest st tag (r.code :: b) s = refuse st tag r.code .badRequest s := by
  rw [receiveRequest_taken h.1]
  simp [takeBody, takeRequest, linkRefusal_none h, hd]

/-- A received PAGE or CREDIT frame is dealt with at once on a link that is UP. -/
theorem receiveFrame_up {s : State} {st : Station} (h : s.receives st) (deal : State → State) :
    receiveFrame st deal s = deal s := by
  obtain ⟨hr, hu, hb⟩ := h
  simp [receiveFrame, linkUp, hr, hu, hb]

/-! ### Acts (settle) -/

/-- With no act to take, nothing follows a command. -/
theorem settle_rests {s : State} (h : s.rests) : settle s = s := by
  have h : nextAct s = none := h
  unfold settle settleFuel settleFor
  rw [h]

/-! ### Bytes (R202) -/

theorem beBytes_length (w n : Nat) : (beBytes w n).length = w := by
  induction w generalizing n with
  | zero => rfl
  | succ w ih => simp [beBytes, ih]

theorem beNat_append_one (bs : List Byte) (b : Byte) : beNat (bs ++ [b]) = beNat bs * 256 + b.toNat := by
  simp [beNat, List.foldl_append]

/-- A number written in `w` bytes and read back. -/
theorem beNat_beBytes {w n : Nat} (h : n < 256 ^ w) : beNat (beBytes w n) = n := by
  induction w generalizing n with
  | zero => simp at h; subst h; rfl
  | succ w ih =>
    have h1 : n / 256 < 256 ^ w := by
      rw [Nat.div_lt_iff_lt_mul (by decide)]
      simpa [Nat.pow_succ] using h
    rw [beBytes, beNat_append_one, ih h1, BitVec.toNat_ofNat]
    have : (2 : Nat) ^ 8 = 256 := rfl
    rw [this]
    omega

theorem field_prefix (n w : Nat) (rest : List Byte) (h : n < 256 ^ w) : field (beBytes w n ++ rest) 0 w = n := by
  have h1 : (beBytes w n ++ rest).take w = beBytes w n := List.take_left' (beBytes_length w n)
  simp [field, h1, beNat_beBytes h]

/-- A field read past a part of the body that ends where it begins. -/
theorem field_skip (pre : List Byte) (n w : Nat) (rest : List Byte) (h : n < 256 ^ w) :
    field (pre ++ (beBytes w n ++ rest)) pre.length w = n := by
  have := field_prefix n w rest h
  simpa [field] using this

end Sys2Proof.Machine
end

