-- ==== Sys2Proof/Laws/Keeps.lean ====
section
/-! SUPPORT. What every command keeps: the queue and the seconds count, the ranges of the settings held in registry memory,
some station's SUPERVISE, and the catalogue with its COMMITTED entries. `Keeps s t` says so of two states; here it is for
the updates of State's records and for the acts on the catalogue. -/

set_option Elab.async false


namespace Sys2Proof.Machine

open Sys2Proof

/-- `t` holds the COMMITTED entries of `s`, in a catalogue of the form of R1 to R3, if that of `s` is of it. -/
def CatalogueGrows (s t : List CatEntry) : Prop :=
  CatalogueOk s → CatalogueOk t ∧ ∀ e ∈ s, e.state = .committed → e ∈ t

/-- What holds of any two states of which the second follows from the first by an act of the part. -/
structure Keeps (s t : State) : Prop where
  queue : t.pending = s.pending
  time : t.seconds = s.seconds
  settings : SettingsOk s → SettingsOk t
  supervisor : supervised s → supervised t
  catalogue : CatalogueGrows s.catalogue t.catalogue

theorem CatalogueGrows.refl (c : List CatEntry) : CatalogueGrows c c := fun h => ⟨h, fun _ he _ => he⟩

theorem CatalogueGrows.trans {a b c : List CatEntry} (h : CatalogueGrows a b) (k : CatalogueGrows b c) :
    CatalogueGrows a c := fun ha =>
  ⟨(k (h ha).1).1, fun e he hc => (k (h ha).1).2 e ((h ha).2 e he hc) hc⟩

theorem Keeps.refl (s : State) : Keeps s s := ⟨rfl, rfl, id, id, .refl _⟩

theorem Keeps.trans {a b c : State} (h : Keeps a b) (k : Keeps b c) : Keeps a c :=
  ⟨k.queue.trans h.queue, k.time.trans h.time, k.settings ∘ h.settings, k.supervisor ∘ h.supervisor,
    h.catalogue.trans k.catalogue⟩

/-! ### The updates of State's records -/

variable {a s : State}

theorem updLibrary_keeps {f : Library → Library} (h : Keeps a s) (hf : ∀ l, (f l).lowMark = l.lowMark) :
    Keeps a (s.updLibrary f) :=
  h.trans ⟨rfl, rfl, fun k => { k with lowMark := by simpa [hf] using k.lowMark }, id, .refl _⟩

theorem updArm_keeps {f : Arm → Arm} (h : Keeps a s) (hf : ∀ l, (f l).priorities = l.priorities) :
    Keeps a (s.updArm f) :=
  h.trans ⟨rfl, rfl, fun k => { k with priorities := by simpa [hf] using k.priorities }, id, .refl _⟩

theorem updPlanner_keeps {f : Planner → Planner} (h : Keeps a s) : Keeps a (s.updPlanner f) :=
  h.trans ⟨rfl, rfl, fun k => { k with }, id, .refl _⟩

theorem updRun_keeps {f : Run → Run} (h : Keeps a s) : Keeps a (s.updRun f) :=
  h.trans ⟨rfl, rfl, fun k => { k with }, id, .refl _⟩

theorem updFetch_keeps {f : FetchEngine → FetchEngine} (h : Keeps a s) : Keeps a (s.updFetch f) :=
  h.trans ⟨rfl, rfl, fun k => { k with }, id, .refl _⟩

theorem updDrive_keeps {d : DriveId} {f : Drive → Drive} (h : Keeps a s) : Keeps a (s.updDrive d f) :=
  h.trans ⟨rfl, rfl, fun k => { k with }, id, .refl _⟩

theorem drives_keeps {v : Vector Drive 4} (h : Keeps a s) : Keeps a { s with drives := v } :=
  h.trans ⟨rfl, rfl, fun k => { k with }, id, .refl _⟩

/-- What a change of the Fee Unit keeps of its settings. -/
structure FeeSame (u v : FeeUnit) : Prop where
  schedule : v.schedule = u.schedule
  counter : v.discountCounter = u.discountCounter
  solicitor : v.discountSolicitor = u.discountSolicitor
  government : v.discountGovernment = u.discountGovernment
  date : v.date = u.date

theorem updFee_keeps {f : FeeUnit → FeeUnit} (h : Keeps a s) (hf : ∀ u, FeeSame u (f u)) : Keeps a (s.updFee f) := by
  refine h.trans ⟨rfl, rfl, fun k => { k with fees := ?_, date := ?_ }, id, .refl _⟩
  · obtain ⟨h1, h2, h3, h4, -⟩ := hf s.fee
    simpa [feesOk, h1, h2, h3, h4] using k.fees
  · obtain ⟨-, -, -, -, h5⟩ := hf s.fee
    simpa [h5] using k.date

theorem updLink_keeps {st : Station} {f : Link → Link} (h : Keeps a s) (hf : ∀ l, (f l).profile = l.profile) :
    Keeps a (s.updLink st f) := by
  refine h.trans ⟨rfl, rfl, fun k => { k with }, ?_, .refl _⟩
  rintro ⟨t, ht⟩
  refine ⟨t, ?_⟩
  rw [State.link_updLink]
  split
  · next e => subst e; rw [hf]; exact ht
  · exact ht

theorem getD_mem_or {α : Type} (l : List α) (i : Nat) (x : α) : l.getD i x ∈ l ∨ l.getD i x = x := by
  induction l generalizing i with
  | nil => exact .inr rfl
  | cons y ys ih =>
    cases i with
    | zero => exact .inl (List.mem_cons_self ..)
    | succ i =>
      rcases ih i with h | h
      · exact .inl (List.mem_cons_of_mem _ (by simpa using h))
      · exact .inr (by simpa using h)

theorem source_level {s : State} (h : sourcesOk s) (i : Nat) : (s.source i).level ≤ 7 := by
  rcases getD_mem_or s.notices.toList (i - 1) Source.initial with k | k
  · exact h _ k
  · unfold State.source; rw [k]; decide

theorem updSource_keeps {i : Nat} {f : Source → Source} (h : Keeps a s) (hf : ∀ x, x.level ≤ 7 → (f x).level ≤ 7) :
    Keeps a (s.updSource i f) := by
  refine h.trans ⟨rfl, rfl, fun k => { k with sources := ?_ }, id, .refl _⟩
  intro x hx
  have hx : x ∈ s.notices.toList.set (i - 1) (f (s.source i)) := by
    simpa [State.updSource, Vector.toList_setIfInBounds] using hx
  rcases List.mem_or_eq_of_mem_set hx with hx | rfl
  · exact k.sources x hx
  · exact hf _ (source_level k.sources i)

theorem foldl_keeps {α : Type} {f : State → α → State} {l : List α} (h : Keeps a s)
    (hf : ∀ t x, Keeps a t → Keeps a (f t x)) : Keeps a (l.foldl f s) := by
  induction l generalizing s with
  | nil => exact h
  | cons x xs ih => exact ih (hf _ _ h)

theorem getD_keeps {o : Option State} {d : State} (hd : Keeps a d) (ho : ∀ t, o = some t → Keeps a t) :
    Keeps a (o.getD d) := by
  cases o with
  | none => exact hd
  | some t => exact ho t rfl

/-! ### The acts on the catalogue (R10 to R15, R17) -/

theorem catalogue_keeps {c : List CatEntry} (h : Keeps a s) (hc : CatalogueGrows s.catalogue c) :
    Keeps a { s with catalogue := c } :=
  h.trans ⟨rfl, rfl, fun k => { k with }, id, hc⟩

theorem find_entry {c : List CatEntry} {n : Nat} {e : CatEntry} (h : c.find? (fun e => e.number = n) = some e) :
    e ∈ c ∧ e.number = n := ⟨List.mem_of_find?_eq_some h, by simpa using List.find?_some h⟩

/-- Two entries of one number in an ascending catalogue are one. -/
theorem CatalogueOk.same {c : List CatEntry} (h : CatalogueOk c) {x y : CatEntry} (hx : x ∈ c) (hy : y ∈ c)
    (hn : x.number = y.number) : x = y := by
  have := h.ascending
  clear h
  induction c with
  | nil => cases hx
  | cons z zs ih =>
    rw [List.pairwise_cons] at this
    obtain ⟨h1, h2⟩ := this
    rcases List.mem_cons.1 hx with rfl | kx
    · rcases List.mem_cons.1 hy with rfl | ky
      · rfl
      · have := h1 y ky; omega
    · rcases List.mem_cons.1 hy with rfl | ky
      · have := h1 x kx; omega
      · exact ih kx ky h2

theorem filter_grows {c : List CatEntry} (p : CatEntry → Bool) (hp : ∀ e ∈ c, e.state = .committed → p e = true) :
    CatalogueGrows c (c.filter p) := fun h =>
  ⟨⟨h.ascending.filter _, (List.length_filter_le _ _).trans h.room, fun e he => h.fits e (List.mem_filter.1 he).1,
      fun x hx y hy => h.oneFiling x (List.mem_filter.1 hx).1 y (List.mem_filter.1 hy).1⟩,
    fun e he hc => List.mem_filter.2 ⟨he, hp e he hc⟩⟩

/-- An update of the FILING entry of one number by an entry of the same number that fits. -/
theorem upd_grows {c : List CatEntry} {n : Nat} {f : CatEntry → CatEntry} {e : CatEntry}
    (he : c.find? (fun e => e.number = n) = some e) (hs : e.state = .filing) (hn : ∀ e, (f e).number = e.number)
    (hf : entryFits e → entryFits (f e)) : CatalogueGrows c (c.map fun e => if e.number = n then f e else e) := by
  intro h
  obtain ⟨hm, rfl⟩ := find_entry he
  have key : ∀ x ∈ c, (if x.number = e.number then f x else x) = if x = e then f e else x := by
    intro x hx
    by_cases hxn : x.number = e.number
    · rw [if_pos hxn, if_pos (h.same hx hm hxn), h.same hx hm hxn]
    · rw [if_neg hxn, if_neg (fun k => hxn (by rw [k]))]
  rw [List.map_congr_left key]
  have num : ∀ x, (if x = e then f e else x).number = x.number := by
    intro x; split
    · next k => rw [hn, k]
    · rfl
  refine ⟨⟨?_, by simpa using h.room, ?_, ?_⟩, ?_⟩
  · rw [List.pairwise_map]
    exact h.ascending.imp fun {x y} hxy => by rw [num, num]; exact hxy
  · intro y hy
    obtain ⟨x, hx, rfl⟩ := List.mem_map.1 hy
    split
    · exact hf (h.fits e hm)
    · exact h.fits x hx
  · intro y hy z hz hys hzs
    obtain ⟨x, hx, rfl⟩ := List.mem_map.1 hy
    obtain ⟨w, hw, rfl⟩ := List.mem_map.1 hz
    have filing : ∀ x ∈ c, (if x = e then f e else x).state = .filing → x = e := by
      intro x hx hxs
      by_cases k : x = e
      · exact k
      · rw [if_neg k] at hxs
        exact h.oneFiling x hx e hm hxs hs
    rw [filing x hx hys, filing w hw hzs]
  · intro x hx hc
    refine List.mem_map.2 ⟨x, hx, if_neg ?_⟩
    rintro rfl
    rw [hs] at hc
    cases hc

theorem extentSum_append (xs ys : List Extent) : extentSum (xs ++ ys) = extentSum xs + extentSum ys := by
  simp [extentSum]

/-- Everything an addition of `n` sectors to an extent list can do (R13). -/
theorem addExtent_cases (es : List Extent) (start n : Nat) :
    (joinsLast es start n = true ∧ ∃ e xs, es = xs ++ [e] ∧ start = e.start + e.len ∧ e.len + n ≤ 4096
        ∧ addExtent es start n = xs ++ [⟨e.start, e.len + n⟩])
      ∨ (joinsLast es start n = false ∧ addExtent es start n = es ++ [⟨start, n⟩]) := by
  unfold addExtent
  cases hj : joinsLast es start n with
  | false => exact .inr ⟨rfl, rfl⟩
  | true =>
    refine .inl ⟨rfl, ?_⟩
    unfold joinsLast at hj
    cases hl : es.getLast? with
    | none => rw [hl] at hj; simp at hj
    | some e =>
      rw [hl] at hj
      simp only [Bool.and_eq_true, beq_iff_eq, decide_eq_true_eq] at hj
      refine ⟨e, es.dropLast, ?_, hj.1, hj.2, rfl⟩
      exact (List.dropLast_append_getLast? e hl).symm

theorem addExtent_sum (es : List Extent) (start n : Nat) : extentSum (addExtent es start n) = extentSum es + n := by
  rcases addExtent_cases es start n with ⟨-, e, xs, rfl, -, -, h⟩ | ⟨-, h⟩ <;> rw [h]
  · simp [extentSum]; omega
  · simp [extentSum]

/-- An addition that finds room keeps at most 4 extents of at most 4,096 sectors (R3, R13). -/
theorem addExtent_fits {es : List Extent} {start n : Nat} (h : es.length ≤ 4) (k : ∀ x ∈ es, x.len ≤ 4096)
    (hn : n ≤ 4096) (hr : ¬((!joinsLast es start n && decide (es.length ≥ 4)) = true)) :
    (addExtent es start n).length ≤ 4 ∧ ∀ x ∈ addExtent es start n, x.len ≤ 4096 := by
  rcases addExtent_cases es start n with ⟨-, e, xs, rfl, -, he, hx⟩ | ⟨hj, hx⟩ <;> rw [hx]
  · refine ⟨by simpa using h, ?_⟩
    intro x hm
    rcases List.mem_append.1 hm with hm | hm
    · exact k x (List.mem_append.2 (.inl hm))
    · rw [List.mem_singleton.1 hm]; exact he
  · rw [hj] at hr
    simp only [Bool.not_false, Bool.true_and, decide_eq_true_eq] at hr
    refine ⟨by simp; omega, ?_⟩
    intro x hm
    rcases List.mem_append.1 hm with hm | hm
    · exact k x hm
    · rw [List.mem_singleton.1 hm]; exact hn

/-- Everything an extension that is accepted does (R13). -/
theorem extendEntry_ok {s t : State} {n start k : Nat} (h : extendEntry s n start k = .ok t) :
    ∃ e, s.entry? n = some e ∧ e.state = .filing ∧ e.pages + 1 ≤ 1000 ∧ e.content + k ≤ 3840
      ∧ ¬((!joinsLast e.extents start k && decide (e.extents.length ≥ 4)) = true)
      ∧ t = s.updEntry n fun e =>
          { e with extents := addExtent e.extents start k, pages := e.pages + 1, content := e.content + k } := by
  unfold extendEntry at h
  split at h
  · cases h
  · next e he =>
    split at h
    · cases h
    · split at h
      · cases h
      · split at h
        · cases h
        · next h1 h2 h3 =>
          cases h
          simp only [Config.pagesMax, Config.contentMax] at h2
          refine ⟨e, he, ?_, by omega, by omega, h3, rfl⟩
          cases hs : e.state
          · rfl
          · exact absurd hs h1

/-- Everything a commit that is accepted does (R14). -/
theorem commitEntry_ok {s t : State} {n sector : Nat} (h : commitEntry s n sector = .ok t) :
    ∃ e, s.entry? n = some e ∧ e.state = .filing ∧ 1 ≤ e.pages
      ∧ ¬((!joinsLast e.extents sector 1 && decide (e.extents.length ≥ 4)) = true)
      ∧ t = s.updEntry n fun e =>
          { e with extents := addExtent e.extents sector 1, trailer := some e.content, state := .committed } := by
  unfold commitEntry at h
  split at h
  · cases h
  · next e he =>
    split at h
    · cases h
    · split at h
      · cases h
      · split at h
        · cases h
        · next h1 h2 h3 =>
          cases h
          refine ⟨e, he, ?_, by omega, h3, rfl⟩
          cases hs : e.state
          · rfl
          · exact absurd hs h1

theorem extendEntry_keeps {t : State} {n start k : Nat} (h : Keeps a s) (e : extendEntry s n start k = .ok t) :
    Keeps a t := by
  obtain ⟨e, he, hs, hp, hc, hr, rfl⟩ := extendEntry_ok e
  refine catalogue_keeps h (upd_grows he hs (fun _ => rfl) ?_)
  rintro ⟨h1, h2, h3, h4, h5⟩
  rw [hs] at h5
  obtain ⟨h6, h7⟩ := h5
  obtain ⟨h8, h9⟩ := addExtent_fits (start := start) (n := k) h1 h4 (by omega) hr
  refine ⟨h8, hp, hc, h9, ?_⟩
  simp only [hs]
  exact ⟨h6, by rw [addExtent_sum]; omega⟩

theorem commitEntry_keeps {t : State} {n sector : Nat} (h : Keeps a s) (e : commitEntry s n sector = .ok t) :
    Keeps a t := by
  obtain ⟨e, he, hs, hp, hr, rfl⟩ := commitEntry_ok e
  refine catalogue_keeps h (upd_grows he hs (fun _ => rfl) ?_)
  rintro ⟨h1, h2, h3, h4, h5⟩
  rw [hs] at h5
  obtain ⟨h6, h7⟩ := h5
  obtain ⟨h8, h9⟩ := addExtent_fits (start := sector) (n := 1) h1 h4 (by omega) hr
  exact ⟨h8, h2, h3, h9, rfl, by rw [addExtent_sum, h7], hp⟩

theorem insertEntry_mem (e x : CatEntry) (c : List CatEntry) : x ∈ insertEntry e c ↔ x = e ∨ x ∈ c := by
  induction c with
  | nil => simp [insertEntry]
  | cons y ys ih =>
    unfold insertEntry
    split
    · simp
    · simp only [List.mem_cons, ih]; tauto

theorem insertEntry_length (e : CatEntry) (c : List CatEntry) : (insertEntry e c).length = c.length + 1 := by
  induction c with
  | nil => rfl
  | cons y ys ih => unfold insertEntry; split <;> simp [ih]

theorem insertEntry_ascending {e : CatEntry} {c : List CatEntry} (h : c.Pairwise fun a b => a.number < b.number)
    (hn : ∀ x ∈ c, x.number ≠ e.number) : (insertEntry e c).Pairwise fun a b => a.number < b.number := by
  induction c with
  | nil => simp [insertEntry]
  | cons y ys ih =>
    rw [List.pairwise_cons] at h
    unfold insertEntry
    split
    · next hlt =>
      refine List.pairwise_cons.2 ⟨?_, List.pairwise_cons.2 h⟩
      intro x hx
      rcases List.mem_cons.1 hx with rfl | hx
      · exact hlt
      · exact hlt.trans (h.1 x hx)
    · next hge =>
      refine List.pairwise_cons.2 ⟨?_, ih h.2 fun x hx => hn x (List.mem_cons_of_mem _ hx)⟩
      intro x hx
      rcases (insertEntry_mem _ _ _).1 hx with rfl | hx
      · have := hn y (List.mem_cons_self ..); omega
      · exact h.1 x hx

theorem createEntry_keeps {t : State} {v : Option Nat} {n cls : Nat} {st : Station} (h : Keeps a s)
    (e : createEntry s v n cls st = .ok t) : Keeps a t := by
  unfold createEntry at e
  split at e
  · cases e
  · next h0 =>
    split at e
    · cases e
    · split at e
      · cases e
      · next h1 =>
        split at e
        · next h2 =>
          cases e
          refine catalogue_keeps h fun k => ?_
          have hnone : ∀ x ∈ s.catalogue, x.number ≠ n := by
            intro x hx hxn
            apply h1
            simp only [State.entry?, List.find?_isSome]
            exact ⟨x, hx, by simpa using hxn⟩
          have hfil : ∀ x ∈ s.catalogue, x.state ≠ .filing := by
            intro x hx hxn
            apply h0
            simp only [State.filingEntry, List.find?_isSome]
            exact ⟨x, hx, by simpa using hxn⟩
          have h2 : s.catalogue.length < 65536 := of_decide_eq_true h2
          refine ⟨⟨insertEntry_ascending k.ascending hnone, by rw [insertEntry_length]; omega, ?_, ?_⟩, ?_⟩
          · intro x hx
            rcases (insertEntry_mem _ _ _).1 hx with rfl | hx
            · exact ⟨by simp, by simp, by simp, by simp, rfl, by simp [extentSum]⟩
            · exact k.fits x hx
          · intro x hx y hy hxs hys
            rcases (insertEntry_mem _ _ _).1 hx with rfl | hx
            · rcases (insertEntry_mem _ _ _).1 hy with rfl | hy
              · rfl
              · exact absurd hys (hfil y hy)
            · exact absurd hxs (hfil x hx)
          · exact fun x hx _ => (insertEntry_mem _ _ _).2 (.inr hx)
        · cases e

theorem removeEntry_keeps {t : State} {n : Nat} (h : Keeps a s) (e : removeEntry s n = .ok t) : Keeps a t := by
  unfold removeEntry at e
  split at e
  · cases e
  · next x hx =>
    split at e
    · cases e
    · next hs =>
      cases e
      refine catalogue_keeps h fun k => filter_grows _ (fun y hy hc => ?_) k
      obtain ⟨hm, hn⟩ := find_entry hx
      simp only [ne_eq, decide_not, Bool.not_eq_eq_eq_not, Bool.not_true, decide_eq_false_iff_not]
      intro hyn
      rw [k.same hy hm (hyn.trans hn.symm)] at hc
      exact hs hc

theorem orUnchanged_keeps {r : Except CatRefusal State} (h : Keeps a s) (hr : ∀ t, r = .ok t → Keeps a t) :
    Keeps a (orUnchanged s r) := by
  cases r with
  | ok t => exact hr t rfl
  | error _ => exact h

end Sys2Proof.Machine
end

