-- ==== Sys2Proof/Laws/KeepsRecords.lean ====
section
/-! SUPPORT. What the operations of the records keep. -/

set_option Elab.async false
set_option linter.all false


namespace Sys2Proof.Machine

open Sys2Proof

variable {a s : State}

theorem wantPasses_keeps {n : Nat} (h : Keeps a s) : Keeps a (s.wantPasses n) := updPlanner_keeps h

theorem wantPass_keeps (h : Keeps a s) : Keeps a (s.wantPass) := wantPasses_keeps h

theorem updOrder_keeps {id : FetchId} {f : FetchOrder → FetchOrder} (h : Keeps a s) : Keeps a (s.updOrder id f) := by
  unfold State.updOrder
  try dsimp only
  repeat' (first
    | assumption | with_reducible refine updFetch_keeps ?_ | split)

theorem setBuffer_keeps {b : Nat} {v : Option (List Byte)} (h : Keeps a s) : Keeps a (s.setBuffer b v) := by
  unfold State.setBuffer
  try dsimp only
  repeat' (first
    | assumption | with_reducible refine updFetch_keeps ?_ | split)

theorem releaseBuffer_keeps {b : Nat} (h : Keeps a s) : Keeps a (s.releaseBuffer b) := by
  unfold State.releaseBuffer
  try dsimp only
  repeat' (first
    | assumption | with_reducible refine setBuffer_keeps ?_ | split)

theorem kick_keeps {st : Station} (h : Keeps a s) : Keeps a (kick st s) := by
  unfold kick
  try dsimp only
  repeat' (first
    | assumption | with_reducible refine updLink_keeps ?_ (fun _ => rfl) | split)

theorem transmit_keeps (h : Keeps a s) : Keeps a (transmit s) := by
  unfold transmit
  try dsimp only
  repeat' (first
    | assumption | with_reducible refine kick_keeps ?_ | split)

theorem addReply_keeps {st : Station} {r : Reply} (h : Keeps a s) : Keeps a (addReply st r s) := by
  unfold addReply
  try dsimp only
  repeat' (first
    | assumption | with_reducible refine updLink_keeps ?_ (fun _ => rfl) | split)

theorem refuse_keeps {st : Station} {tag kind : Byte} {c : Status} (h : Keeps a s) : Keeps a (refuse st tag kind c s) := by
  unfold refuse
  try dsimp only
  repeat' (first
    | assumption | with_reducible refine addReply_keeps ?_ | split)

theorem addOutstanding_keeps {st : Station} {e : Outstanding} (h : Keeps a s) : Keeps a (addOutstanding st e s) := by
  unfold addOutstanding
  try dsimp only
  repeat' (first
    | assumption | with_reducible refine updLink_keeps ?_ (fun _ => rfl) | split)

theorem replyLong_keeps {st : Station} {r : Reply} (h : Keeps a s) : Keeps a (replyLong st r s) := by
  unfold replyLong
  try dsimp only
  repeat' (first
    | assumption | with_reducible refine addReply_keeps ?_
    | with_reducible refine updLink_keeps ?_ (fun _ => rfl) | split)

theorem askAttention_keeps {st : Station} (h : Keeps a s) : Keeps a (askAttention st s) := by
  unfold askAttention
  try dsimp only
  repeat' (first
    | assumption | with_reducible refine updLink_keeps ?_ (fun _ => rfl) | split)

theorem judge_keeps {st : Station} (h : Keeps a s) : Keeps a (judge st s) := by
  unfold judge
  try dsimp only
  repeat' (first
    | assumption | with_reducible refine updLink_keeps ?_ (fun _ => rfl)
    | with_reducible refine askAttention_keeps ?_ | split)

theorem noticeSet_keeps {i : Nat} (h : Keeps a s) : Keeps a (noticeSet i s) := by
  unfold noticeSet
  try dsimp only
  repeat' (first
    | assumption | with_reducible refine updSource_keeps ?_ (fun _ h => h) | with_reducible refine judge_keeps ?_
    | split)

theorem updCart_keeps {n : Nat} {f : Cartridge → Cartridge} (h : Keeps a s) : Keeps a (s.updCart n f) := by
  unfold State.updCart
  try dsimp only
  repeat' (first
    | assumption | with_reducible refine updLibrary_keeps ?_ (fun _ => rfl) | split)

theorem advanceFrontier_keeps {n : Nat} {x : Side} (h : Keeps a s) : Keeps a (advanceFrontier n x s) := by
  unfold advanceFrontier
  try dsimp only
  repeat' (first
    | assumption | with_reducible refine updCart_keeps ?_ | split)

theorem countDead_keeps {n : Nat} {x : Side} {k : Nat} (h : Keeps a s) : Keeps a (countDead n x k s) := by
  unfold countDead
  try dsimp only
  repeat' (first
    | assumption | with_reducible refine updCart_keeps ?_ | split)

theorem judgePool_keeps (h : Keeps a s) : Keeps a (judgePool s) := by
  unfold judgePool
  try dsimp only
  repeat' (first
    | assumption | with_reducible refine noticeSet_keeps ?_ | split)

theorem withPool_keeps {act : State → State} (h : Keeps a s) (ha : ∀ t, Keeps a t → Keeps a (act t)) :
    Keeps a (withPool act s) := by
  unfold withPool
  dsimp only
  split
  · exact ha _ h
  · exact judgePool_keeps (ha _ h)

theorem makeFull_keeps {n : Nat} {x : Side} (h : Keeps a s) : Keeps a (makeFull n x s) := by
  unfold makeFull
  try dsimp only
  repeat' (first
    | assumption | with_reducible refine noticeSet_keeps ?_ | with_reducible refine updCart_keeps ?_
    | with_reducible refine updLibrary_keeps ?_ (fun _ => rfl) | split)

theorem takeVolume_keeps {n : Nat} {x : Side} {state : SideState} (h : Keeps a s) : Keeps a (takeVolume n x state s) := by
  unfold takeVolume
  try dsimp only
  repeat' (first
    | assumption | with_reducible refine updCart_keeps ?_
    | with_reducible refine updLibrary_keeps ?_ (fun _ => rfl) | split)

theorem labelWritten_keeps {n : Nat} {x : Side} (h : Keeps a s) : Keeps a (labelWritten n x s) := by
  unfold labelWritten
  try dsimp only
  repeat' (first
    | assumption | with_reducible refine withPool_keeps ?_ (fun _ h => ?_)
    | with_reducible refine takeVolume_keeps ?_ | split)

theorem labelFailed_keeps {n : Nat} {x : Side} (h : Keeps a s) : Keeps a (labelFailed n x s) := by
  unfold labelFailed
  try dsimp only
  repeat' (first
    | assumption | with_reducible refine withPool_keeps ?_ (fun _ h => ?_)
    | with_reducible refine takeVolume_keeps ?_ | split)

theorem setShelf_keeps {n : Nat} {v : Bool} (h : Keeps a s) : Keeps a (setShelf n v s) := by
  unfold setShelf
  try dsimp only
  repeat' (first
    | assumption | with_reducible refine updLibrary_keeps ?_ (fun _ => rfl) | split)

theorem updInsp_keeps {id : Nat} {f : Inspection → Inspection} (h : Keeps a s) : Keeps a (s.updInsp id f) := by
  unfold State.updInsp
  try dsimp only
  repeat' (first
    | assumption | with_reducible refine updLibrary_keeps ?_ (fun _ => rfl) | split)

theorem slotCheck_keeps {id : Nat} (h : Keeps a s) : Keeps a (slotCheck id s) := by
  unfold slotCheck
  try dsimp only
  repeat' (first
    | assumption | with_reducible refine noticeSet_keeps ?_ | with_reducible refine updInsp_keeps ?_
    | with_reducible refine updPlanner_keeps ?_ | with_reducible refine wantPass_keeps ?_ | split)

theorem slotRetry_keeps (h : Keeps a s) : Keeps a (slotRetry s) := by
  unfold slotRetry
  try dsimp only
  repeat' (first
    | assumption | with_reducible refine slotCheck_keeps ?_
    | with_reducible refine foldl_keeps ?_ (fun _ _ h => ?_) | split)

theorem addInspection_keeps {origin : Origin} {place : InspPlace} {phase : InspPhase} (h : Keeps a s) : Keeps a (addInspection origin place phase s) := by
  unfold addInspection
  try dsimp only
  repeat' (first
    | assumption | with_reducible refine updLibrary_keeps ?_ (fun _ => rfl) | split)

theorem releaseSlot_keeps {id : Nat} (h : Keeps a s) : Keeps a (releaseSlot id s) := by
  unfold releaseSlot
  try dsimp only
  repeat' (first
    | assumption | with_reducible refine slotRetry_keeps ?_ | with_reducible refine updInsp_keeps ?_ | split)

theorem dropInspReq_keeps {id : Nat} (h : Keeps a s) : Keeps a (dropInspReq id s) := updPlanner_keeps h

theorem dropInspection_keeps {id : Nat} (h : Keeps a s) : Keeps a (dropInspection id s) := by
  unfold dropInspection
  exact wantPasses_keeps (dropInspReq_keeps (withPool_keeps h fun _ h => updLibrary_keeps h (fun _ => rfl)))

theorem endInspection_keeps {id : Nat} (h : Keeps a s) : Keeps a (endInspection id s) := by
  unfold endInspection
  try dsimp only
  repeat' (first
    | assumption | with_reducible refine slotRetry_keeps ?_ | with_reducible refine dropInspection_keeps ?_
    | split)

theorem rejectInspection_keeps {id : Nat} {reason : RejectReason} {await : Bool} (h : Keeps a s) : Keeps a (rejectInspection id reason await s) := by
  unfold rejectInspection
  try dsimp only
  repeat' (first
    | assumption | with_reducible refine updInsp_keeps ?_
    | with_reducible refine updLibrary_keeps ?_ (fun _ => rfl) | with_reducible refine noticeSet_keeps ?_
    | with_reducible refine releaseSlot_keeps ?_ | split)

theorem abandonInspection_keeps {id : Nat} (h : Keeps a s) : Keeps a (abandonInspection id s) := by
  unfold abandonInspection
  try dsimp only
  repeat' (first
    | assumption | with_reducible refine noticeSet_keeps ?_ | with_reducible refine endInspection_keeps ?_
    | with_reducible refine updLibrary_keeps ?_ (fun _ => rfl) | split)

theorem setLocation_keeps {n : Nat} {loc : Location} {up : Option Side} (h : Keeps a s) : Keeps a (setLocation n loc up s) := by
  unfold setLocation
  try dsimp only
  repeat' (first
    | assumption | with_reducible refine withPool_keeps ?_ (fun _ h => ?_)
    | with_reducible refine updCart_keeps ?_ | split)

theorem markMissing_keeps {n : Nat} (h : Keeps a s) : Keeps a (markMissing n s) := by
  unfold markMissing
  try dsimp only
  repeat' (first
    | assumption | with_reducible refine setLocation_keeps ?_ | split)

theorem leaveCabinet_keeps {n : Nat} (h : Keeps a s) : Keeps a (leaveCabinet n s) := by
  unfold leaveCabinet
  try dsimp only
  repeat' (first
    | assumption | with_reducible refine withPool_keeps ?_ (fun _ h => ?_)
    | with_reducible refine updCart_keeps ?_ | with_reducible refine makeFull_keeps ?_
    | with_reducible refine updLibrary_keeps ?_ (fun _ => rfl) | with_reducible refine slotRetry_keeps ?_
    | split)

theorem updOrders_keeps {f : List MoveOrder → List MoveOrder} (h : Keeps a s) : Keeps a (s.updOrders f) := by
  unfold State.updOrders
  try dsimp only
  repeat' (first
    | assumption | with_reducible refine updArm_keeps ?_ (fun _ => rfl) | split)

theorem takeOrderNumber_keeps {n : Nat} {t : State} (h : Keeps a s) (e : takeOrderNumber s = (n, t)) : Keeps a t := by
  cases e
  exact updArm_keeps h (fun _ => rfl)

theorem askOrder_keeps {o : MoveOrder} {n : Nat} {t : State} (h : Keeps a s) (e : askOrder o s = .ok (n, t)) :
    Keeps a t := by
  unfold askOrder at e
  split at e
  · cases e
  · split at e
    · cases e
    · split at e
      · cases e
      · cases e
        exact updOrders_keeps (updArm_keeps h (fun _ => rfl))

theorem dropPlan_keeps {p : Plan} (h : Keeps a s) : Keeps a (dropPlan p s) := by
  unfold dropPlan
  try dsimp only
  repeat' (first
    | assumption | with_reducible refine updPlanner_keeps ?_ | split)

theorem replanImport_keeps {p : Plan} (h : Keeps a s) : Keeps a (replanImport p s) := by
  unfold replanImport
  try dsimp only
  repeat' (first
    | assumption | with_reducible refine wantPass_keeps ?_ | with_reducible refine updInsp_keeps ?_ | with_reducible refine updPlanner_keeps ?_ | split)

theorem ordersGone_keeps {gone : List MoveOrder} {how : Gone} (h : Keeps a s) : Keeps a (ordersGone gone how s) := by
  unfold ordersGone
  extract_lets ns s1 s2 lost s3
  have h2 : Keeps a s2 := foldl_keeps (drives_keeps h) (fun _ _ h => replanImport_keeps (dropPlan_keeps h))
  exact wantPasses_keeps (updLibrary_keeps h2 (fun _ => rfl))

theorem dropOrders_keeps {ns : List Nat} {how : Gone} (h : Keeps a s) : Keeps a (dropOrders ns how s) := by
  unfold dropOrders
  try dsimp only
  repeat' (first
    | assumption | with_reducible refine ordersGone_keeps ?_ | with_reducible refine updOrders_keeps ?_ | split)

theorem withdraw_keeps {n : Nat} {t : State} (h : Keeps a s) (e : withdraw n s = .ok t) : Keeps a t := by
  unfold withdraw at e
  split at e
  · cases e
  · split at e
    · cases e
      exact dropOrders_keeps h
    · cases e

theorem tryWithdraw_keeps {n : Nat} (h : Keeps a s) : Keeps a (tryWithdraw n s) := by
  unfold tryWithdraw
  try dsimp only
  repeat' (first
    | assumption | split | refine withdraw_keeps ?_ (by assumption))

theorem updAccount_keeps {n : Nat} {f : Account → Account} (h : Keeps a s) : Keeps a (s.updAccount n f) := by
  unfold State.updAccount
  try dsimp only
  repeat' (first
    | assumption | with_reducible refine updFee_keeps ?_ (fun _ => ⟨rfl, rfl, rfl, rfl, rfl⟩) | split)

theorem settleFetch_keeps {o : FetchOrder} {outcome : Status} {c r : Nat} {t : State} (h : Keeps a s)
    (e : settleFetch o outcome s = (c, r, t)) : Keeps a t := by
  have base : Keeps a ((if o.account = 0 then s else s.updAccount o.account
      (settleAccount o.snap.category (feeCharge o.snap o.kind o.delivered
        (dayTotalOf (if o.account = 0 then none else s.account? o.account)) o.estimate))).updFee fun u =>
    { u with
      holds := u.holds.filter fun h => h.id ≠ o.id
      today := u.today.add o.snap.cls o.kind o.snap.category o.delivered
        (feeCharge o.snap o.kind o.delivered (dayTotalOf (if o.account = 0 then none else s.account? o.account)) o.estimate) }) := by
    refine updFee_keeps ?_ (fun _ => ⟨rfl, rfl, rfl, rfl, rfl⟩)
    split
    · exact h
    · exact updAccount_keeps h
  unfold settleFetch at e
  dsimp only at e
  generalize State.updFee _ _ = b at base e
  split at e
  · obtain ⟨-, -, rfl⟩ : _ ∧ _ ∧ _ := by simpa [Prod.ext_iff] using e
    repeat' (first
      | assumption | with_reducible refine noticeSet_keeps ?_
      | with_reducible refine updFee_keeps ?_ (fun _ => ⟨rfl, rfl, rfl, rfl, rfl⟩) | split)
  · obtain ⟨-, -, rfl⟩ : _ ∧ _ ∧ _ := by simpa [Prod.ext_iff] using e
    exact base

theorem closeDay_keeps {date : Nat} (hd : date ≤ 65535) (h : Keeps a s) : Keeps a (closeDay date s) := by
  refine noticeSet_keeps (h.trans ⟨rfl, rfl, fun k => { k with date := hd }, id, .refl _⟩)

end Sys2Proof.Machine
end

