-- ==== Sys2Proof/Laws/KeepsUnits.lean ====
section
/-! SUPPORT. What the acts of the drives, the Fetch Engine and the Filing Writer keep. -/

set_option Elab.async false
set_option linter.all false


namespace Sys2Proof.Machine

open Sys2Proof

variable {a s : State}

theorem issue_keeps {d : DriveId} {cmd : DriveCmd} {owner : Owner} (h : Keeps a s) : Keeps a (issue d cmd owner s) := by
  unfold issue
  try dsimp only
  repeat' (first
    | assumption | with_reducible refine updDrive_keeps ?_ | split)

theorem spinUp_keeps {d : DriveId} (h : Keeps a s) : Keeps a (spinUp d s) := by
  unfold spinUp
  try dsimp only
  repeat' (first
    | assumption | with_reducible refine issue_keeps ?_ | with_reducible refine spinUp_keeps ?_ | split)

theorem becomeEmpty_keeps {d : DriveId} (h : Keeps a s) : Keeps a (becomeEmpty d s) := by
  unfold becomeEmpty
  try dsimp only
  repeat' (first
    | assumption | with_reducible refine updDrive_keeps ?_ | with_reducible refine wantPass_keeps ?_ | split)

theorem driveTaken_keeps {d : DriveId} (h : Keeps a s) : Keeps a (driveTaken d s) := by
  unfold driveTaken
  try dsimp only
  repeat' (first
    | assumption | with_reducible refine becomeEmpty_keeps ?_ | with_reducible refine updDrive_keeps ?_ | split)

theorem drivePlaced_keeps {d : DriveId} {ref : CartRef} {side : Option Side} (h : Keeps a s) : Keeps a (drivePlaced d ref side s) := by
  unfold drivePlaced
  try dsimp only
  repeat' (first
    | assumption | with_reducible refine spinUp_keeps ?_ | with_reducible refine updDrive_keeps ?_ | split)

theorem startUnload_keeps {d : DriveId} (h : Keeps a s) : Keeps a (startUnload d s) := by
  unfold startUnload
  try dsimp only
  repeat' (first
    | assumption | with_reducible refine issue_keeps ?_ | with_reducible refine updDrive_keeps ?_ | split)

theorem requestUnload_keeps {d : DriveId} {t : State} (h : Keeps a s) (e : requestUnload d s = some t) : Keeps a t := by
  unfold requestUnload at e
  try dsimp only at e
  repeat' split at e
  all_goals cases e
  all_goals repeat' (first
    | assumption | with_reducible refine startUnload_keeps ?_ | with_reducible refine updDrive_keeps ?_
    | with_reducible refine issue_keeps ?_ | split)

theorem unitEnd_keeps {d : DriveId} (h : Keeps a s) : Keeps a (unitEnd d s) := by
  unfold unitEnd
  try dsimp only
  repeat' (first
    | assumption | with_reducible refine updDrive_keeps ?_ | with_reducible refine wantPass_keeps ?_
    | with_reducible refine becomeEmpty_keeps ?_ | with_reducible refine startUnload_keeps ?_ | split)

theorem startUnit_keeps {d : DriveId} {w : UnitWork} (h : Keeps a s) : Keeps a (startUnit d w s) := by
  unfold startUnit
  try dsimp only
  repeat' (first
    | assumption | with_reducible refine updDrive_keeps ?_ | split)

theorem continueUnit_keeps {d : DriveId} {w : UnitWork} (h : Keeps a s) : Keeps a (continueUnit d w s) := by
  unfold continueUnit
  try dsimp only
  repeat' (first
    | assumption | with_reducible refine updDrive_keeps ?_ | split)

theorem endUnitLater_keeps {d : DriveId} (h : Keeps a s) : Keeps a (endUnitLater d s) := by
  unfold endUnitLater
  try dsimp only
  repeat' (first
    | assumption | with_reducible refine updDrive_keeps ?_ | split)

theorem restartIdle_keeps {d : DriveId} (h : Keeps a s) : Keeps a (restartIdle d s) := by
  unfold restartIdle
  try dsimp only
  repeat' (first
    | assumption | with_reducible refine updDrive_keeps ?_ | split)

theorem setPin_keeps {d : DriveId} {t : State} (h : Keeps a s) (e : setPin d s = some t) : Keeps a t := by
  unfold setPin at e
  try dsimp only at e
  repeat' split at e
  all_goals cases e
  all_goals repeat' (first
    | assumption | with_reducible refine restartIdle_keeps ?_ | with_reducible refine updDrive_keeps ?_ | split)

theorem liftPin_keeps {d : DriveId} (h : Keeps a s) : Keeps a (liftPin d s) := by
  unfold liftPin
  try dsimp only
  repeat' (first
    | assumption | with_reducible refine restartIdle_keeps ?_ | with_reducible refine updDrive_keeps ?_
    | with_reducible refine wantPass_keeps ?_ | split)

theorem startTrailerRead_keeps {d : DriveId} {o : FetchOrder} (h : Keeps a s) : Keeps a (startTrailerRead d o s) := by
  unfold startTrailerRead
  try dsimp only
  repeat' (first
    | assumption | with_reducible refine issue_keeps ?_ | with_reducible refine startUnit_keeps ?_
    | with_reducible refine getD_keeps ?_ (fun _ _ => ?_) | split)

theorem startPageRead_keeps {d : DriveId} {o : FetchOrder} {b : Nat} (h : Keeps a s) : Keeps a (startPageRead d o b s) := by
  unfold startPageRead
  try dsimp only
  repeat' (first
    | assumption | with_reducible refine setBuffer_keeps ?_ | with_reducible refine updOrder_keeps ?_
    | with_reducible refine issue_keeps ?_ | with_reducible refine startUnit_keeps ?_
    | with_reducible refine getD_keeps ?_ (fun _ _ => ?_) | split)

theorem startFetchUnit_keeps {d : DriveId} {id : FetchId} (h : Keeps a s) : Keeps a (startFetchUnit d id s) := by
  unfold startFetchUnit
  try dsimp only
  repeat' (first
    | assumption | with_reducible refine updDrive_keeps ?_ | with_reducible refine startTrailerRead_keeps ?_
    | with_reducible refine startPageRead_keeps ?_ | split)

theorem putBack_keeps {d : DriveId} {id : FetchId} (h : Keeps a s) : Keeps a (putBack d id s) := by
  unfold putBack
  try dsimp only
  repeat' (first
    | assumption | with_reducible refine updDrive_keeps ?_ | split)

theorem removeWaiter_keeps {id : FetchId} (h : Keeps a s) : Keeps a (removeWaiter id s) := by
  unfold removeWaiter
  try dsimp only
  repeat' (first
    | assumption | with_reducible refine updPlanner_keeps ?_ | with_reducible refine tryWithdraw_keeps ?_
    | split)

theorem takeOut_keeps {o : FetchOrder} (h : Keeps a s) : Keeps a (takeOut o s) := by
  unfold takeOut
  try dsimp only
  repeat' (first
    | assumption | with_reducible refine removeWaiter_keeps ?_ | with_reducible refine endUnitLater_keeps ?_
    | with_reducible refine updDrive_keeps ?_ | with_reducible refine wantPass_keeps ?_ | split)

theorem orphanFrame_profile (id : FetchId) (l : Link) : (orphanFrame id l).profile = l.profile := by
  unfold orphanFrame
  split
  · split <;> rfl
  · rfl

theorem dropPages_keeps {o : FetchOrder} (h : Keeps a s) : Keeps a (dropPages o s) := by
  unfold dropPages
  extract_lets s1 s2 s3
  have h1 : Keeps a s1 := by unfold s1; split; exacts [releaseBuffer_keeps h, h]
  have h2 : Keeps a s2 := by unfold s2; split; exacts [releaseBuffer_keeps h1, h1]
  exact updLink_keeps (updFetch_keeps h2) (fun l => orphanFrame_profile ..)

theorem completeFetch_keeps {id : FetchId} {outcome : Status} (h : Keeps a s) :
    Keeps a (completeFetch id outcome s) := by
  unfold completeFetch
  split
  · exact h
  · next o _ =>
    dsimp only
    have := settleFetch_keeps (outcome := outcome) (o := o) (dropPages_keeps (o := o) (takeOut_keeps (o := o) h)) rfl
    exact updFetch_keeps (replyLong_keeps this)

theorem completeAll_keeps {ids : List FetchId} {outcome : Status} (h : Keeps a s) : Keeps a (completeAll ids outcome s) := by
  unfold completeAll
  try dsimp only
  repeat' (first
    | assumption | with_reducible refine completeFetch_keeps ?_
    | with_reducible refine foldl_keeps ?_ (fun _ _ h => ?_) | split)

theorem trailerFailed_keeps {d : DriveId} {id : FetchId} (h : Keeps a s) : Keeps a (trailerFailed d id s) := by
  unfold trailerFailed
  try dsimp only
  repeat' (first
    | assumption | with_reducible refine completeFetch_keeps ?_ | with_reducible refine unitEnd_keeps ?_ | split)

theorem trailerAnswer_keeps {d : DriveId} {id : FetchId} {sector tries : Nat} {r : SectorRead} {cut : Bool} (h : Keeps a s) : Keeps a (trailerAnswer d id sector tries r cut s) := by
  unfold trailerAnswer
  try dsimp only
  repeat' (first
    | assumption | with_reducible refine unitEnd_keeps ?_ | with_reducible refine putBack_keeps ?_
    | with_reducible refine updOrder_keeps ?_ | with_reducible refine trailerFailed_keeps ?_
    | with_reducible refine issue_keeps ?_ | with_reducible refine continueUnit_keeps ?_ | split)

theorem pageUnreadable_keeps {d : DriveId} {id : FetchId} {b : Nat} (h : Keeps a s) : Keeps a (pageUnreadable d id b s) := by
  unfold pageUnreadable
  try dsimp only
  repeat' (first
    | assumption | with_reducible refine releaseBuffer_keeps ?_ | with_reducible refine updOrder_keeps ?_
    | with_reducible refine unitEnd_keeps ?_ | with_reducible refine completeFetch_keeps ?_
    | with_reducible refine putBack_keeps ?_ | split)

theorem pageStaged_keeps {d : DriveId} {id : FetchId} {b : Nat} {bytes : List Byte} (h : Keeps a s) : Keeps a (pageStaged d id b bytes s) := by
  unfold pageStaged
  try dsimp only
  repeat' (first
    | assumption | with_reducible refine setBuffer_keeps ?_ | with_reducible refine updOrder_keeps ?_
    | with_reducible refine updFetch_keeps ?_ | with_reducible refine unitEnd_keeps ?_
    | with_reducible refine putBack_keeps ?_ | split)

theorem pageAnswer_keeps {d : DriveId} {id : FetchId} {b : Nat} {ps : List PageSector} {at_ n : Nat} {rs : List SectorRead} {cut : Bool} (h : Keeps a s) : Keeps a (pageAnswer d id b ps at_ n rs cut s) := by
  unfold pageAnswer
  try dsimp only
  repeat' (first
    | assumption | with_reducible refine pageUnreadable_keeps ?_ | with_reducible refine pageStaged_keeps ?_
    | with_reducible refine issue_keeps ?_ | with_reducible refine continueUnit_keeps ?_
    | with_reducible refine getD_keeps ?_ (fun _ _ => ?_) | split)

theorem beginDelivery_keeps {o : FetchOrder} (h : Keeps a s) : Keeps a (beginDelivery o s) := by
  unfold beginDelivery
  try dsimp only
  repeat' (first
    | assumption | with_reducible refine updOrder_keeps ?_ | with_reducible refine updFetch_keeps ?_
    | with_reducible refine updLink_keeps ?_ (fun _ => rfl) | split)

theorem adjustStall_keeps {o : FetchOrder} (h : Keeps a s) : Keeps a (adjustStall o s) := by
  unfold adjustStall
  try dsimp only
  repeat' (first
    | assumption | with_reducible refine updOrder_keeps ?_ | split)

theorem pageDelivered_keeps {id : FetchId} (h : Keeps a s) : Keeps a (pageDelivered id s) := by
  unfold pageDelivered
  try dsimp only
  repeat' (first
    | assumption | with_reducible refine releaseBuffer_keeps ?_ | with_reducible refine updOrder_keeps ?_
    | with_reducible refine updLink_keeps ?_ (fun _ => rfl) | with_reducible refine completeFetch_keeps ?_
    | split)

theorem dataSent_keeps {id : FetchId} {last : Bool} (h : Keeps a s) : Keeps a (dataSent id last s) := by
  unfold dataSent
  try dsimp only
  repeat' (first
    | assumption | with_reducible refine updOrder_keeps ?_ | with_reducible refine pageDelivered_keeps ?_
    | split)

theorem updCounts_keeps {f : RunCounts → RunCounts} (h : Keeps a s) : Keeps a (updCounts f s) := by
  unfold updCounts
  try dsimp only
  repeat' (first
    | assumption | with_reducible refine updRun_keeps ?_ | split)

theorem countAborted_keeps (h : Keeps a s) : Keeps a (countAborted s) := by
  unfold countAborted
  try dsimp only
  repeat' (first
    | assumption | with_reducible refine updCounts_keeps ?_ | split)

theorem countDiscarded_keeps {k : Nat} (h : Keeps a s) : Keeps a (countDiscarded k s) := by
  unfold countDiscarded
  try dsimp only
  repeat' (first
    | assumption | with_reducible refine updCounts_keeps ?_ | split)

theorem popRing_keeps (h : Keeps a s) : Keeps a (popRing s) := by
  unfold popRing
  try dsimp only
  repeat' (first
    | assumption | with_reducible refine updRun_keeps ?_ | split)

theorem flushRing_keeps (h : Keeps a s) : Keeps a (flushRing s) := by
  unfold flushRing
  try dsimp only
  repeat' (first
    | assumption | with_reducible refine countDiscarded_keeps ?_ | with_reducible refine updRun_keeps ?_ | split)

theorem enterWaiting_keeps (h : Keeps a s) : Keeps a (enterWaiting s) := by
  unfold enterWaiting
  try dsimp only
  repeat' (first
    | assumption | with_reducible refine updRun_keeps ?_ | split)

theorem updInstrument_keeps {f : Instrument → Instrument} (h : Keeps a s) : Keeps a (updInstrument f s) := by
  unfold updInstrument
  try dsimp only
  repeat' (first
    | assumption | with_reducible refine updRun_keeps ?_ | split)

theorem makeFilingReq_keeps {p : Nat × Side} (h : Keeps a s) : Keeps a (makeFilingReq p s) := by
  unfold makeFilingReq
  try dsimp only
  repeat' (first
    | assumption | with_reducible refine updPlanner_keeps ?_ | with_reducible refine wantPass_keeps ?_ | split)

theorem withdrawFilingReq_keeps (h : Keeps a s) : Keeps a (withdrawFilingReq s) := by
  unfold withdrawFilingReq
  try dsimp only
  repeat' (first
    | assumption | with_reducible refine updPlanner_keeps ?_ | with_reducible refine wantPass_keeps ?_
    | with_reducible refine tryWithdraw_keeps ?_ | with_reducible refine foldl_keeps ?_ (fun _ _ h => ?_)
    | split)

theorem endFilingUnits_keeps (h : Keeps a s) : Keeps a (endFilingUnits s) := by
  unfold endFilingUnits
  try dsimp only
  repeat' (first
    | assumption | with_reducible refine drives_keeps ?_ | split)

theorem dropInstrument_keeps (h : Keeps a s) : Keeps a (dropInstrument s) := by
  unfold dropInstrument
  try dsimp only
  repeat' (first
    | assumption | with_reducible refine countDead_keeps ?_
    | with_reducible refine orUnchanged_keeps ?_ (fun _ _ => ?_) | with_reducible refine countAborted_keeps ?_
    | with_reducible refine updRun_keeps ?_ | with_reducible refine getD_keeps ?_ (fun _ _ => ?_) | split
    | refine removeEntry_keeps ?_ (by assumption))

theorem disengage_keeps (h : Keeps a s) : Keeps a (disengage s) := by
  unfold disengage
  try dsimp only
  repeat' (first
    | assumption | with_reducible refine liftPin_keeps ?_ | with_reducible refine updRun_keeps ?_ | split)

theorem dropLabel_keeps (h : Keeps a s) : Keeps a (dropLabel s) := by
  unfold dropLabel
  try dsimp only
  repeat' (first
    | assumption | with_reducible refine labelFailed_keeps ?_ | with_reducible refine updRun_keeps ?_ | split)

theorem dropPending_keeps (h : Keeps a s) : Keeps a (dropPending s) := by
  unfold dropPending
  try dsimp only
  repeat' (first
    | assumption | with_reducible refine countAborted_keeps ?_ | with_reducible refine updRun_keeps ?_ | split)

theorem abortCore_keeps (h : Keeps a s) : Keeps a (abortCore s) := by
  unfold abortCore
  try dsimp only
  repeat' (first
    | assumption | with_reducible refine withdrawFilingReq_keeps ?_ | with_reducible refine flushRing_keeps ?_
    | with_reducible refine dropPending_keeps ?_ | with_reducible refine dropInstrument_keeps ?_
    | with_reducible refine disengage_keeps ?_
    | with_reducible refine dropLabel_keeps ?_ | with_reducible refine endFilingUnits_keeps ?_
    | with_reducible refine updRun_keeps ?_ | split)

theorem closeRun_keeps (h : Keeps a s) : Keeps a (closeRun s) := by
  unfold closeRun
  try dsimp only
  repeat' (first
    | assumption | with_reducible refine updRun_keeps ?_ | split)

theorem replyOpen_keeps {c : Status} {b : ReplyBody} (h : Keeps a s) : Keeps a (replyOpen c b s) := by
  unfold replyOpen
  try dsimp only
  repeat' (first
    | assumption | with_reducible refine replyLong_keeps ?_ | with_reducible refine updRun_keeps ?_ | split)

theorem replyClose_keeps {c : Status} {b : ReplyBody} (h : Keeps a s) : Keeps a (replyClose c b s) := by
  unfold replyClose
  try dsimp only
  repeat' (first
    | assumption | with_reducible refine replyLong_keeps ?_ | with_reducible refine updRun_keeps ?_ | split)

theorem runFailure_keeps {reason : Status} (h : Keeps a s) : Keeps a (runFailure reason s) := by
  unfold runFailure
  try dsimp only
  repeat' (first
    | assumption | with_reducible refine abortCore_keeps ?_ | with_reducible refine updRun_keeps ?_
    | with_reducible refine closeRun_keeps ?_ | with_reducible refine replyOpen_keeps ?_
    | with_reducible refine replyClose_keeps ?_ | split)

theorem completeClose_keeps {outcome : Status} (h : Keeps a s) : Keeps a (completeClose outcome s) := by
  unfold completeClose
  try dsimp only
  repeat' (first
    | assumption | with_reducible refine flushRing_keeps ?_ | with_reducible refine disengage_keeps ?_
    | with_reducible refine updRun_keeps ?_ | with_reducible refine closeRun_keeps ?_
    | with_reducible refine replyClose_keeps ?_ | split)

theorem endInstrument_keeps {c : Status} {place : EndAt} (h : Keeps a s) : Keeps a (endInstrument c place s) := by
  unfold endInstrument
  try dsimp only
  repeat' (first
    | assumption | with_reducible refine dropInstrument_keeps ?_ | with_reducible refine completeClose_keeps ?_
    | with_reducible refine runFailure_keeps ?_ | with_reducible refine countDiscarded_keeps ?_
    | with_reducible refine popRing_keeps ?_ | with_reducible refine updRun_keeps ?_ | split)

theorem startRollover_keeps {p : Nat × Side} (h : Keeps a s) : Keeps a (startRollover p s) := by
  unfold startRollover
  try dsimp only
  repeat' (first
    | assumption | with_reducible refine makeFull_keeps ?_ | with_reducible refine makeFilingReq_keeps ?_
    | with_reducible refine disengage_keeps ?_ | with_reducible refine updRun_keeps ?_ | split)

theorem beginRollover_keeps (h : Keeps a s) : Keeps a (beginRollover s) := by
  unfold beginRollover
  try dsimp only
  repeat' (first
    | assumption | with_reducible refine runFailure_keeps ?_ | with_reducible refine startRollover_keeps ?_
    | split)

theorem rechoose_keeps {n : Nat} (h : Keeps a s) : Keeps a (rechoose n s) := by
  unfold rechoose
  try dsimp only
  repeat' (first
    | assumption | with_reducible refine withdrawFilingReq_keeps ?_ | with_reducible refine updRun_keeps ?_
    | with_reducible refine runFailure_keeps ?_ | with_reducible refine makeFilingReq_keeps ?_ | split)

theorem leaveOpening_keeps (h : Keeps a s) : Keeps a (leaveOpening s) := by
  unfold leaveOpening
  try dsimp only
  repeat' (first
    | assumption | with_reducible refine updRun_keeps ?_ | with_reducible refine enterWaiting_keeps ?_ | split)

theorem separatorLost_keeps (h : Keeps a s) : Keeps a (separatorLost s) := by
  unfold separatorLost
  try dsimp only
  repeat' (first
    | assumption | with_reducible refine popRing_keeps ?_ | with_reducible refine countAborted_keeps ?_
    | with_reducible refine updRun_keeps ?_ | split)

theorem createSeparated_keeps {n : Nat} (h : Keeps a s) : Keeps a (createSeparated n s) := by
  unfold createSeparated
  try dsimp only
  repeat' (first
    | assumption | with_reducible refine separatorLost_keeps ?_ | with_reducible refine popRing_keeps ?_
    | with_reducible refine updRun_keeps ?_ | split | refine createEntry_keeps ?_ (by assumption))

theorem replyEngaged_keeps (h : Keeps a s) : Keeps a (replyEngaged s) := by
  unfold replyEngaged
  try dsimp only
  repeat' (first
    | assumption | with_reducible refine replyOpen_keeps ?_ | with_reducible refine getD_keeps ?_ (fun _ _ => ?_)
    | split)

theorem engage_keeps (h : Keeps a s) : Keeps a (engage s) := by
  unfold engage
  try dsimp only
  repeat' (first
    | assumption | with_reducible refine beginRollover_keeps ?_ | with_reducible refine runFailure_keeps ?_
    | with_reducible refine replyEngaged_keeps ?_ | with_reducible refine leaveOpening_keeps ?_
    | with_reducible refine updRun_keeps ?_ | with_reducible refine createSeparated_keeps ?_ | split
    | refine createEntry_keeps ?_ (by assumption))

theorem pinAndEngage_keeps {d : DriveId} (h : Keeps a s) : Keeps a (pinAndEngage d s) := by
  unfold pinAndEngage
  try dsimp only
  repeat' (first
    | assumption | with_reducible refine makeFilingReq_keeps ?_ | with_reducible refine updRun_keeps ?_
    | with_reducible refine engage_keeps ?_ | split | refine setPin_keeps ?_ (by assumption))

theorem sideReported_keeps {d : DriveId} (h : Keeps a s) : Keeps a (sideReported d s) := by
  unfold sideReported
  try dsimp only
  repeat' (first
    | assumption | with_reducible refine updRun_keeps ?_ | with_reducible refine pinAndEngage_keeps ?_ | split)

theorem issueWrite_keeps {d : DriveId} {kind : PassKind} {n : Nat} {x : Side} {sectors : List (List Byte)} (h : Keeps a s) : Keeps a (issueWrite d kind n x sectors s) := by
  unfold issueWrite
  try dsimp only
  repeat' (first
    | assumption | with_reducible refine unitEnd_keeps ?_ | with_reducible refine endInstrument_keeps ?_
    | with_reducible refine issue_keeps ?_ | with_reducible refine continueUnit_keeps ?_
    | with_reducible refine getD_keeps ?_ (fun _ _ => ?_) | split)

theorem startFilingUnit_keeps {d : DriveId} {step : FilingStep} (h : Keeps a s) : Keeps a (startFilingUnit d step s) := by
  unfold startFilingUnit
  try dsimp only
  repeat' (first
    | assumption | with_reducible refine updInstrument_keeps ?_ | with_reducible refine issueWrite_keeps ?_
    | with_reducible refine startUnit_keeps ?_ | with_reducible refine issue_keeps ?_
    | with_reducible refine updRun_keeps ?_ | split)

theorem attemptFailed_keeps {kind : PassKind} {n : Nat} {x : Side} (h : Keeps a s) : Keeps a (attemptFailed kind n x s) := by
  unfold attemptFailed
  try dsimp only
  repeat' (first
    | assumption | with_reducible refine countDead_keeps ?_ | with_reducible refine updInstrument_keeps ?_
    | with_reducible refine endInstrument_keeps ?_ | with_reducible refine getD_keeps ?_ (fun _ _ => ?_) | split)

theorem sectorPassed_keeps {n : Nat} {x : Side} (h : Keeps a s) : Keeps a (sectorPassed n x s) := by
  unfold sectorPassed
  try dsimp only
  repeat' (first
    | assumption | with_reducible refine updInstrument_keeps ?_ | with_reducible refine advanceFrontier_keeps ?_
    | split)

theorem writePassAnswer_keeps {d : DriveId} {kind : PassKind} {n : Nat} {x : Side} {left : List (List Byte)} {ended : Bool} {r : Option WriteResult} (h : Keeps a s) : Keeps a (writePassAnswer d kind n x left ended r s) := by
  unfold writePassAnswer
  try dsimp only
  repeat' (first
    | assumption | with_reducible refine unitEnd_keeps ?_ | with_reducible refine countDead_keeps ?_
    | with_reducible refine advanceFrontier_keeps ?_ | with_reducible refine sectorPassed_keeps ?_
    | with_reducible refine updInstrument_keeps ?_ | with_reducible refine issueWrite_keeps ?_
    | with_reducible refine attemptFailed_keeps ?_ | split)

theorem pageVerified_keeps {i : Instrument} {p : RingSlot} (h : Keeps a s) : Keeps a (pageVerified i p s) := by
  unfold pageVerified
  try dsimp only
  repeat' (first
    | assumption | with_reducible refine endInstrument_keeps ?_ | with_reducible refine updInstrument_keeps ?_
    | with_reducible refine noticeSet_keeps ?_ | with_reducible refine popRing_keeps ?_
    | with_reducible refine updRun_keeps ?_ | with_reducible refine getD_keeps ?_ (fun _ _ => ?_) | split
    | refine extendEntry_keeps ?_ (by assumption))

theorem countInstrument_keeps {number : Nat} (h : Keeps a s) : Keeps a (countInstrument number s) := by
  unfold countInstrument
  try dsimp only
  repeat' (first
    | assumption | with_reducible refine updCart_keeps ?_ | split)

theorem trailerVerified_keeps {i : Instrument} (h : Keeps a s) : Keeps a (trailerVerified i s) := by
  unfold trailerVerified
  try dsimp only
  repeat' (first
    | assumption | with_reducible refine endInstrument_keeps ?_ | with_reducible refine countInstrument_keeps ?_
    | with_reducible refine noticeSet_keeps ?_ | with_reducible refine updCounts_keeps ?_
    | with_reducible refine updRun_keeps ?_ | split | refine commitEntry_keeps ?_ (by assumption))

theorem verifyPassAnswer_keeps {d : DriveId} {kind : PassKind} {ended pass : Bool} (h : Keeps a s) : Keeps a (verifyPassAnswer d kind ended pass s) := by
  unfold verifyPassAnswer
  try dsimp only
  repeat' (first
    | assumption | with_reducible refine unitEnd_keeps ?_ | with_reducible refine trailerVerified_keeps ?_
    | with_reducible refine pageVerified_keeps ?_ | with_reducible refine attemptFailed_keeps ?_ | split)

theorem probeAnswer_keeps {d : DriveId} {n : Nat} {x : Side} {ended : Bool} {r : BlankResult} (h : Keeps a s) : Keeps a (probeAnswer d n x ended r s) := by
  unfold probeAnswer
  try dsimp only
  repeat' (first
    | assumption | with_reducible refine unitEnd_keeps ?_ | with_reducible refine engage_keeps ?_
    | with_reducible refine updRun_keeps ?_ | with_reducible refine updLibrary_keeps ?_ (fun _ => rfl)
    | with_reducible refine advanceFrontier_keeps ?_ | with_reducible refine countDead_keeps ?_
    | with_reducible refine makeFull_keeps ?_ | with_reducible refine getD_keeps ?_ (fun _ _ => ?_) | split)

theorem labelFailedAgain_keeps {n : Nat} {x : Side} (h : Keeps a s) : Keeps a (labelFailedAgain n x s) := by
  unfold labelFailedAgain
  try dsimp only
  repeat' (first
    | assumption | with_reducible refine rechoose_keeps ?_ | with_reducible refine labelFailed_keeps ?_ | split)

theorem labelCut_keeps {n : Nat} {x : Side} (h : Keeps a s) : Keeps a (labelCut n x s) := by
  unfold labelCut
  try dsimp only
  repeat' (first
    | assumption | with_reducible refine labelFailed_keeps ?_ | with_reducible refine updRun_keeps ?_ | split)

theorem labelWriteAnswer_keeps {d : DriveId} {n : Nat} {x : Side} {ended : Bool} {r : Option WriteResult} (h : Keeps a s) : Keeps a (labelWriteAnswer d n x ended r s) := by
  unfold labelWriteAnswer
  try dsimp only
  repeat' (first
    | assumption | with_reducible refine unitEnd_keeps ?_ | with_reducible refine labelFailed_keeps ?_
    | with_reducible refine updRun_keeps ?_ | with_reducible refine labelFailedAgain_keeps ?_
    | with_reducible refine labelCut_keeps ?_ | split)

theorem labelVerified_keeps {d : DriveId} {n : Nat} {x : Side} (h : Keeps a s) : Keeps a (labelVerified d n x s) := by
  unfold labelVerified
  try dsimp only
  repeat' (first
    | assumption | with_reducible refine labelWritten_keeps ?_ | with_reducible refine updRun_keeps ?_
    | with_reducible refine updLibrary_keeps ?_ (fun _ => rfl) | with_reducible refine pinAndEngage_keeps ?_
    | split)

theorem labelVerifyAnswer_keeps {d : DriveId} {n : Nat} {x : Side} {ended pass cut : Bool} (h : Keeps a s) : Keeps a (labelVerifyAnswer d n x ended pass cut s) := by
  unfold labelVerifyAnswer
  try dsimp only
  repeat' (first
    | assumption | with_reducible refine unitEnd_keeps ?_ | with_reducible refine labelFailed_keeps ?_
    | with_reducible refine labelCut_keeps ?_ | with_reducible refine labelVerified_keeps ?_
    | with_reducible refine labelFailedAgain_keeps ?_ | split)

theorem atSeparator_keeps {n : Nat} (h : Keeps a s) : Keeps a (atSeparator n s) := by
  unfold atSeparator
  try dsimp only
  repeat' (first
    | assumption | with_reducible refine updRun_keeps ?_ | with_reducible refine separatorLost_keeps ?_
    | with_reducible refine noticeSet_keeps ?_ | with_reducible refine startRollover_keeps ?_
    | with_reducible refine createSeparated_keeps ?_ | split)

theorem skipPage_keeps (h : Keeps a s) : Keeps a (skipPage s) := by
  unfold skipPage
  try dsimp only
  repeat' (first
    | assumption | with_reducible refine countDiscarded_keeps ?_ | with_reducible refine popRing_keeps ?_
    | with_reducible refine updCounts_keeps ?_ | split)

theorem filingAct_keeps {t : State} (h : Keeps a s) (e : filingAct s = some t) : Keeps a t := by
  unfold filingAct at e
  dsimp only at e
  repeat' split at e
  all_goals first | cases e | skip
  all_goals repeat' (first
    | assumption | with_reducible refine rechoose_keeps ?_ | with_reducible refine updRun_keeps ?_
    | with_reducible refine enterWaiting_keeps ?_ | with_reducible refine skipPage_keeps ?_
    | with_reducible refine completeClose_keeps ?_ | with_reducible refine atSeparator_keeps ?_)
  all_goals
    obtain ⟨c, -, rfl⟩ := Option.map_eq_some_iff.1 e
    exact endInstrument_keeps h

end Sys2Proof.Machine
end

