-- ==== Sys2Proof/Laws/KeepsPlans.lean ====
section
/-! SUPPORT. What the acts of the Library Map, the Drive Units and the Mount Planner keep. -/

set_option Elab.async false
set_option linter.all false


namespace Sys2Proof.Machine

open Sys2Proof

variable {a s : State}

theorem startLibraryUnit_keeps {d : DriveId} {i : Inspection} (h : Keeps a s) : Keeps a (startLibraryUnit d i s) := by
  unfold startLibraryUnit
  try dsimp only
  repeat' (first
    | assumption | with_reducible refine issue_keeps ?_ | with_reducible refine startUnit_keeps ?_ | split)

theorem wantMove_keeps {id : Nat} {phase : InspPhase} (h : Keeps a s) : Keeps a (wantMove id phase s) := by
  unfold wantMove
  try dsimp only
  repeat' (first
    | assumption | with_reducible refine updInsp_keeps ?_ | split)

theorem nameInDrive_keeps {d : DriveId} {n : Nat} {x : Side} (h : Keeps a s) : Keeps a (nameInDrive d n x s) := by
  unfold nameInDrive
  try dsimp only
  repeat' (first
    | assumption | with_reducible refine updDrive_keeps ?_ | split)

theorem acceptReturning_keeps {d : DriveId} {i : Inspection} {n : Nat} {x : Side} {keepHome : Bool} (h : Keeps a s) : Keeps a (acceptReturning d i n x keepHome s) := by
  unfold acceptReturning
  try dsimp only
  repeat' (first
    | assumption | with_reducible refine nameInDrive_keeps ?_
    | with_reducible refine withPool_keeps ?_ (fun _ h => ?_) | with_reducible refine wantMove_keeps ?_
    | with_reducible refine updCart_keeps ?_ | with_reducible refine releaseSlot_keeps ?_
    | with_reducible refine wantPass_keeps ?_ | with_reducible refine updInsp_keeps ?_ | split)

theorem acceptBlank_keeps {d : DriveId} {id : Nat} (h : Keeps a s) : Keeps a (acceptBlank d id s) := by
  unfold acceptBlank
  try dsimp only
  repeat' (first
    | assumption | with_reducible refine rejectInspection_keeps ?_
    | with_reducible refine updLibrary_keeps ?_ (fun _ => rfl) | with_reducible refine updInsp_keeps ?_
    | with_reducible refine updDrive_keeps ?_ | split)

theorem sideRead_keeps {d : DriveId} {i : Inspection} {x : Side} (h : Keeps a s) : Keeps a (sideRead d i x s) := by
  unfold sideRead
  split
  · exact updDrive_keeps h
  · exact h

theorem classified_keeps {d : DriveId} {id : Nat} {res : LabelResult} (h : Keeps a s) : Keeps a (classified d id res s) := by
  unfold classified
  try dsimp only
  repeat' (first
    | assumption | with_reducible refine updInsp_keeps ?_ | with_reducible refine acceptBlank_keeps ?_
    | with_reducible refine rejectInspection_keeps ?_ | with_reducible refine acceptReturning_keeps ?_
    | with_reducible refine sideRead_keeps ?_ | split)

theorem labelReadAnswer_keeps {d : DriveId} {id tries : Nat} {r : SectorRead} {cut : Bool} (h : Keeps a s) : Keeps a (labelReadAnswer d id tries r cut s) := by
  unfold labelReadAnswer
  try dsimp only
  repeat' (first
    | assumption | with_reducible refine unitEnd_keeps ?_ | with_reducible refine classified_keeps ?_
    | with_reducible refine issue_keeps ?_ | with_reducible refine continueUnit_keeps ?_ | split)

theorem cartLabelWriteAnswer_keeps {d : DriveId} {id : Nat} {bytes : List Byte} {r : Option WriteResult} (h : Keeps a s) : Keeps a (cartLabelWriteAnswer d id bytes r s) := by
  unfold cartLabelWriteAnswer
  try dsimp only
  repeat' (first
    | assumption | with_reducible refine issue_keeps ?_ | with_reducible refine continueUnit_keeps ?_
    | with_reducible refine rejectInspection_keeps ?_ | with_reducible refine unitEnd_keeps ?_ | split)

theorem recordCreated_keeps {d : DriveId} {i : Inspection} (h : Keeps a s) : Keeps a (recordCreated d i s) := by
  unfold recordCreated
  try dsimp only
  repeat' (first
    | assumption | with_reducible refine nameInDrive_keeps ?_
    | with_reducible refine withPool_keeps ?_ (fun _ h => ?_) | with_reducible refine wantMove_keeps ?_
    | with_reducible refine updInsp_keeps ?_ | with_reducible refine updLibrary_keeps ?_ (fun _ => rfl) | split)

theorem cartLabelVerifyAnswer_keeps {d : DriveId} {id : Nat} {pass cut : Bool} (h : Keeps a s) : Keeps a (cartLabelVerifyAnswer d id pass cut s) := by
  unfold cartLabelVerifyAnswer
  try dsimp only
  repeat' (first
    | assumption | with_reducible refine unitEnd_keeps ?_ | with_reducible refine rejectInspection_keeps ?_
    | with_reducible refine wantMove_keeps ?_ | with_reducible refine recordCreated_keeps ?_ | split)

theorem inspectionFaulted_keeps {i : Inspection} (h : Keeps a s) : Keeps a (inspectionFaulted i s) := by
  unfold inspectionFaulted
  try dsimp only
  repeat' (first
    | assumption | with_reducible refine rejectInspection_keeps ?_ | split)

theorem inspectDrive_keeps {d : DriveId} (h : Keeps a s) : Keeps a (inspectDrive d s) := by
  unfold inspectDrive
  try dsimp only
  repeat' (first
    | assumption | with_reducible refine addInspection_keeps ?_ | with_reducible refine slotCheck_keeps ?_
    | with_reducible refine updDrive_keeps ?_ | split)

theorem presenceReported_keeps {d : DriveId} {present : Bool} (h : Keeps a s) : Keeps a (presenceReported d present s) := by
  unfold presenceReported
  try dsimp only
  repeat' (first
    | assumption | with_reducible refine inspectDrive_keeps ?_ | with_reducible refine abandonInspection_keeps ?_
    | with_reducible refine markMissing_keeps ?_ | split)

theorem askInspectionOrder_keeps {i : Inspection} {o : MoveOrder} (h : Keeps a s) : Keeps a (askInspectionOrder i o s) := by
  unfold askInspectionOrder
  try dsimp only
  repeat' (first
    | assumption | with_reducible refine updInsp_keeps ?_ | split | refine askOrder_keeps ?_ (by assumption))

theorem inspectionAct_keeps {i : Inspection} {t : State} (h : Keeps a s) (e : inspectionAct s i = some t) : Keeps a t := by
  unfold inspectionAct at e
  repeat' split at e
  all_goals first
    | (cases e; done)
    | (cases e; exact updInsp_keeps h)
    | (obtain ⟨o, -, rfl⟩ := Option.map_eq_some_iff.1 e; exact askInspectionOrder_keeps h)

theorem exportAct_keeps {t : State} (h : Keeps a s) (e : exportAct s = some t) : Keeps a t := by
  unfold exportAct at e
  split at e
  · cases e
  · obtain ⟨x, -, hx⟩ := List.exists_of_findSome?_eq_some e
    obtain ⟨o, -, ho⟩ := Option.bind_eq_some_iff.1 hx
    split at ho
    · next hk =>
      cases ho
      exact updLibrary_keeps (askOrder_keeps h hk) (fun _ => rfl)
    · cases ho

theorem libraryAct_keeps {t : State} (h : Keeps a s) (e : libraryAct s = some t) : Keeps a t := by
  unfold libraryAct at e
  rcases Option.or_eq_some_iff.1 e with e | ⟨-, e⟩
  · obtain ⟨i, -, hi⟩ := List.exists_of_findSome?_eq_some e
    exact inspectionAct_keeps h hi
  · exact exportAct_keeps h e

theorem selectUnit_keeps {d : DriveId} {t : State} (h : Keeps a s) (e : selectUnit d s = some t) : Keeps a t := by
  unfold selectUnit at e
  repeat' split at e
  all_goals cases e
  all_goals first | exact startLibraryUnit_keeps h | exact startFetchUnit_keeps h | exact startFilingUnit_keeps h

theorem goStandby_keeps {d : DriveId} (h : Keeps a s) : Keeps a (goStandby d s) := by
  unfold goStandby
  try dsimp only
  repeat' (first
    | assumption | with_reducible refine issue_keeps ?_ | with_reducible refine updDrive_keeps ?_ | split)

theorem wake_keeps {d : DriveId} (h : Keeps a s) : Keeps a (wake d s) := by
  unfold wake
  try dsimp only
  repeat' (first
    | assumption | with_reducible refine tryWithdraw_keeps ?_ | with_reducible refine spinUp_keeps ?_
    | with_reducible refine updDrive_keeps ?_ | split)

theorem restartHold_keeps {d : DriveId} (h : Keeps a s) : Keeps a (restartHold d s) := by
  unfold restartHold
  try dsimp only
  repeat' (first
    | assumption | with_reducible refine updDrive_keeps ?_ | split)

theorem askHold_keeps {d : DriveId} (h : Keeps a s) : Keeps a (askHold d s) := by
  unfold askHold
  try dsimp only
  repeat' (first
    | assumption | with_reducible refine restartHold_keeps ?_ | with_reducible refine holdExpiry_keeps ?_
    | with_reducible refine updDrive_keeps ?_ | split | refine askOrder_keeps ?_ (by assumption))

theorem driveAct_keeps {d : DriveId} {t : State} (h : Keeps a s) (e : driveAct s d = some t) : Keeps a t := by
  unfold driveAct at e
  dsimp only at e
  repeat' split at e
  all_goals cases e
  all_goals first
    | (exact selectUnit_keeps h (by assumption)) | exact updDrive_keeps h | exact goStandby_keeps h | exact wake_keeps h
    | exact askHold_keeps h

theorem clearCommand_keeps {d : DriveId} (h : Keeps a s) : Keeps a (clearCommand d s) := by
  unfold clearCommand
  try dsimp only
  repeat' (first
    | assumption | with_reducible refine updDrive_keeps ?_ | split)

theorem readAnswer_keeps {d : DriveId} {rs : List SectorRead} {cut : Bool} (h : Keeps a s) : Keeps a (readAnswer d rs cut s) := by
  unfold readAnswer
  try dsimp only
  repeat' (first
    | assumption | with_reducible refine unitEnd_keeps ?_ | with_reducible refine trailerAnswer_keeps ?_
    | with_reducible refine releaseBuffer_keeps ?_ | with_reducible refine pageAnswer_keeps ?_
    | with_reducible refine labelReadAnswer_keeps ?_ | split)

theorem writeAnswer_keeps {d : DriveId} {r : Option WriteResult} (h : Keeps a s) : Keeps a (writeAnswer d r s) := by
  unfold writeAnswer
  try dsimp only
  repeat' (first
    | assumption | with_reducible refine writePassAnswer_keeps ?_
    | with_reducible refine labelWriteAnswer_keeps ?_ | with_reducible refine cartLabelWriteAnswer_keeps ?_
    | split)

theorem verifyAnswer_keeps {d : DriveId} {pass cut : Bool} (h : Keeps a s) : Keeps a (verifyAnswer d pass cut s) := by
  unfold verifyAnswer
  try dsimp only
  repeat' (first
    | assumption | with_reducible refine verifyPassAnswer_keeps ?_
    | with_reducible refine labelVerifyAnswer_keeps ?_ | with_reducible refine cartLabelVerifyAnswer_keeps ?_
    | split)

theorem blankAnswer_keeps {d : DriveId} {r : BlankResult} (h : Keeps a s) : Keeps a (blankAnswer d r s) := by
  unfold blankAnswer
  try dsimp only
  repeat' (first
    | assumption | with_reducible refine probeAnswer_keeps ?_ | split)

theorem cutCommand_keeps {d : DriveId} (h : Keeps a s) : Keeps a (cutCommand d s) := by
  unfold cutCommand
  try dsimp only
  repeat' (first
    | assumption | with_reducible refine clearCommand_keeps ?_ | with_reducible refine readAnswer_keeps ?_
    | with_reducible refine writeAnswer_keeps ?_ | with_reducible refine verifyAnswer_keeps ?_
    | with_reducible refine blankAnswer_keeps ?_ | with_reducible refine wantPass_keeps ?_ | split)

theorem resetRefused_keeps {d : DriveId} {code : DriveFaultCode} (h : Keeps a s) : Keeps a (resetRefused d code s) := by
  unfold resetRefused
  try dsimp only
  repeat' (first
    | assumption | with_reducible refine replyLong_keeps ?_ | with_reducible refine updDrive_keeps ?_ | split)

theorem becomeFaulted_keeps {d : DriveId} {code : DriveFaultCode} (h : Keeps a s) : Keeps a (becomeFaulted d code s) := by
  unfold becomeFaulted
  try dsimp only
  repeat' (first
    | assumption | with_reducible refine updDrive_keeps ?_ | with_reducible refine tryWithdraw_keeps ?_ | split)

theorem vacatedEmpty_keeps {d : DriveId} (h : Keeps a s) : Keeps a (vacatedEmpty d s) :=
  becomeEmpty_keeps (updDrive_keeps h)

theorem driveFault_keeps {d : DriveId} {code : DriveFaultCode} (h : Keeps a s) : Keeps a (driveFault d code s) := by
  unfold driveFault
  try dsimp only
  repeat' (first
    | assumption | with_reducible refine updDrive_keeps ?_ | with_reducible refine cutCommand_keeps ?_
    | with_reducible refine resetRefused_keeps ?_ | with_reducible refine becomeFaulted_keeps ?_
    | with_reducible refine completeAll_keeps ?_ | with_reducible refine vacatedEmpty_keeps ?_
    | with_reducible refine runFailure_keeps ?_ | with_reducible refine inspectionFaulted_keeps ?_
    | with_reducible refine noticeSet_keeps ?_ | split)

theorem putPlan_keeps {p : Plan} (h : Keeps a s) : Keeps a (putPlan p s) := by
  unfold putPlan
  try dsimp only
  repeat' (first
    | assumption | with_reducible refine updPlanner_keeps ?_ | split)

theorem planMount_keeps {w : Want} {d : DriveId} {t : State} (h : Keeps a s) (e : planMount w d s = some t) :
    Keeps a t := by
  unfold planMount at e
  obtain ⟨o, -, ho⟩ := Option.bind_eq_some_iff.1 e
  split at ho
  · cases ho
  · next hk => cases ho; exact putPlan_keeps (askOrder_keeps h hk)

theorem planVictim_keeps {w : Want} {d : DriveId} {t : State} (h : Keeps a s) (e : planVictim w d s = some t) :
    Keeps a t := by
  unfold planVictim at e
  split at e
  · cases e
  · split at e
    · cases e
    · split at e
      · cases e
      · split at e
        · cases e
        · next hk =>
          split at e
          · next hb =>
            cases e
            obtain ⟨o, -, ho⟩ := Option.map_eq_some_iff.1 hb
            exact putPlan_keeps (askOrder_keeps (askOrder_keeps h hk) ho)
          · cases e
            exact tryWithdraw_keeps (askOrder_keeps h hk)

theorem planFlip_keeps {w : Want} {d : DriveId} {t : State} (h : Keeps a s) (e : planFlip w d s = some t) : Keeps a t := by
  unfold planFlip at e
  try dsimp only at e
  repeat' split at e
  all_goals cases e
  all_goals repeat' (first
    | assumption | with_reducible refine putPlan_keeps ?_ | split | refine askOrder_keeps ?_ (by assumption))

theorem planBring_keeps {w : Want} {reserve : Bool} {t : State} (h : Keeps a s) (e : planBring w reserve s = some t) :
    Keeps a t := by
  unfold planBring at e
  split at e
  · exact planMount_keeps h e
  · obtain ⟨d, -, hd⟩ := Option.bind_eq_some_iff.1 e
    exact planVictim_keeps h hd

theorem withdrawAll_keeps {ns : List Nat} (h : Keeps a s) : Keeps a (withdrawAll ns s) := by
  unfold withdrawAll
  try dsimp only
  repeat' (first
    | assumption | with_reducible refine tryWithdraw_keeps ?_
    | with_reducible refine foldl_keeps ?_ (fun _ _ h => ?_) | split)

theorem dropFilingPlan_keeps (h : Keeps a s) : Keeps a (dropFilingPlan s) := by
  unfold dropFilingPlan
  try dsimp only
  repeat' (first
    | assumption | with_reducible refine updPlanner_keeps ?_ | split)

theorem reportFiling_keeps {d : DriveId} (h : Keeps a s) : Keeps a (reportFiling d s) := by
  unfold reportFiling
  try dsimp only
  repeat' (first
    | assumption | with_reducible refine sideReported_keeps ?_ | with_reducible refine dropFilingPlan_keeps ?_
    | with_reducible refine updPlanner_keeps ?_ | split)

theorem examineClaim_keeps {n : Nat} {x : Side} {d : DriveId} (h : Keeps a s) : Keeps a (examineClaim n x d s) := by
  unfold examineClaim
  try dsimp only
  repeat' (first
    | assumption | with_reducible refine reportFiling_keeps ?_ | with_reducible refine dropFilingPlan_keeps ?_
    | with_reducible refine getD_keeps ?_ (fun _ _ => ?_) | split | refine planFlip_keeps ?_ (by assumption)
    | refine planMount_keeps ?_ (by assumption) | refine planVictim_keeps ?_ (by assumption))

theorem claim_keeps {n : Nat} {x : Side} {d : DriveId} (h : Keeps a s) : Keeps a (claim n x d s) := by
  unfold claim
  try dsimp only
  repeat' (first
    | assumption | with_reducible refine examineClaim_keeps ?_ | with_reducible refine putPlan_keeps ?_
    | with_reducible refine claim_keeps ?_ | split)

theorem refuseFiling_keeps (h : Keeps a s) : Keeps a (refuseFiling s) := by
  unfold refuseFiling
  try dsimp only
  repeat' (first
    | assumption | with_reducible refine runFailure_keeps ?_ | with_reducible refine updPlanner_keeps ?_ | split)

theorem planFilingNew_keeps {n : Nat} {x : Side} (h : Keeps a s) : Keeps a (planFilingNew n x s) := by
  unfold planFilingNew
  try dsimp only
  repeat' (first
    | assumption | with_reducible refine refuseFiling_keeps ?_ | with_reducible refine withdrawAll_keeps ?_
    | with_reducible refine reportFiling_keeps ?_ | with_reducible refine claim_keeps ?_
    | with_reducible refine getD_keeps ?_ (fun _ _ => ?_) | split | refine planMount_keeps ?_ (by assumption)
    | refine planVictim_keeps ?_ (by assumption))

theorem planFiling_keeps (h : Keeps a s) : Keeps a (planFiling s) := by
  unfold planFiling
  try dsimp only
  repeat' (first
    | assumption | with_reducible refine planFilingNew_keeps ?_ | with_reducible refine claim_keeps ?_
    | with_reducible refine examineClaim_keeps ?_ | with_reducible refine reportFiling_keeps ?_
    | with_reducible refine dropFilingPlan_keeps ?_ | split)

theorem updWaiter_keeps {id : FetchId} {f : Waiter → Waiter} (h : Keeps a s) : Keeps a (updWaiter id f s) := by
  unfold updWaiter
  try dsimp only
  repeat' (first
    | assumption | with_reducible refine updPlanner_keeps ?_ | split)

theorem attach_keeps {w : Waiter} {d : DriveId} (h : Keeps a s) : Keeps a (attach w d s) := by
  unfold attach
  try dsimp only
  repeat' (first
    | assumption | with_reducible refine updPlanner_keeps ?_ | with_reducible refine updOrder_keeps ?_
    | with_reducible refine updDrive_keeps ?_ | with_reducible refine withdrawAll_keeps ?_ | split)

theorem planWaiterFlip_keeps {w : Waiter} {d : DriveId} {marked : Bool} (h : Keeps a s) : Keeps a (planWaiterFlip w d marked s) := by
  unfold planWaiterFlip
  try dsimp only
  repeat' (first
    | assumption | with_reducible refine tryWithdraw_keeps ?_ | with_reducible refine updWaiter_keeps ?_ | split
    | refine planFlip_keeps ?_ (by assumption))

theorem rideNew_keeps {w : Waiter} (h : Keeps a s) : Keeps a (rideNew w s) := by
  unfold rideNew
  try dsimp only
  repeat' (first
    | assumption | with_reducible refine updWaiter_keeps ?_ | split)

theorem planWaiter_keeps {w : Waiter} (h : Keeps a s) : Keeps a (planWaiter w s) := by
  unfold planWaiter
  try dsimp only
  repeat' (first
    | assumption | with_reducible refine noticeSet_keeps ?_ | with_reducible refine updWaiter_keeps ?_
    | with_reducible refine rideNew_keeps ?_ | with_reducible refine attach_keeps ?_
    | with_reducible refine planWaiterFlip_keeps ?_ | split | refine planBring_keeps ?_ (by assumption))

theorem planWaiters_keeps (h : Keeps a s) : Keeps a (planWaiters s) := by
  unfold planWaiters
  try dsimp only
  repeat' (first
    | assumption | with_reducible refine planWaiter_keeps ?_
    | with_reducible refine foldl_keeps ?_ (fun _ _ h => ?_) | split)

theorem planInspection_keeps (h : Keeps a s) : Keeps a (planInspection s) := by
  unfold planInspection
  try dsimp only
  repeat' (first
    | assumption | with_reducible refine updInsp_keeps ?_ | split | refine planBring_keeps ?_ (by assumption))

theorem planPass_keeps (h : Keeps a s) : Keeps a (planPass s) := by
  unfold planPass
  try dsimp only
  repeat' (first
    | assumption | with_reducible refine planInspection_keeps ?_ | with_reducible refine planWaiters_keeps ?_
    | with_reducible refine planFiling_keeps ?_ | with_reducible refine updPlanner_keeps ?_ | split)

end Sys2Proof.Machine
end

