-- ==== Sys2Proof/Laws/KeepsMoves.lean ====
section
/-! SUPPORT. What the acts of the Arm Controller, all acts together, and the requests of the FETCH and FILE families keep. -/

set_option Elab.async false
set_option linter.all false


namespace Sys2Proof.Machine

open Sys2Proof

variable {a s : State}

theorem setStatus_keeps {n : Nat} {st : OrderStatus} (h : Keeps a s) : Keeps a (setStatus n st s) := by
  unfold setStatus
  try dsimp only
  repeat' (first
    | assumption | with_reducible refine updOrders_keeps ?_ | split)

theorem stopMove_keeps {m : Move} (h : Keeps a s) : Keeps a (stopMove m s) := by
  unfold stopMove
  try dsimp only
  repeat' (first
    | assumption | with_reducible refine updArm_keeps ?_ (fun _ => rfl) | with_reducible refine wantPass_keeps ?_
    | with_reducible refine setStatus_keeps ?_ | split)

theorem firstFault_keeps {code : MoveFault} {m : Move} (h : Keeps a s) : Keeps a (firstFault code m s) := by
  unfold firstFault
  try dsimp only
  repeat' (first
    | assumption | with_reducible refine noticeSet_keeps ?_ | with_reducible refine stopMove_keeps ?_
    | with_reducible refine updArm_keeps ?_ (fun _ => rfl) | split)

theorem secondFault_keeps {code : MoveFault} {m : Move} (h : Keeps a s) : Keeps a (secondFault code m s) := by
  unfold secondFault
  try dsimp only
  repeat' (first
    | assumption | with_reducible refine noticeSet_keeps ?_ | with_reducible refine stopMove_keeps ?_
    | with_reducible refine updArm_keeps ?_ (fun _ => rfl) | split)

theorem replyExport_keeps {e : ExportEntry} {c : Status} (h : Keeps a s) : Keeps a (replyExport e c s) := by
  unfold replyExport
  split
  · exact replyLong_keeps h
  · exact h

theorem exportsHalted_keeps (h : Keeps a s) : Keeps a (exportsHalted s) := by
  unfold exportsHalted
  try dsimp only
  repeat' (first
    | assumption | with_reducible refine updLibrary_keeps ?_ (fun _ => rfl)
    | with_reducible refine withPool_keeps ?_ (fun _ h => ?_) | with_reducible refine updCart_keeps ?_
    | with_reducible refine replyExport_keeps ?_ | with_reducible refine foldl_keeps ?_ (fun _ _ h => ?_) | split)

theorem halt_keeps {code : MoveFault} {m : Move} (h : Keeps a s) : Keeps a (halt code m s) := by
  unfold halt
  try dsimp only
  repeat' (first
    | assumption | with_reducible refine stopMove_keeps ?_ | with_reducible refine noticeSet_keeps ?_
    | with_reducible refine updArm_keeps ?_ (fun _ => rfl) | with_reducible refine ordersGone_keeps ?_
    | with_reducible refine updOrders_keeps ?_ | with_reducible refine updPlanner_keeps ?_
    | with_reducible refine completeAll_keeps ?_ | with_reducible refine refuseFiling_keeps ?_
    | with_reducible refine exportsHalted_keeps ?_ | split)

theorem moveFault_keeps {code : MoveFault} (h : Keeps a s) : Keeps a (moveFault code s) := by
  unfold moveFault
  try dsimp only
  repeat' (first
    | assumption | with_reducible refine firstFault_keeps ?_ | with_reducible refine secondFault_keeps ?_
    | with_reducible refine halt_keeps ?_ | split)

theorem mismatch_keeps {n : Nat} {m : Move} (h : Keeps a s) : Keeps a (mismatch n m s) := by
  unfold mismatch
  try dsimp only
  repeat' (first
    | assumption | with_reducible refine updArm_keeps ?_ (fun _ => rfl) | with_reducible refine mismatch_keeps ?_
    | split)

theorem releaseDrive_keeps {m : Move} (h : Keeps a s) : Keeps a (releaseDrive m s) := by
  unfold releaseDrive
  split
  · exact wantPass_keeps h
  · exact h

theorem pickLocation_keeps {m : Move} (h : Keeps a s) : Keeps a (pickLocation m s) := by
  unfold pickLocation
  try dsimp only
  repeat' (first
    | assumption | with_reducible refine updInsp_keeps ?_ | with_reducible refine setLocation_keeps ?_
    | with_reducible refine wantPass_keeps ?_ | with_reducible refine releaseDrive_keeps ?_
    | with_reducible refine mismatch_keeps ?_
    | with_reducible refine getD_keeps ?_ (fun _ _ => ?_) | split)

theorem pickSource_keeps {m : Move} (h : Keeps a s) : Keeps a (pickSource m s) := by
  unfold pickSource
  try dsimp only
  repeat' (first
    | assumption | with_reducible refine driveTaken_keeps ?_ | with_reducible refine setShelf_keeps ?_
    | with_reducible refine slotRetry_keeps ?_ | with_reducible refine updLibrary_keeps ?_ (fun _ => rfl)
    | split)

theorem pickDone_keeps {m : Move} (h : Keeps a s) : Keeps a (pickDone m s) := by
  unfold pickDone
  try dsimp only
  repeat' (first
    | assumption | with_reducible refine pickSource_keeps ?_ | with_reducible refine pickLocation_keeps ?_
    | with_reducible refine updArm_keeps ?_ (fun _ => rfl) | split)

theorem beginPick_keeps {fault : MoveFault → State → State} (h : Keeps a s)
    (hf : ∀ c t, Keeps a t → Keeps a (fault c t)) : Keeps a (beginPick fault s) := by
  unfold beginPick
  dsimp only
  repeat' (first
    | assumption | with_reducible refine hf _ _ ?_ | with_reducible refine pickDone_keeps ?_
    | with_reducible refine updLibrary_keeps ?_ (fun _ => rfl) | split | refine requestUnload_keeps ?_ (by assumption))

theorem arbiterFault_keeps {code : MoveFault} (h : Keeps a s) : Keeps a (arbiterFault code s) := by
  unfold arbiterFault
  try dsimp only
  repeat' (first
    | assumption | with_reducible refine firstFault_keeps ?_ | split)

theorem takeOrder_keeps {o : MoveOrder} (h : Keeps a s) : Keeps a (takeOrder o s) := by
  unfold takeOrder
  try dsimp only
  repeat' (first
    | assumption | with_reducible refine setStatus_keeps ?_
    | with_reducible refine beginPick_keeps ?_ (fun _ _ h => ?_) | with_reducible refine arbiterFault_keeps ?_
    | with_reducible refine updArm_keeps ?_ (fun _ => rfl) | split)

theorem arbiterAct_keeps {t : State} (h : Keeps a s) (e : arbiterAct s = some t) : Keeps a t := by
  unfold arbiterAct at e
  split at e
  · obtain ⟨o, -, rfl⟩ := Option.map_eq_some_iff.1 e
    exact takeOrder_keeps h
  · cases e

theorem beginPlace_keeps (h : Keeps a s) : Keeps a (beginPlace s) := by
  unfold beginPlace
  try dsimp only
  repeat' (first
    | assumption | with_reducible refine updArm_keeps ?_ (fun _ => rfl)
    | with_reducible refine moveFault_keeps ?_ | with_reducible refine updLibrary_keeps ?_ (fun _ => rfl)
    | split)

theorem placeLocation_keeps {m : Move} (h : Keeps a s) : Keeps a (placeLocation m s) := by
  unfold placeLocation
  try dsimp only
  repeat' (first
    | assumption | with_reducible refine drivePlaced_keeps ?_ | with_reducible refine updInsp_keeps ?_
    | with_reducible refine setLocation_keeps ?_ | with_reducible refine mismatch_keeps ?_ | split)

theorem placeDest_keeps {m : Move} (h : Keeps a s) : Keeps a (placeDest m s) := by
  unfold placeDest
  try dsimp only
  repeat' (first
    | assumption | with_reducible refine setShelf_keeps ?_
    | with_reducible refine updLibrary_keeps ?_ (fun _ => rfl) | split)

theorem planCompleted_keeps {k : Nat} (h : Keeps a s) : Keeps a (planCompleted k s) := by
  unfold planCompleted
  try dsimp only
  repeat' (first
    | assumption | with_reducible refine putPlan_keeps ?_ | with_reducible refine dropPlan_keeps ?_
    | with_reducible refine dropInspReq_keeps ?_ | with_reducible refine updInsp_keeps ?_ | split)

theorem inspectionCompleted_keeps {k : Nat} (h : Keeps a s) : Keeps a (inspectionCompleted k s) := by
  unfold inspectionCompleted
  try dsimp only
  repeat' (first
    | assumption | with_reducible refine updInsp_keeps ?_ | with_reducible refine noticeSet_keeps ?_
    | with_reducible refine endInspection_keeps ?_ | with_reducible refine updLibrary_keeps ?_ (fun _ => rfl)
    | with_reducible refine slotCheck_keeps ?_ | with_reducible refine addInspection_keeps ?_ | split)

theorem exportCompleted_keeps {k : Nat} (h : Keeps a s) : Keeps a (exportCompleted k s) := by
  unfold exportCompleted
  try dsimp only
  repeat' (first
    | assumption | with_reducible refine noticeSet_keeps ?_
    | with_reducible refine updLibrary_keeps ?_ (fun _ => rfl) | with_reducible refine replyExport_keeps ?_
    | split)

theorem holdCompleted_keeps {k : Nat} (h : Keeps a s) : Keeps a (holdCompleted k s) := by
  unfold holdCompleted
  try dsimp only
  repeat' (first
    | assumption | with_reducible refine drives_keeps ?_ | split)

theorem tellCompleted_keeps {k : Nat} (h : Keeps a s) : Keeps a (tellCompleted k s) := by
  unfold tellCompleted
  try dsimp only
  repeat' (first
    | assumption | with_reducible refine holdCompleted_keeps ?_ | with_reducible refine exportCompleted_keeps ?_
    | with_reducible refine inspectionCompleted_keeps ?_ | with_reducible refine planCompleted_keeps ?_ | split)

theorem stepDown_keeps {secondary : Bool} (h : Keeps a s) : Keeps a (stepDown secondary s) := by
  unfold stepDown
  refine wantPass_keeps (updArm_keeps h fun _ => ?_)
  cases secondary <;> rfl

theorem placeDone_keeps {m : Move} (h : Keeps a s) : Keeps a (placeDone m s) := by
  unfold placeDone
  try dsimp only
  repeat' (first
    | assumption | with_reducible refine placeDest_keeps ?_ | with_reducible refine placeLocation_keeps ?_
    | with_reducible refine updArm_keeps ?_ (fun _ => rfl) | with_reducible refine tellCompleted_keeps ?_
    | with_reducible refine updOrders_keeps ?_ | with_reducible refine stepDown_keeps ?_
    | with_reducible refine wantPass_keeps ?_ | split)

theorem rerun_keeps {r : FaultRec} {secondary : Bool} (h : Keeps a s) : Keeps a (rerun r secondary s) := by
  unfold rerun
  try dsimp only
  repeat' (first
    | assumption | with_reducible refine setStatus_keeps ?_
    | with_reducible refine updArm_keeps ?_ (fun _ => rfl)
    | with_reducible refine beginPick_keeps ?_ (fun _ _ h => ?_) | with_reducible refine moveFault_keeps ?_
    | with_reducible refine beginPlace_keeps ?_ | split)

theorem declareSlot_keeps {at_ : Declared} {r : FaultRec} (h : Keeps a s) : Keeps a (declareSlot at_ r s) := by
  unfold declareSlot
  try dsimp only
  repeat' (first
    | assumption | with_reducible refine updLibrary_keeps ?_ (fun _ => rfl) | split)

theorem declareCart_keeps {at_ : Declared} {n : Nat} (h : Keeps a s) : Keeps a (declareCart at_ n s) := by
  unfold declareCart
  try dsimp only
  repeat' (first
    | assumption | with_reducible refine setLocation_keeps ?_ | with_reducible refine wantPass_keeps ?_
    | split)

theorem exportAbandoned_keeps {k : Nat} (h : Keeps a s) : Keeps a (exportAbandoned k s) := by
  unfold exportAbandoned
  try dsimp only
  repeat' (first
    | assumption | with_reducible refine updLibrary_keeps ?_ (fun _ => rfl)
    | with_reducible refine withPool_keeps ?_ (fun _ h => ?_) | with_reducible refine updCart_keeps ?_
    | with_reducible refine replyExport_keeps ?_ | split)

theorem abandon_keeps {r : FaultRec} {secondary : Bool} {at_ : Declared} (h : Keeps a s) : Keeps a (abandon r secondary at_ s) := by
  unfold abandon
  try dsimp only
  repeat' (first
    | assumption | with_reducible refine updArm_keeps ?_ (fun _ => rfl)
    | with_reducible refine declareCart_keeps ?_ | with_reducible refine declareSlot_keeps ?_
    | with_reducible refine driveTaken_keeps ?_ | with_reducible refine dropOrders_keeps ?_
    | with_reducible refine exportAbandoned_keeps ?_ | with_reducible refine abandonInspection_keeps ?_
    | with_reducible refine stepDown_keeps ?_ | split)

theorem nextAct_keeps {t : State} (h : Keeps a s) (e : nextAct s = some t) : Keeps a t := by
  unfold nextAct at e
  split at e
  · cases e; exact beginDelivery_keeps h
  · split at e
    · cases e; exact adjustStall_keeps h
    · split at e
      · cases e; exact filingAct_keeps h (by assumption)
      · split at e
        · next hd =>
          cases e
          obtain ⟨d, -, hd⟩ := List.exists_of_findSome?_eq_some hd
          exact driveAct_keeps h hd
        · split at e
          · cases e; exact planPass_keeps h
          · split at e
            · cases e; exact libraryAct_keeps h (by assumption)
            · exact arbiterAct_keeps h e

theorem settleFor_keeps {fuel : Nat} (h : Keeps a s) : Keeps a (settleFor fuel s) := by
  induction fuel generalizing s with
  | zero => exact h
  | succ n ih =>
    unfold settleFor
    split
    · exact h
    · exact ih (nextAct_keeps h (by assumption))

theorem settle_keeps (h : Keeps a s) : Keeps a (settle s) := settleFor_keeps h

theorem admit_keeps {id : FetchId} {f : FetchFields} {x : Admission} (h : Keeps a s) : Keeps a (admitFetch id f x s) := by
  unfold admitFetch
  extract_lets o s1 s2 s3
  have h2 : Keeps a s2 := updFee_keeps (updFetch_keeps h) (fun _ => ⟨rfl, rfl, rfl, rfl, rfl⟩)
  exact wantPass_keeps (updPlanner_keeps (addOutstanding_keeps h2))

theorem refuseFetch_keeps {st : Station} {tag kind : Byte} {c : Status} (h : Keeps a s) : Keeps a (refuseFetch st tag kind c s) := by
  unfold refuseFetch
  try dsimp only
  repeat' (first
    | assumption | with_reducible refine refuse_keeps ?_ | with_reducible refine noticeSet_keeps ?_ | split)

theorem fetchRequest_keeps {st : Station} {tag : Byte} {b : List Byte} (h : Keeps a s) : Keeps a (fetchRequest st tag b s) := by
  unfold fetchRequest
  try dsimp only
  repeat' (first
    | assumption | with_reducible refine refuseFetch_keeps ?_ | with_reducible refine refuse_keeps ?_
    | with_reducible refine settle_keeps ?_ | with_reducible refine admit_keeps ?_ | split)

theorem cancelRequest_keeps {st : Station} {tag : Byte} {b : List Byte} (h : Keeps a s) : Keeps a (cancelRequest st tag b s) := by
  unfold cancelRequest
  try dsimp only
  repeat' (first
    | assumption | with_reducible refine refuse_keeps ?_ | with_reducible refine settle_keeps ?_
    | with_reducible refine addReply_keeps ?_ | with_reducible refine completeFetch_keeps ?_
    | with_reducible refine getD_keeps ?_ (fun _ _ => ?_) | split)

theorem quoteRequest_keeps {st : Station} {tag : Byte} {b : List Byte} (h : Keeps a s) : Keeps a (quoteRequest st tag b s) := by
  unfold quoteRequest
  try dsimp only
  repeat' (first
    | assumption | with_reducible refine refuseFetch_keeps ?_ | with_reducible refine addReply_keeps ?_ | split)

theorem locateRequest_keeps {st : Station} {tag : Byte} {b : List Byte} (h : Keeps a s) : Keeps a (locateRequest st tag b s) := by
  unfold locateRequest
  try dsimp only
  repeat' (first
    | assumption | with_reducible refine refuse_keeps ?_ | with_reducible refine addReply_keeps ?_ | split)

theorem findRequest_keeps {st : Station} {tag : Byte} {b : List Byte} (h : Keeps a s) : Keeps a (findRequest st tag b s) := by
  unfold findRequest
  try dsimp only
  repeat' (first
    | assumption | with_reducible refine refuse_keeps ?_ | with_reducible refine addReply_keeps ?_ | split)

theorem openRequest_keeps {st : Station} {tag : Byte} {b : List Byte} (h : Keeps a s) : Keeps a (openRequest st tag b s) := by
  unfold openRequest
  try dsimp only
  repeat' (first
    | assumption | with_reducible refine refuse_keeps ?_ | with_reducible refine addOutstanding_keeps ?_
    | with_reducible refine updRun_keeps ?_ | with_reducible refine settle_keeps ?_
    | with_reducible refine beginRollover_keeps ?_ | with_reducible refine makeFilingReq_keeps ?_ | split)

theorem postRequest_keeps {st : Station} {tag : Byte} {b : List Byte} (h : Keeps a s) : Keeps a (postRequest st tag b s) := by
  unfold postRequest
  try dsimp only
  repeat' (first
    | assumption | with_reducible refine refuse_keeps ?_ | with_reducible refine updRun_keeps ?_
    | with_reducible refine addReply_keeps ?_ | split)

theorem pageFrame_keeps {st : Station} {tag : Byte} {bytes : List Byte} (h : Keeps a s) : Keeps a (pageFrame st tag bytes s) := by
  unfold pageFrame
  try dsimp only
  repeat' (first
    | assumption | with_reducible refine settle_keeps ?_ | with_reducible refine updRun_keeps ?_ | split)

theorem closeRequest_keeps {st : Station} {tag : Byte} (h : Keeps a s) : Keeps a (closeRequest st tag s) := by
  unfold closeRequest
  try dsimp only
  repeat' (first
    | assumption | with_reducible refine refuse_keeps ?_ | with_reducible refine addReply_keeps ?_
    | with_reducible refine closeRun_keeps ?_ | with_reducible refine addOutstanding_keeps ?_
    | with_reducible refine settle_keeps ?_ | with_reducible refine updRun_keeps ?_ | split)

theorem abortRun_keeps (h : Keeps a s) : Keeps a (abortRun s) := by
  unfold abortRun
  try dsimp only
  repeat' (first
    | assumption | with_reducible refine abortCore_keeps ?_ | with_reducible refine closeRun_keeps ?_
    | with_reducible refine replyClose_keeps ?_ | with_reducible refine replyOpen_keeps ?_ | split)

theorem abortRequest_keeps {st : Station} {tag : Byte} (h : Keeps a s) : Keeps a (abortRequest st tag s) := by
  unfold abortRequest
  try dsimp only
  repeat' (first
    | assumption | with_reducible refine refuse_keeps ?_ | with_reducible refine abortRun_keeps ?_
    | with_reducible refine settle_keeps ?_ | with_reducible refine addReply_keeps ?_ | split)

end Sys2Proof.Machine
end

