-- ==== Sys2Proof/Laws/KeepsRequests.lean ====
section
/-! SUPPORT. The cash-drawer and library requests keep the block's invariants (Sys2Proof/Laws/Keeps.lean). -/

set_option Elab.async false
set_option linter.all false


namespace Sys2Proof.Machine

open Sys2Proof

variable {a s : State}

theorem accountOpenRequest_keeps {st : Station} {tag : Byte} {b : List Byte} (h : Keeps a s) :
    Keeps a (accountOpenRequest st tag b s) := by
  unfold accountOpenRequest
  extract_lets n m cap discount low
  repeat' (first
    | assumption | with_reducible refine refuse_keeps ?_ | with_reducible refine addReply_keeps ?_
    | with_reducible refine updFee_keeps ?_ (fun _ => ⟨rfl, rfl, rfl, rfl, rfl⟩) | split)

theorem accountUpdateRequest_keeps {st : Station} {tag : Byte} {b : List Byte} (h : Keeps a s) : Keeps a (accountUpdateRequest st tag b s) := by
  unfold accountUpdateRequest
  try dsimp only
  repeat' (first
    | assumption | with_reducible refine refuse_keeps ?_ | with_reducible refine addReply_keeps ?_
    | with_reducible refine updAccount_keeps ?_ | split)

theorem accountCreditRequest_keeps {st : Station} {tag : Byte} {b : List Byte} (h : Keeps a s) : Keeps a (accountCreditRequest st tag b s) := by
  unfold accountCreditRequest
  try dsimp only
  repeat' (first
    | assumption | with_reducible refine refuse_keeps ?_ | with_reducible refine addReply_keeps ?_
    | with_reducible refine updAccount_keeps ?_ | with_reducible refine getD_keeps ?_ (fun _ _ => ?_) | split)

theorem accountCloseRequest_keeps {st : Station} {tag : Byte} {b : List Byte} (h : Keeps a s) : Keeps a (accountCloseRequest st tag b s) := by
  unfold accountCloseRequest
  try dsimp only
  repeat' (first
    | assumption | with_reducible refine refuse_keeps ?_ | with_reducible refine addReply_keeps ?_
    | with_reducible refine updFee_keeps ?_ (fun _ => ⟨rfl, rfl, rfl, rfl, rfl⟩) | split)

theorem accountQueryRequest_keeps {st : Station} {tag : Byte} {b : List Byte} (h : Keeps a s) : Keeps a (accountQueryRequest st tag b s) := by
  unfold accountQueryRequest
  try dsimp only
  repeat' (first
    | assumption | with_reducible refine refuse_keeps ?_ | with_reducible refine addReply_keeps ?_ | split)

theorem field_lt (b : List Byte) (i w : Nat) : field b i w < 256 ^ w := by
  have key (l : List Byte) (x : Nat) : l.foldl (fun acc b => acc * 256 + b.toNat) x < (x + 1) * 256 ^ l.length := by
    induction l generalizing x with
    | nil => simp
    | cons y ys ih =>
      have h1 := ih (x * 256 + y.toNat)
      have h2 : y.toNat < 256 := y.isLt
      have h3 : (x * 256 + y.toNat + 1) * 256 ^ ys.length ≤ ((x + 1) * 256) * 256 ^ ys.length :=
        Nat.mul_le_mul_right _ (by omega)
      simp only [List.foldl_cons, List.length_cons, Nat.pow_succ]
      calc _ < _ := h1
        _ ≤ _ := h3
        _ = _ := by ring
  have h := key ((b.drop i).take w) 0
  have hl : ((b.drop i).take w).length ≤ w := by simp
  have : 256 ^ ((b.drop i).take w).length ≤ 256 ^ w := Nat.pow_le_pow_right (by decide) hl
  simp only [field, beNat] at *
  omega

theorem setScheduleRequest_keeps {st : Station} {tag : Byte} {b : List Byte} (h : Keeps a s) :
    Keeps a (setScheduleRequest st tag b s) := by
  unfold setScheduleRequest
  extract_lets c k m x old new
  split
  · exact refuse_keeps h
  · next hn =>
    refine addReply_keeps (h.trans ⟨rfl, rfl, fun q => { q with fees := ⟨?_, q.fees.2⟩ }, id, .refl _⟩)
    have hold : old.v ≤ 65535 ∧ old.f ≤ 65535 ∧ old.g ≤ 65535 ∧ old.c ≤ 65535 ∧ old.m ≤ old.x ∧ old.x ≤ 99999999 := by
      rcases getD_mem_or s.fee.schedule.toList c ⟨0, 0, 0, 0, 0, 0⟩ with k | k
      · exact q.fees.1 _ k
      · show (s.fee.schedule.toList.getD c ⟨0, 0, 0, 0, 0, 0⟩).v ≤ 65535 ∧ _
        unfold old FeeUnit.rates
        rw [k]
        decide
    have two (i j d : Nat) (hd : d ≤ 65535) : (masked k j (field b i 2)).getD d ≤ 65535 := by
      unfold masked
      split
      · have := field_lt b i 2; simp only [Option.getD_some]; omega
      · exact hd
    have hx : new.x ≤ 99999999 := by
      show x.getD old.x ≤ 99999999
      cases hv : x with
      | none => exact hold.2.2.2.2.2
      | some v =>
        have hm : ¬ (x.any (fun v => decide (Config.moneyMax < v)) = true) := fun hh => hn (.inr (.inr (.inl hh)))
        rw [hv] at hm
        have hm : ¬ Config.moneyMax < v := fun hh => hm (by simpa using hh)
        unfold Config.moneyMax at hm
        simp only [Option.getD_some]; omega
    intro r hr
    have hr : r ∈ s.fee.schedule.toList.set c new := by
      simpa [State.updFee, Vector.toList_setIfInBounds] using hr
    rcases List.mem_or_eq_of_mem_set hr with hr | rfl
    · exact q.fees.1 r hr
    · exact ⟨two 2 0 _ hold.1, two 4 1 _ hold.2.1, two 6 2 _ hold.2.2.1, two 8 3 _ hold.2.2.2.1, by omega, hx⟩

theorem setDiscountRequest_keeps {st : Station} {tag : Byte} {b : List Byte} (h : Keeps a s) :
    Keeps a (setDiscountRequest st tag b s) := by
  unfold setDiscountRequest
  extract_lets v done
  have hv : v ≤ 100 := by unfold v; omega
  split
  · exact addReply_keeps (h.trans ⟨rfl, rfl, fun q => { q with fees := ⟨q.fees.1, hv, q.fees.2.2⟩ }, id, .refl _⟩)
  · exact addReply_keeps
      (h.trans ⟨rfl, rfl, fun q => { q with fees := ⟨q.fees.1, q.fees.2.1, hv, q.fees.2.2.2⟩ }, id, .refl _⟩)
  · exact addReply_keeps
      (h.trans ⟨rfl, rfl, fun q => { q with fees := ⟨q.fees.1, q.fees.2.1, q.fees.2.2.1, hv⟩ }, id, .refl _⟩)
  · exact refuse_keeps h

theorem dayCloseRequest_keeps {st : Station} {tag : Byte} (h : Keeps a s) : Keeps a (dayCloseRequest st tag s) := by
  unfold dayCloseRequest
  split
  · exact refuse_keeps h
  · next hd =>
    simp only [Config.dateMax] at hd
    exact addReply_keeps (closeDay_keeps (by omega) h)

theorem journalTakeRequest_keeps {st : Station} {tag : Byte} (h : Keeps a s) : Keeps a (journalTakeRequest st tag s) := by
  unfold journalTakeRequest
  try dsimp only
  repeat' (first
    | assumption | with_reducible refine addReply_keeps ?_
    | with_reducible refine updFee_keeps ?_ (fun _ => ⟨rfl, rfl, rfl, rfl, rfl⟩) | split)

theorem tallyQueryRequest_keeps {st : Station} {tag : Byte} {b : List Byte} (h : Keeps a s) : Keeps a (tallyQueryRequest st tag b s) := by
  unfold tallyQueryRequest
  try dsimp only
  repeat' (first
    | assumption | with_reducible refine addReply_keeps ?_ | with_reducible refine refuse_keeps ?_ | split)

theorem setDateRequest_keeps {st : Station} {tag : Byte} {b : List Byte} (h : Keeps a s) :
    Keeps a (setDateRequest st tag b s) := by
  unfold setDateRequest
  extract_lets d
  split
  · exact refuse_keeps h
  · next hd =>
    simp only [Config.dateMax] at hd
    split
    · exact refuse_keeps h
    · split
      · exact addReply_keeps h
      · exact addReply_keeps (closeDay_keeps (by omega) h)

theorem exportRequest_keeps {st : Station} {tag : Byte} {b : List Byte} (h : Keeps a s) : Keeps a (exportRequest st tag b s) := by
  unfold exportRequest
  try dsimp only
  repeat' (first
    | assumption | with_reducible refine refuse_keeps ?_ | with_reducible refine noticeSet_keeps ?_
    | with_reducible refine addReply_keeps ?_ | with_reducible refine settle_keeps ?_
    | with_reducible refine leaveCabinet_keeps ?_ | with_reducible refine wantPass_keeps ?_
    | with_reducible refine withPool_keeps ?_ (fun _ h => ?_) | with_reducible refine updCart_keeps ?_
    | with_reducible refine updLibrary_keeps ?_ (fun _ => rfl) | with_reducible refine addOutstanding_keeps ?_
    | split)

theorem driveResetRequest_keeps {st : Station} {tag : Byte} {b : List Byte} (h : Keeps a s) : Keeps a (driveResetRequest st tag b s) := by
  unfold driveResetRequest
  try dsimp only
  repeat' (first
    | assumption | with_reducible refine refuse_keeps ?_ | with_reducible refine notFitted_keeps ?_
    | with_reducible refine updDrive_keeps ?_ | with_reducible refine issue_keeps ?_
    | with_reducible refine addOutstanding_keeps ?_ | split)

theorem clearSettled_keeps {st : Station} {tag : Byte} (h : Keeps a s) : Keeps a (clearSettled st tag s) := by
  unfold clearSettled
  try dsimp only
  repeat' (first
    | assumption | with_reducible refine settle_keeps ?_ | with_reducible refine addReply_keeps ?_
    | with_reducible refine stepDown_keeps ?_ | split)

theorem retryRequest_keeps {st : Station} {tag : Byte} (h : Keeps a s) : Keeps a (retryRequest st tag s) := by
  unfold retryRequest
  try dsimp only
  repeat' (first
    | assumption | with_reducible refine refuse_keeps ?_ | with_reducible refine clearSettled_keeps ?_
    | with_reducible refine settle_keeps ?_ | with_reducible refine rerun_keeps ?_
    | with_reducible refine addReply_keeps ?_ | split)

theorem abandonRequest_keeps {st : Station} {tag : Byte} {at_ : Declared} (h : Keeps a s) : Keeps a (abandonRequest st tag at_ s) := by
  unfold abandonRequest
  try dsimp only
  repeat' (first
    | assumption | with_reducible refine refuse_keeps ?_ | with_reducible refine clearSettled_keeps ?_
    | with_reducible refine settle_keeps ?_ | with_reducible refine addReply_keeps ?_
    | with_reducible refine abandon_keeps ?_ | split)

theorem faultClearRequest_keeps {st : Station} {tag : Byte} {b : List Byte} (h : Keeps a s) : Keeps a (faultClearRequest st tag b s) := by
  unfold faultClearRequest
  try dsimp only
  repeat' (first
    | assumption | with_reducible refine retryRequest_keeps ?_ | with_reducible refine abandonRequest_keeps ?_
    | split)

theorem recoverNow_keeps {st : Station} {tag : Byte} {o : MoveOrder} (h : Keeps a s) :
    Keeps a (recoverNow st tag o s) := by
  unfold recoverNow
  dsimp only
  refine beginPick_keeps (updArm_keeps (addReply_keeps (takeOrderNumber_keeps h rfl)) (fun _ => rfl)) fun _ _ h => ?_
  exact moveFault_keeps h

theorem recoverRequest_keeps {st : Station} {tag : Byte} {b : List Byte} (h : Keeps a s) : Keeps a (recoverRequest st tag b s) := by
  unfold recoverRequest
  try dsimp only
  repeat' (first
    | assumption | with_reducible refine refuse_keeps ?_ | with_reducible refine settle_keeps ?_
    | with_reducible refine addReply_keeps ?_ | with_reducible refine setLocation_keeps ?_
    | with_reducible refine wantPass_keeps ?_ | with_reducible refine recoverNow_keeps ?_
    | with_reducible refine getD_keeps ?_ (fun _ _ => ?_) | split | refine askOrder_keeps ?_ (by assumption))

theorem faultQueryRequest_keeps {st : Station} {tag : Byte} (h : Keeps a s) : Keeps a (faultQueryRequest st tag s) := by
  unfold faultQueryRequest
  try dsimp only
  repeat' (first
    | assumption | with_reducible refine addReply_keeps ?_ | split)

theorem libraryQueryRequest_keeps {st : Station} {tag : Byte} {b : List Byte} (h : Keeps a s) : Keeps a (libraryQueryRequest st tag b s) := by
  unfold libraryQueryRequest
  try dsimp only
  repeat' (first
    | assumption | with_reducible refine addReply_keeps ?_ | with_reducible refine refuse_keeps ?_ | split)

end Sys2Proof.Machine
end

