-- ==== Sys2Proof/Laws/KeepsCommands.lean ====
section
/-! SUPPORT. The supervising requests and the reports from outside keep the block's invariants (Sys2Proof/Laws/Keeps.lean). -/

set_option Elab.async false
set_option linter.all false


namespace Sys2Proof.Machine

open Sys2Proof

variable {a s : State}

theorem setProfileRequest_keeps {st : Station} {tag : Byte} {b : List Byte} (h : Keeps a s) :
    Keeps a (setProfileRequest st tag b s) := by
  unfold setProfileRequest
  extract_lets f
  split
  · exact refuse_keeps h
  · next t _ =>
    split
    · exact refuse_keeps h
    · next hn =>
      refine addReply_keeps (h.trans ⟨rfl, rfl, fun k => { k with }, ?_, .refl _⟩)
      rintro ⟨u, hu⟩
      by_cases hf : f.supervise = true
      · exact ⟨t, by simpa [State.link_updLink] using hf⟩
      · have hn : onlySupervisor s t = false := by simpa [hf] using hn
        by_cases hut : u = t
        · subst hut
          have : ∃ w ∈ allStations, w ≠ u ∧ (s.link w).profile.supervise = true := by
            simpa [onlySupervisor, hu] using hn
          obtain ⟨w, -, hw, hs⟩ := this
          exact ⟨w, by simpa [State.link_updLink, hw] using hs⟩
        · exact ⟨u, by simpa [State.link_updLink, hut] using hu⟩

theorem idleExpiry_keeps {d : DriveId} (h : Keeps a s) : Keeps a (idleExpiry d s) := by
  unfold idleExpiry
  try dsimp only
  repeat' (first
    | assumption | with_reducible refine goStandby_keeps ?_ | split)

theorem holdExpiry_keeps {d : DriveId} (h : Keeps a s) : Keeps a (holdExpiry d s) := by
  unfold holdExpiry
  try dsimp only
  repeat' (first
    | assumption | with_reducible refine askHold_keeps ?_ | split)

theorem fetchStallExpiry_keeps {id : FetchId} (h : Keeps a s) : Keeps a (fetchStallExpiry id s) := by
  unfold fetchStallExpiry
  try dsimp only
  repeat' (first
    | assumption | with_reducible refine completeFetch_keeps ?_ | split)

theorem filingStallExpiry_keeps (h : Keeps a s) : Keeps a (filingStallExpiry s) := by
  unfold filingStallExpiry
  try dsimp only
  repeat' (first
    | assumption | with_reducible refine noticeSet_keeps ?_ | with_reducible refine updRun_keeps ?_ | split)

theorem applyTimers_keeps {old : Timers} (h : Keeps a s) : Keeps a (applyTimers old s) := by
  unfold applyTimers
  refine filingStallExpiry_keeps (foldl_keeps (foldl_keeps (drives_keeps h) fun _ _ h => ?_) fun _ _ h => ?_)
  · exact holdExpiry_keeps (idleExpiry_keeps h)
  · exact fetchStallExpiry_keeps h

theorem newTimers_ok {b : List Byte} {t : Timers} (h : timersOk t) : timersOk (newTimers b t) := by
  have key (k i w lo hi old : Nat) (hl : lo ≤ hi) (h1 : lo ≤ old) (h2 : old ≤ hi) :
      lo ≤ ((masked k i w).map (clamp lo hi)).getD old ∧ ((masked k i w).map (clamp lo hi)).getD old ≤ hi := by
    unfold masked
    split
    · simp only [Option.map_some, Option.getD_some, clamp]; omega
    · exact ⟨h1, h2⟩
  obtain ⟨h1, h2, ⟨h3, h4⟩, h5, h6⟩ := h
  exact ⟨(key _ _ _ 0 3600 _ (by decide) (Nat.zero_le _) h1).2, (key _ _ _ 0 86400 _ (by decide) (Nat.zero_le _) h2).2,
    key _ _ _ 10 600 _ (by decide) h3 h4, key _ _ _ 30 3600 _ (by decide) h5 h6⟩

theorem setTimersRequest_keeps {st : Station} {tag : Byte} {b : List Byte} (h : Keeps a s) :
    Keeps a (setTimersRequest st tag b s) := by
  have h1 : Keeps a { s with timers := newTimers b s.timers } :=
    h.trans ⟨rfl, rfl, fun k => { k with timers := newTimers_ok k.timers }, id, .refl _⟩
  unfold setTimersRequest
  split
  · exact addReply_keeps h1
  · exact settle_keeps (applyTimers_keeps (addReply_keeps h1))

theorem lowMark_keeps {v : Nat} (hv : v ≤ 64) (h : Keeps a s) :
    Keeps a (s.updLibrary fun l => { l with lowMark := v }) :=
  h.trans ⟨rfl, rfl, fun k => { k with lowMark := hv }, id, .refl _⟩

theorem setOptionsRequest_keeps {st : Station} {tag : Byte} {b : List Byte} (h : Keeps a s) :
    Keeps a (setOptionsRequest st tag b s) := by
  unfold setOptionsRequest
  extract_lets m reserve low s1 s2
  split
  · exact refuse_keeps h
  · have h1 : Keeps a s1 := updPlanner_keeps h
    have hl : ∀ v, low = some v → v ≤ 64 := by
      intro v hv
      obtain ⟨w, -, rfl⟩ := Option.map_eq_some_iff.1 hv
      exact Nat.min_le_left ..
    have h2 : Keeps a s2 := by
      unfold s2
      clear_value low
      cases low with
      | some v => exact judgePool_keeps (lowMark_keeps (hl v rfl) h1)
      | none => exact h1
    exact addReply_keeps h2

theorem setPriorityRequest_keeps {st : Station} {tag : Byte} {b : List Byte} (h : Keeps a s) :
    Keeps a (setPriorityRequest st tag b s) := by
  unfold setPriorityRequest
  extract_lets p vs
  split
  · next hp =>
    refine addReply_keeps (h.trans ⟨rfl, rfl, fun k => { k with priorities := ?_ }, id, .refl _⟩)
    obtain ⟨h1, h2⟩ := hp
    simp only [vs, List.all_cons, List.all_nil, Bool.and_true, Bool.and_eq_true, decide_eq_true_eq] at h1
    exact ⟨h1.1, h1.2.1, h1.2.2.1, h1.2.2.2, h2⟩
  · exact refuse_keeps h

theorem noticeConfigRequest_keeps {st : Station} {tag : Byte} {b : List Byte} (h : Keeps a s) :
    Keeps a (noticeConfigRequest st tag b s) := by
  unfold noticeConfigRequest
  extract_lets i m level target enable old new s1 s2
  split
  · exact refuse_keeps h
  · next hn =>
    have h1 : Keeps a s1 := by
      refine addReply_keeps (h.trans ⟨rfl, rfl, fun k => { k with sources := ?_ }, id, .refl _⟩)
      intro x hx
      have hx : x ∈ s.notices.toList.set (i - 1) new := by
        simpa [State.updSource, Vector.toList_setIfInBounds] using hx
      rcases List.mem_or_eq_of_mem_set hx with hx | rfl
      · exact k.sources x hx
      · show level.getD old.level ≤ 7
        cases hv : level with
        | none => exact source_level k.sources i
        | some v =>
          have hm : ¬ (level.any (fun v => decide (7 < v)) = true) := fun hh => hn (.inr (.inr (.inl hh)))
          rw [hv] at hm
          exact Nat.le_of_not_lt fun hh => hm (by simpa using hh)
    split
    · exact h1
    · split
      · exact judge_keeps h1
      · exact judge_keeps (judge_keeps h1)

theorem signalRequest_keeps {st : Station} {tag code : Byte} {v : Bool} {b : List Byte} (h : Keeps a s) : Keeps a (signalRequest st tag code v b s) := by
  unfold signalRequest
  try dsimp only
  repeat' (first
    | assumption | with_reducible refine refuse_keeps ?_ | with_reducible refine judge_keeps ?_
    | with_reducible refine addReply_keeps ?_ | with_reducible refine updSource_keeps ?_ (fun _ h => h) | split)

theorem judgeTaken_keeps {st : Station} (h : Keeps a s) : Keeps a (judgeTaken st s) := by
  unfold judgeTaken
  try dsimp only
  repeat' (first
    | assumption | with_reducible refine updLink_keeps ?_ (fun _ => rfl)
    | with_reducible refine askAttention_keeps ?_ | split)

theorem takeNoticeRequest_keeps {st : Station} {tag : Byte} (h : Keeps a s) : Keeps a (takeNoticeRequest st tag s) := by
  unfold takeNoticeRequest
  try dsimp only
  repeat' (first
    | assumption | with_reducible refine addReply_keeps ?_
    | with_reducible refine updLink_keeps ?_ (fun _ => rfl) | with_reducible refine judgeTaken_keeps ?_
    | with_reducible refine updSource_keeps ?_ (fun _ h => h) | split)

theorem setThresholdRequest_keeps {st : Station} {tag : Byte} {b : List Byte} (h : Keeps a s) : Keeps a (setThresholdRequest st tag b s) := by
  unfold setThresholdRequest
  try dsimp only
  repeat' (first
    | assumption | with_reducible refine judge_keeps ?_ | with_reducible refine addReply_keeps ?_
    | with_reducible refine updLink_keeps ?_ (fun _ => rfl) | split)

theorem noticeQueryRequest_keeps {st : Station} {tag : Byte} (h : Keeps a s) : Keeps a (noticeQueryRequest st tag s) := by
  unfold noticeQueryRequest
  try dsimp only
  repeat' (first
    | assumption | with_reducible refine addReply_keeps ?_ | split)

theorem statusRequest_keeps {st : Station} {tag : Byte} (h : Keeps a s) : Keeps a (statusRequest st tag s) := by
  unfold statusRequest
  try dsimp only
  repeat' (first
    | assumption | with_reducible refine addReply_keeps ?_ | split)

theorem serve_keeps {r : Req} {st : Station} {tag : Byte} {b : List Byte} (h : Keeps a s) : Keeps a (serve r st tag b s) := by
  cases r <;> unfold serve <;> dsimp only <;> first
    | with_reducible exact fetchRequest_keeps h
    | with_reducible exact cancelRequest_keeps h
    | with_reducible exact quoteRequest_keeps h
    | with_reducible exact locateRequest_keeps h
    | with_reducible exact findRequest_keeps h
    | with_reducible exact openRequest_keeps h
    | with_reducible exact postRequest_keeps h
    | with_reducible exact closeRequest_keeps h
    | with_reducible exact abortRequest_keeps h
    | with_reducible exact accountOpenRequest_keeps h
    | with_reducible exact accountUpdateRequest_keeps h
    | with_reducible exact accountCreditRequest_keeps h
    | with_reducible exact accountCloseRequest_keeps h
    | with_reducible exact accountQueryRequest_keeps h
    | with_reducible exact setScheduleRequest_keeps h
    | with_reducible exact setDiscountRequest_keeps h
    | with_reducible exact dayCloseRequest_keeps h
    | with_reducible exact journalTakeRequest_keeps h
    | with_reducible exact tallyQueryRequest_keeps h
    | with_reducible exact exportRequest_keeps h
    | with_reducible exact driveResetRequest_keeps h
    | with_reducible exact faultClearRequest_keeps h
    | with_reducible exact recoverRequest_keeps h
    | with_reducible exact faultQueryRequest_keeps h
    | with_reducible exact libraryQueryRequest_keeps h
    | with_reducible exact setProfileRequest_keeps h
    | with_reducible exact setTimersRequest_keeps h
    | with_reducible exact setOptionsRequest_keeps h
    | with_reducible exact setDateRequest_keeps h
    | with_reducible exact setPriorityRequest_keeps h
    | with_reducible exact noticeConfigRequest_keeps h
    | with_reducible exact signalRequest_keeps h
    | with_reducible exact takeNoticeRequest_keeps h
    | with_reducible exact setThresholdRequest_keeps h
    | with_reducible exact noticeQueryRequest_keeps h
    | with_reducible exact statusRequest_keeps h

theorem takeRequest_keeps {st : Station} {tag code : Byte} {b : List Byte} (h : Keeps a s) : Keeps a (takeRequest st tag code b s) := by
  unfold takeRequest
  try dsimp only
  repeat' (first
    | assumption | with_reducible refine refuse_keeps ?_ | with_reducible refine serve_keeps ?_ | split)

theorem takeBody_keeps {st : Station} {tag : Byte} {body : List Byte} (h : Keeps a s) : Keeps a (takeBody st tag body s) := by
  unfold takeBody
  try dsimp only
  repeat' (first
    | assumption | with_reducible refine refuse_keeps ?_ | with_reducible refine takeRequest_keeps ?_ | split)

theorem dropReplies_keeps {st : Station} (h : Keeps a s) : Keeps a (dropReplies st s) :=
  drives_keeps (updLibrary_keeps h (fun _ => rfl))

theorem resetLink_keeps {st : Station} {cause : ResetCause} (h : Keeps a s) : Keeps a (resetLink st cause s) := by
  unfold resetLink
  try dsimp only
  repeat' (first
    | assumption | with_reducible refine updLink_keeps ?_ (fun _ => rfl)
    | with_reducible refine dropReplies_keeps ?_
    | with_reducible refine completeAll_keeps ?_ | with_reducible refine abortRun_keeps ?_
    | with_reducible refine settle_keeps ?_ | split)

theorem resetAgain_keeps {st : Station} (h : Keeps a s) : Keeps a (resetAgain st s) := by
  unfold resetAgain
  try dsimp only
  repeat' (first
    | assumption | with_reducible refine updLink_keeps ?_ (fun _ => rfl) | split)

theorem linkUp_keeps {st : Station} (h : Keeps a s) : Keeps a (linkUp st s) := by
  unfold linkUp
  try dsimp only
  repeat' (first
    | assumption | with_reducible refine judge_keeps ?_ | with_reducible refine updLink_keeps ?_ (fun _ => rfl)
    | split)

theorem badFrame_keeps {st : Station} {cause : ResetCause} (h : Keeps a s) : Keeps a (badFrame st cause s) := by
  unfold badFrame
  try dsimp only
  repeat' (first
    | assumption | with_reducible refine resetLink_keeps ?_ | with_reducible refine resetAgain_keeps ?_ | split)

theorem receiveFrame_keeps {st : Station} {deal : State → State} (h : Keeps a s)
    (hd : ∀ t, Keeps a t → Keeps a (deal t)) : Keeps a (receiveFrame st deal s) := by
  unfold receiveFrame
  split
  · exact h
  · split
    · exact resetLink_keeps h
    · exact hd _ (linkUp_keeps h)

theorem dealRequest_keeps {st : Station} {tag : Byte} {body : List Byte} (h : Keeps a s) : Keeps a (dealRequest st tag body s) := by
  unfold dealRequest
  try dsimp only
  repeat' (first
    | assumption | with_reducible refine takeBody_keeps ?_
    | with_reducible refine updLink_keeps ?_ (fun _ => rfl) | split)

theorem receiveRequest_keeps {st : Station} {tag : Byte} {body : List Byte} (h : Keeps a s) :
    Keeps a (receiveRequest st tag body s) :=
  receiveFrame_keeps h fun _ h => dealRequest_keeps h

theorem stopStalls_keeps {st : Station} (h : Keeps a s) : Keeps a (stopStalls st s) := by
  unfold stopStalls
  try dsimp only
  repeat' (first
    | assumption | with_reducible refine updFetch_keeps ?_ | split)

theorem dealCredit_keeps {st : Station} {b : List Byte} (h : Keeps a s) : Keeps a (dealCredit st b s) := by
  unfold dealCredit
  try dsimp only
  repeat' (first
    | assumption | with_reducible refine settle_keeps ?_ | with_reducible refine stopStalls_keeps ?_
    | with_reducible refine updLink_keeps ?_ (fun _ => rfl) | split)

theorem receiveReset_keeps {st : Station} (h : Keeps a s) : Keeps a (receiveReset st s) := by
  unfold receiveReset
  try dsimp only
  repeat' (first
    | assumption | with_reducible refine resetLink_keeps ?_ | with_reducible refine linkUp_keeps ?_ | split)

theorem receiveKind_keeps {st : Station} (h : Keeps a s) : Keeps a (receiveKind st s) := by
  unfold receiveKind
  try dsimp only
  repeat' (first
    | assumption | with_reducible refine badFrame_keeps ?_ | split)

theorem loseCarrier_keeps {st : Station} (h : Keeps a s) : Keeps a (loseCarrier st s) := by
  unfold loseCarrier
  try dsimp only
  repeat' (first
    | assumption | with_reducible refine resetLink_keeps ?_ | split)

theorem overrunReset_keeps {st : Station} (h : Keeps a s) : Keeps a (overrunReset st s) := by
  unfold overrunReset
  try dsimp only
  repeat' (first
    | assumption | with_reducible refine resetLink_keeps ?_ | split)

theorem takeHeld_keeps {st : Station} (h : Keeps a s) : Keeps a (takeHeld st s) := by
  unfold takeHeld
  try dsimp only
  repeat' (first
    | assumption | with_reducible refine takeBody_keeps ?_
    | with_reducible refine updLink_keeps ?_ (fun _ => rfl) | split)

theorem afterSent_keeps {st : Station} {f : TxFrame} (h : Keeps a s) : Keeps a (afterSent st f s) := by
  unfold afterSent
  try dsimp only
  repeat' (first
    | assumption | with_reducible refine takeHeld_keeps ?_
    | with_reducible refine updLink_keeps ?_ (fun _ => rfl) | with_reducible refine dataSent_keeps ?_ | split)

theorem frameDone_keeps {st : Station} (h : Keeps a s) : Keeps a (frameDone st s) := by
  unfold frameDone
  try dsimp only
  repeat' (first
    | assumption | with_reducible refine settle_keeps ?_ | with_reducible refine afterSent_keeps ?_
    | with_reducible refine updLink_keeps ?_ (fun _ => rfl) | split)

theorem identified_keeps {d : DriveId} {present faulty : Bool} (h : Keeps a s) : Keeps a (identified d present faulty s) := by
  unfold identified
  try dsimp only
  repeat' (first
    | assumption | with_reducible refine updDrive_keeps ?_ | with_reducible refine driveFault_keeps ?_
    | with_reducible refine hardwareFault_keeps ?_ | with_reducible refine spinUp_keeps ?_ | split)

theorem notFitted_keeps {d : DriveId} (h : Keeps a s) : Keeps a (notFitted d s) := by
  unfold notFitted
  try dsimp only
  repeat' (first
    | assumption | with_reducible refine updDrive_keeps ?_ | split)

theorem dropFiling_keeps {e : CatEntry} (he : s.filingEntry = some e) (h : Keeps a s) :
    Keeps a { s with catalogue := s.catalogue.filter fun x => x.number ≠ e.number } := by
  have hm : e ∈ s.catalogue := List.mem_of_find?_eq_some he
  have hs : e.state = .filing := by simpa using List.find?_some he
  refine catalogue_keeps h fun k => filter_grows _ (fun y hy hc => ?_) k
  simp only [ne_eq, decide_not, Bool.not_eq_eq_eq_not, Bool.not_true, decide_eq_false_iff_not]
  intro hyn
  rw [k.same hy hm hyn, hs] at hc
  cases hc

theorem removeFiling_keeps (h : Keeps a s) : Keeps a (removeFiling s) := by
  unfold removeFiling
  split
  · exact h
  · next e he =>
    have h1 := dropFiling_keeps he h
    dsimp only
    split
    · exact h1
    · exact updCart_keeps h1

theorem askStartUp_keeps {o : MoveOrder} (h : Keeps a s) : Keeps a (askStartUp o s) := by
  unfold askStartUp
  try dsimp only
  repeat' (first
    | assumption | split | refine askOrder_keeps ?_ (by assumption))

theorem readSensors_keeps {grip slot : Bool} {shelf : BitVec 96} (h : Keeps a s) : Keeps a (readSensors grip slot shelf s) := by
  unfold readSensors
  try dsimp only
  repeat' (first
    | assumption | with_reducible refine updArm_keeps ?_ (fun _ => rfl)
    | with_reducible refine updLibrary_keeps ?_ (fun _ => rfl) | split)

theorem lose_keeps {n : Nat} (h : Keeps a s) : Keeps a (lose n s) := by
  unfold lose
  try dsimp only
  repeat' (first
    | assumption | with_reducible refine updCart_keeps ?_ | split)

theorem correctCart_keeps {c : Cartridge} (h : Keeps a s) : Keeps a (correctCart c s) := by
  unfold correctCart
  try dsimp only
  repeat' (first
    | assumption | with_reducible refine askStartUp_keeps ?_ | with_reducible refine lose_keeps ?_
    | with_reducible refine updDrive_keeps ?_ | with_reducible refine updLibrary_keeps ?_ (fun _ => rfl)
    | with_reducible refine leaveCabinet_keeps ?_ | split)

theorem correctDrive_keeps {d : DriveId} (h : Keeps a s) : Keeps a (correctDrive d s) := by
  unfold correctDrive
  try dsimp only
  repeat' (first
    | assumption | with_reducible refine inspectDrive_keeps ?_ | split)

theorem correctGrip_keeps (h : Keeps a s) : Keeps a (correctGrip s) := by
  unfold correctGrip
  try dsimp only
  repeat' (first
    | assumption | with_reducible refine addInspection_keeps ?_ | with_reducible refine updInsp_keeps ?_ | split)

theorem correctSlot_keeps (h : Keeps a s) : Keeps a (correctSlot s) := by
  unfold correctSlot
  try dsimp only
  repeat' (first
    | assumption | with_reducible refine slotCheck_keeps ?_ | with_reducible refine addInspection_keeps ?_
    | with_reducible refine updLibrary_keeps ?_ (fun _ => rfl) | split)

theorem correctMap_keeps (h : Keeps a s) : Keeps a (correctMap s) := by
  unfold correctMap
  refine judgePool_keeps (updLibrary_keeps (correctSlot_keeps (foldl_keeps (correctGrip_keeps
    (foldl_keeps h fun _ _ h => correctCart_keeps h)) fun _ _ h => correctDrive_keeps h)) fun _ => rfl)

theorem receiversOn_keeps (h : Keeps a s) : Keeps a (receiversOn s) := by
  refine h.trans ⟨rfl, rfl, fun k => { k with }, ?_, .refl _⟩
  rintro ⟨t, ht⟩
  refine ⟨t, ?_⟩
  have : ((receiversOn s).link t).profile = (s.link t).profile := by simp [receiversOn, State.link]
  rw [this]; exact ht

theorem reconcile_keeps {grip slot : Bool} {shelf : BitVec 96} (h : Keeps a s) : Keeps a (reconcile grip slot shelf s) := by
  unfold reconcile
  split
  · exact h
  · exact settle_keeps (wantPass_keeps (receiversOn_keeps (correctMap_keeps (readSensors_keeps (removeFiling_keeps h)))))

theorem slotCartridge_keeps (h : Keeps a s) : Keeps a (slotCartridge s) := by
  unfold slotCartridge
  try dsimp only
  repeat' (first
    | assumption | with_reducible refine updLibrary_keeps ?_ (fun _ => rfl)
    | with_reducible refine settle_keeps ?_ | with_reducible refine slotCheck_keeps ?_
    | with_reducible refine addInspection_keeps ?_ | split)

theorem arrivedRemoved_keeps (h : Keeps a s) : Keeps a (arrivedRemoved s) := by
  unfold arrivedRemoved
  try dsimp only
  repeat' (first
    | assumption | with_reducible refine endInspection_keeps ?_ | with_reducible refine withdrawAll_keeps ?_
    | split)

theorem heldRemoved_keeps (h : Keeps a s) : Keeps a (heldRemoved s) := by
  unfold heldRemoved
  try dsimp only
  repeat' (first
    | assumption | with_reducible refine leaveCabinet_keeps ?_ | split)

theorem slotEmptied_keeps (h : Keeps a s) : Keeps a (slotEmptied s) := by
  unfold slotEmptied
  try dsimp only
  repeat' (first
    | assumption | with_reducible refine updLibrary_keeps ?_ (fun _ => rfl)
    | with_reducible refine settle_keeps ?_ | with_reducible refine arrivedRemoved_keeps ?_
    | with_reducible refine heldRemoved_keeps ?_ | split)

theorem shelfChanged_keeps {n : Nat} {present : Bool} (h : Keeps a s) : Keeps a (shelfChanged n present s) := by
  unfold shelfChanged
  try dsimp only
  repeat' (first
    | assumption | with_reducible refine setShelf_keeps ?_ | with_reducible refine settle_keeps ?_
    | with_reducible refine slotRetry_keeps ?_ | split)

theorem pickCompleted_keeps (h : Keeps a s) : Keeps a (pickCompleted s) := by
  unfold pickCompleted
  try dsimp only
  repeat' (first
    | assumption | with_reducible refine settle_keeps ?_ | with_reducible refine pickDone_keeps ?_ | split)

theorem travelCompleted_keeps (h : Keeps a s) : Keeps a (travelCompleted s) := by
  unfold travelCompleted
  try dsimp only
  repeat' (first
    | assumption | with_reducible refine settle_keeps ?_ | with_reducible refine beginPlace_keeps ?_ | split)

theorem placeCompleted_keeps (h : Keeps a s) : Keeps a (placeCompleted s) := by
  unfold placeCompleted
  try dsimp only
  repeat' (first
    | assumption | with_reducible refine settle_keeps ?_ | with_reducible refine placeDone_keeps ?_
    | with_reducible refine moveFault_keeps ?_ | split)

theorem moveTimedOut_keeps (h : Keeps a s) : Keeps a (moveTimedOut s) := by
  unfold moveTimedOut
  try dsimp only
  repeat' (first
    | assumption | with_reducible refine settle_keeps ?_ | with_reducible refine moveFault_keeps ?_ | split)

theorem pickFoundEmpty_keeps (h : Keeps a s) : Keeps a (pickFoundEmpty s) := by
  unfold pickFoundEmpty
  try dsimp only
  repeat' (first
    | assumption | with_reducible refine settle_keeps ?_ | with_reducible refine moveFault_keeps ?_ | split)

theorem driveRefuses_keeps (h : Keeps a s) : Keeps a (driveRefuses s) := by
  unfold driveRefuses
  try dsimp only
  repeat' (first
    | assumption | with_reducible refine settle_keeps ?_ | with_reducible refine moveFault_keeps ?_
    | with_reducible refine driveFault_keeps ?_ | split)

theorem placeStopped_keeps (h : Keeps a s) : Keeps a (placeStopped s) := by
  unfold placeStopped
  try dsimp only
  repeat' (first
    | assumption | with_reducible refine settle_keeps ?_ | with_reducible refine moveFault_keeps ?_ | split)

theorem gripEmpty_keeps (h : Keeps a s) : Keeps a (gripEmpty s) := by
  unfold gripEmpty
  try dsimp only
  repeat' (first
    | assumption | with_reducible refine settle_keeps ?_ | with_reducible refine moveFault_keeps ?_
    | with_reducible refine updArm_keeps ?_ (fun _ => rfl) | split)

theorem spunUp_keeps {d : DriveId} (h : Keeps a s) : Keeps a (spunUp d s) := by
  unfold spunUp
  try dsimp only
  repeat' (first
    | assumption | with_reducible refine clearCommand_keeps ?_ | with_reducible refine updDrive_keeps ?_
    | with_reducible refine wantPass_keeps ?_ | with_reducible refine becomeEmpty_keeps ?_
    | with_reducible refine startUnload_keeps ?_ | split)

theorem spinUpCompleted_keeps {d : DriveId} {r : SpinUpResult} (h : Keeps a s) : Keeps a (spinUpCompleted d r s) := by
  unfold spinUpCompleted
  try dsimp only
  repeat' (first
    | assumption | with_reducible refine spinUp_keeps ?_ | with_reducible refine settle_keeps ?_
    | with_reducible refine spunUp_keeps ?_ | with_reducible refine driveFault_keeps ?_
    | with_reducible refine clearCommand_keeps ?_ | split)

theorem issueNext_keeps {d : DriveId} (h : Keeps a s) : Keeps a (issueNext d s) := by
  unfold issueNext
  try dsimp only
  repeat' (first
    | assumption | with_reducible refine issue_keeps ?_ | with_reducible refine becomeEmpty_keeps ?_ | split)

theorem spinDownCompleted_keeps {d : DriveId} (h : Keeps a s) : Keeps a (spinDownCompleted d s) := by
  unfold spinDownCompleted
  try dsimp only
  repeat' (first
    | assumption | with_reducible refine settle_keeps ?_ | with_reducible refine issueNext_keeps ?_
    | with_reducible refine clearCommand_keeps ?_ | split)

theorem pickRefusedAt_keeps {d : DriveId} (h : Keeps a s) : Keeps a (pickRefusedAt d s) := by
  unfold pickRefusedAt
  try dsimp only
  repeat' (first
    | assumption | with_reducible refine moveFault_keeps ?_ | split)

theorem ejectCompleted_keeps {d : DriveId} {r : EjectResult} (h : Keeps a s) : Keeps a (ejectCompleted d r s) := by
  unfold ejectCompleted
  try dsimp only
  repeat' (first
    | assumption | with_reducible refine clearCommand_keeps ?_ | with_reducible refine updDrive_keeps ?_
    | with_reducible refine settle_keeps ?_ | with_reducible refine issueNext_keeps ?_
    | with_reducible refine pickRefusedAt_keeps ?_ | with_reducible refine driveFault_keeps ?_ | split)

theorem readCompleted_keeps {d : DriveId} {rs : List SectorRead} (h : Keeps a s) : Keeps a (readCompleted d rs s) := by
  unfold readCompleted
  try dsimp only
  repeat' (first
    | assumption | with_reducible refine settle_keeps ?_ | with_reducible refine readAnswer_keeps ?_
    | with_reducible refine clearCommand_keeps ?_ | split)

theorem writeCompleted_keeps {d : DriveId} {r : WriteResult} (h : Keeps a s) : Keeps a (writeCompleted d r s) := by
  unfold writeCompleted
  try dsimp only
  repeat' (first
    | assumption | with_reducible refine settle_keeps ?_ | with_reducible refine writeAnswer_keeps ?_
    | with_reducible refine clearCommand_keeps ?_ | split)

theorem verifyCompleted_keeps {d : DriveId} {rs : List SectorVerify} (h : Keeps a s) : Keeps a (verifyCompleted d rs s) := by
  unfold verifyCompleted
  try dsimp only
  repeat' (first
    | assumption | with_reducible refine settle_keeps ?_ | with_reducible refine verifyAnswer_keeps ?_
    | with_reducible refine clearCommand_keeps ?_ | split)

theorem blankCompleted_keeps {d : DriveId} {r : BlankResult} (h : Keeps a s) : Keeps a (blankCompleted d r s) := by
  unfold blankCompleted
  try dsimp only
  repeat' (first
    | assumption | with_reducible refine settle_keeps ?_ | with_reducible refine blankAnswer_keeps ?_
    | with_reducible refine clearCommand_keeps ?_ | split)

theorem resetCompleted_keeps {d : DriveId} {present : Bool} (h : Keeps a s) : Keeps a (resetCompleted d present s) := by
  unfold resetCompleted
  try dsimp only
  repeat' (first
    | assumption | with_reducible refine clearCommand_keeps ?_ | with_reducible refine updDrive_keeps ?_
    | with_reducible refine spinUp_keeps ?_ | with_reducible refine presenceReported_keeps ?_
    | with_reducible refine wantPass_keeps ?_ | with_reducible refine replyLong_keeps ?_ | split)

theorem reinitCompleted_keeps {d : DriveId} {present : Bool} (h : Keeps a s) : Keeps a (reinitCompleted d present s) := by
  unfold reinitCompleted
  try dsimp only
  repeat' (first
    | assumption | with_reducible refine settle_keeps ?_ | with_reducible refine resetCompleted_keeps ?_ | split)

theorem powerCycleCompleted_keeps {d : DriveId} {present : Bool} (h : Keeps a s) : Keeps a (powerCycleCompleted d present s) := by
  unfold powerCycleCompleted
  try dsimp only
  repeat' (first
    | assumption | with_reducible refine settle_keeps ?_ | with_reducible refine resetCompleted_keeps ?_ | split)

theorem commandTimedOut_keeps {d : DriveId} (h : Keeps a s) : Keeps a (commandTimedOut d s) := by
  unfold commandTimedOut
  try dsimp only
  repeat' (first
    | assumption | with_reducible refine settle_keeps ?_ | with_reducible refine driveFault_keeps ?_ | split)

theorem hardwareFault_keeps {d : DriveId} (h : Keeps a s) : Keeps a (hardwareFault d s) := by
  unfold hardwareFault
  try dsimp only
  repeat' (first
    | assumption | with_reducible refine settle_keeps ?_ | with_reducible refine driveFault_keeps ?_
    | with_reducible refine hardwareFault_keeps ?_ | split)

end Sys2Proof.Machine
end

