-- ==== Sys2Proof/Laws/PerInstr.lean ====
section
/-! SUPPORT. The lemmas made per constructor of Instr. FrameRoundTrip: a well-formed command that arrives as a frame has a
body that a frame can carry, and the frame's kind, tag and body are read back as that command (R177, R205). -/

set_option Elab.async false

namespace Sys2Proof.Laws.FrameRoundTrip

open Sys2Proof Sys2Proof.Machine

/-- What the family says of a command. -/
def Statement (i : Instr) : Prop :=
  i.wf = true → ∀ st kind tag body, frameOf i = some (st, kind, tag, body) →
    body.length ≤ Config.bodyMax ∧ frameCommand st kind tag body = i

theorem fetch (st : Station) (tag : Byte) (body : List Byte) : Statement (.fetch st tag body) := by
  intro hw _ _ _ _ h
  simp only [frameOf, Option.some.injEq, Prod.mk.injEq] at h
  obtain ⟨rfl, rfl, rfl, rfl⟩ := h
  exact ⟨by simpa [Instr.wf, bodyFits] using hw, rfl⟩

theorem cancelFetch (st : Station) (tag : Byte) (body : List Byte) : Statement (.cancelFetch st tag body) := by
  intro hw _ _ _ _ h
  simp only [frameOf, Option.some.injEq, Prod.mk.injEq] at h
  obtain ⟨rfl, rfl, rfl, rfl⟩ := h
  exact ⟨by simpa [Instr.wf, bodyFits] using hw, rfl⟩

theorem quote (st : Station) (tag : Byte) (body : List Byte) : Statement (.quote st tag body) := by
  intro hw _ _ _ _ h
  simp only [frameOf, Option.some.injEq, Prod.mk.injEq] at h
  obtain ⟨rfl, rfl, rfl, rfl⟩ := h
  exact ⟨by simpa [Instr.wf, bodyFits] using hw, rfl⟩

theorem locate (st : Station) (tag : Byte) (body : List Byte) : Statement (.locate st tag body) := by
  intro hw _ _ _ _ h
  simp only [frameOf, Option.some.injEq, Prod.mk.injEq] at h
  obtain ⟨rfl, rfl, rfl, rfl⟩ := h
  exact ⟨by simpa [Instr.wf, bodyFits] using hw, rfl⟩

theorem find (st : Station) (tag : Byte) (body : List Byte) : Statement (.find st tag body) := by
  intro hw _ _ _ _ h
  simp only [frameOf, Option.some.injEq, Prod.mk.injEq] at h
  obtain ⟨rfl, rfl, rfl, rfl⟩ := h
  exact ⟨by simpa [Instr.wf, bodyFits] using hw, rfl⟩

theorem openInstrument (st : Station) (tag : Byte) (body : List Byte) : Statement (.openInstrument st tag body) := by
  intro hw _ _ _ _ h
  simp only [frameOf, Option.some.injEq, Prod.mk.injEq] at h
  obtain ⟨rfl, rfl, rfl, rfl⟩ := h
  exact ⟨by simpa [Instr.wf, bodyFits] using hw, rfl⟩

theorem postPage (st : Station) (tag : Byte) (body : List Byte) : Statement (.postPage st tag body) := by
  intro hw _ _ _ _ h
  simp only [frameOf, Option.some.injEq, Prod.mk.injEq] at h
  obtain ⟨rfl, rfl, rfl, rfl⟩ := h
  exact ⟨by simpa [Instr.wf, bodyFits] using hw, rfl⟩

theorem closeInstrument (st : Station) (tag : Byte) (body : List Byte) : Statement (.closeInstrument st tag body) := by
  intro hw _ _ _ _ h
  simp only [frameOf, Option.some.injEq, Prod.mk.injEq] at h
  obtain ⟨rfl, rfl, rfl, rfl⟩ := h
  exact ⟨by simpa [Instr.wf, bodyFits] using hw, rfl⟩

theorem abortInstrument (st : Station) (tag : Byte) (body : List Byte) : Statement (.abortInstrument st tag body) := by
  intro hw _ _ _ _ h
  simp only [frameOf, Option.some.injEq, Prod.mk.injEq] at h
  obtain ⟨rfl, rfl, rfl, rfl⟩ := h
  exact ⟨by simpa [Instr.wf, bodyFits] using hw, rfl⟩

theorem accountOpen (st : Station) (tag : Byte) (body : List Byte) : Statement (.accountOpen st tag body) := by
  intro hw _ _ _ _ h
  simp only [frameOf, Option.some.injEq, Prod.mk.injEq] at h
  obtain ⟨rfl, rfl, rfl, rfl⟩ := h
  exact ⟨by simpa [Instr.wf, bodyFits] using hw, rfl⟩

theorem accountUpdate (st : Station) (tag : Byte) (body : List Byte) : Statement (.accountUpdate st tag body) := by
  intro hw _ _ _ _ h
  simp only [frameOf, Option.some.injEq, Prod.mk.injEq] at h
  obtain ⟨rfl, rfl, rfl, rfl⟩ := h
  exact ⟨by simpa [Instr.wf, bodyFits] using hw, rfl⟩

theorem accountCredit (st : Station) (tag : Byte) (body : List Byte) : Statement (.accountCredit st tag body) := by
  intro hw _ _ _ _ h
  simp only [frameOf, Option.some.injEq, Prod.mk.injEq] at h
  obtain ⟨rfl, rfl, rfl, rfl⟩ := h
  exact ⟨by simpa [Instr.wf, bodyFits] using hw, rfl⟩

theorem accountClose (st : Station) (tag : Byte) (body : List Byte) : Statement (.accountClose st tag body) := by
  intro hw _ _ _ _ h
  simp only [frameOf, Option.some.injEq, Prod.mk.injEq] at h
  obtain ⟨rfl, rfl, rfl, rfl⟩ := h
  exact ⟨by simpa [Instr.wf, bodyFits] using hw, rfl⟩

theorem accountQuery (st : Station) (tag : Byte) (body : List Byte) : Statement (.accountQuery st tag body) := by
  intro hw _ _ _ _ h
  simp only [frameOf, Option.some.injEq, Prod.mk.injEq] at h
  obtain ⟨rfl, rfl, rfl, rfl⟩ := h
  exact ⟨by simpa [Instr.wf, bodyFits] using hw, rfl⟩

theorem setSchedule (st : Station) (tag : Byte) (body : List Byte) : Statement (.setSchedule st tag body) := by
  intro hw _ _ _ _ h
  simp only [frameOf, Option.some.injEq, Prod.mk.injEq] at h
  obtain ⟨rfl, rfl, rfl, rfl⟩ := h
  exact ⟨by simpa [Instr.wf, bodyFits] using hw, rfl⟩

theorem setCategoryDiscount (st : Station) (tag : Byte) (body : List Byte) : Statement (.setCategoryDiscount st tag body) := by
  intro hw _ _ _ _ h
  simp only [frameOf, Option.some.injEq, Prod.mk.injEq] at h
  obtain ⟨rfl, rfl, rfl, rfl⟩ := h
  exact ⟨by simpa [Instr.wf, bodyFits] using hw, rfl⟩

theorem dayClose (st : Station) (tag : Byte) (body : List Byte) : Statement (.dayClose st tag body) := by
  intro hw _ _ _ _ h
  simp only [frameOf, Option.some.injEq, Prod.mk.injEq] at h
  obtain ⟨rfl, rfl, rfl, rfl⟩ := h
  exact ⟨by simpa [Instr.wf, bodyFits] using hw, rfl⟩

theorem journalTake (st : Station) (tag : Byte) (body : List Byte) : Statement (.journalTake st tag body) := by
  intro hw _ _ _ _ h
  simp only [frameOf, Option.some.injEq, Prod.mk.injEq] at h
  obtain ⟨rfl, rfl, rfl, rfl⟩ := h
  exact ⟨by simpa [Instr.wf, bodyFits] using hw, rfl⟩

theorem tallyQuery (st : Station) (tag : Byte) (body : List Byte) : Statement (.tallyQuery st tag body) := by
  intro hw _ _ _ _ h
  simp only [frameOf, Option.some.injEq, Prod.mk.injEq] at h
  obtain ⟨rfl, rfl, rfl, rfl⟩ := h
  exact ⟨by simpa [Instr.wf, bodyFits] using hw, rfl⟩

theorem exportCartridge (st : Station) (tag : Byte) (body : List Byte) : Statement (.exportCartridge st tag body) := by
  intro hw _ _ _ _ h
  simp only [frameOf, Option.some.injEq, Prod.mk.injEq] at h
  obtain ⟨rfl, rfl, rfl, rfl⟩ := h
  exact ⟨by simpa [Instr.wf, bodyFits] using hw, rfl⟩

theorem driveReset (st : Station) (tag : Byte) (body : List Byte) : Statement (.driveReset st tag body) := by
  intro hw _ _ _ _ h
  simp only [frameOf, Option.some.injEq, Prod.mk.injEq] at h
  obtain ⟨rfl, rfl, rfl, rfl⟩ := h
  exact ⟨by simpa [Instr.wf, bodyFits] using hw, rfl⟩

theorem faultClearRetry (st : Station) (tag : Byte) (body : List Byte) : Statement (.faultClearRetry st tag body) := by
  intro hw _ _ _ _ h
  simp only [frameOf, Option.some.injEq, Prod.mk.injEq] at h
  obtain ⟨rfl, rfl, rfl, rfl⟩ := h
  simp only [Instr.wf, bodyFits, saysAbandon, Bool.and_eq_true, decide_eq_true_eq, Bool.not_eq_true', beq_eq_false_iff_ne,
    ne_eq, beq_iff_eq] at hw
  exact ⟨hw.1, by
    have : Req.ofCode Req.faultClear.code = some .faultClear := rfl
    have hb := hw.2
    simp only [frameCommand, requestOf, this, ↓reduceIte, hb]⟩

theorem faultClearAbandon (st : Station) (tag : Byte) (body : List Byte) : Statement (.faultClearAbandon st tag body) := by
  intro hw _ _ _ _ h
  simp only [frameOf, Option.some.injEq, Prod.mk.injEq] at h
  obtain ⟨rfl, rfl, rfl, rfl⟩ := h
  simp only [Instr.wf, bodyFits, saysAbandon, Bool.and_eq_true, decide_eq_true_eq, Bool.not_eq_true', beq_eq_false_iff_ne,
    ne_eq, beq_iff_eq] at hw
  exact ⟨hw.1, by
    have : Req.ofCode Req.faultClear.code = some .faultClear := rfl
    have hb := hw.2
    simp only [frameCommand, requestOf, this, ↓reduceIte, hb]⟩

theorem recover (st : Station) (tag : Byte) (body : List Byte) : Statement (.recover st tag body) := by
  intro hw _ _ _ _ h
  simp only [frameOf, Option.some.injEq, Prod.mk.injEq] at h
  obtain ⟨rfl, rfl, rfl, rfl⟩ := h
  exact ⟨by simpa [Instr.wf, bodyFits] using hw, rfl⟩

theorem faultQuery (st : Station) (tag : Byte) (body : List Byte) : Statement (.faultQuery st tag body) := by
  intro hw _ _ _ _ h
  simp only [frameOf, Option.some.injEq, Prod.mk.injEq] at h
  obtain ⟨rfl, rfl, rfl, rfl⟩ := h
  exact ⟨by simpa [Instr.wf, bodyFits] using hw, rfl⟩

theorem libraryQuery (st : Station) (tag : Byte) (body : List Byte) : Statement (.libraryQuery st tag body) := by
  intro hw _ _ _ _ h
  simp only [frameOf, Option.some.injEq, Prod.mk.injEq] at h
  obtain ⟨rfl, rfl, rfl, rfl⟩ := h
  exact ⟨by simpa [Instr.wf, bodyFits] using hw, rfl⟩

theorem setProfile (st : Station) (tag : Byte) (body : List Byte) : Statement (.setProfile st tag body) := by
  intro hw _ _ _ _ h
  simp only [frameOf, Option.some.injEq, Prod.mk.injEq] at h
  obtain ⟨rfl, rfl, rfl, rfl⟩ := h
  exact ⟨by simpa [Instr.wf, bodyFits] using hw, rfl⟩

theorem setTimers (st : Station) (tag : Byte) (body : List Byte) : Statement (.setTimers st tag body) := by
  intro hw _ _ _ _ h
  simp only [frameOf, Option.some.injEq, Prod.mk.injEq] at h
  obtain ⟨rfl, rfl, rfl, rfl⟩ := h
  exact ⟨by simpa [Instr.wf, bodyFits] using hw, rfl⟩

theorem setOptions (st : Station) (tag : Byte) (body : List Byte) : Statement (.setOptions st tag body) := by
  intro hw _ _ _ _ h
  simp only [frameOf, Option.some.injEq, Prod.mk.injEq] at h
  obtain ⟨rfl, rfl, rfl, rfl⟩ := h
  exact ⟨by simpa [Instr.wf, bodyFits] using hw, rfl⟩

theorem setDate (st : Station) (tag : Byte) (body : List Byte) : Statement (.setDate st tag body) := by
  intro hw _ _ _ _ h
  simp only [frameOf, Option.some.injEq, Prod.mk.injEq] at h
  obtain ⟨rfl, rfl, rfl, rfl⟩ := h
  exact ⟨by simpa [Instr.wf, bodyFits] using hw, rfl⟩

theorem setArmPriority (st : Station) (tag : Byte) (body : List Byte) : Statement (.setArmPriority st tag body) := by
  intro hw _ _ _ _ h
  simp only [frameOf, Option.some.injEq, Prod.mk.injEq] at h
  obtain ⟨rfl, rfl, rfl, rfl⟩ := h
  exact ⟨by simpa [Instr.wf, bodyFits] using hw, rfl⟩

theorem noticeConfig (st : Station) (tag : Byte) (body : List Byte) : Statement (.noticeConfig st tag body) := by
  intro hw _ _ _ _ h
  simp only [frameOf, Option.some.injEq, Prod.mk.injEq] at h
  obtain ⟨rfl, rfl, rfl, rfl⟩ := h
  exact ⟨by simpa [Instr.wf, bodyFits] using hw, rfl⟩

theorem signalSet (st : Station) (tag : Byte) (body : List Byte) : Statement (.signalSet st tag body) := by
  intro hw _ _ _ _ h
  simp only [frameOf, Option.some.injEq, Prod.mk.injEq] at h
  obtain ⟨rfl, rfl, rfl, rfl⟩ := h
  exact ⟨by simpa [Instr.wf, bodyFits] using hw, rfl⟩

theorem signalClear (st : Station) (tag : Byte) (body : List Byte) : Statement (.signalClear st tag body) := by
  intro hw _ _ _ _ h
  simp only [frameOf, Option.some.injEq, Prod.mk.injEq] at h
  obtain ⟨rfl, rfl, rfl, rfl⟩ := h
  exact ⟨by simpa [Instr.wf, bodyFits] using hw, rfl⟩

theorem takeNotice (st : Station) (tag : Byte) (body : List Byte) : Statement (.takeNotice st tag body) := by
  intro hw _ _ _ _ h
  simp only [frameOf, Option.some.injEq, Prod.mk.injEq] at h
  obtain ⟨rfl, rfl, rfl, rfl⟩ := h
  exact ⟨by simpa [Instr.wf, bodyFits] using hw, rfl⟩

theorem setThreshold (st : Station) (tag : Byte) (body : List Byte) : Statement (.setThreshold st tag body) := by
  intro hw _ _ _ _ h
  simp only [frameOf, Option.some.injEq, Prod.mk.injEq] at h
  obtain ⟨rfl, rfl, rfl, rfl⟩ := h
  exact ⟨by simpa [Instr.wf, bodyFits] using hw, rfl⟩

theorem noticeQuery (st : Station) (tag : Byte) (body : List Byte) : Statement (.noticeQuery st tag body) := by
  intro hw _ _ _ _ h
  simp only [frameOf, Option.some.injEq, Prod.mk.injEq] at h
  obtain ⟨rfl, rfl, rfl, rfl⟩ := h
  exact ⟨by simpa [Instr.wf, bodyFits] using hw, rfl⟩

theorem status (st : Station) (tag : Byte) (body : List Byte) : Statement (.status st tag body) := by
  intro hw _ _ _ _ h
  simp only [frameOf, Option.some.injEq, Prod.mk.injEq] at h
  obtain ⟨rfl, rfl, rfl, rfl⟩ := h
  exact ⟨by simpa [Instr.wf, bodyFits] using hw, rfl⟩

theorem requestUnknownCode (st : Station) (tag : Byte) (code : Byte) (body : List Byte) : Statement (.requestUnknownCode st tag code body) := by
  intro hw _ _ _ _ h
  simp only [frameOf, Option.some.injEq, Prod.mk.injEq] at h
  obtain ⟨rfl, rfl, rfl, rfl⟩ := h
  simp only [Instr.wf, bodyFits, namesNone, Bool.and_eq_true, decide_eq_true_eq, Option.isNone_iff_eq_none] at hw
  exact ⟨hw.1, by simp [frameCommand, requestOf, hw.2]⟩

theorem requestEmptyBody (st : Station) (tag : Byte) : Statement (.requestEmptyBody st tag) := by
  intro _ _ _ _ _ h
  simp only [frameOf, Option.some.injEq, Prod.mk.injEq] at h
  obtain ⟨rfl, rfl, rfl, rfl⟩ := h
  exact ⟨by simp, rfl⟩

theorem page (st : Station) (tag : Byte) (body : List Byte) : Statement (.page st tag body) := by
  intro hw _ _ _ _ h
  simp only [frameOf, Option.some.injEq, Prod.mk.injEq] at h
  obtain ⟨rfl, rfl, rfl, rfl⟩ := h
  exact ⟨by simpa [Instr.wf, frameFits] using hw, rfl⟩

theorem credit (st : Station) (tag : Byte) (body : List Byte) : Statement (.credit st tag body) := by
  intro hw _ _ _ _ h
  simp only [frameOf, Option.some.injEq, Prod.mk.injEq] at h
  obtain ⟨rfl, rfl, rfl, rfl⟩ := h
  exact ⟨by simpa [Instr.wf, frameFits] using hw, rfl⟩

theorem linkReset (st : Station) (tag : Byte) (body : List Byte) : Statement (.linkReset st tag body) := by
  intro hw _ _ _ _ h
  simp only [frameOf, Option.some.injEq, Prod.mk.injEq] at h
  obtain ⟨rfl, rfl, rfl, rfl⟩ := h
  exact ⟨by simpa [Instr.wf, frameFits] using hw, rfl⟩

theorem unknownKind (st : Station) : Statement (.unknownKind st) := by
  intro _ _ _ _ _ h
  cases h

theorem malformedCrc (st : Station) : Statement (.malformedCrc st) := by
  intro _ _ _ _ _ h
  cases h

theorem malformedLength (st : Station) : Statement (.malformedLength st) := by
  intro _ _ _ _ _ h
  cases h

theorem frameTimeout (st : Station) : Statement (.frameTimeout st) := by
  intro _ _ _ _ _ h
  cases h

theorem overrun (st : Station) : Statement (.overrun st) := by
  intro _ _ _ _ _ h
  cases h

theorem carrierLoss (st : Station) : Statement (.carrierLoss st) := by
  intro _ _ _ _ _ h
  cases h

theorem frameSent (st : Station) : Statement (.frameSent st) := by
  intro _ _ _ _ _ h
  cases h

theorem fetchStallLimit (st : Station) (tag : Byte) : Statement (.fetchStallLimit st tag) := by
  intro _ _ _ _ _ h
  cases h

theorem powerOnReset (lost : Bool) : Statement (.powerOnReset lost) := by
  intro _ _ _ _ _ h
  cases h

theorem driveIdentifyAnswer (d : DriveId) (present : Bool) (faulty : Bool) : Statement (.driveIdentifyAnswer d present faulty) := by
  intro _ _ _ _ _ h
  cases h

theorem driveIdentifyTimeout (d : DriveId) : Statement (.driveIdentifyTimeout d) := by
  intro _ _ _ _ _ h
  cases h

theorem startUpReconciliation (grip : Bool) (slot : Bool) (shelf : BitVec 96) : Statement (.startUpReconciliation grip slot shelf) := by
  intro _ _ _ _ _ h
  cases h

theorem loadingSlotCartridge : Statement (.loadingSlotCartridge) := by
  intro _ _ _ _ _ h
  cases h

theorem loadingSlotEmpty : Statement (.loadingSlotEmpty) := by
  intro _ _ _ _ _ h
  cases h

theorem shelfSlotSensor (slot : Nat) (present : Bool) : Statement (.shelfSlotSensor slot present) := by
  intro _ _ _ _ _ h
  cases h

theorem pickCompletion : Statement (.pickCompletion) := by
  intro _ _ _ _ _ h
  cases h

theorem travelCompletion : Statement (.travelCompletion) := by
  intro _ _ _ _ _ h
  cases h

theorem placeCompletion : Statement (.placeCompletion) := by
  intro _ _ _ _ _ h
  cases h

theorem moveTimeout : Statement (.moveTimeout) := by
  intro _ _ _ _ _ h
  cases h

theorem pickEmpty : Statement (.pickEmpty) := by
  intro _ _ _ _ _ h
  cases h

theorem driveRefused : Statement (.driveRefused) := by
  intro _ _ _ _ _ h
  cases h

theorem placeBlocked : Statement (.placeBlocked) := by
  intro _ _ _ _ _ h
  cases h

theorem gripLost : Statement (.gripLost) := by
  intro _ _ _ _ _ h
  cases h

theorem spinUpCompletion (d : DriveId) (r : SpinUpResult) : Statement (.spinUpCompletion d r) := by
  intro _ _ _ _ _ h
  cases h

theorem spinDownCompletion (d : DriveId) : Statement (.spinDownCompletion d) := by
  intro _ _ _ _ _ h
  cases h

theorem ejectCompletion (d : DriveId) (r : EjectResult) : Statement (.ejectCompletion d r) := by
  intro _ _ _ _ _ h
  cases h

theorem readCompletion (d : DriveId) (sectors : List SectorRead) : Statement (.readCompletion d sectors) := by
  intro _ _ _ _ _ h
  cases h

theorem writeCompletion (d : DriveId) (r : WriteResult) : Statement (.writeCompletion d r) := by
  intro _ _ _ _ _ h
  cases h

theorem verifyCompletion (d : DriveId) (sectors : List SectorVerify) : Statement (.verifyCompletion d sectors) := by
  intro _ _ _ _ _ h
  cases h

theorem blankCheckCompletion (d : DriveId) (r : BlankResult) : Statement (.blankCheckCompletion d r) := by
  intro _ _ _ _ _ h
  cases h

theorem reinitCompletion (d : DriveId) (present : Bool) : Statement (.reinitCompletion d present) := by
  intro _ _ _ _ _ h
  cases h

theorem powerCycleCompletion (d : DriveId) (present : Bool) : Statement (.powerCycleCompletion d present) := by
  intro _ _ _ _ _ h
  cases h

theorem commandTimeout (d : DriveId) : Statement (.commandTimeout d) := by
  intro _ _ _ _ _ h
  cases h

theorem driveHardwareFault (d : DriveId) : Statement (.driveHardwareFault d) := by
  intro _ _ _ _ _ h
  cases h

theorem idleTimerExpiry (d : DriveId) : Statement (.idleTimerExpiry d) := by
  intro _ _ _ _ _ h
  cases h

theorem holdTimerExpiry (d : DriveId) : Statement (.holdTimerExpiry d) := by
  intro _ _ _ _ _ h
  cases h

theorem filingStallLimit : Statement (.filingStallLimit) := by
  intro _ _ _ _ _ h
  cases h

end Sys2Proof.Laws.FrameRoundTrip
end

