-- ==== Sys2Proof/Laws/Receiver.lean ====
section
/-! SUPPORT. What the receiver of a link can do with a byte and with a gap (R176). -/

namespace Sys2Proof.Machine

open Sys2Proof

/-- Everything a byte can do: nothing before the receivers are on; else the receiver of its link has taken it, and the command
it has completed, if any, is last in the queue. -/
theorem takeByte_cases (s : State) (st : Station) (b : Byte) :
    (s.reconciled = false ∧ s.takeByte st b = s)
      ∨ s.reconciled = true ∧ s.takeByte st b
          = { s.updLink st (fun l => { l with receiver := ((s.link st).receiver.take st b).1 }) with
              pending := s.pending ++ ((s.link st).receiver.take st b).2.toList } := by
  unfold State.takeByte
  split
  · next h => exact .inr ⟨h, rfl⟩
  · next h => exact .inl ⟨by simpa using h, rfl⟩

/-- A hunting receiver discards every byte but the start byte. -/
theorem Receiver.take_hunting (st : Station) {b : Byte} (h : b ≠ startByte) :
    Receiver.hunting.take st b = (.hunting, none) := by simp [Receiver.take, h]

@[simp] theorem Receiver.take_start (st : Station) : Receiver.hunting.take st startByte = (.inside [], none) := by
  simp [Receiver.take]

/-- A byte inside a frame is kept, or it ends the frame, and the receiver hunts. -/
theorem Receiver.take_inside (st : Station) (got : List Byte) (b : Byte) :
    Receiver.take st (.inside got) b = (.inside (got ++ [b]), none)
      ∨ (Receiver.take st (.inside got) b).1 = .hunting := by
  unfold Receiver.take
  dsimp only
  repeat' split
  all_goals first | exact .inl rfl | exact .inr rfl

/-- Everything a gap can do: a frame begun is FRAME_TIMEOUT, last in the queue, and the receiver hunts. -/
theorem byteGap_cases (s : State) (st : Station) :
    ((s.link st).receiver = .hunting ∧ s.byteGap st = s)
      ∨ (∃ got, (s.link st).receiver = .inside got) ∧ s.byteGap st
          = { s.updLink st (fun l => { l with receiver := .hunting }) with pending := s.pending ++ [.frameTimeout st] } := by
  unfold State.byteGap
  split
  · next h => exact .inl ⟨h, rfl⟩
  · next got h => exact .inr ⟨⟨got, h⟩, rfl⟩

end Sys2Proof.Machine
end

