-- ==== Sys2Proof/Tests/Slice0.lean ====
section
/-! SUPPORT. Tests: each refusal of WellFormed, frames written out byte by byte, the worked figures of the manual, and for
each obligation with hypotheses a state and operands that meet them, with the answer that the manual gives there. -/

set_option Elab.async false


namespace Sys2Proof.Tests

open Sys2Proof Sys2Proof.Machine

/-! ### Small states -/

/-- The state after a command. -/
def after (c : Instr) (s : State) : State :=
  match exec c s with
  | .next t => t
  | .fault _ | .refused _ => s

/-- A link that is UP, with every family. -/
def link : Link := { Link.atReset ⟨true, true, true, true, true⟩ with state := .up }
/-- A fitted drive, EMPTY. -/
def drive : Drive := { Drive.atReset 0 with fitted := true, identSince := none }
def blank : SideRec := ⟨.blank, none, 32, 0, 0⟩
/-- Cartridge 1, home slot 3, on its shelf, side A FULL with volume 1. -/
def cart1 : Cartridge := ⟨1, some 3, .shelf, none, ⟨.full, some 1, 296000, 0, 1⟩, blank, false⟩
/-- Cartridge 2, home slot 4, in drive 1 with side A up, OPEN with volume 2. -/
def cart2 : Cartridge := ⟨2, some 4, .drive 1, some .a, ⟨.opened, some 2, 40, 0, 0⟩, blank, false⟩
/-- Cartridge 3, home slot 5, blank. -/
def cart3 : Cartridge := ⟨3, some 5, .shelf, none, blank, blank, false⟩
/-- Cartridge 4, home slot 6, MISSING. -/
def cart4 : Cartridge := ⟨4, some 6, .missing, none, blank, blank, false⟩
/-- Cartridge 5, EXPORTED. -/
def cart5 : Cartridge := ⟨5, none, .exported, none, ⟨.full, some 3, 296000, 0, 1⟩, blank, false⟩
/-- Instrument 7: two pages, three content sectors, on volume 1. -/
def entry7 : CatEntry := ⟨7, .committed, 1, [⟨32, 4⟩], 2, 3, some 3, 2, 5, 1⟩
/-- Instrument 9, on the exported volume 3. -/
def entry9 : CatEntry := ⟨9, .committed, 3, [⟨32, 2⟩], 1, 1, some 1, 0, 5, 2⟩
def solicitor : Account := ⟨100, .solicitor, .opened, some 5000, none, 0, none, some 1000⟩
def council : Account := ⟨200, .government, .opened, none, some 300, 0, some 10, none⟩
def clerk : Account := ⟨300, .staff, .suspended, none, none, 0, none, none⟩
/-- Classes 2 and 6 of the worked figures (8.3.1). -/
def class2 : ClassRates := ⟨150, 1250, 400, 2000, 2500, 60000⟩
def class6 : ClassRates := ⟨100, 500, 100, 1000, 2500, 20000⟩

/-- A running part: four links UP, four drives fitted, five cartridges, two instruments, three accounts. -/
def here : State :=
  { State.reset with
    reconciled := true
    seconds := 1000
    catalogue := [entry7, entry9]
    library := { Library.initial with
      table := [cart1, cart2, cart3, cart4, cart5], volumes := [⟨1, 1, .a⟩, ⟨2, 2, .a⟩, ⟨3, 5, .a⟩]
      nextCart := 6, nextVol := 4, shelfSensors := 0x14 }
    drives := #v[drive, { drive with state := .ready, cart := some (.number 2), sideUp := some .a, presence := true },
      drive, drive]
    fee := { FeeUnit.initial with
      schedule := Vector.replicate 8 class2, accounts := [solicitor, council, clerk], date := 40 }
    links := Vector.replicate 4 link }

/-- The arm at a fault level. -/
def atLevel (l : FaultLevel) (s : State) : State := s.updArm fun a => { a with level := l }

/-- Station `st` is UP with every family, a free buffer, fewer than 16 replies and 8 entries, and no entry of `tag`. -/
def free (s : State) (st : Station) (tag : Byte) : Bool :=
  s.reconciled && (s.link st).state = .up && (s.link st).buffer.isNone && (s.link st).replies.length < 16
    && (s.link st).profile = ⟨true, true, true, true, true⟩ && (s.link st).outstanding.length < 8
    && (s.link st).outstanding.all fun e => e.tag ≠ tag

theorem admits_of_free {s : State} {st : Station} {tag : Byte} (h : free s st tag = true) (r : Req) : s.admits st r tag := by
  simp only [free, Bool.and_eq_true, decide_eq_true_eq, Option.isNone_iff_eq_none, List.all_eq_true] at h
  obtain ⟨⟨⟨⟨⟨⟨h1, h2⟩, h3⟩, h4⟩, h5⟩, h6⟩, h7⟩ := h
  refine ⟨⟨⟨h1, h2, h3⟩, h4⟩, ?_, fun _ => h6, h7⟩
  rw [h5]
  cases r <;> rfl

theorem takes_of_free {s : State} {st : Station} {tag : Byte} (h : free s st tag = true) : s.takes st :=
  (admits_of_free h .status).1

theorem here_admits (r : Req) : here.admits 1 r 9 := admits_of_free (by decide +kernel) r

/-! ### WellFormed refuses what it must -/

theorem test_wf_request_body : (Instr.fetch 0 0 (List.replicate 4100 0)).wf = false := by decide +kernel
theorem test_wf_retry_kind : (Instr.faultClearRetry 0 0 [1, 0]).wf = false := by decide +kernel
theorem test_wf_abandon_kind : (Instr.faultClearAbandon 0 0 [0, 0]).wf = false := by decide +kernel
theorem test_wf_unknown_code : (Instr.requestUnknownCode 0 0 0x63 []).wf = false := by decide +kernel
theorem test_wf_frame_body : (Instr.page 0 0 (List.replicate 4101 0)).wf = false := by decide +kernel
theorem test_wf_slot : (Instr.shelfSlotSensor 0 true).wf = false ∧ (Instr.shelfSlotSensor 97 true).wf = false := by
  decide +kernel
theorem test_wf_read_count : (Instr.readCompletion 0 []).wf = false := by decide +kernel
theorem test_wf_read_sector : (Instr.readCompletion 0 [.data [1, 2]]).wf = false := by decide +kernel
theorem test_wf_verify_count : (Instr.verifyCompletion 0 (List.replicate 65 .pass)).wf = false := by decide +kernel

/-! ### Frames and bytes written out from chapter 11; their CRCs were worked out by hand from R202's description -/

/-- The FETCH of section 11.3.1. -/
theorem test_decode_fetch :
    decodeFrame 2 [0xC9, 0x01, 0x28, 0x00, 0x0C, 0x10, 0x01, 0xD0, 0x8A, 0xB2, 0x00, 0x02, 0x00, 0x08, 0x01, 0x00, 0x00,
        0xC6, 0x4B]
      = some (.fetch 2 0x28 [0x01, 0xD0, 0x8A, 0xB2, 0x00, 0x02, 0x00, 0x08, 0x01, 0x00, 0x00]) := by decide +kernel
theorem test_decode_credit : decodeFrame 0 [0xC9, 0x05, 0x00, 0x00, 0x01, 0x02, 0x21, 0x28] = some (.credit 0 0 [2]) := by
  decide +kernel
theorem test_decode_page :
    decodeFrame 3 [0xC9, 0x04, 0x07, 0x00, 0x03, 0xC9, 0x01, 0x02, 0xC8, 0x80] = some (.page 3 7 [0xC9, 1, 2]) := by
  decide +kernel
theorem test_decode_linkReset :
    decodeFrame 1 [0xC9, 0x07, 0x00, 0x00, 0x01, 0x01, 0x55, 0xC8] = some (.linkReset 1 0 [1]) := by decide +kernel
theorem test_decode_unknownKind : decodeFrame 1 [0xC9, 0x03, 0x00, 0x00, 0x00, 0x1F, 0x1C] = some (.unknownKind 1) := by
  decide +kernel
theorem test_decode_empty : decodeFrame 1 [0xC9, 0x01, 0x00, 0x00, 0x00, 0xF2, 0x74] = some (.requestEmptyBody 1 0) := by
  decide +kernel
theorem test_decode_status : decodeFrame 1 [0xC9, 0x01, 0x05, 0x00, 0x01, 0x63, 0x68, 0xEC] = some (.status 1 5 []) := by
  decide +kernel
theorem test_decode_abandon :
    decodeFrame 1 [0xC9, 0x01, 0x05, 0x00, 0x03, 0x42, 0x01, 0x02, 0xF1, 0xCC] = some (.faultClearAbandon 1 5 [1, 2]) := by
  decide +kernel
theorem test_decode_unknownCode :
    decodeFrame 1 [0xC9, 0x01, 0x05, 0x00, 0x01, 0x0F, 0xC5, 0xC6] = some (.requestUnknownCode 1 5 0x0F []) := by
  decide +kernel
/-- A witness of CrcAndMalformedFrames: a length of 4,101, and a CRC with its last bit wrong. -/
theorem witness_crcAndMalformedFrames :
    4100 < (0x10 : Byte).toNat * 256 + (0x05 : Byte).toNat
      ∧ decodeFrame 1 [0xC9, 0x01, 0x00, 0x10, 0x05] = some (.malformedLength 1)
      ∧ ([] : List Byte).length ≤ 4100
      ∧ [(0xF2 : Byte), 0x75] ≠ beBytes 2 (crc16 (0x01 :: 0x00 :: beBytes 2 0 ++ [])).toNat
      ∧ decodeFrame 1 [0xC9, 0x01, 0x00, 0x00, 0x00, 0xF2, 0x75] = some (.malformedCrc 1) := by decide +kernel
/-- A witness of FrameRoundTrip. -/
theorem witness_frameRoundTrip :
    (Instr.credit 0 0 [2]).wf = true
      ∧ encodeFrame (.credit 0 0 [2]) = some (0, [0xC9, 0x05, 0x00, 0x00, 0x01, 0x02, 0x21, 0x28]) := by decide +kernel

/-- The worked figures of section 8.3.1. -/
theorem test_fees :
    feeAmount (feeNet 15 (feeBounded .copy class2 12 (feeGross .copy class2 12))) = 650
      ∧ feeAmount (feeNet 15 (feeBounded .copy class2 10 (feeGross .copy class2 10))) = 582
      ∧ feeAmount (feeNet 15 (feeBounded .view class2 30 (feeGross .view class2 30))) = 383
      ∧ feeAmount (feeNet 0 (feeBounded .copy class2 12 (feeGross .copy class2 12))) = 765
      ∧ feeAmount (feeNet 15 (feeBounded .copy class2 1 (feeGross .copy class2 1))) = 276
      ∧ feeAmount (feeNet 0 (feeBounded .copy class2 200 (feeGross .copy class2 200))) = 6000
      ∧ feeAmount (feeNet 0 (feeBounded .copy class6 1 (feeGross .copy class6 1))) = 250
      ∧ feeAmount (feeNet 0 (feeBounded .copy class6 12 (feeGross .copy class6 12))) = 260
      ∧ feeAmount (feeNet 0 (feeBounded .copy class6 0 (feeGross .copy class6 0))) = 0 := by decide +kernel
/-- The cap of section 8.3.1, and a witness of FeeComputation. -/
theorem test_fee_cap :
    feeEstimate ⟨2, class2, .solicitor, 15, some 5000⟩ .copy 12 4320 = 650
      ∧ feeEstimate ⟨2, class2, .solicitor, 15, some 5000⟩ .copy 12 4450 = 550
      ∧ class2.m ≤ class2.x ∧ class2.x ≤ 99999999 ∧ 15 ≤ 100 := by decide +kernel

/-- Cases A to E of section 6.9.1. -/
def zeros (n : Nat) : List Byte := List.replicate n 0
def ones (n : Nat) : List Byte := List.replicate n 0xFF
def copies (b : List Byte) : List Byte := (List.replicate 6 b).flatten
theorem test_separator_a :
    separatorNumber (zeros 4 ++ ones 8 ++ copies [0x00, 0xBC, 0x61, 0x4E] ++ zeros 988) = some 12345678 := by decide +kernel
theorem test_separator_b :
    separatorNumber ((zeros 4 ++ ones 8 ++ copies [0x00, 0xBC, 0x61, 0x4E] ++ zeros 988).set 26 0x60) = none := by
  decide +kernel
theorem test_separator_c :
    separatorNumber (ones 8 ++ zeros 92 ++ ones 10 ++ copies [0x3B, 0x9A, 0xC9, 0xFF] ++ zeros 890) = some 999999999 := by
  decide +kernel
theorem test_separator_d : separatorNumber (zeros 490 ++ ones 8 ++ List.replicate 14 0x12 ++ zeros 512) = none := by
  decide +kernel
theorem test_separator_e :
    separatorNumber (zeros 40 ++ ones 16 ++ copies [0x00, 0x00, 0x30, 0x39] ++ zeros 944) = some 12345 := by decide +kernel

/-- The mapping of section 7.8, and a witness of SectorsAndCatalogueActs. -/
theorem test_mapping :
    mapSector [⟨20100, 3⟩, ⟨20107, 12⟩] 2 = some (0, 20102) ∧ mapSector [⟨20100, 3⟩, ⟨20107, 12⟩] 3 = some (1, 20107)
      ∧ mapSector [⟨20100, 3⟩, ⟨20107, 12⟩] 14 = some (1, 20118) ∧ 14 < extentSum [⟨20100, 3⟩, ⟨20107, 12⟩]
      ∧ mapSector [⟨20100, 3⟩, ⟨20107, 12⟩] 15 = none ∧ extentSum [⟨20100, 3⟩, ⟨20107, 12⟩] ≤ 15 := by decide +kernel

/-! ### The queue, time and admission -/

/-- A witness of StepAndSecond: the seconds count rises by one, and stays at 4,294,967,295. -/
theorem witness_stepAndSecond :
    here.pending = [] ∧ (tick here).seconds = 1001
      ∧ (tick { here with seconds := 4294967295 }).seconds = 4294967295 := by decide +kernel

def eight : State := here.updLink 1 fun l => { l with outstanding := (List.range 8).map fun i =>
  ⟨BitVec.ofNat 8 (i + 20), .fetch, .fetchEngine⟩ }
def tagged : State := here.updLink 1 fun l => { l with outstanding := [⟨9, .fetch, .fetchEngine⟩] }
def noFile : State := here.updLink 1 fun l => { l with profile := ⟨true, false, true, true, false⟩ }
/-- A witness of RequestAdmission, for each check in its order, with station 1's tag 9. -/
theorem witness_requestChecks :
    here.takes 1
      ∧ State.admits here 1 .status 9
      ∧ Req.ofCode 0x0F = none
      ∧ after (.requestUnknownCode 1 9 0x0F []) here = transmit (addReply 1 ⟨9, 0x0F, .badRequest, .none⟩ here)
      ∧ Req.postPage.allowed (noFile.link 1).profile = false
      ∧ after (.postPage 1 9 []) noFile = transmit (addReply 1 ⟨9, 0x21, .notPermitted, .none⟩ noFile)
      ∧ 8 ≤ (eight.link 1).outstanding.length
      ∧ after (.fetch 1 9 []) eight = transmit (addReply 1 ⟨9, 0x10, .queueFull, .none⟩ eight)
      ∧ (∃ e ∈ (tagged.link 1).outstanding, e.tag = 9)
      ∧ after (.status 1 9 []) tagged = transmit (addReply 1 ⟨9, 0x63, .tagInUse, .none⟩ tagged)
      ∧ after (.status 1 9 [0]) here = transmit (addReply 1 ⟨9, 0x63, .badRequest, .none⟩ here)
      ∧ after (.postPage 1 9 [0, 0, 0, 1, 2]) here = transmit (addReply 1 ⟨9, 0x21, .badRequest, .none⟩ here)
      ∧ after (.setOptions 1 9 [4, 0, 0]) here = transmit (addReply 1 ⟨9, 0x52, .badRequest, .none⟩ here)
      ∧ after (.faultClearAbandon 1 9 [1, 3]) here = transmit (addReply 1 ⟨9, 0x42, .badRequest, .none⟩ here)
      ∧ after (.requestEmptyBody 1 9) here = transmit (addReply 1 ⟨9, 0x00, .badRequest, .none⟩ here) :=
  ⟨takes_of_free (tag := 9) (by decide +kernel), admits_of_free (by decide +kernel) _, by decide +kernel⟩

def sixteen : State := here.updLink 1 fun l => { l with replies := List.replicate 16 ⟨5, 0x63, .busy, .none⟩ }
def heldOne : State := sixteen.updLink 1 fun l =>
  { l with sending := some (.reply ⟨5, 0x63, .busy, .none⟩), buffer := some ⟨9, [0x62]⟩ }
/-- A witness of RequestAdmission, the buffer: 16 replies wait; one of 16 has been sent; an overrun. -/
theorem witness_requestHeldInBuffer :
    sixteen.receives 1
      ∧ 16 ≤ (sixteen.link 1).replies.length
      ∧ ((after (.noticeQuery 1 9 []) sixteen).link 1).buffer = some ⟨9, [0x62]⟩
      ∧ (heldOne.link 1).replies.length ≤ 16
      ∧ ((after (.frameSent 1) heldOne).link 1).buffer = none
      ∧ ((after (.frameSent 1) heldOne).link 1).replies.length = 16
      ∧ ((after (.credit 1 9 [1]) heldOne).link 1).cause = .overrun :=
  ⟨by unfold State.receives; decide +kernel, by decide +kernel⟩

/-- The body of a FETCH or a QUOTE. -/
def fetchBody (n p k : Nat) (kind : Byte) (a : Nat) : List Byte := beBytes 4 n ++ beBytes 2 p ++ beBytes 2 k ++ [kind] ++ beBytes 2 a
def out (s : State) : List (Byte × Status) := (s.link 1).replies.map fun r => (r.kind, r.status)
/-- A witness of FetchAdmitted: pages 1 and 2 of instrument 7 for the public counter, and page 2 for account 100. -/
theorem witness_fetchAdmitted :
    State.admits here 1 .fetch 9
      ∧ here.entry? 7 = some entry7
      ∧ here.volume? 1 = some ⟨1, 1, .a⟩
      ∧ here.cart? 1 = some cart1
      ∧ here.account? 100 = some solicitor
      ∧ feeEstimate (snapshot here.fee 2 (some solicitor)) .view 1 0 ≤ here.available solicitor
      ∧ here.fee.journal.length + here.fee.reservations < 256
      ∧ (after (.fetch 1 9 (fetchBody 7 1 0 0 0)) here).fetch.orders.map (fun o => (o.effective, o.estimate, o.reservation, o.hold)) = [(2, 30, true, none)]
      ∧ (after (.fetch 1 9 (fetchBody 7 2 1000 0 100)) here).fee.holds = [⟨⟨1, 9⟩, 100, 15⟩]
      ∧ (after (.fetch 1 9 (fetchBody 7 2 1000 0 100)) here).arm.moving.isSome = true :=
  ⟨admits_of_free (by decide +kernel) _, by decide +kernel⟩

def filing8 : State := { here with catalogue := [entry7, ⟨8, .filing, 2, [], 0, 0, none, 0, 40, 1⟩, entry9] }
def fullJournal : State := here.updFee fun u => { u with reservations := 256 }
/-- A witness of FetchRefused, check by check. -/
theorem witness_fetchRefused :
    State.admits here 1 .fetch 9
      ∧ State.admits filing8 1 .fetch 9
      ∧ State.admits (atLevel .halted here) 1 .fetch 9
      ∧ State.admits fullJournal 1 .fetch 9
      ∧ out (after (.fetch 1 9 (fetchBody 0 1 0 0 0)) here) = [(0x10, .badRequest)]
      ∧ out (after (.fetch 1 9 (fetchBody 1000000000 1 0 0 0)) here) = [(0x10, .badRequest)]
      ∧ out (after (.fetch 1 9 (fetchBody 7 1001 0 0 0)) here) = [(0x10, .badRequest)]
      ∧ out (after (.fetch 1 9 (fetchBody 7 1 1001 0 0)) here) = [(0x10, .badRequest)]
      ∧ out (after (.fetch 1 9 (fetchBody 7 1 0 2 0)) here) = [(0x10, .badRequest)]
      ∧ out (after (.fetch 1 9 (fetchBody 7 1 0 0 10000)) here) = [(0x10, .badRequest)]
      ∧ out (after (.fetch 1 9 (fetchBody 8 1 0 0 0)) here) = [(0x10, .notFiled)]
      ∧ out (after (.fetch 1 9 (fetchBody 8 1 0 0 0)) filing8) = [(0x10, .inFiling)]
      ∧ out (after (.fetch 1 9 (fetchBody 7 3 0 0 0)) here) = [(0x10, .range)]
      ∧ out (after (.fetch 1 9 (fetchBody 9 1 0 0 0)) here) = [(0x10, .offLine)]
      ∧ ((after (.fetch 1 9 (fetchBody 9 1 0 0 0)) here).source 20).pending = true
      ∧ out (after (.fetch 1 9 (fetchBody 7 2 0 0 0)) (atLevel .halted here)) = [(0x10, .libraryHalted)]
      ∧ out (after (.fetch 1 9 (fetchBody 7 1 0 0 101)) here) = [(0x10, .noAccount)]
      ∧ out (after (.fetch 1 9 (fetchBody 7 1 0 0 300)) here) = [(0x10, .suspended)]
      ∧ out (after (.fetch 1 9 (fetchBody 7 1 0 0 0)) fullJournal) = [(0x10, .journalFull)]
      ∧ here.cart? 1 = some cart1
      ∧ cart1.location = .shelf
      ∧ here.account? 300 = some clerk :=
  ⟨admits_of_free (by decide +kernel) _, admits_of_free (by decide +kernel) _, admits_of_free (by decide +kernel) _,
    admits_of_free (by decide +kernel) _, by decide +kernel⟩

def poorOne : Account := { solicitor with balance := some 29 }
/-- Account 100 has 1 minor unit less than the fetch of instrument 7 is estimated at. -/
def poor : State := here.updFee fun u => { u with accounts := [poorOne, council, clerk] }
/-- Instrument 7 stands on side B of cartridge 2, whose side A is up in drive 1, with the library HALTED. -/
def sideB : State := atLevel .halted (here.updLibrary fun l => { l with volumes := [⟨1, 2, .b⟩] })
/-- A witness of FetchRefused: an account and a full journal, too little funds, and HALTED with the other side up. -/
theorem witness_fetchRefused_account :
    State.admits poor 1 .fetch 9
      ∧ State.admits sideB 1 .fetch 9
      ∧ poor.account? 100 = some poorOne
      ∧ poor.available poorOne = 29
      ∧ out (after (.fetch 1 9 (fetchBody 7 1 0 0 100)) poor) = [(0x10, .funds)]
      ∧ out (after (.fetch 1 9 (fetchBody 7 1 0 0 200)) fullJournal) = [(0x10, .journalFull)]
      ∧ sideB.cart? 2 = some cart2
      ∧ out (after (.fetch 1 9 (fetchBody 7 1 0 0 0)) sideB) = [(0x10, .libraryHalted)] :=
  ⟨admits_of_free (by decide +kernel) _, admits_of_free (by decide +kernel) _, by decide +kernel⟩

/-- A fetch of pages 1 and 2 of instrument 7 by station 1, tag 5, that waits for its volume with one page delivered. -/
def order5 : FetchOrder :=
  { id := ⟨1, 5⟩, instrument := 7, volume := 1, extents := [⟨32, 4⟩], pages := 2, content := 3, trailer := 3
    filingDate := 5, first := 1, effective := 2, kind := .view, account := 0
    snap := ⟨2, class2, .counter, 0, none⟩, estimate := 30, hold := none, reservation := true, lengths := none, next := 2
    delivered := 1, unreadable := 0, reading := none, staged := none, delivery := none, stall := none, place := .waitList }
/-- `here` with the fetch of `order5` waiting; no drive can take its volume. -/
def waiting : State :=
  { here with
    fetch := { here.fetch with orders := [order5] }
    fee := { here.fee with reservations := 1, receipt := 999999 }
    planner := { here.planner with waiters := [⟨⟨1, 5⟩, 1, 1, .a, none, true⟩] }
    links := here.links.set 1 { link with outstanding := [⟨5, .fetch, .fetchEngine⟩] } }
/-- A witness of CancelFetch and of FetchCompletion: no such tag; then one page of 150 mils, receipt 999,999. -/
theorem witness_cancelFetch :
    State.admits waiting 1 .cancelFetch 9
      ∧ waiting.order? ⟨1, 6⟩ = none
      ∧ after (.cancelFetch 1 9 [6]) waiting = transmit (addReply 1 ⟨9, 0x11, .notOutstanding, .none⟩ waiting)
      ∧ waiting.order? ⟨1, 5⟩ = some order5
      ∧ out (after (.cancelFetch 1 9 [5]) waiting) = [(0x90, .cancelled), (0x11, .done)]
      ∧ (after (.cancelFetch 1 9 [5]) waiting).fetch.orders = []
      ∧ (after (.cancelFetch 1 9 [5]) waiting).fee.journal = [⟨999999, 40, 1, 0, .counter, 7, .view, 1, 0, 15, .cancelled⟩]
      ∧ (after (.cancelFetch 1 9 [5]) waiting).fee.receipt = 1 :=
  ⟨admits_of_free (by decide +kernel) _, by decide +kernel⟩

/-- The fetch of `order5` at drive 1, for a payer: account `a` of the category, with the hold that a SOLICITOR has. -/
def paidBy (a : Nat) (cat : Category) : State :=
  { waiting with
    planner := { waiting.planner with waiters := [] }
    fetch := { waiting.fetch with orders := [{ order5 with
      account := a, snap := { order5.snap with category := cat }, place := .drive 1
      hold := if cat = .solicitor then some 30 else none }] }
    drives := waiting.drives.set 1 { waiting.drive 1 with queue := [⟨1, 5⟩] }
    fee := { waiting.fee with
      accounts := [{ solicitor with balance := some 1010 }, council, clerk]
      holds := if cat = .solicitor then [⟨⟨1, 5⟩, 100, 30⟩] else [] } }
/-- A SOLICITOR's fetch whose outstanding entry a link reset has emptied. -/
def disowned : State := (paidBy 100 .solicitor).updLink 1 fun l => { l with outstanding := [] }
def charges (s : State) : List Nat := s.fee.journal.map (·.charge)
/-- A witness of FetchCompletion: for the public counter on the wait list; at a drive for a SOLICITOR, whose balance falls
below the low mark, for a GOVERNMENT account and for STAFF; one page of 150 mils delivered. -/
theorem witness_fetchCompletion :
    waiting.order? ⟨1, 5⟩ = some order5
      ∧ order5.account = 0
      ∧ order5.snap.category = .counter
      ∧ order5.place = .waitList
      ∧ order5.staged = none
      ∧ order5.delivery = none
      ∧ waiting.planner.waiters.find? (fun w => w.id = ⟨1, 5⟩) = some ⟨⟨1, 5⟩, 1, 1, .a, none, true⟩
      ∧ (∃ e ∈ (waiting.link 1).outstanding, e.tag = 5)
      ∧ (¬ ∃ e ∈ (disowned.link 1).outstanding, e.tag = 5)
      ∧ ((completeFetch ⟨1, 5⟩ .linkReset disowned).link 1).replies = []
      ∧ charges (completeFetch ⟨1, 5⟩ .linkReset disowned) = [15]
      ∧ (completeFetch ⟨1, 5⟩ .linkReset disowned).fee.holds = []
      ∧ (completeFetch ⟨1, 5⟩ .done waiting).fee.reservations = 0
      ∧ (completeFetch ⟨1, 5⟩ .done waiting).fetch.orders = []
      ∧ charges (completeFetch ⟨1, 5⟩ .done (paidBy 100 .solicitor)) = [15]
      ∧ (completeFetch ⟨1, 5⟩ .done (paidBy 100 .solicitor)).account? 100
          = some { solicitor with balance := some 995, dayTotal := 15 }
      ∧ (completeFetch ⟨1, 5⟩ .done (paidBy 100 .solicitor)).fee.holds = []
      ∧ ((completeFetch ⟨1, 5⟩ .done (paidBy 100 .solicitor)).source 18).pending = true
      ∧ ((completeFetch ⟨1, 5⟩ .done (paidBy 100 .solicitor)).drive 1).queue = []
      ∧ (completeFetch ⟨1, 5⟩ .done (paidBy 200 .government)).account? 200 = some { council with dayTotal := 15 }
      ∧ (completeFetch ⟨1, 5⟩ .done (paidBy 200 .government)).fee.today.government = ⟨1, 15⟩
      ∧ (completeFetch ⟨1, 5⟩ .done (paidBy 300 .staff)).fee.journal = []
      ∧ (completeFetch ⟨1, 5⟩ .done (paidBy 300 .staff)).account? 300 = some clerk :=
  by decide +kernel

/-- A witness of LocateAndFind, LOCATE. -/
theorem witness_locate :
    State.admits here 1 .locate 9
      ∧ State.admits filing8 1 .locate 9
      ∧ after (.locate 1 9 (beBytes 4 7)) here = transmit (addReply 1 ⟨9, 0x13, .done, .located ⟨entry7, 1, .a, .shelf, some 3, false⟩⟩ here)
      ∧ out (after (.locate 1 9 (beBytes 4 0)) here) = [(0x13, .badRequest)]
      ∧ out (after (.locate 1 9 (beBytes 4 1000000000)) here) = [(0x13, .badRequest)]
      ∧ out (after (.locate 1 9 (beBytes 4 999999999)) here) = [(0x13, .notFiled)]
      ∧ out (after (.locate 1 9 (beBytes 4 8)) filing8) = [(0x13, .inFiling)]
      ∧ here.entry? 7 = some entry7
      ∧ here.volume? 1 = some ⟨1, 1, .a⟩
      ∧ here.cart? 1 = some cart1 :=
  ⟨admits_of_free (by decide +kernel) _, admits_of_free (by decide +kernel) _, by decide +kernel⟩

def findBody (start df dt : Nat) (cls : Byte) (vol : Nat) (fs : Byte) : List Byte :=
  beBytes 4 start ++ beBytes 2 df ++ beBytes 2 dt ++ [cls] ++ beBytes 2 vol ++ [fs]
/-- A witness of LocateAndFind, FIND: every entry of fee class 2, every entry, and each bad field. -/
theorem witness_find :
    State.admits here 1 .find 9
      ∧ after (.find 1 9 (findBody 0 0 0 2 0 0)) here = transmit (addReply 1 ⟨9, 0x14, .done, .found [7] 9 true⟩ here)
      ∧ after (.find 1 9 (findBody 999999999 0 65535 255 65535 4)) here = transmit (addReply 1 ⟨9, 0x14, .done, .found [] 999999999 true⟩ here)
      ∧ after (.find 1 9 (findBody 0 5 5 255 3 3)) here = transmit (addReply 1 ⟨9, 0x14, .done, .found [9] 9 true⟩ here)
      ∧ out (after (.find 1 9 (findBody 1000000000 0 0 255 0 0)) here) = [(0x14, .badRequest)]
      ∧ out (after (.find 1 9 (findBody 0 6 5 255 0 0)) here) = [(0x14, .badRequest)]
      ∧ out (after (.find 1 9 (findBody 0 0 0 8 0 0)) here) = [(0x14, .badRequest)]
      ∧ out (after (.find 1 9 (findBody 0 0 0 255 0 5)) here) = [(0x14, .badRequest)] :=
  ⟨admits_of_free (by decide +kernel) _, by decide +kernel⟩

/-- A witness of Quote: two pages of class 2, VIEW, for the public counter and for account 100; refusals. -/
theorem witness_quote :
    State.admits here 1 .quote 9
      ∧ here.entry? 7 = some entry7
      ∧ here.volume? 1 = some ⟨1, 1, .a⟩
      ∧ here.cart? 1 = some cart1
      ∧ cart1.location = .shelf
      ∧ here.arm.level ≠ .halted
      ∧ here.fee.journal.length + here.fee.reservations < 256
      ∧ after (.quote 1 9 (fetchBody 7 1 0 0 0)) here = transmit (addReply 1 ⟨9, 0x12, .done, .quote ⟨2, 2, 2, .counter, 0, none, 30, true, none⟩⟩ here)
      ∧ after (.quote 1 9 (fetchBody 7 1 0 0 100)) here = transmit (addReply 1 ⟨9, 0x12, .done, .quote ⟨2, 2, 2, .solicitor, 0, none, 30, true, some 5000⟩⟩ here)
      ∧ out (after (.quote 1 9 (fetchBody 7 3 0 0 0)) here) = [(0x12, .range)]
      ∧ out (after (.quote 1 9 (fetchBody 7 1 0 0 300)) here) = [(0x12, .suspended)] :=
  ⟨admits_of_free (by decide +kernel) _, by decide +kernel⟩

def extended8 : State := { here with catalogue := [entry7, ⟨8, .filing, 2, [⟨40, 3⟩], 1, 3, none, 0, 40, 1⟩, entry9] }
/-- A witness of SectorsAndCatalogueActs: an extension and a commit of instrument 8. -/
theorem witness_catalogueActs :
    extendEntry filing8 8 40 3 = .ok extended8
      ∧ filing8.entry? 8 = some ⟨8, .filing, 2, [], 0, 0, none, 0, 40, 1⟩
      ∧ commitEntry extended8 8 43 = .ok { here with catalogue := [entry7, ⟨8, .committed, 2, [⟨40, 4⟩], 1, 3, some 3, 0, 40, 1⟩, entry9] } :=
  by decide +kernel

/-- A GIVEN run of station 1 in WAITING_PAGE, engaged on drive 1, with instrument 8. -/
def running : State :=
  { here with
    catalogue := [entry7, ⟨8, .filing, 2, [], 0, 0, none, 0, 40, 1⟩, entry9]
    run := { Run.atReset with
      state := .waitingPage, owner := 1, given := 8, engaged := some 1, current := some ⟨8, 0, 0, [], 0, 0, 0, 0, 0, 40, false⟩
      head := 15, lastTag := some 3 }
    drives := here.drives.set 1 { here.drive 1 with pin := true } }
def openBody (src : Byte) (n : Nat) (cls : Byte) : List Byte := [src] ++ beBytes 4 n ++ [cls]

def fullCatalogue : State := { here with catalogue := (List.range 65536).map fun i => { entry7 with number := i + 10 } }
def openFaulted : State := { here with drives := here.drives.set 1 { here.drive 1 with state := .faulted } }
/-- The OPEN side has 4,095 free sectors. -/
def nearlyFull (s : State) : State := s.updCart 2 fun c => { c with sideA := { c.sideA with frontier := 295905 } }
/-- A witness of OpenInstrument: the refusals in their order, then a run on the OPEN side up in drive 1. -/
theorem witness_openInstrument :
    State.admits here 1 .openInstrument 9
      ∧ State.admits running 1 .openInstrument 9
      ∧ State.admits (nearlyFull here) 1 .openInstrument 9
      ∧ out (after (.openInstrument 1 9 (openBody 2 8 0)) here) = [(0x20, .badRequest)]
      ∧ out (after (.openInstrument 1 9 (openBody 0 8 8)) here) = [(0x20, .badRequest)]
      ∧ out (after (.openInstrument 1 9 (openBody 0 9 0)) running) = [(0x20, .busy)]
      ∧ out (after (.openInstrument 1 9 (openBody 0 0 0)) here) = [(0x20, .badRequest)]
      ∧ out (after (.openInstrument 1 9 (openBody 0 7 0)) here) = [(0x20, .duplicate)]
      ∧ out (after (.openInstrument 1 9 (openBody 0 8 0)) fullCatalogue) = [(0x20, .catalogueFull)]
      ∧ out (after (.openInstrument 1 9 (openBody 0 8 0)) openFaulted) = [(0x20, .filingDriveFault)]
      ∧ out (after (.openInstrument 1 9 (openBody 0 8 0)) (atLevel .halted (nearlyFull here))) = [(0x20, .libraryHalted)]
      ∧ (nearlyFull here).freeSectors = 4095
      ∧ here.openSide = some (2, .a)
      ∧ here.upIn 2 .a 1 = true
      ∧ blankChoice (nearlyFull here) (some 2) = some (2, .b)
      ∧ (after (.openInstrument 1 9 (openBody 0 8 7)) here).run.engaged = some 1
      ∧ (after (.openInstrument 1 9 (openBody 0 8 7)) here).run.state = .waitingPage
      ∧ (after (.openInstrument 1 9 (openBody 0 8 7)) here).entry? 8 = some ⟨8, .filing, 2, [], 0, 0, none, 7, 40, 1⟩
      ∧ (after (.openInstrument 1 9 (openBody 1 0 7)) (nearlyFull here)).run.chosen = some (2, .b)
      ∧ (after (.openInstrument 1 9 (openBody 1 0 7)) (nearlyFull here)).side? 2 .a = some ⟨.full, some 2, 295905, 0, 0⟩ :=
  ⟨admits_of_free (by decide +kernel) _, admits_of_free (by decide +kernel) _, admits_of_free (by decide +kernel) _, by decide +kernel⟩

def slotOf (tag : Byte) : RingSlot := ⟨1025, 2, [], true, tag, false⟩
def ringFull : State := { running with run := { running.run with ring := List.replicate 16 (slotOf 4) } }
def nearLimit : State := { running with run := { running.run with postedPages := 999, postedSectors := 3839 } }
/-- A witness of PostedPages, POST_PAGE: a page of 1,025 bytes into slot 15; the limits of length, ring and instrument. -/
theorem witness_postPage :
    State.admits running 1 .postPage 9
      ∧ State.admits ringFull 1 .postPage 9
      ∧ State.admits nearLimit 1 .postPage 9
      ∧ State.admits running 2 .postPage 9
      ∧ out (after (.postPage 1 9 (beBytes 4 0 ++ [0])) running) = [(0x21, .badRequest)]
      ∧ out (after (.postPage 1 9 (beBytes 4 65537 ++ [0])) running) = [(0x21, .badRequest)]
      ∧ ((after (.postPage 2 9 (beBytes 4 1025 ++ [0])) running).link 2).replies.map (·.status) = [.notOpen]
      ∧ out (after (.postPage 1 9 (beBytes 4 1025 ++ [0])) here) = [(0x21, .notOpen)]
      ∧ out (after (.postPage 1 9 (beBytes 4 65536 ++ [0])) ringFull) = [(0x21, .ringFull)]
      ∧ out (after (.postPage 1 9 (beBytes 4 1025 ++ [0])) nearLimit) = [(0x21, .limit)]
      ∧ out (after (.postPage 1 9 (beBytes 4 1024 ++ [0])) nearLimit) = [(0x21, .done)]
      ∧ after (.postPage 1 9 (beBytes 4 1025 ++ [1])) running = transmit (addReply 1 ⟨9, 0x21, .done, .slot 15⟩ { running with run := { running.run with ring := [slotOf 9], postedPages := 1, postedSectors := 2 } }) :=
  ⟨admits_of_free (by decide +kernel) _, admits_of_free (by decide +kernel) _, admits_of_free (by decide +kernel) _, admits_of_free (by decide +kernel) _, by decide +kernel⟩

/-- Station 1 has posted a page of 2 bytes with tag 4, of which one has come. -/
def filling : State := { running with run := { running.run with ring := [⟨2, 1, [0x41], false, 4, false⟩] } }
/-- A witness of PostedPages, PAGE: bytes for the FILLING slot of the tag, its completion, and a frame that finds none. -/
theorem witness_pageFrame :
    filling.receives 1
      ∧ after (.page 1 5 [0x42]) filling = transmit (settle filling)
      ∧ (after (.page 1 4 [0x42, 0x43]) filling).run.ring = [⟨2, 1, [0x41, 0x42] ++ zeros 1022, false, 4, true⟩]
      ∧ after (.page 1 4 []) filling = transmit filling
      ∧ after (.page 2 4 [0x42]) filling = transmit filling
      ∧ (after (.page 1 4 [0x42, 0x43]) filling).run.state = .running
      ∧ after (.page 1 4 [0x42]) here = transmit here :=
  ⟨by unfold State.receives; decide +kernel, by decide +kernel⟩

def closing : State := { running with run := { running.run with state := .closing, closeTag := some 4 } }
def failed : State := { running with run := { running.run with current := none, engaged := none, failure := some .noBlank } }
def opening : State := { running with run := { running.run with state := .opening, current := none, engaged := none, openTag := some 4 } }
/-- A witness of CloseAndAbortInstrument, the first: not open, one pending, one failed, and one that goes CLOSING. -/
theorem witness_closeInstrument :
    State.admits running 1 .closeInstrument 9
      ∧ State.admits closing 1 .closeInstrument 9
      ∧ State.admits failed 1 .closeInstrument 9
      ∧ State.admits opening 1 .closeInstrument 9
      ∧ out (after (.closeInstrument 1 9 []) here) = [(0x22, .notOpen)]
      ∧ out (after (.closeInstrument 1 9 []) closing) = [(0x22, .busy)]
      ∧ after (.closeInstrument 1 9 []) failed = transmit (addReply 1 ⟨9, 0x22, .noBlank, .closed ⟨0, 0, 0, 0⟩ none none⟩ { failed with run := { failed.run with state := .closed } })
      ∧ (after (.closeInstrument 1 9 []) opening).run.closeRequested = true
      ∧ out (after (.closeInstrument 1 9 []) running) = [(0x22, .empty)]
      ∧ (after (.closeInstrument 1 9 []) running).run.counts.aborted = 1
      ∧ (after (.closeInstrument 1 9 []) running).catalogue = [entry7, entry9] :=
  ⟨admits_of_free (by decide +kernel) _, admits_of_free (by decide +kernel) _, admits_of_free (by decide +kernel) _, admits_of_free (by decide +kernel) _, by decide +kernel⟩

def ring1 : State := { running with run := { running.run with ring := [slotOf 4] } }
/-- A witness of CloseAndAbortInstrument, the second: an instrument, a page in the ring and the pin are gone. -/
theorem witness_abortInstrument :
    State.admits ring1 1 .abortInstrument 9
      ∧ State.admits opening 1 .abortInstrument 9
      ∧ out (after (.abortInstrument 1 9 []) here) = [(0x23, .notOpen)]
      ∧ (after (.abortInstrument 1 9 []) ring1).run.counts = ⟨0, 1, 0, 1⟩
      ∧ (after (.abortInstrument 1 9 []) ring1).catalogue = [entry7, entry9]
      ∧ ((after (.abortInstrument 1 9 []) ring1).drive 1).pin = false
      ∧ (after (.abortInstrument 1 9 []) ring1).run.state = .closed
      ∧ out (after (.abortInstrument 1 9 []) ring1) = [(0x23, .done)]
      ∧ (opening.updLink 1 fun l => { l with outstanding := [⟨4, .openInstrument, .filingWriter⟩] }).run.openTag = some 4
      ∧ out (after (.abortInstrument 1 9 []) (opening.updLink 1 fun l => { l with outstanding := [⟨4, .openInstrument, .filingWriter⟩] })) = [(0x20, .aborted), (0x23, .done)] :=
  ⟨admits_of_free (by decide +kernel) _, admits_of_free (by decide +kernel) _, by decide +kernel⟩

/-- A separator has named 12, and the run waits for the side of its rollover. -/
def naming : State := running.updRun fun r =>
  { r with state := .opening, source := .separator, current := none, engaged := none, pendingSep := some 12 }
/-- Pending requests of the run at station 1, by kind and tag. -/
def asks (op cl : Option Byte) (s : State) : State :=
  (s.updRun fun r => { r with openTag := op, closeTag := cl }).updLink 1 fun l => { l with
    outstanding := (op.toList.map fun g => ⟨g, .openInstrument, .filingWriter⟩)
      ++ cl.toList.map fun g => ⟨g, .closeInstrument, .filingWriter⟩ }
/-- A witness of CloseAndAbortInstrument, the third: the instrument named by a separator is counted, with a current one or
alone, and each pending request is answered. -/
theorem witness_abortInstrument_pending :
    State.admits naming 1 .abortInstrument 9
      ∧ (after (.abortInstrument 1 9 []) naming).run.counts = ⟨0, 1, 0, 0⟩
      ∧ (after (.abortInstrument 1 9 []) naming).run.pendingSep = none
      ∧ (after (.abortInstrument 1 9 []) (running.updRun fun r => { r with pendingSep := some 12 })).run.counts.aborted = 2
      ∧ (asks none (some 4) closing).awaits 1 4
      ∧ out (after (.abortInstrument 1 9 []) (asks none (some 4) closing)) = [(0x22, .aborted), (0x23, .done)]
      ∧ out (after (.abortInstrument 1 9 []) (asks (some 3) (some 4) opening))
        = [(0x20, .aborted), (0x22, .aborted), (0x23, .done)] :=
  ⟨admits_of_free (by decide +kernel) _, by unfold State.awaits; decide +kernel⟩

/-- `running` with three sectors of instrument 8 in its extents and two of an attempt in progress. -/
def attempting : State := { running with
  catalogue := extended8.catalogue
  run := { running.run with current := some ⟨8, 0, 0, [], 0, 0, 2, 0, 0, 40, false⟩ } }
/-- A witness of CloseAndAbortInstrument: the sectors of the extents and of the attempt are dead, the frontier stays. -/
theorem witness_abortInstrument_dead :
    State.admits attempting 1 .abortInstrument 9
      ∧ attempting.openSide = some (2, .a)
      ∧ attempting.run.chosen = none
      ∧ (after (.abortInstrument 1 9 []) attempting).side? 2 .a = some { cart2.sideA with dead := cart2.sideA.dead + 5 }
      ∧ (after (.abortInstrument 1 9 []) naming).library.table = naming.library.table :=
  ⟨admits_of_free (by decide +kernel) _, by decide +kernel⟩

/-- A witness of FilingWriterActs, the scan: the largest number at the end of the first 512 bytes, and a page of zeros. -/
theorem witness_separatorScan :
    (zeros 480).length + 8 + 24 ≤ 512
      ∧ separatorNumber (zeros 480 ++ List.replicate 8 0xFF ++ (List.replicate 6 (beBytes 4 999999999)).flatten ++ zeros 512) = some 999999999
      ∧ separatorNumber (zeros 1024) = none
      ∧ ((List.range 505).all fun i => (List.range 8).any fun k => (zeros 1024).getD (i + k) 0 != 0xFF) = true :=
  by decide +kernel

def openAccount (n : Nat) (cat mask : Byte) (cap : Nat) (d : Byte) (low : Nat) : List Byte :=
  beBytes 2 n ++ [cat, mask] ++ beBytes 4 cap ++ [d] ++ beBytes 4 low
def manyAccounts : State := here.updFee fun u => { u with accounts := List.replicate 2048 solicitor }
/-- A witness of AccountOpenAndUpdate, the first: each refusal, and a SOLICITOR account with a cap and a low mark. -/
theorem witness_accountOpen :
    State.admits here 1 .accountOpen 9
      ∧ State.admits manyAccounts 1 .accountOpen 9
      ∧ out (after (.accountOpen 1 9 (openAccount 10000 1 0 0 0 0)) here) = [(0x30, .badRequest)]
      ∧ out (after (.accountOpen 1 9 (openAccount 101 3 1 5 0 0)) here) = [(0x30, .badRequest)]
      ∧ out (after (.accountOpen 1 9 (openAccount 101 2 4 0 0 5)) here) = [(0x30, .badRequest)]
      ∧ out (after (.accountOpen 1 9 (openAccount 101 1 2 0 101 5)) here) = [(0x30, .badRequest)]
      ∧ out (after (.accountOpen 1 9 (openAccount 101 1 1 100000000 0 5)) here) = [(0x30, .badRequest)]
      ∧ out (after (.accountOpen 1 9 (openAccount 100 1 0 0 0 0)) here) = [(0x30, .duplicate)]
      ∧ out (after (.accountOpen 1 9 (openAccount 9999 1 0 0 0 0)) manyAccounts) = [(0x30, .accountsFull)]
      ∧ out (after (.accountOpen 1 9 (openAccount 9999 1 5 99999999 0 1)) here) = [(0x30, .done)]
      ∧ (after (.accountOpen 1 9 (openAccount 9999 1 5 99999999 0 1)) here).account? 9999 = some ⟨9999, .solicitor, .opened, some 0, some 99999999, 0, none, some 1⟩ :=
  ⟨admits_of_free (by decide +kernel) _, admits_of_free (by decide +kernel) _, by decide +kernel⟩

def update (n : Nat) (mask state : Byte) (cap : Nat) (d : Byte) (low : Nat) : List Byte :=
  beBytes 2 n ++ [mask, state] ++ beBytes 4 cap ++ [d] ++ beBytes 4 low
/-- A witness of AccountOpenAndUpdate, the second: each refusal; account 200 SUSPENDED, its cap and its discount cleared. -/
theorem witness_accountUpdate :
    State.admits here 1 .accountUpdate 9
      ∧ out (after (.accountUpdate 1 9 (update 0 0 0 0 0 0)) here) = [(0x31, .badRequest)]
      ∧ out (after (.accountUpdate 1 9 (update 9999 0 0 0 0 0)) here) = [(0x31, .noAccount)]
      ∧ out (after (.accountUpdate 1 9 (update 100 1 2 0 0 0)) here) = [(0x31, .badRequest)]
      ∧ out (after (.accountUpdate 1 9 (update 200 8 0 0 0 5)) here) = [(0x31, .badRequest)]
      ∧ out (after (.accountUpdate 1 9 (update 300 2 0 5 0 0)) here) = [(0x31, .badRequest)]
      ∧ out (after (.accountUpdate 1 9 (update 100 4 0 0 254 0)) here) = [(0x31, .badRequest)]
      ∧ here.account? 200 = some council
      ∧ (after (.accountUpdate 1 9 (update 200 7 1 0 255 0)) here).account? 200 = some { council with state := .suspended, cap := none, discount := none } :=
  ⟨admits_of_free (by decide +kernel) _, by decide +kernel⟩

def held : State := here.updFee fun u => { u with holds := [⟨⟨1, 5⟩, 100, 30⟩] }
/-- A witness of AccountCreditAndClose: each refusal, a credit up to 99,999,999, and a closing. -/
theorem witness_accountCreditAndClose :
    State.admits here 1 .accountCredit 9
      ∧ State.admits here 1 .accountClose 9
      ∧ State.admits held 1 .accountClose 9
      ∧ out (after (.accountCredit 1 9 (beBytes 2 100 ++ beBytes 4 0)) here) = [(0x32, .badRequest)]
      ∧ out (after (.accountCredit 1 9 (beBytes 2 101 ++ beBytes 4 1)) here) = [(0x32, .noAccount)]
      ∧ out (after (.accountCredit 1 9 (beBytes 2 200 ++ beBytes 4 1)) here) = [(0x32, .notPrepaid)]
      ∧ out (after (.accountCredit 1 9 (beBytes 2 100 ++ beBytes 4 99995000)) here) = [(0x32, .limit)]
      ∧ here.account? 100 = some solicitor
      ∧ solicitor.balance = some 5000
      ∧ (after (.accountCredit 1 9 (beBytes 2 100 ++ beBytes 4 99994999)) held).account? 100 = some { solicitor with balance := some 99999999 }
      ∧ ((after (.accountCredit 1 9 (beBytes 2 100 ++ beBytes 4 99994999)) held).link 1).replies.map (·.body) = [.funds 99999999 99999969]
      ∧ out (after (.accountClose 1 9 (beBytes 2 10000)) here) = [(0x33, .badRequest)]
      ∧ out (after (.accountClose 1 9 (beBytes 2 101)) here) = [(0x33, .noAccount)]
      ∧ out (after (.accountClose 1 9 (beBytes 2 100)) held) = [(0x33, .accountBusy)]
      ∧ after (.accountClose 1 9 (beBytes 2 100)) here = transmit (addReply 1 ⟨9, 0x33, .done, .finalBalance (some 5000)⟩ (here.updFee fun u => { u with accounts := [council, clerk] })) :=
  ⟨admits_of_free (by decide +kernel) _, admits_of_free (by decide +kernel) _, admits_of_free (by decide +kernel) _, by decide +kernel⟩

def schedule (cls mask : Byte) (v f g c m x : Nat) : List Byte :=
  [cls, mask] ++ beBytes 2 v ++ beBytes 2 f ++ beBytes 2 g ++ beBytes 2 c ++ beBytes 4 m ++ beBytes 4 x
/-- A witness of RatesAndDiscounts: M above X, class 8, a change of V and X, and discounts. -/
theorem witness_ratesAndDiscounts :
    State.admits here 1 .setSchedule 9
      ∧ State.admits here 1 .setCategoryDiscount 9
      ∧ out (after (.setSchedule 1 9 (schedule 8 0 0 0 0 0 0 0)) here) = [(0x35, .badRequest)]
      ∧ out (after (.setSchedule 1 9 (schedule 7 16 0 0 0 0 60001 0)) here) = [(0x35, .badRequest)]
      ∧ out (after (.setSchedule 1 9 (schedule 7 32 0 0 0 0 0 100000000)) here) = [(0x35, .badRequest)]
      ∧ here.fee.schedule.toList[7]? = some class2
      ∧ (after (.setSchedule 1 9 (schedule 7 33 65535 0 0 0 0 2500)) here).fee.schedule.toList[7]? = some ⟨65535, 1250, 400, 2000, 2500, 2500⟩
      ∧ (after (.setCategoryDiscount 1 9 [0, 101]) here).fee.discountCounter = 100
      ∧ (after (.setCategoryDiscount 1 9 [1, 15]) here).fee.discountSolicitor = 15
      ∧ (after (.setCategoryDiscount 1 9 [2, 0]) here).fee.discountGovernment = 0
      ∧ out (after (.setCategoryDiscount 1 9 [3, 0]) here) = [(0x36, .badRequest)] :=
  ⟨admits_of_free (by decide +kernel) _, admits_of_free (by decide +kernel) _, by decide +kernel⟩

def lastDay : State := here.updFee fun u => { u with date := 65535 }
def record (n : Nat) : JournalRecord := ⟨n, 40, 1, 0, .counter, 7, .view, 1, 0, 15, .done⟩
def nine : State := here.updFee fun u => { u with journal := (List.range 9).map record }
/-- A witness of DayAndJournal: DATE_LIMIT, a day close, dates back, the same and on, and nine records taken by eight. -/
theorem witness_dayAndJournal :
    State.admits here 1 .dayClose 9
      ∧ State.admits lastDay 1 .dayClose 9
      ∧ State.admits here 1 .setDate 9
      ∧ State.admits nine 1 .journalTake 9
      ∧ out (after (.dayClose 1 9 []) lastDay) = [(0x37, .dateLimit)]
      ∧ (after (.dayClose 1 9 []) here).fee.date = 41
      ∧ (after (.dayClose 1 9 []) here).fee.previous = here.fee.today
      ∧ ((after (.dayClose 1 9 []) here).source 19).pending = true
      ∧ out (after (.setDate 1 9 (beBytes 4 65536)) here) = [(0x53, .badRequest)]
      ∧ out (after (.setDate 1 9 (beBytes 4 39)) here) = [(0x53, .dateBack)]
      ∧ after (.setDate 1 9 (beBytes 4 40)) here = transmit (addReply 1 ⟨9, 0x53, .done, .none⟩ here)
      ∧ (after (.setDate 1 9 (beBytes 4 65535)) here).fee.today = TallySet.zero (some 65535)
      ∧ nine.fee.journal = (List.range 8).map record ++ [record 8]
      ∧ after (.journalTake 1 9 []) nine = transmit (addReply 1 ⟨9, 0x38, .done, .journal ((List.range 8).map record) 1⟩ (here.updFee fun u => { u with journal := [record 8] })) :=
  ⟨admits_of_free (by decide +kernel) _, admits_of_free (by decide +kernel) _, admits_of_free (by decide +kernel) _, admits_of_free (by decide +kernel) _, by decide +kernel⟩

/-- A witness of Queries. -/
theorem witness_queries :
    State.admits here 1 .accountQuery 9
      ∧ State.admits here 1 .tallyQuery 9
      ∧ State.admits here 1 .libraryQuery 9
      ∧ State.admits here 1 .faultQuery 9
      ∧ State.admits here 1 .noticeQuery 9
      ∧ State.admits here 1 .status 9
      ∧ out (after (.accountQuery 1 9 (beBytes 2 10000)) here) = [(0x34, .badRequest)]
      ∧ out (after (.accountQuery 1 9 (beBytes 2 9999)) here) = [(0x34, .noAccount)]
      ∧ ((after (.accountQuery 1 9 (beBytes 2 100)) held).link 1).replies.map (·.body) = [.accountInfo ⟨solicitor, 30, 1, some 4970, 0⟩]
      ∧ ((after (.accountQuery 1 9 (beBytes 2 0)) here).link 1).replies.map (·.body) = [.feeTables 0 0 0 100 here.fee.schedule]
      ∧ after (.tallyQuery 1 9 [0]) here = transmit (addReply 1 ⟨9, 0x39, .done, .tally here.fee.today⟩ here)
      ∧ after (.tallyQuery 1 9 [1]) here = transmit (addReply 1 ⟨9, 0x39, .done, .tally here.fee.previous⟩ here)
      ∧ out (after (.tallyQuery 1 9 [2]) here) = [(0x39, .badRequest)]
      ∧ out (after (.libraryQuery 1 9 (beBytes 2 6)) here) = [(0x45, .noCartridge)]
      ∧ after (.libraryQuery 1 9 (beBytes 2 5)) here = transmit (addReply 1 ⟨9, 0x45, .done, .cartridge cart5⟩ here)
      ∧ out (after (.libraryQuery 1 9 (beBytes 2 0)) here) = [(0x45, .done)]
      ∧ out (after (.faultQuery 1 9 []) here) = [(0x44, .done)]
      ∧ after (.noticeQuery 1 9 []) here = transmit (addReply 1 ⟨9, 0x62, .done, .notices [] 0 0⟩ here)
      ∧ after (.status 1 9 []) here = transmit (addReply 1 ⟨9, 0x63, .done, .status (statusInfo here)⟩ here)
      ∧ (statusInfo waiting).phases = ⟨1, 0, 0, 0, 0, 0⟩ :=
  ⟨admits_of_free (by decide +kernel) _, admits_of_free (by decide +kernel) _, admits_of_free (by decide +kernel) _, admits_of_free (by decide +kernel) _, admits_of_free (by decide +kernel) _, admits_of_free (by decide +kernel) _, by decide +kernel⟩

def slotHeld : State := { here with library := { here.library with
  slot := .held, slotSensor := true, table := [cart1, cart2, { cart3 with location := .loadingSlot }, cart4, cart5] } }
def listFull : State := here.updLibrary fun l => { l with exports := List.replicate 32 ⟨9, 1, 4, none, true⟩ }
/-- A witness of Export: each refusal, the loading slot, a MISSING cartridge, and a cartridge on the shelf. -/
theorem witness_export :
    State.admits here 1 .exportCartridge 9
      ∧ State.admits slotHeld 1 .exportCartridge 9
      ∧ State.admits listFull 1 .exportCartridge 9
      ∧ State.admits (atLevel .halted here) 1 .exportCartridge 9
      ∧ out (after (.exportCartridge 1 9 [0, 0]) here) = [(0x40, .badRequest)]
      ∧ out (after (.exportCartridge 1 9 [0, 6]) here) = [(0x40, .noCartridge)]
      ∧ out (after (.exportCartridge 1 9 [0, 5]) here) = [(0x40, .notPresent)]
      ∧ out (after (.exportCartridge 1 9 [0, 2]) here) = [(0x40, .cartridgeBusy)]
      ∧ exportBusy here cart2 = true
      ∧ exportBusy here cart1 = false
      ∧ exportBusy here cart4 = false
      ∧ out (after (.exportCartridge 1 9 [0, 1]) (atLevel .halted here)) = [(0x40, .libraryHalted)]
      ∧ out (after (.exportCartridge 1 9 [0, 3]) slotHeld) = [(0x40, .done)]
      ∧ ((after (.exportCartridge 1 9 [0, 3]) slotHeld).source 11).pending = true
      ∧ (here.library.table.map (·.number)).Nodup
      ∧ out (after (.exportCartridge 1 9 [0, 4]) here) = [(0x40, .done)]
      ∧ (after (.exportCartridge 1 9 [0, 4]) here).cart? 4 = none
      ∧ out (after (.exportCartridge 1 9 [0, 1]) listFull) = [(0x40, .listFull)]
      ∧ (after (.exportCartridge 1 9 [0, 1]) here).cart? 1 = some { cart1 with exportPending := true }
      ∧ ((after (.exportCartridge 1 9 [0, 1]) here).link 1).outstanding = [⟨9, .exportCartridge, .libraryMap⟩]
      ∧ (after (.exportCartridge 1 9 [0, 1]) here).arm.moving.isSome = true :=
  ⟨admits_of_free (by decide +kernel) _, admits_of_free (by decide +kernel) _, admits_of_free (by decide +kernel) _, admits_of_free (by decide +kernel) _, by decide +kernel⟩

/-- Cartridge 2, its side A OPEN, is MISSING; cartridge 4, MISSING, has a FULL side. -/
def lostCarts : State := ((here.updCart 2 fun c => { c with location := .missing, sideUp := none }).updCart 4 fun c =>
  { c with sideA := cart5.sideA }).updDrive 1 fun _ => drive
/-- A witness of Export, a MISSING cartridge: its record stays, EXPORTED, and an OPEN side of it is FULL. -/
theorem witness_export_writtenOff :
    State.admits lostCarts 1 .exportCartridge 9
      ∧ lostCarts.openSide = some (2, .a)
      ∧ (lostCarts.library.table.map (·.number)).Nodup
      ∧ out (after (.exportCartridge 1 9 [0, 2]) lostCarts) = [(0x40, .done)]
      ∧ (after (.exportCartridge 1 9 [0, 2]) lostCarts).cart? 2 = some { cart2 with
          location := .exported, home := none, sideUp := none, sideA := { cart2.sideA with state := .full } }
      ∧ ((after (.exportCartridge 1 9 [0, 2]) lostCarts).source 13).pending = true
      ∧ (after (.exportCartridge 1 9 [0, 4]) lostCarts).cart? 4 = some { cart4 with
          location := .exported, home := none, sideA := cart5.sideA } :=
  ⟨admits_of_free (by decide +kernel) _, by decide +kernel⟩

def faulted2 : State := { here with drives := here.drives.set 2 { drive with state := .faulted, fault := some .timeout } }
def missing3 : State := { faulted2 with drives := faulted2.drives.set 3 { drive with fitted := false } }
def resetting2 : State := { here with drives := here.drives.set 2 { drive with
  state := .resetting, fault := some .timeout, resetBy := some ⟨1, 4⟩, command := some ⟨.reinit, .driveUnit, 990⟩ }
                                      links := here.links.set 1 { link with outstanding := [⟨4, .driveReset, .driveUnit 2⟩] } }
/-- A witness of DriveResets, the command: its checks, and a reset of drive 2, FAULTED. -/
theorem witness_driveReset :
    State.admits missing3 1 .driveReset 9
      ∧ State.admits resetting2 1 .driveReset 9
      ∧ out (after (.driveReset 1 9 [4, 0]) missing3) = [(0x41, .badRequest)]
      ∧ out (after (.driveReset 1 9 [0, 2]) missing3) = [(0x41, .badRequest)]
      ∧ out (after (.driveReset 1 9 [3, 0]) missing3) = [(0x41, .notFitted)]
      ∧ out (after (.driveReset 1 9 [2, 0]) resetting2) = [(0x41, .busy)]
      ∧ out (after (.driveReset 1 9 [1, 0]) missing3) = [(0x41, .notNeeded)]
      ∧ ((after (.driveReset 1 9 [2, 1]) missing3).drive 2).state = .resetting
      ∧ ((after (.driveReset 1 9 [2, 1]) missing3).drive 2).command = some ⟨.powerCycle, .driveUnit, 1000⟩
      ∧ out (after (.driveReset 1 9 [2, 1]) missing3) = [] :=
  ⟨admits_of_free (by decide +kernel) _, admits_of_free (by decide +kernel) _, by decide +kernel⟩

/-- A witness of DriveResets, its completion: with a cartridge, without one, and a report that nothing asked for. -/
theorem witness_resetCompletion :
    (resetting2.drive 2).command = some ⟨.reinit, .driveUnit, 990⟩
      ∧ ((after (.reinitCompletion 2 false) resetting2).drive 2) = { drive with lastActive := ((after (.reinitCompletion 2 false) resetting2).drive 2).lastActive }
      ∧ out (after (.reinitCompletion 2 false) resetting2) = [(0x41, .done)]
      ∧ ((after (.reinitCompletion 2 true) resetting2).drive 2).state = .loading
      ∧ ((after (.reinitCompletion 2 true) resetting2).drive 2).fault = none
      ∧ after (.powerCycleCompletion 2 true) resetting2 = transmit resetting2 :=
  by decide +kernel

/-- Drive 2 of `resetting2` holds cartridge 3, by the map, or the cartridge of inspection 0. -/
def resettingCart : State := (resetting2.updCart 3 fun c => { c with location := .drive 2, sideUp := some .b }).updDrive 2
  fun x => { x with cart := some (.number 3), sideUp := some .b }
def resettingInsp : State := (resetting2.updLibrary fun l => { l with
  inspections := [⟨0, .startUp, .drive 2, .reading, some 1, none, none, none, false, false⟩], inspectionSeq := 1 }).updDrive 2
  fun x => { x with cart := some (.inspection 0) }
/-- A witness of DriveResets, what a completion says to the Library Map: a cartridge of the map found and not found, an
inspection found and not found, and a cartridge that no record has, with a free slot and with none. -/
theorem witness_resetCompletion_map :
    (resettingCart.library.table.map (·.number)).Nodup
      ∧ resettingCart.cartIn 2 = some { cart3 with location := .drive 2, sideUp := some .b }
      ∧ (after (.reinitCompletion 2 true) resettingCart).library = resettingCart.library
      ∧ ((after (.reinitCompletion 2 true) resettingCart).drive 2).sideUp = some .b
      ∧ (after (.reinitCompletion 2 false) resettingCart).cart? 3 = some { cart3 with location := .missing }
      ∧ ((after (.reinitCompletion 2 false) resettingCart).source 12).pending = true
      ∧ (after (.reinitCompletion 2 false) resettingCart).planner.passesDue = 0
      ∧ (resettingInsp.heldBy 2).map (·.id) = some 0
      ∧ (after (.reinitCompletion 2 true) resettingInsp).library = resettingInsp.library
      ∧ (after (.reinitCompletion 2 false) resettingInsp).library.inspections = []
      ∧ (after (.reinitCompletion 2 false) resettingInsp).library.lastReject = some (.abandoned, none)
      ∧ ((after (.reinitCompletion 2 false) resettingInsp).source 10).pending = true
      ∧ (after (.reinitCompletion 2 true) resetting2).library.inspections
        = [⟨0, .startUp, .drive 2, .loading, some 1, none, none, none, false, false⟩]
      ∧ ((after (.reinitCompletion 2 true) resetting2).drive 2).cart = some (.inspection 0)
      ∧ (after (.reinitCompletion 2 true) (resetting2.updLibrary fun l => { l with shelfSensors := BitVec.allOnes 96 })).library.inspections
        = [⟨0, .startUp, .drive 2, .waitingSlot, none, none, none, none, false, false⟩]
      ∧ ((after (.reinitCompletion 2 true) (resetting2.updLibrary fun l => { l with shelfSensors := BitVec.allOnes 96 })).source 8).pending = true :=
  by decide +kernel

/-- A RETURN of cartridge 1 to its shelf slot, SUSPENDED, with the cartridge on the arm. -/
def suspended1 : MoveOrder := ⟨7, .returnMove, .number 1, .arm, .shelf 3, none, .lib, none, .recovery, .suspended⟩
def fault1 : FaultRec := ⟨.gripLost, suspended1, 900, .travel, false, true⟩
def attention : State :=
  { here with
    arm := { here.arm with orders := [suspended1], counter := 8, level := .attention, primary := some fault1 }
    library := { here.library with table := [{ cart1 with location := .arm }, cart2, cart3, cart4, cart5], shelfSensors := 0x10 } }
def double : State := { attention with arm := { attention.arm with
  level := .double, primary := some { fault1 with settled := true }, secondary := some fault1 } }
def settled : State := { here with arm := { here.arm with level := .attention, primary := some { fault1 with settled := true } } }
def moving1 : State := { attention with arm := { attention.arm with moving := some ⟨{ suspended1 with status := .running }, .travel, 995, .retryPrimary, true⟩ } }
/-- A witness of FaultClear: its refusals, a settled record, RETRY of a TRAVEL, ABANDON with each location. -/
theorem witness_faultClear :
    State.admits here 1 .faultClear 9
      ∧ State.admits attention 1 .faultClear 9
      ∧ State.admits double 1 .faultClear 9
      ∧ State.admits settled 1 .faultClear 9
      ∧ State.admits moving1 1 .faultClear 9
      ∧ State.admits (atLevel .halted here) 1 .faultClear 9
      ∧ out (after (.faultClearRetry 1 9 [0, 0]) here) = [(0x42, .noFault)]
      ∧ out (after (.faultClearAbandon 1 9 [1, 2]) (atLevel .halted here)) = [(0x42, .libraryHalted)]
      ∧ out (after (.faultClearAbandon 1 9 [1, 0]) moving1) = [(0x42, .armBusy)]
      ∧ out (after (.faultClearRetry 1 9 [0, 7]) moving1) = [(0x42, .armBusy)]
      ∧ (after (.faultClearRetry 1 9 [0, 0]) settled).arm.level = .normal
      ∧ ((after (.faultClearAbandon 1 9 [1, 1]) settled).link 1).replies.map (·.body) = [.recordCleared]
      ∧ (after (.faultClearRetry 1 9 [0, 0]) attention).arm.moving.map (fun m => (m.phase, m.started, m.cause, m.inList)) = some (.travel, 1000, .retryPrimary, true)
      ∧ (after (.faultClearRetry 1 9 [0, 0]) double).arm.moving.map (fun m => (m.phase, m.started, m.cause, m.inList)) = some (.travel, 1000, .retrySecondary, true)
      ∧ (after (.faultClearAbandon 1 9 [1, 0]) attention).arm.level = .normal
      ∧ ((after (.faultClearAbandon 1 9 [1, 0]) attention).cart? 1).map (·.location) = some .shelf
      ∧ ((after (.faultClearAbandon 1 9 [1, 1]) double).cart? 1).map (·.location) = some .loadingSlot
      ∧ ((after (.faultClearAbandon 1 9 [1, 2]) double).cart? 1).map (·.location) = some .missing
      ∧ (after (.faultClearAbandon 1 9 [1, 2]) double).arm.level = .attention
      ∧ (after (.faultClearAbandon 1 9 [1, 2]) double).arm.orders = []
      ∧ out (after (.faultClearAbandon 1 9 [1, 1]) (attention.updLibrary fun l => { l with slot := .rejected })) = [(0x42, .slotOccupied)]
      ∧ out (after (.faultClearAbandon 1 9 [1, 3]) attention) = [(0x42, .badRequest)] :=
  ⟨admits_of_free (by decide +kernel) _, admits_of_free (by decide +kernel) _, admits_of_free (by decide +kernel) _, admits_of_free (by decide +kernel) _, admits_of_free (by decide +kernel) _, admits_of_free (by decide +kernel) _, by decide +kernel⟩

def inSlot6 : State := here.updLibrary fun l => { l with shelfSensors := 0x34 }
/-- A witness of Recover: its refusals in their order, a cartridge in its own slot, and a RETURN in NORMAL and in ATTENTION. -/
theorem witness_recover :
    State.admits here 1 .recover 9
      ∧ State.admits inSlot6 1 .recover 9
      ∧ State.admits attention 1 .recover 9
      ∧ State.admits (atLevel .halted here) 1 .recover 9
      ∧ State.admits (atLevel .attention inSlot6) 1 .recover 9
      ∧ out (after (.recover 1 9 [0, 0, 1]) here) = [(0x43, .badRequest)]
      ∧ out (after (.recover 1 9 [0, 4, 97]) here) = [(0x43, .badRequest)]
      ∧ out (after (.recover 1 9 [0, 6, 96]) here) = [(0x43, .noCartridge)]
      ∧ out (after (.recover 1 9 [0, 1, 6]) here) = [(0x43, .notMissing)]
      ∧ recovering here 4 = false
      ∧ recovering (after (.recover 1 9 [0, 4, 7]) here) 4 = true
      ∧ out (after (.recover 1 9 [0, 4, 6]) (atLevel .halted here)) = [(0x43, .libraryHalted)]
      ∧ out (after (.recover 1 9 [0, 4, 0]) attention) = [(0x43, .slotOccupied)]
      ∧ out (after (.recover 1 9 [0, 4, 5]) here) = [(0x43, .slotOccupied)]
      ∧ out (after (.recover 1 9 [0, 4, 6]) here) = [(0x43, .sourceEmpty)]
      ∧ after (.recover 1 9 [0, 4, 6]) inSlot6 = transmit (settle (addReply 1 ⟨9, 0x43, .done, .none⟩ (inSlot6.updCart 4 fun c => { c with location := .shelf })))
      ∧ ((after (.recover 1 9 [0, 4, 7]) here).link 1).replies.map (·.body) = [.order 1]
      ∧ (after (.recover 1 9 [0, 4, 0]) (atLevel .attention here)).arm.moving.map (fun m => (m.phase, m.cause, m.inList)) = some (.travel, .recover, false)
      ∧ ((after (.recover 1 9 [0, 4, 0]) (atLevel .attention here)).cart? 4).map (·.location) = some .arm
      ∧ (after (.recover 1 9 [0, 4, 96]) (atLevel .attention here)).arm.secondary.map (fun r => (r.code, r.phase)) = some (.pickEmpty, .pick)
      ∧ (after (.recover 1 9 [0, 4, 96]) (atLevel .attention (setShelf 96 true here))).arm.moving.map (fun m => (m.phase, m.cause, m.inList)) = some (.pick, .recover, false) :=
  ⟨admits_of_free (by decide +kernel) _, admits_of_free (by decide +kernel) _, admits_of_free (by decide +kernel) _, admits_of_free (by decide +kernel) _, admits_of_free (by decide +kernel) _, by decide +kernel⟩

def oneSupervisor : State := { here with links := (Vector.replicate 4 { link with profile := ⟨true, false, false, false, false⟩ }).set 1 link }
/-- A witness of SetProfile: station 4, the last supervisor, and a profile replaced. -/
theorem witness_setProfile :
    State.admits here 1 .setProfile 9
      ∧ State.admits oneSupervisor 1 .setProfile 9
      ∧ out (after (.setProfile 1 9 [4, 0]) here) = [(0x50, .badRequest)]
      ∧ out (after (.setProfile 1 9 [1, 15]) oneSupervisor) = [(0x50, .lastSupervisor)]
      ∧ ((after (.setProfile 1 9 [3, 17]) oneSupervisor).link 3).profile = ⟨true, false, false, false, true⟩
      ∧ ((after (.setProfile 1 9 [1, 0]) here).link 1).profile = ⟨false, false, false, false, false⟩ :=
  ⟨admits_of_free (by decide +kernel) _, admits_of_free (by decide +kernel) _, by decide +kernel⟩

def timerBody (mask : Byte) (a b c d : Nat) : List Byte := [mask] ++ beBytes 4 a ++ beBytes 4 b ++ beBytes 4 c ++ beBytes 4 d
/-- A witness of TimersOptionsPriorities: no setting named; all named, beyond their ranges; the pool at the low mark. -/
theorem witness_timersOptionsPriorities :
    State.admits here 1 .setTimers 9
      ∧ State.admits here 1 .setOptions 9
      ∧ State.admits here 1 .setArmPriority 9
      ∧ after (.setTimers 1 9 (timerBody 0 1 2 3 4)) here = transmit (addReply 1 ⟨9, 0x51, .done, .timers here.timers⟩ here)
      ∧ (after (.setTimers 1 9 (timerBody 15 3601 0 9 29)) here).timers = ⟨3600, 0, 10, 30⟩
      ∧ (after (.setTimers 1 9 (timerBody 15 0 86401 601 3601)) here).timers = ⟨0, 86400, 600, 3600⟩
      ∧ (∀ e : DriveId, (here.drive e).idle = none ∧ (here.drive e).hold = none ∧ (here.drive e).state ≠ .standby)
      ∧ out (after (.setOptions 1 9 [1, 2, 0]) here) = [(0x52, .badRequest)]
      ∧ (after (.setOptions 1 9 [3, 1, 65]) here).library.lowMark = 64
      ∧ (after (.setOptions 1 9 [3, 1, 65]) here).planner.reserve = true
      ∧ here.pool.length = 4
      ∧ ((after (.setOptions 1 9 [2, 0, 4]) here).source 12).pending = true
      ∧ ((after (.setOptions 1 9 [2, 0, 3]) here).source 12).pending = false
      ∧ (after (.setArmPriority 1 9 [0, 1, 2, 3]) here).arm.priorities = ⟨0, 1, 2, 3⟩
      ∧ out (after (.setArmPriority 1 9 [3, 3, 1, 0]) here) = [(0x54, .priorityConflict)]
      ∧ out (after (.setArmPriority 1 9 [4, 2, 1, 0]) here) = [(0x54, .priorityConflict)] :=
  ⟨admits_of_free (by decide +kernel) _, admits_of_free (by decide +kernel) _, admits_of_free (by decide +kernel) _, by decide +kernel⟩

/-- Source 24 is enabled with level 5 and target station 2. -/
def configured24 : State := here.updSource 24 fun _ => ⟨false, 5, 2, true⟩
/-- A witness of NoticeConfigAndSignals. -/
theorem witness_noticeConfigAndSignals :
    State.admits here 1 .noticeConfig 9
      ∧ State.admits configured24 1 .signalSet 9
      ∧ State.admits configured24 1 .signalClear 9
      ∧ out (after (.noticeConfig 1 9 [0, 0, 0, 0, 0]) here) = [(0x55, .badRequest)]
      ∧ out (after (.noticeConfig 1 9 [25, 0, 0, 0, 0]) here) = [(0x55, .badRequest)]
      ∧ out (after (.noticeConfig 1 9 [24, 1, 8, 0, 0]) here) = [(0x55, .badRequest)]
      ∧ out (after (.noticeConfig 1 9 [24, 2, 0, 4, 0]) here) = [(0x55, .badRequest)]
      ∧ out (after (.noticeConfig 1 9 [24, 4, 0, 0, 2]) here) = [(0x55, .badRequest)]
      ∧ (after (.noticeConfig 1 9 [24, 7, 5, 2, 1]) here).source 24 = ⟨false, 5, 2, true⟩
      ∧ (after (.noticeConfig 1 9 [1, 0, 9, 9, 9]) here).source 1 = ⟨false, 0, 0, false⟩
      ∧ (after (.noticeConfig 1 9 [24, 2, 0, 3, 0]) configured24).source 24 = ⟨false, 5, 3, true⟩
      ∧ out (after (.signalSet 1 9 [3]) configured24) = [(0x56, .badRequest)]
      ∧ ((after (.signalSet 1 9 [2]) configured24).link 2).sending = some .attention
      ∧ ((after (.signalSet 1 9 [2]) configured24).link 1).replies.map (·.body) = [.wasPending false]
      ∧ ((after (.signalClear 1 9 [0]) configured24).source 22).pending = false :=
  ⟨admits_of_free (by decide +kernel) _, admits_of_free (by decide +kernel) _, admits_of_free (by decide +kernel) _, by decide +kernel⟩

/-- Sources 20, level 3, and 24, level 5, are deliverable at station 1. -/
def told (sent : Bool) : State :=
  ((here.updSource 20 fun _ => ⟨true, 3, 1, true⟩).updSource 24 fun _ => ⟨true, 5, 1, true⟩).updLink 1 fun l =>
    { l with attentionSent := sent }
def resetting1 : State := here.updLink 1 fun l => { l with state := .resetting }
/-- A witness of NoticeJudgement: RESETTING, an empty set, a set told already, and a set to be told. -/
theorem witness_noticeJudgement :
    (resetting1.link 1).state = .resetting
      ∧ judge 1 resetting1 = resetting1
      ∧ deliverable here 1 = []
      ∧ deliverable (told false) 1 = [20, 24]
      ∧ judge 1 (told true) = told true
      ∧ ((judge 1 (told false)).link 1).attentionWaiting = true
      ∧ ((noticeSet 24 configured24).link 2).attentionSent = true :=
  by decide +kernel

/-- A witness of TakeNoticeAndThreshold: an empty set; the higher level first, with a further attention frame. -/
theorem witness_takeNoticeAndThreshold :
    State.admits here 1 .takeNotice 9
      ∧ State.admits (told true) 1 .takeNotice 9
      ∧ State.admits (told true) 1 .setThreshold 9
      ∧ after (.takeNotice 1 9 []) here = transmit (addReply 1 ⟨9, 0x60, .done, .notice 0 0⟩ here)
      ∧ 24 ∈ deliverable (told true) 1
      ∧ ((after (.takeNotice 1 9 []) (told true)).link 1).replies.map (·.body) = [.notice 24 5]
      ∧ ((after (.takeNotice 1 9 []) (told true)).source 24).pending = false
      ∧ ((after (.takeNotice 1 9 []) (told true)).link 1).attentionWaiting = true
      ∧ ((after (.setThreshold 1 9 [8]) (told true)).link 1).threshold = 7
      ∧ ((after (.setThreshold 1 9 [8]) (told true)).link 1).attentionSent = false :=
  ⟨admits_of_free (by decide +kernel) _, admits_of_free (by decide +kernel) _, admits_of_free (by decide +kernel) _, by decide +kernel⟩

def stalled : State := { waiting with fetch := { waiting.fetch with orders := [{ order5 with stall := some 950, staged := none }] } }
/-- A witness of CreditFrame: a body of two bytes, no credit, and credit up to 8 that stops a stall timer. -/
theorem witness_creditFrame :
    stalled.receives 1
      ∧ after (.credit 1 0 [1, 1]) stalled = transmit stalled
      ∧ after (.credit 1 0 [0]) stalled = transmit (settle stalled)
      ∧ ((after (.credit 1 0 [255]) stalled).link 1).credit = 8
      ∧ (after (.credit 1 0 [1]) stalled).fetch.orders.map (·.stall) = [none] :=
  ⟨by unfold State.receives; decide +kernel, by decide +kernel⟩

/-- Station 1 has an EXPORT on the list and a DRIVE_RESET under way, and station 2 an EXPORT. -/
def asking : State := { resetting2 with library := { resetting2.library with
  exports := [⟨1, 1, 6, none, true⟩, ⟨3, 2, 6, none, true⟩] } }
/-- A witness of LinkResetAndRecovery: a reset in UP with a fetch and a run, before start-up, and in RESETTING. -/
theorem witness_linkResetAndRecovery :
    waiting.reconciled = true
      ∧ (waiting.link 1).state = .up
      ∧ (waiting.link 1).buffer = none
      ∧ ((after (.malformedCrc 1) waiting).link 1) = { Link.atReset (waiting.link 1).profile with cause := .crc, sending := some (.linkReset .crc) }
      ∧ (after (.carrierLoss 1) waiting).fetch.orders = []
      ∧ (after (.carrierLoss 1) waiting).fee.journal.map (·.outcome) = [.linkReset]
      ∧ (after (.linkReset 1 0 [0]) running).run.state = .closed
      ∧ (after (.frameTimeout 2) running).run = running.run
      ∧ (after (.malformedLength 2) waiting).fetch.orders = [order5]
      ∧ (after (.carrierLoss 1) asking).library.exports.map (fun e => (e.cart, e.replyDue)) = [(1, false), (3, true)]
      ∧ ((after (.carrierLoss 1) asking).drive 2).resetBy = none
      ∧ out (after (.reinitCompletion 2 false) (after (.carrierLoss 1) asking)) = []
      ∧ after (.overrun 1) State.reset = transmit State.reset
      ∧ ((after (.unknownKind 1) waiting).link 1).cause = .unknownKind
      ∧ (resetting1.link 1).buffer = none
      ∧ ((after (.malformedCrc 1) resetting1).link 1).sending = some (.linkReset .powerOn)
      ∧ after (.carrierLoss 1) resetting1 = transmit resetting1
      ∧ ((after (.linkReset 1 0 []) resetting1).link 1).state = .up
      ∧ ((after (.credit 1 0 [3]) resetting1).link 1).credit = 3
      ∧ out (after (.noticeQuery 1 9 []) resetting1) = [(0x62, .done)] :=
  by decide +kernel

def sends (f : TxFrame) (s : State) : State := s.updLink 1 fun l => { l with sending := some f }
def tx (s : State) : Option TxFrame := ((kick 1 s).link 1).sending
def oneReply : State := here.updLink 1 fun l => { l with replies := [⟨5, 0x63, .busy, .none⟩] }
/-- Page 2 of `order5`, of `n` sectors, is in delivery from buffer 0, the order in the queue of drive 1. -/
def deliveringOf (n next sent : Nat) : State :=
  { waiting with
    planner := { waiting.planner with waiters := [] }
    fetch := { waiting.fetch with
      orders := [{ order5 with place := .drive 1, next := next, lengths := some [1, n], delivery := some ⟨2, 0, sent⟩ }]
      buffers := waiting.fetch.buffers.set 0 (some (ones 2048)) }
    drives := waiting.drives.set 1 { waiting.drive 1 with queue := [⟨1, 5⟩] }
    links := waiting.links.set 1 { waiting.link 1 with sendList := [⟨1, 5⟩] } }
def delivering : State := deliveringOf 2 3 0
/-- A witness of Transmitter: what is sent first, and what follows each kind of frame sent. -/
theorem witness_transmitter :
    tx (sends .attention oneReply) = some .attention
      ∧ tx (oneReply.updLink 1 fun l => { l with resetDue := true }) = some (.linkReset .powerOn)
      ∧ tx oneReply = some (.reply ⟨5, 0x63, .busy, .none⟩)
      ∧ tx (here.updLink 1 fun l => { l with attentionWaiting := true }) = some .attention
      ∧ tx delivering = some (.data (some ⟨1, 5⟩) 5 2 0 true (ones 2048))
      ∧ tx here = none
      ∧ after (.frameSent 1) oneReply = transmit oneReply
      ∧ ((after (.frameSent 1) (sends (.reply ⟨5, 0x63, .busy, .none⟩) oneReply)).link 1).replies = []
      ∧ after (.frameSent 1) (sends .attention here) = transmit (settle here)
      ∧ after (.frameSent 1) (sends (.data none 5 2 0 true []) here) = transmit (settle here)
      ∧ (after (.frameSent 1) (sends (.data (some ⟨1, 5⟩) 5 2 0 false []) delivering)).fetch.orders.map (·.delivery) = [some ⟨2, 0, 1⟩]
      ∧ out (after (.frameSent 1) (sends (.data (some ⟨1, 5⟩) 5 2 0 true []) delivering)) = [(0x90, .done)]
      ∧ (after (.frameSent 1) (sends (.data (some ⟨1, 5⟩) 5 2 0 true []) delivering)).fetch.orders = []
      ∧ (after (.frameSent 1) (sends (.data (some ⟨1, 5⟩) 5 2 0 true []) (deliveringOf 2 2 0))).fetch.orders.map (fun o => (o.delivery, o.delivered)) = [(none, 2)]
      ∧ delivering.order? ⟨1, 5⟩ = some { order5 with place := .drive 1, next := 3, lengths := some [1, 2], delivery := some ⟨2, 0, 0⟩ }
      ∧ (delivering.drive 1).queue = [⟨1, 5⟩] :=
  by decide +kernel

/-- A witness of PowerOnReset: registry memory lost, and kept. -/
theorem witness_powerOnReset :
    after (.powerOnReset true) here = State.reset
      ∧ here.signature = true
      ∧ (after (.powerOnReset false) running).catalogue = running.catalogue
      ∧ (after (.powerOnReset false) running).run = Run.atReset
      ∧ (after (.powerOnReset false) running).initialised = false
      ∧ ((after (.powerOnReset false) running).drive 1) = Drive.atReset 0 :=
  by decide +kernel

def asked : State := { State.reset with seconds := 30 }
/-- A witness of DriveIdentification: answers with and without a cartridge, with a fault, and none for 30 seconds. -/
theorem witness_driveIdentification :
    (asked.drive 2).identSince = some 0
      ∧ (here.drive 2).identSince = none
      ∧ after (.driveIdentifyAnswer 2 true false) here = transmit here
      ∧ ((after (.driveIdentifyAnswer 2 false false) asked).drive 2) = drive
      ∧ ((after (.driveIdentifyAnswer 2 true false) asked).drive 2).command = some ⟨.spinUp, .driveUnit, 30⟩
      ∧ ((after (.driveIdentifyAnswer 2 true true) asked).drive 2).fault = some .hardwareFault
      ∧ ((after (.driveIdentifyAnswer 2 true true) asked).source 6).pending = true
      ∧ ((after (.driveIdentifyTimeout 2) asked).drive 2) = { drive with fitted := false }
      ∧ after (.driveIdentifyTimeout 2) { asked with seconds := 29 } = transmit { asked with seconds := 29 } :=
  by decide +kernel

/-- Before start-up reconciliation, every position answered or given up. -/
def starting : State :=
  { filing8 with
    reconciled := false
    library := { filing8.library with table := [cart1, cart2, cart3, cart4, cart5, ⟨6, some 8, .arm, some .a, blank, blank, false⟩,
      ⟨7, some 9, .loadingSlot, none, blank, blank, false⟩] } }
def locations (s : State) : List (Nat × Location) := s.library.table.map fun c => (c.number, c.location)
/-- Before start-up reconciliation, with cartridges in drive 3, on the arm and in the loading slot that no record has. -/
def unrecorded : State :=
  { filing8 with reconciled := false, drives := here.drives.set 3 { drive with state := .loading, presence := true } }
/-- A witness of StartUpReconciliation: a FILING entry, each location found or not, the orders home and the inspections. -/
theorem witness_startUpReconciliation :
    (∀ d : DriveId, (starting.drive d).identSince = none)
      ∧ (starting.library.table.map (·.number)).Nodup
      ∧ (after (.startUpReconciliation false false 0x4) starting).catalogue = [entry7, entry9]
      ∧ locations (after (.startUpReconciliation false false 0x4) starting) = [(1, .shelf), (2, .drive 1), (3, .missing), (4, .missing), (5, .exported), (6, .missing)]
      ∧ locations (after (.startUpReconciliation true true 0x10) starting) = [(1, .missing), (2, .drive 1), (3, .shelf), (4, .missing), (5, .exported), (6, .arm), (7, .loadingSlot)]
      ∧ starting.library.inspections = []
      ∧ starting.arm.orders = []
      ∧ starting.arm.level = .normal
      ∧ starting.filingEntry = some ⟨8, .filing, 2, [], 0, 0, none, 0, 40, 1⟩
      ∧ (after (.startUpReconciliation true true 0x10) starting).side? 2 .a = some ⟨.opened, some 2, 40, 8, 0⟩
      ∧ (after (.startUpReconciliation true true 0x10) starting).arm.orders.map (fun o => (o.kind, o.cart, o.dest, o.originator))
          = [(.demount, .number 2, .shelf 4, .startUp), (.returnMove, .number 6, .shelf 8, .startUp)]
      ∧ (∀ d : DriveId, (unrecorded.drive d).identSince = none)
      ∧ (after (.startUpReconciliation true true 0x10) unrecorded).library.inspections.map (fun i => (i.origin, i.place))
          = [(.startUp, .arm), (.startUp, .drive 3), (.loadingSlot, .loadingSlot)]
      ∧ (after (.startUpReconciliation true true 0x10) unrecorded).library.slot = .arrived
      ∧ ((after (.startUpReconciliation true true 0x10) starting).link 3).sending = some (.linkReset .powerOn)
      ∧ (after (.startUpReconciliation true true 0) starting).reconciled = true
      ∧ after (.startUpReconciliation true true 0) here = transmit here
      ∧ after (.startUpReconciliation true true 0) State.reset = transmit State.reset :=
  by decide +kernel

/-- The map records cartridge 3 in drive 2, the last position to be identified. -/
def askedCart : State := (starting.updCart 3 fun c => { c with location := .drive 2 }).updDrive 2 fun _ => Drive.atReset 990
/-- A witness of DriveIdentification, a drive found FAULTED: the recorded cartridge counts as present, and start-up
reconciliation leaves it there. -/
theorem witness_driveIdentification_faulted :
    (∃ c ∈ askedCart.library.table, c.location = .drive 2)
      ∧ (askedCart.drive 2).identSince = some 990
      ∧ ((after (.driveIdentifyAnswer 2 false true) askedCart).drive 2).presence = true
      ∧ ((after (.driveIdentifyAnswer 2 false true) asked).drive 2).presence = false
      ∧ ((after (.driveIdentifyAnswer 2 false false) askedCart).drive 2).presence = false
      ∧ ((after (.startUpReconciliation true true 0x10) (after (.driveIdentifyAnswer 2 false true) askedCart)).cart? 3).map
          (·.location) = some (.drive 2)
      ∧ ((after (.startUpReconciliation true true 0x10) (after (.driveIdentifyAnswer 2 false false) askedCart)).cart? 3).map
          (·.location) = some .missing :=
  by decide +kernel

/-- A witness of StartUpReconciliation: the probe of the OPEN side, and the low mark. -/
theorem witness_startUpReconciliation_blanks :
    starting.openSide = some (2, .a)
      ∧ (after (.startUpReconciliation true true 0x10) starting).openSide = some (2, .a)
      ∧ (after (.startUpReconciliation true true 0x10) starting).library.probeDue = true
      ∧ State.reset.openSide = none
      ∧ (after (.startUpReconciliation true true 0) starting).library.probeDue = true
      ∧ (after (.startUpReconciliation true true 0) starting).poolSize ≤ starting.library.lowMark
      ∧ ((after (.startUpReconciliation true true 0) starting).source 12).pending = true :=
  by decide +kernel

def allTaken : State := here.updLibrary fun l => { l with shelfSensors := BitVec.allOnes 96 }
def slotIs (x : SlotState) (s : State) : State := s.updLibrary fun l => { l with slot := x, slotSensor := true }
/-- A witness of LoadingSlotAndShelfSensors: an arrival with a free slot and without, and each departure. -/
theorem witness_loadingSlotAndShelfSensors :
    here.library.inspections = []
      ∧ here.lowestFree = some 1
      ∧ allTaken.lowestFree = none
      ∧ (after .loadingSlotCartridge here).library.inspections.map (fun i => (i.phase, i.reserved)) = [(.carrying, some 1)]
      ∧ (after .loadingSlotCartridge allTaken).library.inspections.map (fun i => (i.phase, i.reserved)) = [(.waitingSlot, none)]
      ∧ ((after .loadingSlotCartridge allTaken).source 8).pending = true
      ∧ (after .loadingSlotCartridge (slotIs .rejected here)).library.inspections = []
      ∧ (after .loadingSlotEmpty (slotIs .busy here)).library.slot = .busy
      ∧ (after .loadingSlotEmpty (slotIs .rejected here)).library.slot = .empty
      ∧ slotHeld.cart? 3 = some { cart3 with location := .loadingSlot }
      ∧ (slotHeld.library.table.map (·.number)).Nodup
      ∧ (after .loadingSlotEmpty slotHeld).cart? 3 = none
      ∧ (after .loadingSlotEmpty (slotIs .arrived here)).library.slot = .empty
      ∧ (after (.shelfSlotSensor 96 true) here).slotReads 96 = true
      ∧ (after (.shelfSlotSensor 3 false) here).slotReads 3 = false
      ∧ (after (.shelfSlotSensor 96 true) here).slotReads 95 = false
      ∧ (setShelf 96 true here).slotFree 96 = false
      ∧ (setShelf 1 false here).slotFree 1 = true :=
  by decide +kernel

/-- A MOUNT of cartridge 1, side A, from its shelf slot to drive 0, at a phase. -/
def mount1 : MoveOrder := ⟨7, .mount, .number 1, .shelf 3, .drive 0, some .a, .fetch, none, .volumeWait, .running⟩
def moving (o : MoveOrder) (p : MovePhase) (s : State) : State :=
  s.updArm fun a => { a with orders := [o], counter := 8, moving := some ⟨o, p, 990, .arbiter, true⟩ }
def onArm1 : State := { here with library := { here.library with
  table := [{ cart1 with location := .arm, sideUp := some .a }, cart2, cart3, cart4, cart5], shelfSensors := 0x10 } }
/-- A DEMOUNT of cartridge 2 from drive 1, and an export of cartridge 1. -/
def demount2 : MoveOrder := ⟨7, .demount, .number 2, .drive 1, .shelf 4, none, .fetch, none, .volumeWait, .running⟩
def export1 : MoveOrder := ⟨7, .exportMove, .number 1, .shelf 3, .loadingSlot, none, .lib, none, .exportJob, .running⟩
def ejected2 : State := { here with drives := here.drives.set 1 { here.drive 1 with state := .unloading, presence := false } }
def unknown7 : MoveOrder := { mount1 with cart := .number 70 }
/-- A witness of PickCompletion: from a slot, from a drive that has ejected, and a cartridge not in the table. -/
theorem witness_pickCompletion :
    after .pickCompletion here = transmit here
      ∧ after .pickCompletion (moving mount1 .travel here) = transmit (moving mount1 .travel here)
      ∧ (after .pickCompletion (moving mount1 .pick here)).cart? 1 = some { cart1 with location := .arm, sideUp := some .a }
      ∧ (after .pickCompletion (moving mount1 .pick here)).slotReads 3 = false
      ∧ (after .pickCompletion (moving demount2 .pick ejected2)).cart? 2 = some { cart2 with location := .arm }
      ∧ ((after .pickCompletion (moving demount2 .pick ejected2)).drive 1).state = .empty
      ∧ (ejected2.drive 1).command = none
      ∧ (after .pickCompletion (moving unknown7 .pick here)).arm.mismatch = some ⟨70, 7, .pick⟩
      ∧ (after .pickCompletion (moving mount1 .pick here)).arm.moving.map (·.phase) = some .travel :=
  by decide +kernel

/-- A witness of TravelCompletion: a free destination of each kind, and a taken one. -/
theorem witness_travelCompletion :
    after .travelCompletion here = transmit here
      ∧ (after .travelCompletion (moving mount1 .travel onArm1)).arm.moving.map (·.phase) = some .place
      ∧ (after .travelCompletion (moving { mount1 with dest := .drive 1 } .travel onArm1)).arm.primary.map (·.code) = some .driveRefused
      ∧ (after .travelCompletion (moving demount2 .travel here)).arm.moving.map (·.phase) = some .place
      ∧ (after .travelCompletion (moving { demount2 with dest := .shelf 3 } .travel here)).arm.primary.map (·.code) = some .placeBlocked
      ∧ (after .travelCompletion (moving export1 .travel onArm1)).library.slot = .busy
      ∧ (after .travelCompletion (moving export1 .travel (slotIs .empty onArm1))).arm.primary.map (·.code) = some .placeBlocked :=
  by decide +kernel

def flip1 : MoveOrder := ⟨7, .flip, .number 1, .drive 0, .drive 0, none, .fetch, none, .volumeWait, .running⟩
/-- The PLACE of a move run again, or of a RECOVER outside the list, at a level, with both records filled. -/
def again (c : MoveCause) (l : FaultLevel) : State :=
  let r : FaultRec := ⟨.placeBlocked, mount1, 900, .place, false, true⟩
  (onArm1).updArm fun a =>
    { a with level := l, primary := some r, secondary := some r, moving := some ⟨mount1, .place, 990, c, false⟩ }
/-- A witness of PlaceCompletion: in a drive, on the shelf, in the loading slot, after a FLIP, of a move run again, and at a
drive that is FAULTED. -/
theorem witness_placeCompletion :
    after .placeCompletion here = transmit here
      ∧ here.library.inspections = []
      ∧ (after .placeCompletion (moving mount1 .place onArm1)).cart? 1 = some { cart1 with location := .drive 0, sideUp := some .a }
      ∧ ((after .placeCompletion (moving mount1 .place onArm1)).drive 0).command = some ⟨.spinUp, .driveUnit, 1000⟩
      ∧ ((after .placeCompletion (moving flip1 .place onArm1)).drive 0).sideUp = some .b
      ∧ (after .placeCompletion (moving export1 .place onArm1)).library.slot = .held
      ∧ (after .placeCompletion (moving { export1 with dest := .shelf 3 } .place onArm1)).cart? 1 = some cart1
      ∧ (after .placeCompletion (moving mount1 .place onArm1)).arm.orders = []
      ∧ (after .placeCompletion (again .retryPrimary .attention)).arm.level = .normal
      ∧ (after .placeCompletion (again .retryPrimary .attention)).arm.primary = none
      ∧ (after .placeCompletion (again .retrySecondary .double)).arm.level = .attention
      ∧ (after .placeCompletion (again .retrySecondary .double)).arm.secondary = none
      ∧ (after .placeCompletion (again .recover .double)).arm.level = .double
      ∧ (after .placeCompletion (moving { mount1 with dest := .drive 2 } .place { onArm1 with drives := faulted2.drives })).arm.primary.map (·.code) = some .driveRefused
      ∧ ((after .placeCompletion (moving { mount1 with dest := .drive 2 } .place { onArm1 with drives := faulted2.drives })).drive 2).state = .faulted :=
  by decide +kernel

/-- A witness of MoveFaultsAndRefusal: each fault in its phase, from each level, and out of its phase. -/
theorem witness_moveFaultsAndRefusal :
    990 + 25 ≤ 1015
      ∧ (after .moveTimeout { (moving mount1 .pick here) with seconds := 1015 }).arm.primary = some ⟨.moveTimeout, mount1, 1015, .pick, false, true⟩
      ∧ after .moveTimeout (moving mount1 .pick here) = transmit (moving mount1 .pick here)
      ∧ (after .pickEmpty (moving mount1 .pick here)).arm.level = .attention
      ∧ ((after .pickEmpty (moving mount1 .pick here)).source 1).pending = true
      ∧ (after .driveRefused (moving demount2 .pick here)).arm.orders = [{ demount2 with status := .suspended }]
      ∧ (after .placeBlocked (atLevel .attention (moving mount1 .place onArm1))).arm.level = .double
      ∧ (after .gripLost (atLevel .double (moving mount1 .travel onArm1))).arm.level = .halted
      ∧ (after .gripLost (atLevel .double (moving mount1 .place onArm1))).arm.orders = []
      ∧ after .gripLost (moving mount1 .pick here) = transmit (moving mount1 .pick here)
      ∧ after .placeBlocked (moving mount1 .travel onArm1) = transmit (moving mount1 .travel onArm1)
      ∧ ((after .driveRefused (moving mount1 .place onArm1)).drive 0).fault = some .notReady
      ∧ (after .driveRefused (atLevel .attention (moving mount1 .place onArm1))).arm.secondary.map (·.code) = some .driveRefused
      ∧ (after .driveRefused (atLevel .double (moving mount1 .place onArm1))).arm.level = .halted
      ∧ (after .driveRefused (moving mount1 .place onArm1)).arm.primary.map (·.phase) = some .place :=
  by decide +kernel

/-- Drive 1 of `here` in a state with a command in flight since 990. -/
def flying (x : DriveState) (c : DriveCmd) (f : Drive → Drive) : State :=
  { here with drives := here.drives.set 1 (f { here.drive 1 with state := x, command := some ⟨c, .driveUnit, 990⟩ }) }
/-- A witness of DriveMotion: each completion in its state, and completions that nothing asked for. -/
theorem witness_driveMotion :
    after (.spinUpCompletion 1 .done) here = transmit here
      ∧ ((after (.spinUpCompletion 1 .done) (flying .loading .spinUp id)).drive 1).state = .ready
      ∧ ((after (.spinUpCompletion 1 .done) (flying .loading .spinUp id)).drive 1).lastActive = 1000
      ∧ ((after (.spinUpCompletion 1 .done) (flying .loading .spinUp fun x => { x with vacate := true })).drive 1).state = .empty
      ∧ ((after (.spinUpCompletion 1 .done) (flying .waking .spinUp fun x => { x with unloadKept := true })).drive 1).command = some ⟨.spinDown, .driveUnit, 1000⟩
      ∧ ((after (.spinUpCompletion 1 .notReady) (flying .loading .spinUp id)).drive 1).fault = some .notReady
      ∧ after (.spinDownCompletion 1) here = transmit here
      ∧ ((after (.spinDownCompletion 1) (flying .unloading .spinDown id)).drive 1).command = some ⟨.eject, .driveUnit, 1000⟩
      ∧ ((after (.spinDownCompletion 1) (flying .waking .spinDown id)).drive 1).command = some ⟨.spinUp, .driveUnit, 1000⟩
      ∧ ((after (.spinDownCompletion 1) (flying .standby .spinDown id)).drive 1).command = none
      ∧ ((after (.spinDownCompletion 1) (flying .waking .spinDown fun x => { x with vacate := true })).drive 1).state = .empty
      ∧ ((after (.ejectCompletion 1 .done) (flying .loading .eject fun x => { x with vacate := true })).drive 1).state = .empty
      ∧ ((after (.spinUpCompletion 1 .notReady) (flying .loading .spinUp fun x => { x with vacate := true })).drive 1).state = .empty
      ∧ (after (.spinUpCompletion 1 .notReady) (flying .loading .spinUp fun x => { x with vacate := true })).planner.passesDue = 0
      ∧ ((after (.ejectCompletion 1 .failed) (flying .loading .eject fun x => { x with vacate := true })).drive 1).fault = none
      ∧ after (.ejectCompletion 1 .done) here = transmit here
      ∧ ((after (.ejectCompletion 1 .done) (flying .unloading .eject id)).drive 1).presence = false
      ∧ ((after (.ejectCompletion 1 .failed) (flying .unloading .eject id)).drive 1).fault = some .ejectFailed
      ∧ (after (.ejectCompletion 1 .failed) (moving demount2 .pick (flying .unloading .eject id))).arm.primary.map (·.code) = some .driveRefused :=
  by decide +kernel

def queued1 : State := { waiting with
  planner := { waiting.planner with waiters := [] }
  fetch := { waiting.fetch with orders := [{ order5 with place := .drive 1 }] }
  drives := waiting.drives.set 1 { waiting.drive 1 with queue := [⟨1, 5⟩] } }
/-- A witness of DriveFaults: a timeout at 30 seconds and not before, a fault with a fetch queued, a reset, and the filing drive. -/
theorem witness_driveFaults :
    after (.commandTimeout 1) (flying .loading .spinUp id) = transmit (flying .loading .spinUp id)
      ∧ ((after (.commandTimeout 1) { (flying .loading .spinUp id) with seconds := 1020 }).drive 1).fault = some .timeout
      ∧ ((after (.driveHardwareFault 1) (flying .waking .spinUp fun x => { x with vacate := true })).drive 1).state = .empty
      ∧ ((after (.driveHardwareFault 2) here).drive 2).state = .faulted
      ∧ ((after (.driveHardwareFault 2) here).source 6).pending = true
      ∧ after (.driveHardwareFault 2) faulted2 = transmit (settle faulted2)
      ∧ (missing3.drive 3).fitted = false
      ∧ after (.driveHardwareFault 3) missing3 = transmit missing3
      ∧ out (after (.driveHardwareFault 1) queued1) = [(0x90, .driveFault)]
      ∧ ((after (.driveHardwareFault 1) queued1).drive 1).queue = []
      ∧ out (after (.driveHardwareFault 2) resetting2) = [(0x41, .resetFailed)]
      ∧ (after (.driveHardwareFault 1) running).run.failure = some .filingDriveFault
      ∧ ((after (.driveHardwareFault 1) running).drive 1).pin = false :=
  by decide +kernel

/-- Drive 1 reads for `order5`, of instrument 7 with pages of 1 and 2 sectors. -/
def reading (o : FetchOrder) (u : UnitWork) (n : Nat) : State :=
  { queued1 with
    fetch := { queued1.fetch with orders := [o], buffers := queued1.fetch.buffers.set 0 (some []) }
    drives := queued1.drives.set 1 { queued1.drive 1 with
      state := .active, queue := [], unit := some ⟨u, false⟩, command := some ⟨.read 35 n, .fetchEngine, 990⟩ } }
def trailerOf7 : List Byte := trailerSector 7 2 3 5 [1, 2]
def atDrive : FetchOrder := { order5 with place := .drive 1 }
def onTrailer (tries : Nat) : State := reading atDrive (.trailerRead ⟨1, 5⟩ 35 tries) 1
def onPage1 : State :=
  reading { atDrive with lengths := some [1, 2], next := 1, delivered := 0, reading := some 0 }
    (.pageRead ⟨1, 5⟩ 0 [⟨0, 32, none, 0⟩] 0 1) 1
def inspected : State := { here with
  library := { here.library with
    inspections := [⟨0, .loadingSlot, .drive 1, .reading, some 1, none, none, none, false, false⟩], inspectionSeq := 1
    table := [cart1, cart3, cart4, cart5] }
  drives := here.drives.set 1 { here.drive 1 with
    state := .active, cart := some (.inspection 0), unit := some ⟨.labelRead 0 0, false⟩
    command := some ⟨.read 0 1, .libraryMap, 990⟩ } }
/-- A page of three sectors in two extents, of which `n` answers from sector `i` on come. -/
def onPage3 (ps : List PageSector) (i n : Nat) : State :=
  reading { atDrive with lengths := some [3], next := 1, reading := some 0 } (.pageRead ⟨1, 5⟩ 0 ps i n) n
def apart : List PageSector := [⟨0, 35, none, 0⟩, ⟨1, 60, none, 0⟩, ⟨1, 61, none, 0⟩]
def triedOnce : List PageSector := [⟨0, 35, some (ones 1024), 1⟩, ⟨1, 60, none, 1⟩, ⟨1, 61, none, 0⟩]
def triedTwice : List PageSector := [⟨0, 35, some (ones 1024), 1⟩, ⟨1, 60, none, 2⟩, ⟨1, 61, some (ones 1024), 1⟩]
def command1 (s : State) : Option DriveCmd := (s.drive 1).command.map (·.cmd)
/-- A witness of ReadCompletion, a page's sectors: the next extent's run, a sector again, and one that fails a third time. -/
theorem witness_readCompletion_again :
    command1 (after (.readCompletion 1 [.data (ones 1024)]) (onPage3 apart 0 1)) = some (.read 60 2)
      ∧ command1 (after (.readCompletion 1 [.data (ones 1024)]) (onPage3 triedOnce 2 1)) = some (.read 60 1)
      ∧ ((after (.readCompletion 1 [.unreadable]) (onPage3 triedTwice 1 1)).order? ⟨1, 5⟩).map (·.unreadable) = some 1 :=
  by decide +kernel

/-- `inspected`, after two failed reads, as a start-up inspection, or with the numbers at their end. -/
def inspectedTwice : State := { inspected with drives := inspected.drives.set 1 { inspected.drive 1 with
  unit := some ⟨.labelRead 0 2, false⟩ } }
def startUpRead : State := { inspected with
  library := { inspected.library with
    inspections := [⟨0, .startUp, .drive 1, .reading, some 1, none, none, none, false, false⟩] }
  drives := inspected.drives.set 1 { inspected.drive 1 with sideUp := none } }
def tableFull : State := inspected.updLibrary fun l => { l with table := List.replicate 512 cart1 }
def rejectOf (s : State) : Option (RejectReason × Option Nat) := s.library.lastReject
def readOf (bytes : List Byte) (s : State) : State := after (.readCompletion 1 [.data bytes]) s
/-- A witness of ReadCompletion, labels: each result, EXPORTED and MISSING accepted, and the side up at start-up. -/
theorem witness_readCompletion_labels :
    rejectOf (after (.readCompletion 1 [.unwritten]) tableFull) = some (.tableFull, none)
      ∧ rejectOf (after (.readCompletion 1 [.unwritten]) (inspected.updLibrary fun l => { l with nextCart := 65536 }))
        = some (.numbersExhausted, none)
      ∧ rejectOf (after (.readCompletion 1 [.unreadable]) inspectedTwice) = some (.unreadableLabel, none)
      ∧ ((after (.readCompletion 1 [.unreadable]) inspected).drive 1).unit = some ⟨.labelRead 0 1, false⟩
      ∧ rejectOf (readOf (ones 1024) inspected) = some (.foreign, none)
      ∧ rejectOf (readOf (cartridgeLabel 0 .a) inspected) = some (.foreign, none)
      ∧ rejectOf (readOf (cartridgeLabel 9 .a) inspected) = some (.foreign, some 9)
      ∧ rejectOf (readOf (cartridgeLabel 1 .b) startUpRead) = some (.present, some 1)
      ∧ ((readOf (cartridgeLabel 1 .b) startUpRead).drive 1).sideUp = some .b
      ∧ ((readOf (cartridgeLabel 5 .b) inspected).cart? 5).map (fun c => (c.location, c.sideUp, c.home))
        = some (.drive 1, some .b, some 1)
      ∧ ((readOf (cartridgeLabel 4 .a) inspected).cart? 4).map (fun c => (c.location, c.sideUp, c.home))
        = some (.drive 1, some .a, some 6) :=
  by decide +kernel

/-- Page 2, the last one of `order5`, is being read, page 1 in delivery or not. -/
def lastPage (p : Option Delivering) : State :=
  reading { atDrive with lengths := some [1, 1], delivery := p, reading := some 0 }
    (.pageRead ⟨1, 5⟩ 0 [⟨0, 33, none, 0⟩] 0 1) 1
/-- A witness of ReadCompletion: a trailer read, unreadable and wrong; a page; an unwritten sector; an unwritten label. -/
theorem witness_readCompletion :
    trailerLengths trailerOf7 7 2 3 5 = some [1, 2]
      ∧ (after (.readCompletion 1 [.data trailerOf7]) (onTrailer 0)).fetch.orders.map (·.lengths) = [some [1, 2]]
      ∧ ((after (.readCompletion 1 [.unreadable]) (onTrailer 1)).drive 1).unit = some ⟨.trailerRead ⟨1, 5⟩ 35 2, false⟩
      ∧ out (after (.readCompletion 1 [.unreadable]) (onTrailer 2)) = [(0x90, .unreadableIndex)]
      ∧ out (after (.readCompletion 1 [.unwritten]) (onTrailer 0)) = [(0x90, .unreadableIndex)]
      ∧ trailerLengths (trailerSector 7 2 3 6 [1, 2]) 7 2 3 5 = none
      ∧ out (after (.readCompletion 1 [.data (trailerSector 7 2 3 6 [1, 2])]) (onTrailer 0)) = [(0x90, .unreadableIndex)]
      ∧ after (.readCompletion 1 []) (onTrailer 0) = transmit (onTrailer 0)
      ∧ (after (.readCompletion 1 [.data (ones 1024)]) onPage1).fetch.orders.map (fun o => (o.next, o.staged)) = [(2, some (1, 0))]
      ∧ (after (.readCompletion 1 [.data (ones 1024)]) onPage1).bufferBytes 0 = ones 1024
      ∧ (after (.readCompletion 1 [.unwritten]) onPage1).fetch.orders.map (fun o => (o.next, o.unreadable)) = [(2, 1)]
      ∧ (lastPage none).order? ⟨1, 5⟩ ≠ none
      ∧ out (after (.readCompletion 1 [.unwritten]) (lastPage none)) = [(0x90, .donePartial)]
      ∧ ((after (.readCompletion 1 [.unwritten]) (lastPage (some ⟨1, 1, 0⟩))).order? ⟨1, 5⟩).map (fun o => (o.next, o.unreadable))
        = some (3, 1)
      ∧ (after (.readCompletion 1 [.unwritten]) inspected).library.nextCart = 7
      ∧ ((after (.readCompletion 1 [.unwritten]) inspected).drive 1).command.map (·.started) = some 1000 :=
  by decide +kernel

/-- The unit of a READ whose order has ended meanwhile. -/
def endedUnit (s : State) : State := s.updDrive 1 fun x => { x with unit := x.unit.map fun u => { u with ended := true } }
/-- A witness of ReadCompletion: the READ of a unit that has ended, of a trailer and of a page, whose buffer is freed. -/
theorem witness_readCompletion_ended :
    ((after (.readCompletion 1 [.data trailerOf7]) (endedUnit (onTrailer 0))).drive 1).unit = none
      ∧ (after (.readCompletion 1 [.data trailerOf7]) (endedUnit (onTrailer 0))).fetch.orders.map (·.lengths) = [none]
      ∧ onPage1.fetch.buffers.toList[0]? = some (some [])
      ∧ (after (.readCompletion 1 [.data (ones 1024)]) (endedUnit onPage1)).fetch.buffers.toList[0]? = some none
      ∧ ((after (.readCompletion 1 [.data (ones 1024)]) (endedUnit onPage1)).drive 1).state = .ready
      ∧ (after (.readCompletion 1 [.data (ones 1024)]) (endedUnit onPage1)).fetch.orders.map (fun o => (o.next, o.staged)) = [(1, none)] :=
  by decide +kernel

/-- The run of `running` with a page of 2 sectors at the head of the ring, and a unit on drive 1. -/
def page2 : RingSlot := ⟨2048, 2, ones 2048, true, 4, true⟩
def instrument8 : Instrument := ⟨8, 0, 0, [], 0, 0, 0, 0, 0, 40, false⟩
def filing (i : Instrument) (u : UnitWork) (c : DriveCmd) : State :=
  { running with
    run := { running.run with state := .running, current := some i, ring := [page2] }
    drives := running.drives.set 1 { running.drive 1 with
      state := .active, unit := some ⟨u, false⟩, command := some ⟨c, .filingWriter, 990⟩ } }
def writing (left : List (List Byte)) : State := filing instrument8 (.writePass .page 2 .a left) (.write 40 (ones 1024))
def verifying : State :=
  filing { instrument8 with attemptSectors := 2, verifyDue := true } (.verifyPass .page) (.verify 40 2 (ones 2048))
def closing8 : State :=
  { extended8 with
    library := (verifying.updCart 2 fun c => { c with sideA := { c.sideA with frontier := 44 } }).library
    links := here.links.set 1 { link with outstanding := [⟨6, .closeInstrument, .filingWriter⟩] }
    run := { running.run with
      state := .closing, closeTag := some 6, current := some ⟨8, 1, 3, [3], 1, 0, 1, 0, 0, 43, true⟩ }
    drives := running.drives.set 1 { running.drive 1 with
      state := .active, unit := some ⟨.verifyPass .trailer, false⟩, command := some ⟨.verify 43 1 [], .filingWriter, 990⟩ } }
/-- The frontier probe of a GIVEN run, whose entry is not there yet. -/
def probing : State := { filing instrument8 (.probe 2 .a) (.blankCheck 40) with
  catalogue := here.catalogue
  library := { here.library with probeDue := true }
  run := { running.run with state := .opening, current := none, probing := some 126 } }
def runOf (s : State) : Option Status × RunState × Nat := (s.run.failure, s.run.state, s.run.counts.aborted)
/-- No side is blank. -/
def noBlanks (s : State) : State := s.updLibrary fun l => { l with
  table := [{ cart1 with sideB := cart1.sideA }, { cart2 with sideB := cart1.sideA }] }
/-- The unit in progress on drive 1 belongs to an instrument that has ended. -/
def late (s : State) : State := s.updDrive 1 fun x => { x with unit := x.unit.map fun u => { u with ended := true } }
/-- A witness of FilingCompletions: a pass that goes on and ends, ALREADY_WRITTEN, a page and a trailer verified, the probe. -/
theorem witness_filingCompletions :
    (writing []).side? 2 .a = some ⟨.opened, some 2, 40, 0, 0⟩
      ∧ ((after (.writeCompletion 1 .done) (writing [ones 1024])).drive 1).command = some ⟨.write 41 (ones 1024), .filingWriter, 1000⟩
      ∧ (after (.writeCompletion 1 .done) (writing [])).side? 2 .a = some ⟨.opened, some 2, 41, 0, 0⟩
      ∧ (after (.writeCompletion 1 .done) (writing [])).run.current.map (fun i => (i.attemptSectors, i.verifyDue)) = some (1, true)
      ∧ (after (.writeCompletion 1 .alreadyWritten) (writing [])).side? 2 .a = some ⟨.opened, some 2, 41, 1, 0⟩
      ∧ (after (.writeCompletion 1 .alreadyWritten) (writing [])).run.current.map (fun i => (i.attempts, i.rewrites, i.dead)) = some (1, 1, 1)
      ∧ verifying.entry? 8 = some ⟨8, .filing, 2, [], 0, 0, none, 0, 40, 1⟩
      ∧ verifying.run.headPage = some page2
      ∧ (after (.verifyCompletion 1 [.pass, .pass]) verifying).entry? 8 = some ⟨8, .filing, 2, [⟨40, 2⟩], 1, 2, none, 0, 40, 1⟩
      ∧ (after (.verifyCompletion 1 [.pass, .pass]) verifying).run.ring = []
      ∧ ((after (.verifyCompletion 1 [.pass, .pass]) verifying).source 14).pending = true
      ∧ (after (.verifyCompletion 1 [.pass]) closing8).entry? 8 = some ⟨8, .committed, 2, [⟨40, 4⟩], 1, 3, some 3, 0, 40, 1⟩
      ∧ out (after (.verifyCompletion 1 [.pass]) closing8) = [(0x22, .done)]
      ∧ (after (.verifyCompletion 1 [.pass]) closing8).run.counts.committed = 1
      ∧ after (.writeCompletion 1 .done) running = transmit running
      ∧ probing.openSide = some (2, .a)
      ∧ probing.run.current = none
      ∧ (after (.blankCheckCompletion 1 .written) probing).side? 2 .a = some ⟨.opened, some 2, 41, 1, 0⟩
      ∧ (after (.blankCheckCompletion 1 .written) probing).run.probing = some 127 :=
  by decide +kernel

/-- A witness of FilingCompletions, the end of the probe and ended units: the entry of a GIVEN run created, no blank for a
rollover, and what a unit of an instrument that has gone does. -/
theorem witness_filingCompletions_probe :
    (after (.blankCheckCompletion 1 .blank) probing).entry? 8 = some ⟨8, .filing, 2, [], 0, 0, none, 0, 40, 1⟩
      ∧ (after (.blankCheckCompletion 1 .blank) probing).run.current.map (·.number) = some 8
      ∧ (after (.blankCheckCompletion 1 .blank) probing).run.state = .waitingPage
      ∧ (after (.blankCheckCompletion 1 .blank) probing).library.probeDue = false
      ∧ (blankChoice (nearlyFull (noBlanks probing)) (some 2)).isNone
      ∧ runOf (after (.blankCheckCompletion 1 .blank) (nearlyFull (noBlanks probing))) = (some .noBlank, .closing, 0)
      ∧ (after (.writeCompletion 1 .done) (late (writing [ones 1024]))).side? 2 .a = some ⟨.opened, some 2, 41, 1, 0⟩
      ∧ (after (.verifyCompletion 1 [.fail, .fail]) (late verifying)).side? 2 .a = some ⟨.opened, some 2, 40, 0, 0⟩
      ∧ (after (.blankCheckCompletion 1 .written) (late probing)).side? 2 .a = some ⟨.opened, some 2, 40, 0, 0⟩ :=
  by decide +kernel

/-- A third attempt, or a second extent list of four, and the last sector of the side. -/
def third (s : State) : State := s.updRun fun r => { r with current := r.current.map fun i => { i with attempts := 2 } }
def fourExtents (s : State) : State := { s with catalogue :=
  [entry7, ⟨8, .filing, 2, [⟨32, 1⟩, ⟨34, 1⟩, ⟨36, 1⟩, ⟨38, 1⟩], 1, 4, none, 0, 40, 1⟩, entry9] }
def lastSector (s : State) : State := s.updCart 2 fun c => { c with sideA := { c.sideA with frontier := 299999 } }
/-- A witness of FilingCompletions, the failures: a FAIL, the third, four extents, the side's end, and the probe's end. -/
theorem witness_filingCompletions_failures :
    (after (.verifyCompletion 1 [.pass, .fail]) verifying).side? 2 .a = some ⟨.opened, some 2, 40, 2, 0⟩
      ∧ runOf (after (.verifyCompletion 1 [.pass, .fail]) (third verifying)) = (some .verifyFailed, .closing, 1)
      ∧ runOf (after (.writeCompletion 1 .alreadyWritten) (fourExtents (writing []))) = (some .extentLimit, .closing, 1)
      ∧ runOf (after (.writeCompletion 1 .done) (lastSector (writing [ones 1024]))) = (some .writeRefused, .closing, 1)
      ∧ (lastSector (writing [ones 1024])).entry? 8 = some ⟨8, .filing, 2, [], 0, 0, none, 0, 40, 1⟩
      ∧ extendEntry (fourExtents verifying) 8 40 2 = .error .extentLimit
      ∧ runOf (after (.verifyCompletion 1 [.pass, .pass]) (fourExtents verifying)) = (some .extentLimit, .closing, 1)
      ∧ (after (.blankCheckCompletion 1 .written) (probing.updRun fun r => { r with probing := some 127 })).side? 2 .a
        = some ⟨.full, some 2, 41, 1, 0⟩
      ∧ ((after (.blankCheckCompletion 1 .blank) (probing.updRun fun r => { r with source := .separator })).run.state) = .waitingPage
      ∧ (after (.blankCheckCompletion 1 .blank) (nearlyFull probing)).run.chosen = some (2, .b) :=
  by decide +kernel

/-- Side B of cartridge 2, up in drive 1, is being labelled; no side is OPEN. -/
def labelling (u : UnitWork) (c : DriveCmd) : State :=
  { here with
    library := { here.library with table := [cart1, { cart2 with
      sideUp := some .b, sideA := ⟨.full, some 2, 296000, 0, 1⟩ }, cart3, cart4, cart5] }
    run := { Run.atReset with
      state := .opening, owner := 1, source := .separator, chosen := some (2, .b), label := some ⟨1, 4, true, false⟩ }
    drives := here.drives.set 1 { here.drive 1 with
      state := .active, sideUp := some .b, unit := some ⟨u, false⟩, command := some ⟨c, .filingWriter, 990⟩ } }
def labelWritten : State := labelling (.volumeLabelWrite 2 .b 4) (.write 1 (volumeLabel 4 2 .b))
def labelVerifying : State := labelling (.volumeLabelVerify 2 .b 4) (.verify 1 1 (volumeLabel 4 2 .b))
/-- `labelWritten` with the job of its label issued or not, and a unit or none. -/
def labelJob (issued : Bool) (u : Option DriveUnit) : State :=
  (labelWritten.updRun fun r => { r with label := some ⟨1, 4, issued, false⟩ }).updDrive 1 fun x =>
    { x with unit := u, command := if u.isNone then none else x.command }
/-- A witness of CloseAndAbortInstrument, a volume label under way: not issued, in flight, and with no unit in progress. -/
theorem witness_abortInstrument_label :
    State.admits labelWritten 1 .abortInstrument 9
      ∧ (after (.abortInstrument 1 9 []) (labelJob false none)).library = labelWritten.library
      ∧ (after (.abortInstrument 1 9 []) labelWritten).library = labelWritten.library
      ∧ ((after (.abortInstrument 1 9 []) labelWritten).drive 1).unit = some ⟨.volumeLabelWrite 2 .b 4, true⟩
      ∧ (after (.abortInstrument 1 9 []) (labelJob true none)).side? 2 .b = some ⟨.full, some 4, 32, 0, 0⟩
      ∧ (after (.abortInstrument 1 9 []) (labelJob true none)).library.nextVol = 5 :=
  ⟨admits_of_free (by decide +kernel) _, by decide +kernel⟩

/-- A new cartridge, number 6, in drive 1, its label on side A or side B under way. -/
def newCart (p : InspPhase) (u : UnitWork) (c : DriveCmd) : State :=
  { inspected with
    library := { inspected.library with
      inspections := [⟨0, .loadingSlot, .drive 1, p, some 1, some .blank, some 6, none, false, false⟩], nextCart := 7 }
    drives := inspected.drives.set 1 { inspected.drive 1 with unit := some ⟨u, false⟩, command := some ⟨c, .libraryMap, 990⟩ } }
def newVerified (p : InspPhase) : State := newCart p (.labelVerify 0) (.verify 0 1 (cartridgeLabel 6 .a))
/-- A witness of LabelCompletions: a volume label and a cartridge label, written, verified and failed. -/
theorem witness_labelCompletions :
    ((after (.writeCompletion 1 .done) labelWritten).library.nextVol, (after (.writeCompletion 1 .done) labelWritten).run.label.map (·.written))
        = (4, some true)
      ∧ (after (.writeCompletion 1 .alreadyWritten) labelWritten).side? 2 .b = some ⟨.full, some 4, 32, 0, 0⟩
      ∧ (after (.writeCompletion 1 .alreadyWritten) labelWritten).run.chosen = some (1, .b)
      ∧ (after (.verifyCompletion 1 [.fail]) labelVerifying).library.nextVol = 5
      ∧ labelVerifying.openSide = none
      ∧ (∀ e, e ≠ 1 → (labelVerifying.drive e).pin = false)
      ∧ (after (.verifyCompletion 1 [.pass]) labelVerifying).side? 2 .b = some ⟨.opened, some 4, 32, 0, 0⟩
      ∧ ((after (.verifyCompletion 1 [.pass]) labelVerifying).run.state, ((after (.verifyCompletion 1 [.pass]) labelVerifying).drive 1).pin)
        = (.waitingPage, true)
      ∧ command1 (after (.writeCompletion 1 .done) (newCart .labelFirst (.labelWrite 0 [0x6B]) (.write 0 [0x6B])))
        = some (.verify 0 1 [0x6B])
      ∧ rejectOf (after (.writeCompletion 1 .alreadyWritten) (newCart .labelFirst (.labelWrite 0 [0x6B]) (.write 0 [0x6B])))
        = some (.labelWriteFailed, none)
      ∧ rejectOf (after (.verifyCompletion 1 [.fail]) (newVerified .labelSecond)) = some (.labelWriteFailed, none)
      ∧ (after (.verifyCompletion 1 [.pass]) (newVerified .labelFirst)).library.inspections.map (·.phase) = [.flipping]
      ∧ (after (.writeCompletion 1 .done) (late labelWritten)).side? 2 .b = some ⟨.full, some 4, 32, 0, 0⟩
      ∧ (after (.verifyCompletion 1 [.pass]) (late labelVerifying)).library.nextVol = 5
      ∧ (newVerified .labelSecond).cart? 6 = none
      ∧ (after (.verifyCompletion 1 [.pass]) (newVerified .labelSecond)).cart? 6 = some ⟨6, some 1, .drive 1, some .b, blank, blank, false⟩ :=
  by decide +kernel

/-- Drive 1 reports a fault. -/
def hit (s : State) : State := after (.driveHardwareFault 1) s
/-- A witness of DriveFaults, filing units: a WRITE and a VERIFY taken as failed, the third attempt, four extents, a timeout,
the probe, and a volume label. -/
theorem witness_driveFaults_filing :
    (hit (writing [ones 1024])).side? 2 .a = some ⟨.opened, some 2, 41, 1, 0⟩
      ∧ runOf (hit (writing [ones 1024])) = (some .filingDriveFault, .closing, 1)
      ∧ (hit (writing [ones 1024])).catalogue = here.catalogue
      ∧ runOf (hit (third (writing [ones 1024]))) = (some .verifyFailed, .closing, 1)
      ∧ runOf (hit (fourExtents (writing [ones 1024]))) = (some .extentLimit, .closing, 1)
      ∧ (hit verifying).side? 2 .a = some ⟨.opened, some 2, 40, 2, 0⟩
      ∧ runOf (after (.commandTimeout 1) { verifying with seconds := 1020 }) = (some .filingDriveFault, .closing, 1)
      ∧ (hit probing).side? 2 .a = some ⟨.opened, some 2, 41, 1, 0⟩
      ∧ (runOf (hit probing), (hit probing).library.probeDue) = ((some .filingDriveFault, .closing, 0), true)
      ∧ ((hit (probing.updRun fun r => { r with probing := some 127 })).side? 2 .a).map (·.state) = some .full
      ∧ (hit labelWritten).side? 2 .b = some ⟨.full, some 4, 32, 0, 0⟩
      ∧ (runOf (hit labelVerifying), (hit labelVerifying).library.nextVol) = ((some .filingDriveFault, .closing, 0), 5) :=
  by decide +kernel
/-- A witness of DriveFaults, a fetch's units and an inspection: the trailer, a page, the last page, and each phase. -/
theorem witness_driveFaults_units :
    out (hit (onTrailer 0)) = [(0x90, .unreadableIndex)]
      ∧ out (hit onPage1) = [(0x90, .driveFault)]
      ∧ (hit onPage1).fee.journal.map (·.unreadable) = [1]
      ∧ (hit onPage1).fetch.buffers[0] = none
      ∧ out (after (.commandTimeout 1) { lastPage none with seconds := 1020 }) = [(0x90, .donePartial)]
      ∧ rejectOf (hit (newVerified .labelFirst)) = some (.labelWriteFailed, none)
      ∧ (hit (newVerified .labelSecond)).library.inspections.map (fun i => (i.phase, i.awaitReady)) = [(.rejecting, true)]
      ∧ (hit inspected).library.inspections = inspected.library.inspections :=
  by decide +kernel

def idling (t : Nat) : State := { here with drives := here.drives.set 1 { here.drive 1 with idle := some t } }
def standing (t : Nat) : State := { here with
  timers := ⟨120, 500, 120, 600⟩, drives := here.drives.set 1 { here.drive 1 with state := .standby, hold := some t } }
def pinned (t : Nat) : State := { standing t with drives := here.drives.set 1 { (standing t).drive 1 with pin := true } }
def sixteenOrders (t : Nat) : State := (standing t).updArm fun a => { a with orders := List.replicate 16 { export1 with status := .waiting, after := some 7 } }
def stalledSince (t : Nat) : State := { waiting with fetch := { waiting.fetch with orders := [{ order5 with stall := some t }] } }
def filingStalled (t : Nat) : State := running.updRun fun r => { r with stall := some t }

/-! ### The blocks' own acts -/

def demountW : MoveOrder := { demount2 with status := .waiting }
def mountW : MoveOrder := { mount1 with status := .waiting }
def ordered (os : List MoveOrder) (s : State) : State := s.updArm fun a => { a with orders := os, counter := 20 }
/-- A HOLD order for cartridge 3, then two MOUNTs of the FETCH group. -/
def threeOrders : State := ordered
  [{ mountW with number := 6, cart := .number 3, source := .shelf 5, dest := .drive 2, group := .hold }, mountW,
    { mountW with number := 8, dest := .drive 3 }] here
def slotWaits : State := { slotIs .arrived here with library := { (slotIs .arrived here).library with
  inspections := [⟨0, .loadingSlot, .loadingSlot, .carrying, some 1, none, none, some 7, false, false⟩], inspectionSeq := 1 } }
def load0 : MoveOrder := ⟨7, .inspectLoad, .inspection 0, .loadingSlot, .drive 0, some .a, .lib, none, .importJob, .waiting⟩
def takenBy (s : State) : Option (Nat × MovePhase) := (arbiterAct s).bind fun t => t.arm.moving.map fun m => (m.order.number, m.phase)
def faultBy (s : State) : Option MoveFault := (arbiterAct s).bind fun t => t.arm.primary.map (·.code)
/-- A witness of ArbiterTakesOrder: the highest group and its first, the grip, each source, and the two faults. -/
theorem witness_arbiterTakesOrder :
    threeOrders.arm.orders.map (ready threeOrders) = [true, true, true]
      ∧ takenBy threeOrders = some (7, .pick)
      ∧ (arbiterAct (atLevel .attention threeOrders)).isNone
      ∧ ready (ordered [{ mountW with after := some 6 }, { export1 with number := 6 }] here) { mountW with after := some 6 } = false
      ∧ faultBy (setShelf 3 false threeOrders) = some .pickEmpty
      ∧ (arbiterAct (ordered [load0] slotWaits)).map (·.library.slot) = some .busy
      ∧ faultBy (ordered [load0] (slotWaits.updLibrary fun l => { l with slotSensor := false })) = some .pickEmpty
      ∧ takenBy (ordered [{ suspended1 with status := .waiting }] { onArm1 with arm := { onArm1.arm with gripSensor := true } })
        = some (7, .travel)
      ∧ ((arbiterAct (ordered [demountW] here)).map fun t => command1 t) = some (some .spinDown)
      ∧ ((arbiterAct (ordered [demountW] (standing 900))).map fun t => command1 t) = some (some .eject)
      ∧ faultBy (ordered [demountW] running) = some .driveRefused :=
  by decide +kernel

def waiter1 : Waiter := ⟨⟨1, 5⟩, 1, 1, .a, none, true⟩
def waiter2 (x : Side) : Waiter := ⟨⟨1, 5⟩, 2, 2, x, none, false⟩
/-- `waiting` with one waiter for cartridge 2. -/
def waiting2 (x : Side) : State := { waiting with planner := { waiting.planner with waiters := [waiter2 x] } }
def ridesOn (s : State) : List (Option DriveId) := s.planner.waiters.map (·.plan)
def kindsOf (s : State) : List (MoveKind × ArmPlace × ArmPlace) := s.arm.orders.map fun o => (o.kind, o.source, o.dest)
/-- Only drive 1 is fitted, READY with cartridge 2. -/
def oneDrive (s : State) : State := { s with drives :=
  #v[{ drive with fitted := false }, s.drive 1, { drive with fitted := false }, { drive with fitted := false }] }
/-- A witness of PlanningOfWaiters: off line, a plan to ride on, on the arm, attached, a FLIP, an empty drive, a victim. -/
theorem witness_planningOfWaiters :
    planWaiters here = here
      ∧ (waiting.planner.waiters.map (·.id)).Nodup
      ∧ ((planWaiter { waiter1 with offLine := false, cart := 4 } waiting).source 20).pending = true
      ∧ ridesOn (planWaiter waiter1 { waiting with planner := { waiting.planner with
          plans := [⟨3, .fetch, .mount, .number 1, .a, some 1, none, some 7, false⟩] } }) = [some 3]
      ∧ ridesOn (planWaiter waiter1 { waiting with library := onArm1.library }) = [none]
      ∧ ((planWaiter (waiter2 .a) (waiting2 .a)).drive 1).queue = [⟨1, 5⟩]
      ∧ (planWaiter (waiter2 .a) (waiting2 .a)).planner.waiters = []
      ∧ (planWaiter (waiter2 .a) (ordered [demountW] (waiting2 .a))).arm.orders = []
      ∧ kindsOf (planWaiter (waiter2 .b) (waiting2 .b)) = [(.flip, .drive 1, .drive 1)]
      ∧ ridesOn (planWaiter (waiter2 .b) (waiting2 .b)) = [some 1]
      ∧ kindsOf (planWaiter (waiter2 .b) { waiting2 .b with run := running.run, drives := running.drives }) = []
      ∧ kindsOf (planWaiter waiter1 waiting) = [(.mount, .shelf 3, .drive 0)]
      ∧ ridesOn (planWaiter waiter1 waiting) = [some 0]
      ∧ kindsOf (planWaiter waiter1 (oneDrive waiting)) = [(.demount, .drive 1, .shelf 4), (.mount, .shelf 3, .drive 1)]
      ∧ kindsOf (planWaiter waiter1 (atLevel .halted waiting)) = []
      ∧ (planPass { here with planner := { here.planner with passesDue := 1 } }).planner.passesDue = 0 :=
  by decide +kernel

/-- A separator run waits for a side; the Mount Planner holds its request. -/
def wanting (n : Nat) (x : Side) (s : State) : State :=
  { s with
    run := { Run.atReset with state := .opening, owner := 1, source := .separator, chosen := some (n, x) }
    planner := { s.planner with filingReq := some (n, x) } }
def withPlan (k : PlanKind) (moved : Bool) (n : Nat) (x : Side) (s : State) : State :=
  { s with planner := { s.planner with plans := [⟨1, .filing, k, .number n, x, none, none, some 7, moved⟩] } }
def queuedOn1 (s : State) : State := { s with drives := s.drives.set 1 { s.drive 1 with queue := [⟨1, 5⟩] } }
def planKinds (s : State) : List (DriveId × PlanKind) := s.planner.plans.map fun p => (p.drive, p.kind)
def inspWaits (s : State) : State := { s with
  library := { s.library with
    inspections := [⟨0, .loadingSlot, .loadingSlot, .waitingDrive, some 1, none, none, none, false, false⟩], inspectionSeq := 1 }
  planner := { s.planner with inspReq := some 0 } }
/-- A witness of PlanningOfRequests: reported, withdrawn, claimed, flipped, fetched from the shelf, refused; an import. -/
theorem witness_planningOfRequests :
    planFiling here = here
      ∧ (planFiling (wanting 2 .a here)).planner.filingReq = none
      ∧ (planFiling (wanting 2 .a (ordered [demountW] here))).arm.orders = []
      ∧ planKinds (planFiling (wanting 2 .b here)) = [(1, .flip)]
      ∧ planKinds (planFiling (wanting 2 .b (queuedOn1 here))) = [(1, .claim)]
      ∧ kindsOf (planFiling (wanting 3 .a here)) = [(.mount, .shelf 5, .drive 0)]
      ∧ kindsOf (planFiling (wanting 3 .a (oneDrive here))) = [(.demount, .drive 1, .shelf 4), (.mount, .shelf 5, .drive 1)]
      ∧ planKinds (planFiling (wanting 3 .a (queuedOn1 (oneDrive here)))) = [(1, .claim)]
      ∧ (planFiling (wanting 3 .a (atLevel .halted here))).run.failure = some .libraryHalted
      ∧ planFiling (withPlan .flip false 2 .b (wanting 2 .b here)) = withPlan .flip false 2 .b (wanting 2 .b here)
      ∧ (planFiling (withPlan .flip true 2 .a (wanting 2 .a here))).planner.plans = []
      ∧ planKinds (planFiling (withPlan .claim false 2 .b (wanting 2 .b here))) = [(1, .flip)]
      ∧ planKinds (planFiling (withPlan .claim false 3 .a (wanting 3 .a here))) = [(1, .victim)]
      ∧ planKinds (planFiling (withPlan .claim false 3 .a (wanting 3 .a { here with drives := here.drives.set 1 drive }))) = [(1, .mount)]
      ∧ planInspection here = here
      ∧ kindsOf (planInspection (inspWaits here)) = [(.inspectLoad, .loadingSlot, .drive 0)]
      ∧ (planInspection (inspWaits here)).library.inspections.map (·.phase) = [.carrying]
      ∧ planInspection (inspWaits (atLevel .halted here)) = inspWaits (atLevel .halted here) :=
  by decide +kernel

/-- An inspection of cartridge 2 in drive 1 that is READY, with an order due or not, waiting for READY or not. -/
def inspIn (p : InspPhase) (due await : Bool) (s : State) : State := s.updLibrary fun l => { l with
  inspections := [⟨0, .loadingSlot, .drive 1, p, some 1, none, some 2, none, due, await⟩], inspectionSeq := 1 }
/-- A filing plan for cartridge 3 with the cartridge elsewhere. -/
def claimedCart3 (k : PlanKind) (moved : Bool) (l : Location) : State :=
  withPlan k moved 3 .a (wanting 3 .a (here.updCart 3 fun c => { c with location := l }))
/-- A witness of PlanningOfRequests: a claim and a moved plan with the cartridge MISSING; a claim whose cartridge is on the
arm, in the slot, EXPORTED or in another drive; an inspection in the claimed drive. -/
theorem witness_planningOfRequests_claims :
    planFiling (claimedCart3 .claim false .missing) = claimedCart3 .claim false .missing
      ∧ planFiling (claimedCart3 .mount true .missing) = claimedCart3 .mount true .missing
      ∧ planKinds (planFiling (claimedCart3 .claim false .arm)) = []
      ∧ planKinds (planFiling (claimedCart3 .claim false .loadingSlot)) = []
      ∧ planKinds (planFiling (claimedCart3 .claim false .exported)) = []
      ∧ planKinds (planFiling (claimedCart3 .claim false (.drive 2))) = []
      ∧ (planFiling (claimedCart3 .claim false .arm)).planner.filingReq = some (3, .a)
      ∧ planKinds (planFiling (inspIn .shelving false false (claimedCart3 .claim false .shelf))) = [(1, .claim)] :=
  by decide +kernel

def placed (s : State) : State := after .placeCompletion s
/-- The order of a move under way, at PLACE, of an inspection with this phase and place. -/
def placing (k : MoveKind) (dest : ArmPlace) (i : Inspection) (s : State) : State :=
  moving ⟨7, k, .inspection 0, .drive 1, dest, some .a, .lib, none, .importJob, .running⟩ .place
    (s.updLibrary fun l => { l with inspections := [i], inspectionSeq := 1 })
def insp (o : Origin) (p : InspPhase) : Inspection := ⟨0, o, .arm, p, some 1, none, some 2, some 7, false, false⟩
def phases (s : State) : List (InspPhase × InspPlace) := s.library.inspections.map fun i => (i.phase, i.place)
/-- A witness of PlaceCompletion, plans and inspections: a DEMOUNT, a FETCH plan, a FILING plan, an INSPECT_LOAD, a FLIP, a
cartridge shelved, rejected, and returned at start-up. -/
theorem witness_placeCompletion_originators :
    (placed { moving { demount2 with cart := .number 1, dest := .shelf 3 } .place onArm1 with planner := { here.planner with
        plans := [⟨1, .fetch, .victim, .number 3, .a, some 3, some 7, some 8, false⟩] } }).planner.plans.map (·.demount) = [none]
      ∧ planKinds (placed { moving mount1 .place onArm1 with planner := { here.planner with
          plans := [⟨0, .fetch, .mount, .number 1, .a, some 1, none, some 7, false⟩] } }) = []
      ∧ phases (placed { placing .inspectLoad (.drive 0) (insp .loadingSlot .carrying) here with planner := { here.planner with
          plans := [⟨0, .importJob, .mount, .inspection 0, .a, none, none, some 7, false⟩], inspReq := some 0 } })
        = [(.loading, .drive 0)]
      ∧ ((placed (placing .flip (.drive 0) (insp .loadingSlot .flipping) here)).drive 0).sideUp = some .b
      ∧ phases (placed (placing .flip (.drive 0) (insp .loadingSlot .flipping) here)) = [(.flipping, .drive 0)]
      ∧ phases (placed (placing .inspectShelve (.shelf 1) (insp .loadingSlot .shelving) here)) = []
      ∧ ((placed (placing .inspectShelve (.shelf 1) (insp .loadingSlot .shelving) here)).source 9).pending = true
      ∧ (placed (placing .returnMove .loadingSlot (insp .loadingSlot .rejecting) here)).library.slot = .rejected
      ∧ kindsOf (placed (placing .returnMove .loadingSlot (insp .startUp .returning) here)) = [(.inspectLoad, .loadingSlot, .drive 0)]
      ∧ (placed (placing .returnMove .loadingSlot (insp .startUp .returning) here)).library.inspections.map (fun i => (i.id, i.origin))
        = [(1, .loadingSlot)] :=
  by decide +kernel
/-- The EXPORT of `export1`, of station 1 with tag 6. -/
def exporting (due : Bool) : State :=
  ((moving export1 .place onArm1).updLibrary fun l => { l with exports := [⟨1, 1, 6, some 7, due⟩] }).updLink 1 fun l =>
    { l with outstanding := [⟨6, .exportCartridge, .libraryMap⟩] }
/-- A witness of PlaceCompletion, an EXPORT and a hold order: the reply where it is due, and none after a link reset. -/
theorem witness_placeCompletion_export :
    out (placed (exporting true)) = [(0x40, .done)]
      ∧ (placed (exporting true)).library.exports = []
      ∧ ((placed (exporting true)).source 11).pending = true
      ∧ out (placed (exporting false)) = []
      ∧ ((placed ((moving { demount2 with cart := .number 1, dest := .shelf 3 } .place onArm1).updDrive 1 fun x =>
          { x with pendingHold := some 7 })).drive 1).pendingHold = none :=
  by decide +kernel

/-- `attention`, with the fault of order `o` at phase `p` on the list before the orders `os`. -/
def faultOf (o : MoveOrder) (p : MovePhase) (os : List MoveOrder) (s : State) : State :=
  s.updArm fun a => { a with
    orders := { o with status := .suspended } :: os, counter := 20, level := .attention
    primary := some { fault1 with order := { o with status := .suspended }, phase := p } }
def recordOf (s : State) : FaultRec := s.arm.primary.getD fault1
def abandoned (at_ : Declared) (s : State) : State := abandon (recordOf s) false at_ s
/-- A witness of FaultClear, RETRY: of a PICK at a shelf slot that reports a cartridge, and of a PLACE into a free one; and
a settled record, which is only emptied. -/
theorem witness_faultClear_retry :
    here.slotReads 3 = true
      ∧ after (.faultClearRetry 1 9 [0, 3]) (faultOf mount1 .pick [] here) = transmit (settle (addReply 1 ⟨9, 0x42, .done, .none⟩
          ((faultOf mount1 .pick [] here).updArm fun a => { a with
            orders := [mount1], moving := some ⟨{ mount1 with status := .suspended }, .pick, 1000, .retryPrimary, true⟩ })))
      ∧ attention.slotReads 3 = false
      ∧ (after (.faultClearRetry 1 9 [0, 3]) (faultOf suspended1 .place [] attention)).arm.moving
        = some ⟨suspended1, .place, 1000, .retryPrimary, true⟩
      ∧ after (.faultClearRetry 1 9 [0, 0]) settled = transmit (settle (addReply 1 ⟨9, 0x42, .done, .recordCleared⟩ { settled with
          arm := { settled.arm with primary := none, level := .normal }
          planner := { settled.planner with passesDue := 1 } })) :=
  by decide +kernel

/-- The DEMOUNT of cartridge 2 has faulted in TRAVEL; a MOUNT of a FETCH plan names it, and another order does not. -/
def demounting : State :=
  { faultOf demount2 .travel [{ mountW with number := 8, dest := .drive 1, after := some 7 },
      { export1 with number := 6, cart := .number 3, source := .shelf 5, status := .waiting }] waiting with
    planner := { waiting.planner with
      plans := [⟨1, .fetch, .victim, .number 1, .a, some 1, some 7, some 8, false⟩, ⟨3, .filing, .claim, .number 3, .a, none, none, none, false⟩]
      waiters := [{ waiter1 with plan := some 1 }] } }
/-- The EXPORT of cartridge 1 has faulted in TRAVEL. -/
def exportFaulted : State :=
  ((faultOf export1 .travel [] onArm1).updLibrary fun l => { l with
    exports := [⟨3, 2, 4, some 6, true⟩, ⟨1, 1, 6, some 7, true⟩] }).updLink 1 fun l =>
    { l with outstanding := [⟨6, .exportCartridge, .libraryMap⟩] }
/-- The way to the shelf of inspection 0's cartridge 2 has faulted in PICK, at drive 1, READY. -/
def shelveFaulted : State := faultOf ⟨7, .inspectShelve, .number 2, .drive 1, .shelf 4, none, .lib, none, .importJob, .running⟩
  .pick [] (here.updLibrary fun l => { l with
    inspections := [⟨0, .loadingSlot, .drive 1, .shelving, none, some (.label 2 .a), none, some 7, false, false⟩], inspectionSeq := 1 })
/-- The hold order of drive 1, STANDBY, has faulted in PICK before anything was picked. -/
def holdFaulted : State := faultOf { demount2 with group := .hold } .travel [] ((standing 0).updDrive 1 fun x =>
  { x with pendingHold := some 7, hold := none })
/-- A witness of FaultClear, ABANDON: what leaves the list, the plan and its rider, the export, the inspection with its
drive, the pending hold, and a record outside the list. -/
theorem witness_faultClear_abandon :
    ((abandoned .home demounting).arm.orders.map (·.number)) = [6]
      ∧ (demounting.leavingWith 7).map (·.number) = [7, 8]
      ∧ planKinds (abandoned .home demounting) = [(3, .claim)]
      ∧ (abandoned .home demounting).planner.waiters = [waiter1]
      ∧ ((abandoned .home demounting).cart? 2).map (fun c => (c.location, c.sideUp)) = some (.shelf, none)
      ∧ ((abandoned .missing exportFaulted).cart? 1).map (fun c => (c.location, c.exportPending)) = some (.missing, false)
      ∧ (abandoned .missing exportFaulted).library.exports.map (·.cart) = [3]
      ∧ out (abandoned .missing exportFaulted) = [(0x40, .abandoned)]
      ∧ abandonedInspection shelveFaulted (recordOf shelveFaulted).order = shelveFaulted.insp? 0
      ∧ (abandoned .missing shelveFaulted).library.inspections = []
      ∧ (abandoned .missing shelveFaulted).library.lastReject = some (.abandoned, some 2)
      ∧ ((abandoned .missing shelveFaulted).source 10).pending = true
      ∧ ((abandoned .missing shelveFaulted).drive 1).state = .empty
      ∧ ((abandoned .missing shelveFaulted).drive 1).cart = none
      ∧ ((abandoned .home holdFaulted).drive 1).pendingHold = none
      ∧ ((abandoned .home holdFaulted).drive 1).hold = some 1000
      ∧ (abandon { fault1 with inList := false } false .home demounting).planner.plans = demounting.planner.plans
      ∧ (abandon { fault1 with inList := false } false .home demounting).arm.orders = demounting.arm.orders
      ∧ (abandoned .home demounting).planner.passesDue ≠ 0 :=
  by decide +kernel

/-- The waiter of `waiting` rides on a plan with a DEMOUNT and a MOUNT; the second, and an order of its own, follow. -/
def ridingOn (os : List MoveOrder) (ws : List Waiter) : State :=
  { ordered os waiting with planner := { waiting.planner with
      plans := [⟨1, .fetch, .victim, .number 1, .a, some 1, some 7, some 8, false⟩]
      waiters := { waiter1 with plan := some 1 } :: ws } }
def twoOrders : List MoveOrder := [demountW, { mountW with number := 8, dest := .drive 1, after := some 7 },
  { mountW with number := 6, cart := .number 3, source := .shelf 5, dest := .drive 2 }]
def cancelled (s : State) : State := completeFetch ⟨1, 5⟩ .cancelled s
/-- A witness of FetchCompletion, a waiter on a plan: its orders still WAITING are withdrawn with those that name them; one
that another waiter rides on, or whose orders have begun, stays. -/
theorem witness_fetchCompletion_riding :
    ((cancelled (ridingOn twoOrders [])).arm.orders.map (·.number)) = [6]
      ∧ (cancelled (ridingOn twoOrders [])).planner.plans = []
      ∧ (cancelled (ridingOn twoOrders [])).planner.waiters = []
      ∧ (cancelled (ridingOn twoOrders [])).planner.passesDue ≠ 0
      ∧ (cancelled (ridingOn twoOrders [{ waiter1 with id := ⟨2, 5⟩, plan := some 1 }])).arm = (ridingOn twoOrders []).arm
      ∧ (cancelled (ridingOn twoOrders [{ waiter1 with id := ⟨2, 5⟩, plan := some 1 }])).planner.plans
        = (ridingOn twoOrders []).planner.plans
      ∧ (cancelled (ridingOn [{ mountW with number := 8, dest := .drive 1, status := .running }] [])).arm.orders.map (·.number) = [8]
      ∧ planKinds (cancelled (ridingOn [{ mountW with number := 8, dest := .drive 1, status := .running }] [])) = [(1, .victim)]
      ∧ (cancelled (ridingOn [{ demountW with status := .running }, { mountW with number := 8, after := some 7 }] [])).arm.orders.map (·.number)
        = [7] :=
  by decide +kernel


/-- A third fault in DOUBLE, with two waiters, of cartridge 1 on its shelf and of cartridge 2 up in drive 1, each on a plan,
an EXPORT of station 2 and a filing request. -/
def thirdFault : State :=
  { moving mount1 .pick (waiting.updLink 2 fun l => { l with outstanding := [⟨4, .exportCartridge, .libraryMap⟩] }) with
    library := { waiting.library with
      table := [cart1, cart2, { cart3 with exportPending := true }, cart4, cart5], exports := [⟨3, 2, 4, none, true⟩] }
    run := (wanting 3 .a here).run
    fetch := { waiting.fetch with orders := [order5, { order5 with id := ⟨3, 5⟩, instrument := 8, volume := 2 }] }
    fee := { waiting.fee with reservations := 2 }
    planner := { waiting.planner with
      filingReq := some (3, .a), plans := [⟨0, .fetch, .mount, .number 1, .a, some 1, none, some 7, false⟩]
      waiters := [{ waiter1 with plan := some 0 }, { waiter2 .a with id := ⟨3, 5⟩ }] } }
/-- A witness of MoveFaultsAndRefusal: a fault makes a planning pass due, and what the halt does beside the arm. -/
theorem witness_moveFaultsAndRefusal_planning :
    let t := moveFault .pickEmpty (atLevel .double thirdFault)
    (moveFault .pickEmpty thirdFault).planner = { thirdFault.planner with passesDue := 1 }
      ∧ (moveFault .pickEmpty (atLevel .attention thirdFault)).arm.orders = [{ mount1 with status := .suspended }]
      ∧ (moveFault .pickEmpty (atLevel .attention thirdFault)).planner = { thirdFault.planner with passesDue := 1 }
      ∧ t.planner.plans = []
      ∧ t.planner.filingReq = none
      ∧ t.run.failure = some .libraryHalted
      ∧ t.planner.waiters = [{ waiter2 .a with id := ⟨3, 5⟩ }]
      ∧ t.fetch.orders.map (·.id) = [⟨3, 5⟩]
      ∧ out t = [(0x90, .libraryHalted)]
      ∧ t.library.exports = []
      ∧ (t.cart? 3).map (·.exportPending) = some false
      ∧ (t.link 2).replies = [⟨4, 0x40, .libraryHalted, .none⟩]
      ∧ (t.cart? 1).map (·.location) = some .shelf :=
  by decide +kernel

/-- The run of `running` between units, with a ring and a current instrument; from separator sheets, or in CLOSING. -/
def between (ring : List RingSlot) (i : Option Instrument) : State :=
  running.updRun fun r => { r with state := .running, ring := ring, current := i }
def sep (s : State) : State := s.updRun fun r => { r with source := .separator }
def closingRun (s : State) : State := s.updRun fun r => { r with state := .closing, closeTag := some 4 }
def contentPage : RingSlot := ⟨1024, 1, zeros 1024, false, 5, true⟩
def sheetOf (n : Nat) : RingSlot := ⟨512, 1, zeros 4 ++ ones 8 ++ copies (beBytes 4 n) ++ zeros 476, false, 5, true⟩
def withFrontier (n : Nat) (s : State) : State := s.updCart 2 fun c => { c with sideA := { c.sideA with frontier := n } }
/-- After the Filing Writer's act the run has this state, current instrument, discard mark and counts. -/
def filed (s : State) (x : RunState) (current : Option Nat) (discard : Bool) (n : RunCounts) : Bool :=
  (filingAct s).any fun t =>
    t.run.state = x && t.run.current.map (·.number) = current && t.run.discard = discard && t.run.counts = n
def onePage : Instrument := { instrument8 with pages := 1, content := 2 }
/-- A witness of FilingWriterActs, instruments at their end: EMPTY in CLOSING and at a separator, the trailer, SIDE_END at
the trailer and at a page, and LIMIT. -/
theorem witness_filingWriterActs_ends :
    filed (closingRun (between [] (some instrument8))) .closed none false ⟨0, 1, 0, 0⟩
      ∧ filed (sep (between [sheetOf 12] (some instrument8))) .running none false ⟨0, 1, 0, 0⟩
      ∧ filingStep (closingRun (between [] (some onePage))) 1 = some (.write .trailer)
      ∧ (filingAct (closingRun (between [] (some onePage)))).isNone
      ∧ filed (withFrontier 300000 (sep (between [sheetOf 12] (some onePage)))) .running none true ⟨0, 1, 0, 0⟩
      ∧ filed (withFrontier 299999 (sep (between [{ contentPage with sectors := 2 }] (some onePage)))) .running none true ⟨0, 1, 0, 1⟩
      ∧ filed (withFrontier 299999 (between [page2] (some onePage))) .closing none false ⟨0, 1, 0, 1⟩
      ∧ filed (sep (between [contentPage] (some { onePage with pages := 1000 }))) .running none true ⟨0, 1, 0, 1⟩
      ∧ (filingAct (sep (between [contentPage] (some onePage)))).isNone
      ∧ filingStep (sep (between [contentPage] (some onePage))) 1 = some (.write .page) :=
  by decide +kernel

/-- A witness of FilingWriterActs, pages without an instrument and separators: the discard mark, an orphan, a duplicate, a
full catalogue, no blank, a rollover, an instrument, and a drained run. -/
theorem witness_filingWriterActs_separators :
    filed (sep ((between [contentPage] none).updRun fun r => { r with discard := true })) .running none true ⟨0, 0, 0, 1⟩
      ∧ filed (sep (between [contentPage] none)) .running none false ⟨0, 0, 1, 0⟩
      ∧ filed (sep (between [sheetOf 7] none)) .running none true ⟨0, 1, 0, 0⟩
      ∧ ((filingAct (sep (between [sheetOf 7] none))).map fun t => (t.source 17).pending) = some true
      ∧ filed { sep (between [sheetOf 5] none) with catalogue := fullCatalogue.catalogue } .running none true ⟨0, 1, 0, 0⟩
      ∧ filed (noBlanks (nearlyFull (sep (between [sheetOf 12] none)))) .running none true ⟨0, 1, 0, 0⟩
      ∧ filed (nearlyFull (sep (between [sheetOf 12] none))) .opening none false ⟨0, 0, 0, 0⟩
      ∧ ((filingAct (nearlyFull (closingRun (sep (between [sheetOf 12] none))))).map fun t =>
          (t.run.pendingSep, t.run.chosen, t.run.closeRequested)) = some (some 12, some (2, .b), true)
      ∧ filed { sep (between [sheetOf 12] none) with catalogue := here.catalogue } .running (some 12) false ⟨0, 0, 0, 0⟩
      ∧ ((filingAct { sep (between [sheetOf 12] none) with catalogue := here.catalogue }).map fun t => t.catalogue.map (·.number))
        = some [7, 9, 12]
      ∧ filed (closingRun (between [] none)) .closed none false ⟨0, 0, 0, 0⟩
      ∧ ((filingAct (asks none (some 4) (closingRun (between [] none)))).map out) = some [(0x22, .done)]
      ∧ (filingAct (closingRun (between [⟨2, 1, [], false, 4, false⟩] none))).isNone :=
  by decide +kernel
/-- A witness of FilingWriterActs, a chosen blank: in the pool, gone from it, gone with no other, and its label issued. -/
theorem witness_filingWriterActs_chosen :
    let gone : State := (wanting 3 .a here).updCart 3 fun c => { c with exportPending := true }
    (filingAct (wanting 3 .a here)).isNone
      ∧ (blankChoice gone (some 3)).isSome
      ∧ ((filingAct gone).map fun t => (t.run.chosen, t.planner.filingReq)) = some (blankChoice gone (some 3), blankChoice gone (some 3))
      ∧ ((filingAct (noBlanks gone)).map runOf) = some (some .noBlank, .closing, 0)
      ∧ (filingAct (noBlanks (gone.updRun fun r => { r with label := some ⟨1, 4, true, false⟩ }))).isNone :=
  by decide +kernel

/-- After the Library Map's act there are these inspections and these orders. -/
def mapActs (s : State) (is : List (InspPhase × InspPlace)) (os : List (MoveKind × ArmPlace × ArmPlace)) : Bool :=
  (libraryAct s).any fun t => phases t = is && kindsOf t = os
def onArm (p : InspPhase) (s : State) : State := s.updLibrary fun l => { l with
  inspections := [⟨0, .startUp, .arm, p, some 1, none, none, none, true, false⟩], inspectionSeq := 1 }
def exports (es : List ExportEntry) (s : State) : State := s.updLibrary fun l => { l with exports := es }
/-- A witness of LibraryMapActs: the label's READ is due, the second label, the FLIP, the shelf, the way out, a full list, a
halted arm, a drive not up yet; and the exports. -/
theorem witness_libraryMapActs :
    mapActs (inspIn .loading false false here) [(.reading, .drive 1)] []
      ∧ (libraryAct (inspIn .loading false false (flying .loading .spinUp id))).isNone
      ∧ mapActs (inspIn .flipping false false (here.updDrive 1 fun x => { x with sideUp := some .b })) [(.labelSecond, .drive 1)] []
      ∧ (libraryAct (inspIn .flipping false false here)).isNone
      ∧ mapActs (inspIn .flipping true false here) [(.flipping, .drive 1)] [(.flip, .drive 1, .drive 1)]
      ∧ mapActs (inspIn .shelving true false here) [(.shelving, .drive 1)] [(.inspectShelve, .drive 1, .shelf 4)]
      ∧ mapActs (inspIn .rejecting true false here) [(.rejecting, .drive 1)] [(.returnMove, .drive 1, .loadingSlot)]
      ∧ (libraryAct (inspIn .rejecting true true (flying .loading .spinUp id))).isNone
      ∧ (libraryAct (inspIn .rejecting true false (sixteenOrders 0))).isNone
      ∧ ((libraryAct (inspIn .rejecting true false (atLevel .halted here))).map fun t => (t.library.inspections.map (·.orderDue), t.arm.orders))
        = some ([false], [])
      ∧ mapActs (onArm .returning here) [(.returning, .arm)] [(.returnMove, .arm, .loadingSlot)]
      ∧ mapActs (exports [⟨3, 1, 6, none, true⟩, ⟨2, 1, 7, none, true⟩] here) [] [(.exportMove, .shelf 5, .loadingSlot)]
      ∧ mapActs (exports [⟨3, 1, 6, some 4, true⟩, ⟨2, 1, 7, none, true⟩] here) [] [(.exportMove, .drive 1, .loadingSlot)]
      ∧ (libraryAct (exports [⟨1, 1, 6, none, true⟩] (ordered [mountW] here))).isNone
      ∧ (libraryAct (exports [⟨3, 1, 6, none, true⟩] (atLevel .halted here))).isNone :=
  by decide +kernel

/-- `queued1` with its page lengths known, or with the run of `running` and a page complete in its ring. -/
def lengthsKnown : State := queued1.updFetch fun f => { f with orders := [{ atDrive with lengths := some [1, 2] }] }
def bothWait (x : ShareTurn) : State :=
  { queued1 with
    run := { running.run with state := .running, ring := [page2] }, catalogue := running.catalogue
    drives := queued1.drives.set 1 { queued1.drive 1 with pin := true, share := x } }
def act1 (s : State) : Option (DriveState × Option DriveCmd) := (driveAct s 1).map fun t => ((t.drive 1).state, command1 t)
/-- A witness of Selection: an inspection's READ, a trailer, a page, the share turn, idle, STANDBY and the wake. -/
theorem witness_selection :
    act1 { inspected with drives := inspected.drives.set 1 { inspected.drive 1 with state := .ready, unit := none, command := none } }
        = some (.active, some (.read 0 1))
      ∧ act1 queued1 = some (.active, some (.read 35 1))
      ∧ act1 lengthsKnown = some (.active, some (.read 33 2))
      ∧ act1 (bothWait .fetch) = some (.active, some (.read 35 1))
      ∧ (act1 (bothWait .filing)).map (·.1) = some .active
      ∧ ((driveAct (bothWait .filing) 1).bind fun t => (t.drive 1).command.map (·.owner)) = some .filingWriter
      ∧ filingStep (bothWait .filing) 1 = some (.write .page)
      ∧ ((driveAct here 1).map fun t => (t.drive 1).idle) = some (some 1000)
      ∧ act1 { here with timers := { here.timers with idleDelay := 0 } } = some (.standby, some .spinDown)
      ∧ act1 (standing 900) = none
      ∧ act1 { queued1 with drives := queued1.drives.set 1 { queued1.drive 1 with state := .standby } } = some (.waking, some .spinUp)
      ∧ act1 (flying .loading .spinUp id) = none :=
  by decide +kernel

/-- `order5` at drive 1 with page 2 staged, its station with and without credit. -/
def staged (credit : Nat) (stall : Option Nat) : State :=
  { queued1 with
    fetch := { queued1.fetch with
      orders := [{ atDrive with next := 3, lengths := some [1, 2], staged := some (2, 0), stall := stall }]
      buffers := queued1.fetch.buffers.set 0 (some (ones 2048)), stagedOrder := [⟨1, 5⟩] }
    links := queued1.links.set 1 { queued1.link 1 with credit := credit } }
def ringComplete : State := { running with run := { running.run with ring := [page2] } }
def noPage : State := { running with run := { running.run with state := .running } }
/-- A witness of DeliveryAndStallTimers and of ActsUntilRest: credit spent, the timers started and stopped, and rest. -/
theorem witness_deliveryAndStallTimers :
    ((nextAct (staged 1 none)).map fun t => ((t.link 1).credit, (t.link 1).sendList)) = some (0, [⟨1, 5⟩])
      ∧ ((nextAct (staged 0 none)).map fun t => t.fetch.orders.map (·.stall)) = some [some 1000]
      ∧ ((nextAct (staged 1 (some 900))).map fun t => t.fetch.orders.map (·.stall)) = some [none]
      ∧ ((nextAct (lengthsKnown.updFetch fun f => { f with orders := f.orders.map fun o => { o with stall := some 900 } })).map
          fun t => t.fetch.orders.map (·.stall)) = some [none]
      ∧ (filingAct noPage).map (fun t => (t.run.state, t.run.stall, t.run.stallSent)) = some (.waitingPage, some 1000, false)
      ∧ (filingAct running).isNone
      ∧ (filingAct ringComplete).map (fun t => (t.run.state, t.run.stall)) = some (.running, none)
      ∧ (nextAct (settle here)).isNone
      ∧ (driveAct here 0).isNone
      ∧ (nextAct here).map (fun t => (t.drive 1).idle) = some (some 1000) :=
  by decide +kernel

/-- A witness of TimerExpiries: each timer at its limit, and one second short of it. -/
theorem witness_timerExpiries :
    after (.idleTimerExpiry 1) (idling 881) = transmit (settle (idling 881))
      ∧ ((after (.idleTimerExpiry 1) (idling 880)).drive 1).state = .standby
      ∧ ((after (.idleTimerExpiry 1) (idling 880)).drive 1).hold = some 1000
      ∧ after (.holdTimerExpiry 1) (standing 501) = transmit (settle (standing 501))
      ∧ ((after (.holdTimerExpiry 1) (standing 500)).drive 1).pendingHold = some 1
      ∧ ((after (.holdTimerExpiry 1) (pinned 500)).drive 1).hold = some 1000
      ∧ ((after (.holdTimerExpiry 1) (atLevel .halted (standing 500))).drive 1).hold = some 1000
      ∧ ((after (.holdTimerExpiry 1) ((standing 500).updCart 2 fun c => { c with exportPending := true })).drive 1).hold = some 1000
      ∧ ((after (.holdTimerExpiry 1) ((standing 500).updLibrary fun l => { l with
          inspections := [⟨0, .loadingSlot, .drive 1, .shelving, none, none, some 2, some 7, false, false⟩] })).drive 1).hold = some 1000
      ∧ ((after (.holdTimerExpiry 1) ((standing 500).updDrive 1 fun x => { x with cart := some (.inspection 0) })).drive 1).hold
        = some 1000
      ∧ ((after (.holdTimerExpiry 1) (sixteenOrders 500)).drive 1).holdKept = true
      ∧ after (.fetchStallLimit 1 5) (stalledSince 881) = transmit (settle (stalledSince 881))
      ∧ out (after (.fetchStallLimit 1 5) (stalledSince 880)) = [(0x90, .stalled)]
      ∧ after .filingStallLimit (filingStalled 401) = transmit (filingStalled 401)
      ∧ ((after .filingStallLimit (filingStalled 400)).source 16).pending = true :=
  by decide +kernel

theorem here_fits : ∀ e ∈ here.catalogue, entryFits e := by
  have key (e : CatEntry) (he : e = entry7 ∨ e = entry9) : entryFits e := by
    rcases he with rfl | rfl <;> exact ⟨by decide, by decide, by decide, by decide, rfl, rfl, by decide⟩
  exact fun e he => key e (by simpa [here] using he)
/-- A witness of CatalogueLaw, SupervisorLaw and SettingsLaw: `here` meets the laws, and steps to a next state. -/
theorem witness_laws :
    CatalogueOk here.catalogue
      ∧ supervised here
      ∧ SettingsOk here
      ∧ step here = .next (tick here) :=
  ⟨⟨by decide +kernel, by decide +kernel, here_fits, by decide +kernel⟩, ⟨0, by decide +kernel⟩, ⟨by unfold timersOk; decide +kernel, by decide +kernel, by unfold prioritiesOk; decide +kernel, by unfold feesOk; decide +kernel,
    by decide +kernel, by unfold sourcesOk; decide +kernel⟩, rfl⟩

/-- A witness of FeeComputation: rates with M below X, a discount and a cap, with room left and with none. -/
theorem witness_feeComputation :
    let r : ClassRates := ⟨500, 1500, 800, 2000, 5000, 50000⟩
    let snap : FeeSnapshot := ⟨3, r, .government, 25, some 600⟩
    r.m ≤ r.x ∧ r.x ≤ 99999999 ∧ snap.discount ≤ 100
      ∧ feeGross .copy r 4 = 5900 ∧ feeBounded .copy r 4 100 = 5000 ∧ feeBounded .view r 1 60000 = 50000
      ∧ feeEstimate snap .copy 4 0 = 443 ∧ feeEstimate snap .copy 4 500 = 100 ∧ feeEstimate snap .copy 4 700 = 0
      ∧ feeCharge snap .copy 4 0 200 = 200 := by decide

/-- A witness of ReceiverOfFrames: noise before a CREDIT frame, a wrong CRC, a length of 4,101, a gap, and no receiver yet. -/
theorem witness_receiverOfFrames :
    (here.link 0).receiver = .hunting
      ∧ wireFrame 0x05 0 [2] = [0xC9, 0x05, 0x00, 0x00, 0x01, 0x02, 0x21, 0x28]
      ∧ (here.takeBytes 0 [0, 0x28, 0xC9, 0x05, 0x00, 0x00, 0x01, 0x02, 0x21, 0x28]).pending = [.credit 0 0 [2]]
      ∧ (here.takeBytes 0 [0xC9, 0x05, 0x00, 0x00, 0x01, 0x02, 0x21, 0x29]).pending = [.malformedCrc 0]
      ∧ (here.takeBytes 0 [0xC9, 0x04, 0x07, 0x10, 0x05, 0x41]).pending = [.malformedLength 0]
      ∧ ((here.takeBytes 0 [0xC9, 0x04, 0x07, 0x10, 0x05, 0x41]).link 0).receiver = .hunting
      ∧ ((here.takeBytes 0 [0xC9, 0x05, 0x00]).link 0).receiver = .inside [0x05, 0x00]
      ∧ ((here.takeBytes 0 [0xC9, 0x05, 0x00]).byteGap 0).pending = [.frameTimeout 0]
      ∧ State.reset.takeBytes 0 [0xC9, 0x05] = State.reset := by decide +kernel

/-- A witness of SectorsAndCatalogueActs: the last sector of a first extent, the first of the second, and one beyond both. -/
theorem witness_sectorMapping :
    mapSector [⟨100, 5⟩, ⟨900, 3⟩] 4 = some (0, 104) ∧ mapSector [⟨100, 5⟩, ⟨900, 3⟩] 5 = some (1, 900)
      ∧ mapSector [⟨100, 5⟩, ⟨900, 3⟩] 8 = none := by decide

end Sys2Proof.Tests
end

/-!
PROOF. The fee computation (chapter 8, R153 to R156): what each stage gives, stage by stage, then that every stage is
monotone, and the obligation O13 assembled from these.
-/

namespace Sys2Proof.Laws.FeeComputation

open Sys2Proof Sys2Proof.Machine

/-! ### Stages S1 and S2 (R153) -/

@[simp] theorem feeGross_zero (kind : FetchKind) (r : ClassRates) : feeGross kind r 0 = 0 := rfl

theorem feeGross_view (r : ClassRates) {p : Nat} (hp : 1 ≤ p) : feeGross .view r p = p * r.v :=
  if_neg (by omega)

theorem feeGross_copy (r : ClassRates) {p : Nat} (hp : 1 ≤ p) :
    feeGross .copy r p = r.f + (p - 1) * r.g + r.c :=
  if_neg (by omega)

@[simp] theorem feeBounded_zero (kind : FetchKind) (r : ClassRates) (g : Nat) : feeBounded kind r 0 g = g := rfl

theorem feeBounded_view (r : ClassRates) {p : Nat} (hp : 1 ≤ p) (g : Nat) :
    feeBounded .view r p g = min g r.x :=
  if_neg (by omega)

theorem feeBounded_copy (r : ClassRates) {p : Nat} (hp : 1 ≤ p) (g : Nat) :
    feeBounded .copy r p g = min (max g r.m) r.x :=
  if_neg (by omega)

theorem feeGross_mono (kind : FetchKind) (r : ClassRates) {p q : Nat} (hpq : p ≤ q) :
    feeGross kind r p ≤ feeGross kind r q := by
  obtain rfl | hp := Nat.eq_zero_or_pos p
  · simp
  cases kind with
  | view =>
    rw [feeGross_view r hp, feeGross_view r (Nat.le_trans hp hpq)]
    exact Nat.mul_le_mul_right r.v hpq
  | copy =>
    rw [feeGross_copy r hp, feeGross_copy r (Nat.le_trans hp hpq)]
    gcongr

theorem feeBounded_le (kind : FetchKind) (r : ClassRates) {p : Nat} (hp : 1 ≤ p) (g : Nat) :
    feeBounded kind r p g ≤ r.x := by
  cases kind with
  | view => exact feeBounded_view r hp g ▸ Nat.min_le_right ..
  | copy => exact feeBounded_copy r hp g ▸ Nat.min_le_right ..

/-- With at least one page the bounds do not look at the page count. -/
theorem feeBounded_mono (kind : FetchKind) (r : ClassRates) {p q g g' : Nat} (hp : 1 ≤ p) (hq : 1 ≤ q)
    (hg : g ≤ g') : feeBounded kind r p g ≤ feeBounded kind r q g' := by
  cases kind with
  | view => rw [feeBounded_view r hp, feeBounded_view r hq]; gcongr
  | copy => rw [feeBounded_copy r hp, feeBounded_copy r hq]; gcongr

/-- Stages S1 and S2 together. -/
def feeMils (kind : FetchKind) (r : ClassRates) (p : Nat) : Nat := feeBounded kind r p (feeGross kind r p)

@[simp] theorem feeMils_zero (kind : FetchKind) (r : ClassRates) : feeMils kind r 0 = 0 := rfl

theorem feeMils_le (kind : FetchKind) (r : ClassRates) (p : Nat) : feeMils kind r p ≤ r.x := by
  obtain rfl | hp := Nat.eq_zero_or_pos p
  · simp
  · exact feeBounded_le kind r hp _

/-- A fetch of no pages is charged nothing, so the floor M of a copy does not break the order at p = 0. -/
theorem feeMils_mono (kind : FetchKind) (r : ClassRates) {p q : Nat} (hpq : p ≤ q) :
    feeMils kind r p ≤ feeMils kind r q := by
  obtain rfl | hp := Nat.eq_zero_or_pos p
  · simp
  · exact feeBounded_mono kind r hp (Nat.le_trans hp hpq) (feeGross_mono kind r hpq)

/-! ### Stages S3 and S4 (R154) -/

theorem feeNet_no_discount (b : Nat) : feeNet 0 b = b := by simp [feeNet]

theorem feeNet_full_discount (b : Nat) : feeNet 100 b = 0 := by simp [feeNet]

theorem feeNet_le (d b : Nat) : feeNet d b ≤ b := Nat.sub_le ..

/-- Of `e` more mils the discount takes at most `e`, as `d` is at most 100. -/
theorem feeNet_mono {d b b' : Nat} (hd : d ≤ 100) (hb : b ≤ b') : feeNet d b ≤ feeNet d b' := by
  obtain ⟨e, rfl⟩ := Nat.exists_eq_add_of_le hb
  have hdiscount : e * d ≤ e * 100 := Nat.mul_le_mul_left e hd
  simp only [feeNet, Nat.add_mul]
  omega

theorem feeAmount_mono {n n' : Nat} (hn : n ≤ n') : feeAmount n ≤ feeAmount n' :=
  Nat.div_le_div_right (Nat.add_le_add_right hn 5)

theorem feeAmount_round_down (q : Nat) {r : Nat} (hr : r ≤ 4) : feeAmount (10 * q + r) = q := by
  unfold feeAmount; omega

theorem feeAmount_round_up (q : Nat) {r : Nat} (hlow : 5 ≤ r) (hhigh : r ≤ 9) :
    feeAmount (10 * q + r) = q + 1 := by
  unfold feeAmount; omega

/-! ### Stage S5 (R155) -/

theorem feeCapped_le (k : Option Nat) (t a : Nat) : feeCapped k t a ≤ a := by
  cases k with
  | none => exact Nat.le_refl a
  | some k => exact Nat.min_le_left ..

theorem feeCapped_mono (k : Option Nat) (t : Nat) {a a' : Nat} (ha : a ≤ a') :
    feeCapped k t a ≤ feeCapped k t a' := by
  cases k with
  | none => exact ha
  | some k => exact min_le_min_right (k - t) ha

theorem feeCapped_no_room {k t : Nat} (hk : k ≤ t) (a : Nat) : feeCapped (some k) t a = 0 := by
  simp [feeCapped, Nat.sub_eq_zero_of_le hk]

/-! ### The estimate (R156) -/

theorem feeEstimate_eq (snap : FeeSnapshot) (kind : FetchKind) (p t : Nat) :
    feeEstimate snap kind p t = feeCapped snap.cap t (feeAmount (feeNet snap.discount (feeMils kind snap.rates p))) :=
  rfl

theorem feeEstimate_le (snap : FeeSnapshot) (kind : FetchKind) (p t : Nat) :
    feeEstimate snap kind p t ≤ feeAmount snap.rates.x := by
  rw [feeEstimate_eq]
  calc
    _ ≤ feeAmount (feeNet snap.discount (feeMils kind snap.rates p)) := feeCapped_le ..
    _ ≤ feeAmount snap.rates.x := feeAmount_mono ((feeNet_le ..).trans (feeMils_le ..))

theorem feeEstimate_mono {snap : FeeSnapshot} (hd : snap.discount ≤ 100) (kind : FetchKind) (t : Nat) {p q : Nat}
    (hpq : p ≤ q) : feeEstimate snap kind p t ≤ feeEstimate snap kind q t :=
  feeCapped_mono snap.cap t (feeAmount_mono (feeNet_mono hd (feeMils_mono kind snap.rates hpq)))

theorem feeEstimate_zero_pages (snap : FeeSnapshot) (kind : FetchKind) (t : Nat) : feeEstimate snap kind 0 t = 0 := by
  have hamount : feeAmount (feeNet snap.discount 0) = 0 := by simp [feeNet, feeAmount]
  rw [feeEstimate_eq, feeMils_zero, hamount]
  exact Nat.le_zero.mp (feeCapped_le ..)

/-! ### The obligation's four parts -/

theorem gross_and_bounds (r : ClassRates) (p : Nat) :
    (feeGross .view r 0 = 0 ∧ feeGross .copy r 0 = 0)
      ∧ (1 ≤ p → feeGross .view r p = p * r.v ∧ feeGross .copy r p = r.f + (p - 1) * r.g + r.c)
      ∧ (∀ g, 1 ≤ p → feeBounded .view r p g = (if g ≤ r.x then g else r.x))
      ∧ (∀ g, 1 ≤ p → r.m ≤ r.x → feeBounded .copy r p g = (if g < r.m then r.m else if r.x < g then r.x else g))
      ∧ ∀ kind g, feeBounded kind r 0 g = g := by
  refine ⟨⟨feeGross_zero .view r, feeGross_zero .copy r⟩, fun hp => ⟨feeGross_view r hp, feeGross_copy r hp⟩,
    fun g hp => ?view, fun g hp hmx => ?copy, fun kind g => feeBounded_zero kind r g⟩
  case view => rw [feeBounded_view r hp, Nat.min_def]
  case copy =>
    rw [feeBounded_copy r hp]
    split
    · omega
    · split <;> omega

theorem cap_and_clamp (snap : FeeSnapshot) (kind : FetchKind) (p t est : Nat) :
    let amount := feeAmount (feeNet snap.discount (feeBounded kind snap.rates p (feeGross kind snap.rates p)))
    (snap.cap = none → feeEstimate snap kind p t = amount)
      ∧ (∀ k, snap.cap = some k → t < k → feeEstimate snap kind p t = min amount (k - t))
      ∧ (∀ k, snap.cap = some k → k ≤ t → feeEstimate snap kind p t = 0)
      ∧ feeCharge snap kind p t est = min (feeEstimate snap kind p t) est := by
  refine ⟨fun hcap => ?_, fun k hcap _ => ?_, fun k hcap hk => ?_, rfl⟩ <;> rw [feeEstimate_eq, hcap]
  · rfl
  · rfl
  · exact feeCapped_no_room hk _

theorem estimate_limits {snap : FeeSnapshot} (hx : snap.rates.x ≤ 99999999) (hd : snap.discount ≤ 100)
    (kind : FetchKind) (t : Nat) :
    (∀ p, feeEstimate snap kind p t ≤ 10000000)
      ∧ (∀ p q, p ≤ q → feeEstimate snap kind p t ≤ feeEstimate snap kind q t)
      ∧ feeEstimate snap kind 0 t = 0 := by
  refine ⟨fun p => ?bound, fun p q hpq => feeEstimate_mono hd kind t hpq, feeEstimate_zero_pages snap kind t⟩
  case bound =>
    calc
      feeEstimate snap kind p t ≤ feeAmount snap.rates.x := feeEstimate_le snap kind p t
      _ ≤ feeAmount 99999999 := feeAmount_mono hx
      _ = 10000000 := rfl

/-- Settles O13: the stages by their equations, and the limits of R156 since every stage is monotone and S2 to S5 keep
the estimate within what X alone would be charged. -/
theorem feeComputation : Obligations.FeeComputation := by
  refine ⟨gross_and_bounds, ⟨fun _ _ => rfl, fun _ => rfl, fun b => ⟨feeNet_no_discount b, feeNet_full_discount b⟩,
    rfl, rfl, fun q => ⟨fun _ => feeAmount_round_down q, fun _ => feeAmount_round_up q⟩⟩, cap_and_clamp, ?limits⟩
  case limits => exact fun snap kind t _ hx hd => estimate_limits hx hd kind t

end Sys2Proof.Laws.FeeComputation

/-!
PROOF. The requests of the Notice Router (chapter 10, R194 to R198): how TAKE_NOTICE chooses its source and what is left
deliverable after it, and what NOTICE_CONFIG makes of a source; the obligations O31 and O29 assembled from these.
-/

namespace Sys2Proof.Laws.Notices

open Sys2Proof Sys2Proof.Machine

/-! ### The admitted requests reach the Notice Router -/

theorem exec_takeNotice {s : State} {st : Station} {tag : Byte} (h : s.admits st .takeNotice tag) :
    exec (.takeNotice st tag []) s = finished (takeNoticeRequest st tag s) :=
  congrArg finished (receiveRequest_served h rfl)

theorem exec_setThreshold {s : State} {st : Station} {tag : Byte} (h : s.admits st .setThreshold tag) (v : Byte) :
    exec (.setThreshold st tag [v]) s = finished (setThresholdRequest st tag [v] s) :=
  congrArg finished (receiveRequest_served h rfl)

theorem exec_noticeConfig {s : State} {st : Station} {tag mask : Byte} (h : s.admits st .noticeConfig tag)
    (hm : mask.toNat < 8) (idx level target enable : Byte) :
    exec (.noticeConfig st tag [idx, mask, level, target, enable]) s
      = finished (noticeConfigRequest st tag [idx, mask, level, target, enable] s) :=
  congrArg finished (receiveRequest_served h (by simpa [decodes, byteAt, Req.bodyLength] using hm))

theorem exec_signal {s : State} {st : Station} {tag : Byte} {set : Bool}
    (h : s.admits st (if set then .signalSet else .signalClear) tag) (k : Byte) :
    exec (if set then .signalSet st tag [k] else .signalClear st tag [k]) s
      = finished (signalRequest st tag (if set then 0x56 else 0x57) set [k] s) := by
  cases set with
  | true => exact congrArg finished (receiveRequest_served (r := .signalSet) h rfl)
  | false => exact congrArg finished (receiveRequest_served (r := .signalClear) h rfl)

/-! ### Deliverable sources (R194) -/

@[simp] theorem source_updLink (s : State) (st : Station) (f : Link → Link) (i : Nat) :
    (s.updLink st f).source i = s.source i := rfl

@[simp] theorem source_addReply (s : State) (st : Station) (r : Reply) (i : Nat) :
    (addReply st r s).source i = s.source i := rfl

theorem mem_sourceNumbers {i : Nat} : i ∈ sourceNumbers ↔ 1 ≤ i ∧ i ≤ 24 := by
  simp only [sourceNumbers, List.mem_map, List.mem_range]
  constructor
  · rintro ⟨k, hk, rfl⟩
    omega
  · exact fun h => ⟨i - 1, by omega, by omega⟩

theorem bounds_of_mem_deliverable {s : State} {st : Station} {i : Nat} (h : i ∈ deliverable s st) :
    1 ≤ i ∧ i ≤ 24 :=
  mem_sourceNumbers.mp (List.mem_filter.mp h).1

theorem deliverable_ascending (s : State) (st : Station) : (deliverable s st).Pairwise (· < ·) :=
  List.Pairwise.filter _ (by decide)

/-- A reply in the queue changes no source and no threshold. -/
@[simp] theorem deliverable_addReply (s : State) (st t : Station) (r : Reply) :
    deliverable (addReply st r s) t = deliverable s t := by
  have hthreshold : ((addReply st r s).link t).threshold = (s.link t).threshold := by
    rw [addReply, State.link_updLink]
    split
    · next h => rw [h]
    · rfl
  exact List.filter_congr fun i _ => by unfold deliverableTo; rw [hthreshold]; rfl

/-- A source that is no longer pending leaves the deliverable set, and only it does. -/
theorem deliverable_taken (s : State) (st : Station) {i : Nat} (h1 : 1 ≤ i) (h2 : i ≤ 24) :
    deliverable (s.updSource i fun x => { x with pending := false }) st = (deliverable s st).filter (· ≠ i) := by
  unfold deliverable
  rw [List.filter_filter]
  refine List.filter_congr fun j hj => ?_
  obtain ⟨hj1, -⟩ := mem_sourceNumbers.mp hj
  by_cases hji : j = i
  · subst hji
    simp [deliverableTo, State.source_updSource s _ h1 h2]
  · simp [deliverableTo, State.source_updSource_ne s _ h1 hj1 hji, hji]

/-! ### The choice of TAKE_NOTICE (R195) -/

/-- Source `i` is chosen before source `j`: a higher level, or the same level and no lower index. -/
def precedes (s : State) (i j : Nat) : Prop :=
  (s.source j).level < (s.source i).level ∨ (s.source j).level = (s.source i).level ∧ j ≤ i

theorem precedes_refl (s : State) (i : Nat) : precedes s i i := .inr ⟨rfl, Nat.le_refl i⟩

theorem precedes_trans {s : State} {i j k : Nat} (hij : precedes s i j) (hjk : precedes s j k) : precedes s i k := by
  unfold precedes at *
  omega

theorem precedes_antisymm {s : State} {i j : Nat} (hij : precedes s i j) (hji : precedes s j i) : i = j := by
  unfold precedes at *
  omega

theorem mostUrgent_eq_none {s : State} {is : List Nat} : mostUrgent s is = none ↔ is = [] := by
  cases is with
  | nil => simp [mostUrgent]
  | cons i is =>
    simp only [mostUrgent, reduceCtorEq, iff_false]
    split
    · simp
    · split <;> simp

/-- Of an ascending list the choice is an element that precedes every other: on equal levels the later one wins. -/
theorem mostUrgent_precedes {s : State} {is : List Nat} (hasc : is.Pairwise (· < ·)) {m : Nat}
    (hm : mostUrgent s is = some m) : m ∈ is ∧ ∀ j ∈ is, precedes s m j := by
  induction is generalizing m with
  | nil => cases hm
  | cons i is ih =>
    obtain ⟨hi, hasc⟩ := List.pairwise_cons.mp hasc
    simp only [mostUrgent] at hm
    split at hm
    next hnone =>
      obtain rfl := mostUrgent_eq_none.mp hnone
      cases hm
      simp [precedes_refl]
    next k hk =>
      obtain ⟨hmem, hfirst⟩ := ih hasc hk
      have hlt := hi k hmem
      split at hm <;> cases hm
      next hle =>
        have hmi : precedes s m i := by unfold precedes; omega
        exact ⟨.tail _ hmem, List.forall_mem_cons.mpr ⟨hmi, hfirst⟩⟩
      next hgt =>
        have hik : precedes s i k := .inl (by omega)
        exact ⟨.head _, List.forall_mem_cons.mpr ⟨precedes_refl s i, fun j hj => precedes_trans hik (hfirst j hj)⟩⟩

theorem mostUrgent_eq_some {s : State} {is : List Nat} (hasc : is.Pairwise (· < ·)) {i : Nat} (hi : i ∈ is)
    (hfirst : ∀ j ∈ is, precedes s i j) : mostUrgent s is = some i := by
  obtain hnone | ⟨m, hm⟩ := Option.eq_none_or_eq_some (mostUrgent s is)
  · simp [mostUrgent_eq_none.mp hnone] at hi
  · obtain ⟨hmem, hm'⟩ := mostUrgent_precedes hasc hm
    rw [hm, precedes_antisymm (hm' i hi) (hfirst m hmem)]

/-! ### TAKE_NOTICE (R195) -/

/-- The second judgement, as one update of the link: a further attention frame is asked for while the set is not empty. -/
theorem judgeTaken_eq (st : Station) (s : State) {more : Bool} (h : (deliverable s st).isEmpty = !more) :
    judgeTaken st s = s.updLink st fun l =>
      { l with attentionSent := more, attentionWaiting := l.attentionWaiting || more } := by
  unfold judgeTaken
  cases more with
  | false => simp [h]
  | true => simp [h, askAttention, State.updLink_updLink]

/-- A reply and a judgement that follows it, with sources updated between them: one update of the link. -/
theorem addReply_updSource_updLink (s : State) (st : Station) (r : Reply) (i : Nat) (f : Source → Source)
    (g : Link → Link) :
    ((addReply st r s).updSource i f).updLink st g
      = { s.updLink st (fun l => g { l with replies := l.replies ++ [r] }) with
          notices := ((addReply st r s).updSource i f).notices } := by
  rw [← State.updLink_updLink s st (fun l => { l with replies := l.replies ++ [r] }) g]
  rfl

theorem takeNoticeRequest_none {s : State} {st : Station} (h : deliverable s st = []) (tag : Byte) :
    takeNoticeRequest st tag s
      = addReply st ⟨tag, 0x60, .done, .notice 0 0⟩ (s.updLink st fun l => { l with attentionSent := false }) := by
  simp [takeNoticeRequest, h, mostUrgent]

theorem takeNoticeRequest_some {s : State} {st : Station} {i : Nat} (hi : i ∈ deliverable s st)
    (hfirst : ∀ j ∈ deliverable s st, precedes s i j) (tag : Byte) :
    takeNoticeRequest st tag s
      = ((addReply st ⟨tag, 0x60, .done, .notice i (s.source i).level⟩ s).updSource i
          fun x => { x with pending := false }).updLink st fun l =>
            { l with
              attentionSent := (deliverable s st).any fun j => j ≠ i
              attentionWaiting := l.attentionWaiting || (deliverable s st).any fun j => j ≠ i } := by
  obtain ⟨h1, h2⟩ := bounds_of_mem_deliverable hi
  simp only [takeNoticeRequest, mostUrgent_eq_some (deliverable_ascending s st) hi hfirst]
  refine judgeTaken_eq st _ ?_
  rw [deliverable_taken _ st h1 h2, deliverable_addReply, Bool.eq_iff_iff]
  simp

/-- Settles O31: the choice precedes every deliverable source, which only one source can do, and what is left of the set
after it is every other source. -/
theorem takeNoticeAndThreshold : Obligations.TakeNoticeAndThreshold := by
  intro s st tag
  refine ⟨fun hadm => ⟨fun hempty => ?empty, fun i hi hfirst => ?chosen⟩, fun v hadm => exec_setThreshold hadm v⟩
  case empty => rw [exec_takeNotice hadm, takeNoticeRequest_none hempty]
  case chosen =>
    obtain ⟨h1, h2⟩ := bounds_of_mem_deliverable hi
    rw [exec_takeNotice hadm, takeNoticeRequest_some hi hfirst]
    refine ⟨_, rfl, ?taken, fun j hne hj => ?others, ?rest⟩
    case taken => rw [source_updLink, State.source_updSource _ _ h1 h2, source_addReply]
    case others => rw [source_updLink, State.source_updSource_ne _ _ h1 hj hne, source_addReply]
    case rest => exact addReply_updSource_updLink ..

/-! ### NOTICE_CONFIG (R197) -/

theorem stationOf_val (t : Station) : stationOf t.val = some t := dif_pos t.isLt

theorem any_masked (m i v : Nat) (p : Nat → Bool) : (masked m i v).any p = (m.testBit i && p v) := by
  unfold masked maskBit
  cases m.testBit i <;> simp

/-- The operands that R197 answers with BAD_REQUEST. -/
def badConfig (idx mask level target enable : Byte) : Prop :=
  idx.toNat = 0 ∨ 24 < idx.toNat ∨ (mask.toNat.testBit 0 = true ∧ 7 < level.toNat)
    ∨ (mask.toNat.testBit 1 = true ∧ 3 < target.toNat) ∨ (mask.toNat.testBit 2 = true ∧ 1 < enable.toNat)

theorem masked_getD (m i v d : Nat) : (masked m i v).getD d = if m.testBit i then v else d := by
  unfold masked maskBit
  split <;> rfl

/-- A target that the mask names is the station of its byte; otherwise the old target stays. -/
theorem configured_target {old : Source} {mask target : Byte} {aim : Station}
    (haim : if mask.toNat.testBit 1 then target.toNat = aim.val else old.target = aim) (level enable : Option Nat) :
    (configured old level (masked mask.toNat 1 target.toNat) enable).target = aim := by
  unfold configured masked maskBit
  split at haim
  next hnamed => simp [hnamed, haim, stationOf_val]
  next hnot => simpa [hnot] using haim

theorem configured_enabled (old : Source) (level target : Option Nat) (mask enable : Byte) :
    (configured old level target (masked mask.toNat 2 enable.toNat)).enabled
      = if mask.toNat.testBit 2 then enable == 1 else old.enabled := by
  have hone : (enable.toNat == 1) = (enable == 1) := by
    rw [Bool.eq_iff_iff, beq_iff_eq, beq_iff_eq, BitVec.toNat_eq]
    rfl
  unfold configured masked maskBit
  cases mask.toNat.testBit 2 with
  | true => exact hone
  | false => rfl

/-- The settings that a mask names, with `aim` the target that results; the pending flag stays. -/
theorem configured_masked {old : Source} {mask target : Byte} {aim : Station}
    (haim : if mask.toNat.testBit 1 then target.toNat = aim.val else old.target = aim) (level enable : Byte) :
    configured old (masked mask.toNat 0 level.toNat) (masked mask.toNat 1 target.toNat)
        (masked mask.toNat 2 enable.toNat)
      = ⟨old.pending, if mask.toNat.testBit 0 then level.toNat else old.level, aim,
          if mask.toNat.testBit 2 then enable == 1 else old.enabled⟩ :=
  (Source.mk.injEq ..).mpr
    ⟨rfl, masked_getD ..,
      configured_target haim (masked mask.toNat 0 level.toNat) (masked mask.toNat 2 enable.toNat),
      configured_enabled old (masked mask.toNat 0 level.toNat) (masked mask.toNat 1 target.toNat) mask enable⟩

theorem badConfig_iff (idx mask level target enable : Byte) :
    (idx.toNat = 0 ∨ idx.toNat > 24 ∨ (masked mask.toNat 0 level.toNat).any (fun v => 7 < v) = true
        ∨ (masked mask.toNat 1 target.toNat).any (fun v => 3 < v) = true
        ∨ (masked mask.toNat 2 enable.toNat).any (fun v => 1 < v) = true)
      ↔ badConfig idx mask level target enable := by
  simp only [badConfig, any_masked, Bool.and_eq_true, decide_eq_true_eq, gt_iff_lt]

theorem noticeConfigRequest_bad {idx mask level target enable : Byte} (h : badConfig idx mask level target enable)
    (st : Station) (tag : Byte) (s : State) :
    noticeConfigRequest st tag [idx, mask, level, target, enable] s = addReply st ⟨tag, 0x55, .badRequest, .none⟩ s :=
  if_pos ((badConfig_iff ..).mpr h)

/-- An accepted NOTICE_CONFIG: the source is set and told, and with a setting named the old target's set is judged, then
the new target's where it is another station's. -/
theorem noticeConfigRequest_good {idx mask level target enable : Byte}
    (h : ¬ badConfig idx mask level target enable) (st : Station) (tag : Byte) {s : State} {new : Source}
    (hnew : configured (s.source idx.toNat) (masked mask.toNat 0 level.toNat) (masked mask.toNat 1 target.toNat)
      (masked mask.toNat 2 enable.toNat) = new) :
    let told := addReply st ⟨tag, 0x55, .done, .source idx.toNat new⟩ (s.updSource idx.toNat fun _ => new)
    let old := s.source idx.toNat
    noticeConfigRequest st tag [idx, mask, level, target, enable] s
      = if mask = 0 then told
        else if new.target = old.target then judge old.target told
        else judge new.target (judge old.target told) := by
  subst hnew
  have hmask : mask = 0 ↔ mask.toNat = 0 := BitVec.toNat_eq
  simp only [hmask]
  exact if_neg (mt (badConfig_iff ..).mp h)

/-! ### The station signals (R198) -/

theorem signalRequest_bad {k : Byte} (h : 2 < k.toNat) (st : Station) (tag code : Byte) (v : Bool) (s : State) :
    signalRequest st tag code v [k] s = addReply st ⟨tag, code, .badRequest, .none⟩ s :=
  if_pos h

theorem signalRequest_good {k : Byte} (h : k.toNat ≤ 2) (st : Station) (tag code : Byte) (v : Bool) (s : State) :
    signalRequest st tag code v [k] s
      = judge (s.source (22 + k.toNat)).target
          (addReply st ⟨tag, code, .done, .wasPending (s.source (22 + k.toNat)).pending⟩
            (s.updSource (22 + k.toNat) fun x => { x with pending := v })) :=
  if_neg (Nat.not_lt.mpr h)

/-- Settles O29: the settings that a mask names are those of `configured_masked`, and the judgements are those of an
accepted request. -/
theorem noticeConfigAndSignals : Obligations.NoticeConfigAndSignals := by
  refine ⟨fun s st tag idx mask level target enable hadm hmask => ?config, fun s st tag k set hadm => ?signals⟩
  case config =>
    simp only [exec_noticeConfig hadm hmask]
    refine ⟨fun hbad => congrArg finished (noticeConfigRequest_bad hbad st tag s), fun old aim hgood hold haim => ?_⟩
    subst hold
    rw [noticeConfigRequest_good hgood st tag (configured_masked haim level enable)]
    refine ⟨fun hnone => ?none, fun hsome hsame => ?same, fun hsome hother => ?other⟩
    case none => rw [if_pos hnone]
    case same => rw [if_neg hsome, if_pos hsame, ← hsame]
    case other => rw [if_neg hsome, if_neg hother]
  case signals =>
    simp only [exec_signal hadm]
    exact ⟨fun hbad => congrArg finished (signalRequest_bad hbad ..),
      fun hgood => congrArg finished (signalRequest_good hgood ..)⟩

end Sys2Proof.Laws.Notices

/-!
PROOF. What every step keeps: the command of each row is an act that `Keeps` its state, but POWER_ON_RESET; the
obligations O2 and O57 to O59, and the reset state's O35 and O36, assembled from these.
-/

namespace Sys2Proof.Laws.Steps

open Sys2Proof Sys2Proof.Machine

/-! ### The commands, one row each -/

/-- What every command but POWER_ON_RESET does: an act that keeps what `Keeps` names, then the transmitters' choice. -/
def ActsThenSends (c : Instr) (s : State) : Prop := ∃ t, exec c s = .next (transmit t) ∧ Keeps s t

theorem request_acts {c : Instr} {s : State} {st : Station} {tag : Byte} {body : List Byte}
    (h : exec c s = done (receiveRequest st tag body s)) : ActsThenSends c s :=
  ⟨_, h, receiveRequest_keeps (.refl s)⟩

theorem exec_acts (c : Instr) (s : State) (hc : ∀ lost, c ≠ .powerOnReset lost) : ActsThenSends c s := by
  have h := Keeps.refl s
  cases c with
  | powerOnReset lost => exact absurd rfl (hc lost)
  | page st tag body => exact ⟨_, rfl, receiveFrame_keeps h fun _ => pageFrame_keeps⟩
  | credit st tag body => exact ⟨_, rfl, receiveFrame_keeps h fun _ => dealCredit_keeps⟩
  | linkReset st tag body => exact ⟨_, rfl, receiveReset_keeps h⟩
  | unknownKind st => exact ⟨_, rfl, receiveKind_keeps h⟩
  | malformedCrc st => exact ⟨_, rfl, badFrame_keeps h⟩
  | malformedLength st => exact ⟨_, rfl, badFrame_keeps h⟩
  | frameTimeout st => exact ⟨_, rfl, badFrame_keeps h⟩
  | overrun st => exact ⟨_, rfl, overrunReset_keeps h⟩
  | carrierLoss st => exact ⟨_, rfl, loseCarrier_keeps h⟩
  | frameSent st => exact ⟨_, rfl, frameDone_keeps h⟩
  | fetchStallLimit st tag => exact ⟨_, rfl, settle_keeps (fetchStallExpiry_keeps h)⟩
  | driveIdentifyAnswer d present faulty => exact ⟨_, rfl, identified_keeps h⟩
  | driveIdentifyTimeout d => exact ⟨_, rfl, notFitted_keeps h⟩
  | startUpReconciliation grip slot shelf => exact ⟨_, rfl, reconcile_keeps h⟩
  | loadingSlotCartridge => exact ⟨_, rfl, slotCartridge_keeps h⟩
  | loadingSlotEmpty => exact ⟨_, rfl, slotEmptied_keeps h⟩
  | shelfSlotSensor slot present => exact ⟨_, rfl, shelfChanged_keeps h⟩
  | pickCompletion => exact ⟨_, rfl, pickCompleted_keeps h⟩
  | travelCompletion => exact ⟨_, rfl, travelCompleted_keeps h⟩
  | placeCompletion => exact ⟨_, rfl, placeCompleted_keeps h⟩
  | moveTimeout => exact ⟨_, rfl, moveTimedOut_keeps h⟩
  | pickEmpty => exact ⟨_, rfl, pickFoundEmpty_keeps h⟩
  | driveRefused => exact ⟨_, rfl, driveRefuses_keeps h⟩
  | placeBlocked => exact ⟨_, rfl, placeStopped_keeps h⟩
  | gripLost => exact ⟨_, rfl, gripEmpty_keeps h⟩
  | spinUpCompletion d r => exact ⟨_, rfl, spinUpCompleted_keeps h⟩
  | spinDownCompletion d => exact ⟨_, rfl, spinDownCompleted_keeps h⟩
  | ejectCompletion d r => exact ⟨_, rfl, ejectCompleted_keeps h⟩
  | readCompletion d sectors => exact ⟨_, rfl, readCompleted_keeps h⟩
  | writeCompletion d r => exact ⟨_, rfl, writeCompleted_keeps h⟩
  | verifyCompletion d sectors => exact ⟨_, rfl, verifyCompleted_keeps h⟩
  | blankCheckCompletion d r => exact ⟨_, rfl, blankCompleted_keeps h⟩
  | reinitCompletion d present => exact ⟨_, rfl, reinitCompleted_keeps h⟩
  | powerCycleCompletion d present => exact ⟨_, rfl, powerCycleCompleted_keeps h⟩
  | commandTimeout d => exact ⟨_, rfl, commandTimedOut_keeps h⟩
  | driveHardwareFault d => exact ⟨_, rfl, hardwareFault_keeps h⟩
  | idleTimerExpiry d => exact ⟨_, rfl, settle_keeps (idleExpiry_keeps h)⟩
  | holdTimerExpiry d => exact ⟨_, rfl, settle_keeps (holdExpiry_keeps h)⟩
  | filingStallLimit => exact ⟨_, rfl, filingStallExpiry_keeps h⟩
  | _ => exact request_acts rfl

theorem exec_keeps (c : Instr) (s : State) (hc : ∀ lost, c ≠ .powerOnReset lost) :
    ∃ t, exec c s = .next t ∧ Keeps s t := by
  obtain ⟨t, ht, hk⟩ := exec_acts c s hc
  exact ⟨_, ht, transmit_keeps hk⟩

/-! ### POWER_ON_RESET (R191) -/

theorem link_get (v : Vector Link 4) (st : Station) : v.get st = v[st.val] := rfl

@[simp] theorem restartVolatile_link (s : State) (st : Station) :
    (restartVolatile s).link st = Link.atReset (s.link st).profile := by
  simp [restartVolatile, State.link, link_get]

@[simp] theorem powerOn_link (lost : Bool) (s : State) (st : Station) :
    (powerOn lost s).link st
      = Link.atReset (((if registryKept lost s then s else initRegistry s)).link st).profile :=
  restartVolatile_link _ st

/-- On a link at its reset values no frame is chosen: a transmitter sends nothing in RESETTING but a due LINK_RESET. -/
theorem kick_of_silent {st : Station} {s : State} (hsending : (s.link st).sending = none)
    (hdue : (s.link st).resetDue = false) (hstate : (s.link st).state = .resetting) : kick st s = s := by
  simp [kick, hsending, hdue, hstate]

theorem transmit_powerOn (lost : Bool) (s : State) : transmit (powerOn lost s) = powerOn lost s := by
  have silent (st : Station) : kick st (powerOn lost s) = powerOn lost s := by
    apply kick_of_silent <;> rw [powerOn_link] <;> rfl
  simp only [transmit, silent]

theorem exec_powerOnReset (lost : Bool) (s : State) : exec (.powerOnReset lost) s = .next (powerOn lost s) :=
  congrArg Host.Outcome.next (transmit_powerOn lost s)

theorem powerOn_of_lost {lost : Bool} {s : State} (h : s.signature = false ∨ lost = true) :
    powerOn lost s = { State.reset with pending := s.pending } := by
  have hkept : registryKept lost s = false := by rcases h with h | h <;> simp [registryKept, h]
  simp [powerOn, hkept, restartVolatile, initRegistry, State.reset, Link.atReset, Source.initial]
  exact ⟨rfl, rfl, rfl⟩

theorem registryKept_of_kept {lost : Bool} {s : State} (hsig : s.signature = true) (hlost : lost = false) :
    registryKept lost s = true := by simp [registryKept, hsig, hlost]

/-- Settles O35: a reset link has nothing to send, and of registry memory lost every record is initial. -/
theorem powerOnReset : Obligations.PowerOnReset := by
  intro s lost
  refine ⟨fun hlost => ?lost, fun hsig hkept => ?kept⟩
  case lost => rw [exec_powerOnReset, powerOn_of_lost hlost]
  case kept =>
    rw [exec_powerOnReset, powerOn, registryKept_of_kept hsig hkept]
    simp only [if_true, restartVolatile, State.reset, hsig]
    rfl

/-! ### The reset state -/

theorem catalogueOk_nil : CatalogueOk [] :=
  ⟨.nil, Nat.zero_le _, fun _ h => absurd h (List.not_mem_nil), fun _ h => absurd h (List.not_mem_nil)⟩

theorem supervised_reset : supervised State.reset := ⟨0, rfl⟩

theorem settingsOk_reset : SettingsOk State.reset where
  timers := by unfold timersOk; decide
  lowMark := by decide
  priorities := by unfold prioritiesOk; decide
  fees := by unfold feesOk; decide
  date := by decide
  sources := by unfold sourcesOk; decide

theorem source_reset {i : Nat} (h1 : 1 ≤ i) (h2 : i ≤ 24) : State.reset.source i = ⟨false, 0, 0, false⟩ := by
  have hlt : i - 1 < 24 := by omega
  have hlist : State.reset.notices.toList = List.replicate 24 Source.initial := Vector.toList_replicate
  simp [State.source, hlist, List.getD, hlt, Source.initial, -List.reduceReplicate]

/-- Settles O36: every field of the reset state read off, and the laws of O57 to O59 for it. -/
theorem resetState : Obligations.ResetState := by
  have links : ∀ st : Station, (State.reset.link st).state = .resetting ∧ (State.reset.link st).credit = 0
      ∧ (State.reset.link st).outstanding = [] ∧ (State.reset.link st).profile
        = if st = 0 then ⟨false, false, false, false, true⟩ else ⟨true, false, false, false, false⟩ := by decide
  have drives : ∀ d : DriveId, (State.reset.drive d).state = .empty ∧ (State.reset.drive d).pin = false
      ∧ (State.reset.drive d).queue = [] ∧ (State.reset.drive d).fault = none := by decide
  exact ⟨rfl, rfl, rfl, rfl, rfl, rfl, rfl, rfl, rfl, rfl, rfl, rfl, rfl, rfl, rfl, rfl, rfl, rfl, rfl, rfl, rfl,
    links, drives, fun _ => source_reset, catalogueOk_nil, supervised_reset, settingsOk_reset⟩

/-! ### What POWER_ON_RESET keeps -/

theorem powerOn_catalogue_kept {lost : Bool} {s : State} (hsig : s.signature = true) (hlost : lost = false) :
    (powerOn lost s).catalogue = s.catalogue := by
  simp [powerOn, registryKept_of_kept hsig hlost, restartVolatile]

theorem powerOn_supervised {lost : Bool} {s : State} (h : supervised s) : supervised (powerOn lost s) := by
  obtain ⟨st, hst⟩ := h
  cases hkept : registryKept lost s with
  | true => exact ⟨st, by simpa [hkept, Link.atReset] using hst⟩
  | false => exact ⟨0, by rw [powerOn_link, hkept]; rfl⟩

theorem restartVolatile_settings {s : State} (h : SettingsOk s) : SettingsOk (restartVolatile s) where
  timers := h.timers
  lowMark := h.lowMark
  priorities := h.priorities
  fees := h.fees
  date := h.date
  sources := by
    intro x hx
    obtain ⟨y, hy, rfl⟩ := List.mem_map.mp (by simpa [restartVolatile] using hx : x ∈ s.notices.toList.map _)
    exact h.sources y hy

theorem powerOn_settings {lost : Bool} {s : State} (h : SettingsOk s) : SettingsOk (powerOn lost s) := by
  by_cases hlost : s.signature = false ∨ lost = true
  · rw [powerOn_of_lost hlost]
    exact { settingsOk_reset with }
  · obtain ⟨hsig, hlost⟩ : s.signature = true ∧ lost = false := by simpa using hlost
    rw [powerOn, registryKept_of_kept hsig hlost]
    exact restartVolatile_settings (s := { s with initialised := _ }) { h with }

/-! ### A step -/

theorem step_cons {s : State} {c : Instr} {rest : List Instr} (h : s.pending = c :: rest) :
    step s = exec c { s with pending := rest } := by
  rw [step, advance, h]

theorem step_nil {s : State} (h : s.pending = []) : step s = .next (tick s) := by
  rw [step, advance, h]

/-- Everything a step can do: a second of time; POWER_ON_RESET; or another command, whose act `Keeps` the state that is left
of the queue. -/
theorem step_cases {s t : State} (h : step s = .next t) :
    t = tick s
      ∨ (∃ lost rest, s.pending = .powerOnReset lost :: rest ∧ t = powerOn lost { s with pending := rest })
      ∨ ∃ rest, Keeps { s with pending := rest } t := by
  cases hq : s.pending with
  | nil =>
    rw [step_nil hq] at h
    cases h
    exact .inl rfl
  | cons c rest =>
    rw [step_cons hq] at h
    by_cases hc : ∃ lost, c = .powerOnReset lost
    · obtain ⟨lost, rfl⟩ := hc
      rw [exec_powerOnReset] at h
      cases h
      exact .inr (.inl ⟨lost, rest, rfl, rfl⟩)
    · obtain ⟨u, hu, hk⟩ := exec_keeps c { s with pending := rest } fun lost e => hc ⟨lost, e⟩
      rw [hu] at h
      cases h
      exact .inr (.inr ⟨rest, hk⟩)

/-- Settles O57: every act extends the catalogue by its own form, a second leaves it, and POWER_ON_RESET keeps it or
empties it. -/
theorem catalogueLaw : Obligations.CatalogueLaw := by
  intro s t hs h
  rcases step_cases h with rfl | ⟨lost, rest, hq, rfl⟩ | ⟨rest, hk⟩
  · exact ⟨hs, .inr fun e he _ => he⟩
  · by_cases hlost : s.signature = false ∨ lost = true
    · rw [powerOn_of_lost (s := { s with pending := rest }) hlost]
      exact ⟨catalogueOk_nil, .inl ⟨lost, rest, hq, hlost.symm, rfl⟩⟩
    · obtain ⟨hsig, hlost⟩ : s.signature = true ∧ lost = false := by simpa using hlost
      rw [powerOn_catalogue_kept (s := { s with pending := rest }) hsig hlost]
      exact ⟨hs, .inr fun e he _ => he⟩
  · obtain ⟨hok, hkept⟩ := hk.catalogue hs
    exact ⟨hok, .inr hkept⟩

/-- Settles O58: only SET_PROFILE changes a profile, which `Keeps` covers, and registry initialisation names a
supervisor. -/
theorem supervisorLaw : Obligations.SupervisorLaw := by
  intro s t hs h
  rcases step_cases h with rfl | ⟨lost, rest, -, rfl⟩ | ⟨rest, hk⟩
  · exact hs
  · exact powerOn_supervised (s := { s with pending := rest }) hs
  · exact hk.supervisor hs

/-- Settles O59: the requests that set them check their ranges, which `Keeps` covers, and their initial values are in
range. -/
theorem settingsLaw : Obligations.SettingsLaw := by
  intro s t hs h
  rcases step_cases h with rfl | ⟨lost, rest, -, rfl⟩ | ⟨rest, hk⟩
  · exact { hs with }
  · exact powerOn_settings (s := { s with pending := rest }) { hs with }
  · exact hk.settings { hs with }

@[simp] theorem powerOn_pending (lost : Bool) (s : State) : (powerOn lost s).pending = s.pending := by
  cases h : registryKept lost s <;> simp [powerOn, h, restartVolatile, initRegistry]

/-- Settles O2: POWER_ON_RESET starts the seconds count afresh, and every other command keeps queue and count. -/
theorem everyCommandCompletes : Obligations.EveryCommandCompletes := by
  intro c s
  by_cases hc : ∃ lost, c = .powerOnReset lost
  · obtain ⟨lost, rfl⟩ := hc
    exact ⟨_, exec_powerOnReset lost s, powerOn_pending lost s, rfl⟩
  · obtain ⟨t, ht, hk⟩ := exec_keeps c s fun lost e => hc ⟨lost, e⟩
    refine ⟨t, ht, hk.queue, ?_⟩
    split
    · exact absurd ⟨_, rfl⟩ hc
    · exact hk.time

/-- Settles O1: the two cases of `advance`; a second counts up to the last value of the count. -/
theorem stepAndSecond : Obligations.StepAndSecond := by
  refine ⟨fun c rest s => rfl, fun s hq => ⟨tick s, step_nil hq, ?count, fun hle => rfl⟩⟩
  case count =>
    show min (s.seconds + 1) 4294967295 = _
    split <;> omega

end Sys2Proof.Laws.Steps

/-!
PROOF. Frames and the receiver (R176, R177, R202): a whole frame is read back from its bytes, whole or byte by byte; the
obligations O3, O4 and O60.
-/

namespace Sys2Proof.Laws.Frames

open Sys2Proof Sys2Proof.Machine

/-! ### Whole frames -/

theorem beBytes_two (n : Nat) : beBytes 2 n = [BitVec.ofNat 8 (n / 256), BitVec.ofNat 8 n] := rfl

theorem beNat_two (hi lo : Byte) : beNat [hi, lo] = hi.toNat * 256 + lo.toNat := by simp [beNat]

/-- What a frame's CRC covers: kind, tag, length and body (R176). -/
def covered (kind tag : Byte) (body : List Byte) : List Byte := kind :: tag :: beBytes 2 body.length ++ body

theorem wireFrame_eq (kind tag : Byte) (body : List Byte) :
    wireFrame kind tag body
      = startByte :: (covered kind tag body ++ beBytes 2 (crc16 (covered kind tag body)).toNat) := rfl

theorem beNat_length {body : List Byte} (h : body.length ≤ 4100) : beNat (beBytes 2 body.length) = body.length :=
  beNat_beBytes (by omega)

/-- A whole frame with the CRC bytes `crc` after a body that a frame can carry. -/
theorem decodeFrame_whole (st : Station) (kind tag : Byte) {body crc : List Byte} (hbody : body.length ≤ 4100)
    (hcrc : crc.length = 2) :
    decodeFrame st (startByte :: (covered kind tag body ++ crc))
      = some (if crc = beBytes 2 (crc16 (covered kind tag body)).toNat then frameCommand st kind tag body
          else .malformedCrc st) := by
  have hn := beNat_length hbody
  simp only [covered, beBytes_two, List.cons_append, List.nil_append] at hn ⊢
  have hmax : ¬ body.length > Config.bodyMax := by simpa [Config.bodyMax] using hbody
  have hlen : ¬ (body ++ crc).length ≠ body.length + 2 := by simp [hcrc]
  simp only [decodeFrame, ne_eq, not_true_eq_false, if_false, hn, if_neg hmax, if_neg hlen, List.take_left',
    List.drop_left', beBytes_two]
  exact (apply_ite some _ _ _).symm

theorem decodeFrame_tooLong (st : Station) (kind tag : Byte) {hi lo : Byte} (rest : List Byte)
    (h : 4100 < hi.toNat * 256 + lo.toNat) :
    decodeFrame st (startByte :: kind :: tag :: hi :: lo :: rest) = some (.malformedLength st) := by
  have hn : beNat [hi, lo] > Config.bodyMax := by rw [beNat_two]; exact h
  simp [decodeFrame, hn]

/-- Settles O3. -/
theorem crcAndMalformedFrames : Obligations.CrcAndMalformedFrames := by
  refine ⟨⟨by decide +kernel, by decide +kernel⟩, fun st kind tag hi lo rest h => ?length,
    fun st kind tag a b body hbody hne => ?crc⟩
  case length => exact decodeFrame_tooLong st kind tag rest h
  case crc =>
    have h := decodeFrame_whole st kind tag (crc := [a, b]) hbody rfl
    rwa [if_neg (by exact hne)] at h

theorem decodeFrame_wireFrame (st : Station) (kind tag : Byte) {body : List Byte} (h : body.length ≤ 4100) :
    decodeFrame st (wireFrame kind tag body) = some (frameCommand st kind tag body) := by
  rw [wireFrame_eq, decodeFrame_whole st kind tag h (beBytes_length 2 _), if_pos rfl]

/-- A command that can arrive and arrives as a frame is read back from its frame's parts: one row after another. -/
theorem frameOf_command (i : Instr) : FrameRoundTrip.Statement i := by
  cases i with
  | fetch st tag b => exact FrameRoundTrip.fetch st tag b
  | cancelFetch st tag b => exact FrameRoundTrip.cancelFetch st tag b
  | quote st tag b => exact FrameRoundTrip.quote st tag b
  | locate st tag b => exact FrameRoundTrip.locate st tag b
  | find st tag b => exact FrameRoundTrip.find st tag b
  | openInstrument st tag b => exact FrameRoundTrip.openInstrument st tag b
  | postPage st tag b => exact FrameRoundTrip.postPage st tag b
  | closeInstrument st tag b => exact FrameRoundTrip.closeInstrument st tag b
  | abortInstrument st tag b => exact FrameRoundTrip.abortInstrument st tag b
  | accountOpen st tag b => exact FrameRoundTrip.accountOpen st tag b
  | accountUpdate st tag b => exact FrameRoundTrip.accountUpdate st tag b
  | accountCredit st tag b => exact FrameRoundTrip.accountCredit st tag b
  | accountClose st tag b => exact FrameRoundTrip.accountClose st tag b
  | accountQuery st tag b => exact FrameRoundTrip.accountQuery st tag b
  | setSchedule st tag b => exact FrameRoundTrip.setSchedule st tag b
  | setCategoryDiscount st tag b => exact FrameRoundTrip.setCategoryDiscount st tag b
  | dayClose st tag b => exact FrameRoundTrip.dayClose st tag b
  | journalTake st tag b => exact FrameRoundTrip.journalTake st tag b
  | tallyQuery st tag b => exact FrameRoundTrip.tallyQuery st tag b
  | exportCartridge st tag b => exact FrameRoundTrip.exportCartridge st tag b
  | driveReset st tag b => exact FrameRoundTrip.driveReset st tag b
  | faultClearRetry st tag b => exact FrameRoundTrip.faultClearRetry st tag b
  | faultClearAbandon st tag b => exact FrameRoundTrip.faultClearAbandon st tag b
  | recover st tag b => exact FrameRoundTrip.recover st tag b
  | faultQuery st tag b => exact FrameRoundTrip.faultQuery st tag b
  | libraryQuery st tag b => exact FrameRoundTrip.libraryQuery st tag b
  | setProfile st tag b => exact FrameRoundTrip.setProfile st tag b
  | setTimers st tag b => exact FrameRoundTrip.setTimers st tag b
  | setOptions st tag b => exact FrameRoundTrip.setOptions st tag b
  | setDate st tag b => exact FrameRoundTrip.setDate st tag b
  | setArmPriority st tag b => exact FrameRoundTrip.setArmPriority st tag b
  | noticeConfig st tag b => exact FrameRoundTrip.noticeConfig st tag b
  | signalSet st tag b => exact FrameRoundTrip.signalSet st tag b
  | signalClear st tag b => exact FrameRoundTrip.signalClear st tag b
  | takeNotice st tag b => exact FrameRoundTrip.takeNotice st tag b
  | setThreshold st tag b => exact FrameRoundTrip.setThreshold st tag b
  | noticeQuery st tag b => exact FrameRoundTrip.noticeQuery st tag b
  | status st tag b => exact FrameRoundTrip.status st tag b
  | requestUnknownCode st tag code b => exact FrameRoundTrip.requestUnknownCode st tag code b
  | requestEmptyBody st tag => exact FrameRoundTrip.requestEmptyBody st tag
  | page st tag b => exact FrameRoundTrip.page st tag b
  | credit st tag b => exact FrameRoundTrip.credit st tag b
  | linkReset st tag b => exact FrameRoundTrip.linkReset st tag b
  | _ => intro _ _ _ _ _ h; cases h

/-- Settles O4: the frame's parts name the command, and its bytes are read back as those parts. -/
theorem frameRoundTrip : Obligations.FrameRoundTrip := by
  intro i st bytes hwf henc
  obtain ⟨⟨st', kind, tag, body⟩, hframe, heq⟩ := Option.map_eq_some_iff.mp henc
  cases heq
  obtain ⟨hbody, hcommand⟩ := frameOf_command i hwf _ _ _ _ hframe
  rw [decodeFrame_wireFrame st kind tag hbody, hcommand]

/-! ### The receiver, byte by byte -/

/-- The receiver of station `st` in another place of its frame. -/
def withReceiver (s : State) (st : Station) (r : Receiver) : State := s.updLink st fun l => { l with receiver := r }

theorem updLink_of_eq {s : State} {st : Station} {f : Link → Link} (h : f (s.link st) = s.link st) :
    s.updLink st f = s := by
  unfold State.updLink
  rw [h, show s.links.set st.val (s.link st) st.isLt = s.links from Vector.set_getElem_self ..]

theorem withReceiver_of_hunting {s : State} {st : Station} (h : (s.link st).receiver = .hunting) :
    withReceiver s st .hunting = s :=
  updLink_of_eq (by rw [← h])

theorem takeByte_withReceiver {s : State} (h : s.reconciled = true) (st : Station) (r : Receiver) (b : Byte) :
    (withReceiver s st r).takeByte st b
      = { withReceiver s st (r.take st b).1 with pending := s.pending ++ (r.take st b).2.toList } := by
  rcases takeByte_cases (withReceiver s st r) st b with ⟨hoff, -⟩ | ⟨-, heq⟩
  · rw [show (withReceiver s st r).reconciled = s.reconciled from rfl, h] at hoff
    cases hoff
  · rw [heq]
    simp only [withReceiver, State.link_updLink_self, State.updLink_updLink, State.updLink_pending]

/-- A byte that ends no frame moves only the receiver. -/
theorem takeByte_within {s : State} (h : s.reconciled = true) {st : Station} {r r' : Receiver} {b : Byte}
    (hr : r.take st b = (r', none)) : (withReceiver s st r).takeByte st b = withReceiver s st r' := by
  rw [takeByte_withReceiver h, hr]
  simp only [Option.toList_none, List.append_nil]
  rfl

theorem takeBytes_append (s : State) (st : Station) (bs cs : List Byte) :
    s.takeBytes st (bs ++ cs) = (s.takeBytes st bs).takeBytes st cs := List.foldl_append ..

theorem takeBytes_cons (s : State) (st : Station) (b : Byte) (bs : List Byte) :
    s.takeBytes st (b :: bs) = (s.takeByte st b).takeBytes st bs := rfl

theorem takeBytes_off {s : State} (h : s.reconciled = false) (st : Station) (bs : List Byte) :
    s.takeBytes st bs = s := by
  induction bs with
  | nil => rfl
  | cons b bs ih =>
    have hb : s.takeByte st b = s := by simp [State.takeByte, h]
    rw [takeBytes_cons, hb, ih]

theorem takeBytes_noise {s : State} {st : Station} (h : s.reconciled = true) (hr : (s.link st).receiver = .hunting)
    {noise : List Byte} (hn : ∀ b ∈ noise, b ≠ startByte) : s.takeBytes st noise = s := by
  induction noise with
  | nil => rfl
  | cons b bs ih =>
    obtain ⟨hb, hbs⟩ := List.forall_mem_cons.mp hn
    have hb : s.takeByte st b = s := by
      have := takeByte_within h (Receiver.take_hunting st hb)
      rwa [withReceiver_of_hunting hr] at this
    rw [takeBytes_cons, hb, ih hbs]

/-! ### Inside a frame -/

/-- The bytes after a start byte that end no frame: fewer than the header's four, or a length up to 4,100 with the body and
CRC still to come. -/
def Incomplete : List Byte → Prop
  | _ :: _ :: hi :: lo :: rest => beNat [hi, lo] ≤ Config.bodyMax ∧ rest.length < beNat [hi, lo] + 2
  | _ => True

theorem take_incomplete (st : Station) {got : List Byte} {b : Byte} (h : Incomplete (got ++ [b])) :
    Receiver.take st (.inside got) b = (.inside (got ++ [b]), none) := by
  simp only [Receiver.take]
  split
  next heq =>
    rw [heq] at h
    obtain ⟨hmax, hlen⟩ := h
    rw [if_neg (Nat.not_lt.mpr hmax), if_pos hlen]
  next => rfl

/-- A receiver takes the bytes of a frame as long as they end none. -/
theorem takeBytes_incomplete {s : State} (h : s.reconciled = true) (st : Station) (bytes : List Byte) :
    ∀ got, (∀ k, 1 ≤ k → k ≤ bytes.length → Incomplete (got ++ bytes.take k)) →
      (withReceiver s st (.inside got)).takeBytes st bytes = withReceiver s st (.inside (got ++ bytes)) := by
  induction bytes with
  | nil => intro got _; simp [State.takeBytes]
  | cons b bs ih =>
    intro got hinc
    have hb : Incomplete (got ++ [b]) := by simpa using hinc 1 (Nat.le_refl 1) (by simp)
    rw [takeBytes_cons, takeByte_within h (take_incomplete st hb), ih]
    · simp
    · intro k _ hk
      simpa using hinc (k + 1) (by omega) (by simpa using hk)

/-- No part of a whole frame ends it. -/
theorem incomplete_take (kind tag : Byte) {body crc : List Byte} (hbody : body.length ≤ 4100) (hcrc : crc.length = 2)
    {k : Nat} (hk : k < (covered kind tag body ++ crc).length) : Incomplete ((covered kind tag body ++ crc).take k) := by
  have hn := beNat_length hbody
  simp only [covered, beBytes_two, List.cons_append, List.nil_append] at hn hk ⊢
  match k with
  | 0 | 1 | 2 | 3 => trivial
  | k + 4 =>
    refine ⟨?_, ?_⟩ <;> rw [hn]
    · simpa [Config.bodyMax] using hbody
    · simp [hcrc] at hk ⊢
      omega

theorem take_complete (st : Station) (kind tag : Byte) {body got : List Byte} {b c : Byte} (hbody : body.length ≤ 4100)
    (hgot : got = covered kind tag body ++ [b]) :
    Receiver.take st (.inside got) c = (.hunting, decodeFrame st (startByte :: (covered kind tag body ++ [b, c]))) := by
  subst hgot
  have hn := beNat_length hbody
  simp only [covered, beBytes_two, List.cons_append, List.nil_append] at hn ⊢
  have hmax : ¬ body.length > Config.bodyMax := by simpa [Config.bodyMax] using hbody
  have hlen : ¬ (body ++ [b, c]).length < body.length + 2 := by simp
  simp only [Receiver.take, List.cons_append, List.nil_append, List.append_assoc, hn, if_neg hmax, if_neg hlen]

/-- A gap inside a frame: FRAME_TIMEOUT, and the receiver hunts as before. -/
theorem byteGap_inside {s : State} {st : Station} (hr : (s.link st).receiver = .hunting) (got : List Byte) :
    (withReceiver s st (.inside got)).byteGap st = { s with pending := s.pending ++ [.frameTimeout st] } := by
  rcases byteGap_cases (withReceiver s st (.inside got)) st with ⟨h, -⟩ | ⟨-, heq⟩
  · simp [withReceiver] at h
  · rw [heq]
    simp only [withReceiver, State.updLink_updLink, State.updLink_pending]
    exact congrArg (fun u : State => { u with pending := s.pending ++ [Instr.frameTimeout st] }) (withReceiver_of_hunting hr)

section
variable {s : State} {st : Station} (hrec : s.reconciled = true) (hr : (s.link st).receiver = .hunting)
include hrec hr

theorem takeByte_start : s.takeByte st startByte = withReceiver s st (.inside []) := by
  have := takeByte_within hrec (Receiver.take_start st)
  rwa [withReceiver_of_hunting hr] at this

/-- The byte that ends a frame brings its command to the queue, and the receiver hunts as before. -/
theorem takeByte_last {got : List Byte} {b : Byte} {c : Instr}
    (h : Receiver.take st (.inside got) b = (.hunting, some c)) :
    (withReceiver s st (.inside got)).takeByte st b = { s with pending := s.pending ++ [c] } := by
  rw [takeByte_withReceiver hrec, h, withReceiver_of_hunting hr]
  rfl

theorem takeBytes_part (kind tag : Byte) {body crc : List Byte} (hbody : body.length ≤ 4100) (hcrc : crc.length = 2)
    {k : Nat} (hk : k < (covered kind tag body ++ crc).length) :
    s.takeBytes st (startByte :: (covered kind tag body ++ crc).take k)
      = withReceiver s st (.inside ((covered kind tag body ++ crc).take k)) := by
  rw [takeBytes_cons, takeByte_start hrec hr]
  refine takeBytes_incomplete hrec st _ [] fun j _ hj => ?_
  rw [List.nil_append, List.take_take]
  exact incomplete_take kind tag hbody hcrc (by omega)

theorem takeBytes_whole (kind tag : Byte) {body : List Byte} (hbody : body.length ≤ 4100) (a b : Byte) :
    s.takeBytes st (startByte :: (covered kind tag body ++ [a, b]))
      = { s with pending := s.pending ++ [if [a, b] = beBytes 2 (crc16 (covered kind tag body)).toNat
            then frameCommand st kind tag body else .malformedCrc st] } := by
  have hsplit : covered kind tag body ++ [a, b] = (covered kind tag body ++ [a]) ++ [b] := by simp
  have htake : (covered kind tag body ++ [a, b]).take (covered kind tag body ++ [a]).length
      = covered kind tag body ++ [a] := by rw [hsplit]; exact List.take_left' rfl
  have hpart := takeBytes_part hrec hr kind tag (crc := [a, b]) hbody rfl
    (k := (covered kind tag body ++ [a]).length) (by simp)
  rw [htake] at hpart
  rw [hsplit, ← List.cons_append, takeBytes_append, hpart]
  refine takeByte_last hrec hr ?_
  rw [take_complete st kind tag hbody rfl, decodeFrame_whole st kind tag hbody rfl]

theorem takeBytes_tooLong (kind tag : Byte) {hi lo : Byte} (h : 4100 < hi.toNat * 256 + lo.toNat) :
    s.takeBytes st [startByte, kind, tag, hi, lo] = { s with pending := s.pending ++ [.malformedLength st] } := by
  have hpart : s.takeBytes st [startByte, kind, tag, hi] = withReceiver s st (.inside [kind, tag, hi]) := by
    rw [takeBytes_cons, takeByte_start hrec hr]
    refine takeBytes_incomplete hrec st _ [] fun k h1 hk => ?_
    match k with
    | 1 | 2 | 3 => trivial
    | k + 4 => simp at hk
  have hlong : beNat [hi, lo] > Config.bodyMax := by rw [beNat_two]; exact h
  rw [show [startByte, kind, tag, hi, lo] = [startByte, kind, tag, hi] ++ [lo] from rfl, takeBytes_append, hpart]
  exact takeByte_last hrec hr (by simp [Receiver.take, hlong])

end

/-- Settles O60: noise moves nothing, no part of a frame ends it, and its last byte or a gap does. -/
theorem receiverOfFrames : Obligations.ReceiverOfFrames := by
  intro s st noise
  refine ⟨fun hoff bytes => takeBytes_off hoff st bytes, fun hrec hr hnoise => ?on⟩
  have hquiet : s.takeBytes st noise = s := takeBytes_noise hrec hr hnoise
  refine ⟨hquiet, ?gap, fun kind tag body hbody => ⟨?frame, fun a b hne => ?crc⟩, fun kind tag hi lo hlong => ?length,
    fun kind tag body k hbody h1 hk => ?timeout⟩
  case gap => simp [State.byteGap, hr]
  case frame =>
    have h := takeBytes_whole hrec hr kind tag hbody (BitVec.ofNat 8 ((crc16 (covered kind tag body)).toNat / 256))
      (BitVec.ofNat 8 (crc16 (covered kind tag body)).toNat)
    rw [if_pos (beBytes_two _).symm] at h
    rw [takeBytes_append, hquiet]
    exact h
  case crc =>
    have h := takeBytes_whole hrec hr kind tag hbody a b
    rw [if_neg (by exact hne)] at h
    rw [List.append_assoc, List.append_assoc, takeBytes_append, hquiet]
    exact h
  case length => rw [takeBytes_append, hquiet]; exact takeBytes_tooLong hrec hr kind tag hlong
  case timeout =>
    obtain ⟨k, rfl⟩ : ∃ j, k = j + 1 := ⟨k - 1, by omega⟩
    rw [wireFrame_eq] at hk ⊢
    rw [List.take_succ_cons, takeBytes_part hrec hr kind tag hbody (beBytes_length 2 _) (by simpa using hk)]
    exact byteGap_inside hr _

end Sys2Proof.Laws.Frames

/-!
PROOF. What the setting of a notice can do (R193, R194): the layer that every block's acts rest on. `Noted s t` says that
from `s` to `t` only notices have been set, and attention asked for.
-/

namespace Sys2Proof.Laws.Noting

open Sys2Proof Sys2Proof.Machine

/-- Two links that differ at most in the marks of the attention frame. -/
def SameButAttention (l m : Link) : Prop :=
  m = { l with attentionSent := m.attentionSent, attentionWaiting := m.attentionWaiting }

theorem SameButAttention.refl (l : Link) : SameButAttention l l := rfl

theorem SameButAttention.trans {a b c : Link} (h : SameButAttention a b) (k : SameButAttention b c) :
    SameButAttention a c := by
  unfold SameButAttention at *
  rw [k, h]

theorem SameButAttention.state {l m : Link} (h : SameButAttention l m) : m.state = l.state := by rw [h]

/-- Only notices have been set: links differ in their attention marks, a link that is not UP in none, and a pending flag
stays set. -/
structure Noted (s t : State) : Prop where
  rest : t = { s with links := t.links, notices := t.notices }
  link : ∀ st, SameButAttention (s.link st) (t.link st)
  still : ∀ st, (s.link st).state ≠ .up → t.link st = s.link st
  pending : ∀ i, (s.source i).pending = true → (t.source i).pending = true

theorem Noted.refl (s : State) : Noted s s := ⟨rfl, fun _ => .refl _, fun _ _ => rfl, fun _ h => h⟩

theorem Noted.trans {a b c : State} (h : Noted a b) (k : Noted b c) : Noted a c where
  rest := by rw [k.rest, h.rest]
  link st := (h.link st).trans (k.link st)
  still st hst := (k.still st (by rwa [(h.link st).state])).trans (h.still st hst)
  pending i hi := k.pending i (h.pending i hi)

section
variable {s t : State} (h : Noted s t)
include h

theorem Noted.queue : t.pending = s.pending := by rw [h.rest]
theorem Noted.seconds : t.seconds = s.seconds := by rw [h.rest]
theorem Noted.reconciled : t.reconciled = s.reconciled := by rw [h.rest]
theorem Noted.timers : t.timers = s.timers := by rw [h.rest]
theorem Noted.catalogue : t.catalogue = s.catalogue := by rw [h.rest]
theorem Noted.library : t.library = s.library := by rw [h.rest]
theorem Noted.arm : t.arm = s.arm := by rw [h.rest]
theorem Noted.drives : t.drives = s.drives := by rw [h.rest]
theorem Noted.planner : t.planner = s.planner := by rw [h.rest]
theorem Noted.run : t.run = s.run := by rw [h.rest]
theorem Noted.fetch : t.fetch = s.fetch := by rw [h.rest]
theorem Noted.fee : t.fee = s.fee := by rw [h.rest]
theorem Noted.drive (d : DriveId) : t.drive d = s.drive d := by rw [State.drive, h.drives]; rfl
theorem Noted.replies (st : Station) : (t.link st).replies = (s.link st).replies := by rw [h.link st]
theorem Noted.outstanding (st : Station) : (t.link st).outstanding = (s.link st).outstanding := by rw [h.link st]

end

theorem updLink_noted {s : State} {st : Station} {f : Link → Link} (hup : (s.link st).state = .up)
    (hf : SameButAttention (s.link st) (f (s.link st))) : Noted s (s.updLink st f) where
  rest := rfl
  still t ht := by
    rw [State.link_updLink, if_neg]
    rintro rfl
    exact ht hup
  link t := by
    rw [State.link_updLink]
    split
    · next e => subst e; exact hf
    · exact .refl _
  pending _ hi := hi

theorem judge_noted (st : Station) (s : State) : Noted s (judge st s) := by
  unfold judge
  split
  next hup =>
    split
    · exact updLink_noted hup rfl
    · split
      · exact .refl s
      · rw [askAttention, State.updLink_updLink]
        exact updLink_noted hup rfl
  · exact .refl s

/-- A judgement changes links alone. -/
@[simp] theorem judge_notices (st : Station) (s : State) : (judge st s).notices = s.notices := by
  unfold judge askAttention
  repeat' split
  all_goals rfl

@[simp] theorem judge_source (st : Station) (s : State) (i : Nat) : (judge st s).source i = s.source i := by
  rw [State.source, judge_notices]
  rfl

theorem source_setIfInBounds (s : State) (i j : Nat) (f : Source → Source) :
    (s.updSource i f).source j = if i - 1 = j - 1 ∧ j - 1 < 24 then f (s.source i) else s.source j := by
  unfold State.updSource State.source
  by_cases hij : i - 1 = j - 1
  · by_cases hj : j - 1 < 24 <;> simp [List.getD, hij, hj]
  · simp [List.getD, hij]

theorem updSource_noted (s : State) (i : Nat) : Noted s (s.updSource i fun x => { x with pending := true }) where
  rest := rfl
  link _ := .refl _
  still _ _ := rfl
  pending j hj := by
    rw [source_setIfInBounds]
    split
    · rfl
    · exact hj

theorem noticeSet_noted (i : Nat) (s : State) : Noted s (noticeSet i s) :=
  (updSource_noted s i).trans (judge_noted ..)

theorem noticeSet_source (s : State) {i : Nat} (h1 : 1 ≤ i) (h2 : i ≤ 24) :
    (noticeSet i s).source i = { s.source i with pending := true } := by
  unfold noticeSet
  dsimp only
  rw [judge_source, State.source_updSource s _ h1 h2]

/-- The notice that is set is pending. -/
theorem noticeSet_pending (s : State) {i : Nat} (h1 : 1 ≤ i) (h2 : i ≤ 24) :
    ((noticeSet i s).source i).pending = true := by rw [noticeSet_source s h1 h2]

theorem noticeSet_eq (s : State) {i : Nat} (h1 : 1 ≤ i) (h2 : i ≤ 24) :
    noticeSet i s = judge (s.source i).target (s.updSource i fun x => { x with pending := true }) := by
  unfold noticeSet
  dsimp only
  rw [State.source_updSource s _ h1 h2]

/-! ### The blank pool (R26) -/

theorem judgePool_noted (s : State) : Noted s (judgePool s) := by
  unfold judgePool
  split
  · exact noticeSet_noted ..
  · exact .refl s

/-- An act of the Library Map, judged by R26: the act, and at most BLANKS_LOW set. -/
theorem withPool_noted (act : State → State) (s : State) : Noted (act s) (withPool act s) := by
  unfold withPool
  dsimp only
  split
  · exact .refl _
  · exact judgePool_noted _

end Sys2Proof.Laws.Noting

/-!
PROOF. From a REQUEST command to its owning block: the row's command and its request, and the fields of its body.
-/

namespace Sys2Proof.Laws.Bodies

open Sys2Proof Sys2Proof.Machine

/-! ### From a command to its request -/

theorem exec_requestOf (st : Station) (tag : Byte) (r : Req) (b : List Byte) (s : State) :
    exec (requestOf st tag r.code b) s = finished (receiveRequest st tag (r.code :: b) s) := by
  rw [requestOf, Req.ofCode_code]
  cases r
  case faultClear => dsimp only; split <;> rfl
  all_goals rfl

/-- An admitted request whose body decodes reaches its owning block, and its answer is the command's. -/
theorem exec_served {s : State} {st : Station} {r : Req} {tag : Byte} {b : List Byte} (h : s.admits st r tag)
    (hd : decodes r b = true) : exec (requestOf st tag r.code b) s = finished (serve r st tag b s) := by
  rw [exec_requestOf, receiveRequest_served h hd]

theorem exec_undecoded {s : State} {st : Station} {r : Req} {tag : Byte} {b : List Byte} (h : s.admits st r tag)
    (hd : decodes r b = false) :
    exec (requestOf st tag r.code b) s = finished (addReply st ⟨tag, r.code, .badRequest, .none⟩ s) := by
  rw [exec_requestOf, receiveRequest_undecoded h hd]
  rfl

/-! ### The fields of a body (R202, R205) -/

@[simp] theorem length_beBytes (w n : Nat) : (beBytes w n).length = w := beBytes_length w n

@[simp] theorem field_past_byte (b : Byte) (bs : List Byte) (i w : Nat) : field (b :: bs) (i + 1) w = field bs i w := rfl

@[simp] theorem field_past_two (n : Nat) (bs : List Byte) (i w : Nat) :
    field (beBytes 2 n ++ bs) (i + 2) w = field bs i w := rfl

@[simp] theorem field_past_four (n : Nat) (bs : List Byte) (i w : Nat) :
    field (beBytes 4 n ++ bs) (i + 4) w = field bs i w := rfl

@[simp] theorem field_two {n : Nat} (h : n < 65536) (bs : List Byte) : field (beBytes 2 n ++ bs) 0 2 = n :=
  field_prefix n 2 bs h

@[simp] theorem field_four {n : Nat} (h : n < 4294967296) (bs : List Byte) : field (beBytes 4 n ++ bs) 0 4 = n :=
  field_prefix n 4 bs h

@[simp] theorem field_two_last {n : Nat} (h : n < 65536) : field (beBytes 2 n) 0 2 = n := by
  simpa using field_two h []

@[simp] theorem field_four_last {n : Nat} (h : n < 4294967296) : field (beBytes 4 n) 0 4 = n := by
  simpa using field_four h []

@[simp] theorem byteAt_here (b : Byte) (bs : List Byte) : byteAt (b :: bs) 0 = b.toNat := rfl

@[simp] theorem byteAt_past_byte (b : Byte) (bs : List Byte) (i : Nat) : byteAt (b :: bs) (i + 1) = byteAt bs i := rfl

@[simp] theorem byteAt_past_two (n : Nat) (bs : List Byte) (i : Nat) :
    byteAt (beBytes 2 n ++ bs) (i + 2) = byteAt bs i := rfl

@[simp] theorem byteAt_past_four (n : Nat) (bs : List Byte) (i : Nat) :
    byteAt (beBytes 4 n ++ bs) (i + 4) = byteAt bs i := rfl

end Sys2Proof.Laws.Bodies

/-!
PROOF. The station links (chapter 9): the admission of requests, the settings of the SUPERVISE family, the judgement of
notices, CREDIT frames and the transmitter; the obligations O5, O27, O28, O30, O32 and O34.
-/

namespace Sys2Proof.Laws.Links

open Sys2Proof Sys2Proof.Machine Sys2Proof.Laws.Noting Sys2Proof.Laws.Bodies

/-! ### The checks of R183 -/

theorem takeBody_refused {s : State} {st : Station} {r : Req} {tag : Byte} {c : Status}
    (h : linkRefusal r (s.link st) tag = some c) (b : List Byte) :
    takeBody st tag (r.code :: b) s = addReply st ⟨tag, r.code, c, .none⟩ s := by
  simp [takeBody, takeRequest, h, refuse]

theorem exec_refused {s : State} {st : Station} {r : Req} {tag : Byte} {c : Status} (ht : s.takes st)
    (h : linkRefusal r (s.link st) tag = some c) (b : List Byte) :
    exec (requestOf st tag r.code b) s = finished (addReply st ⟨tag, r.code, c, .none⟩ s) := by
  rw [exec_requestOf, receiveRequest_taken ht, takeBody_refused h]

theorem linkRefusal_notPermitted {r : Req} {l : Link} (h : r.allowed l.profile = false) (tag : Byte) :
    linkRefusal r l tag = some .notPermitted := by simp [linkRefusal, h]

theorem linkRefusal_queueFull {r : Req} {l : Link} (ha : r.allowed l.profile = true) (hl : r.isLong = true)
    (hn : 8 ≤ l.outstanding.length) (tag : Byte) : linkRefusal r l tag = some .queueFull := by
  simp [linkRefusal, ha, hl, hn, Config.outstandingMax]

theorem linkRefusal_tagInUse {r : Req} {l : Link} {tag : Byte} (ha : r.allowed l.profile = true)
    (hl : r.isLong = true → l.outstanding.length < 8) (ht : ∃ e ∈ l.outstanding, e.tag = tag) :
    linkRefusal r l tag = some .tagInUse := by
  have hroom : ¬ (r.isLong = true ∧ l.outstanding.length ≥ Config.outstandingMax) := by
    rintro ⟨hlong, hfull⟩
    have := hl hlong
    simp only [Config.outstandingMax] at hfull
    omega
  have hany : l.outstanding.any (fun e => decide (e.tag = tag)) = true := by simpa using ht
  simp [linkRefusal, ha, hroom, hany]

/-! ### The decoding of R204 -/

theorem decodes_length {r : Req} {b : List Byte} (h : b.length + 1 ≠ r.bodyLength) : decodes r b = false := by
  simp [decodes, h]

theorem not_decodes_of_undefined {r : Req} {b : List Byte}
    (h : match r with
      | .postPage => 1 < byteAt b 4
      | .accountOpen => 8 ≤ byteAt b 3
      | .accountUpdate => 16 ≤ byteAt b 2
      | .setSchedule => 64 ≤ byteAt b 1
      | .setProfile => 32 ≤ byteAt b 1
      | .setTimers => 16 ≤ byteAt b 0
      | .setOptions => 4 ≤ byteAt b 0
      | .noticeConfig => 8 ≤ byteAt b 1
      | .faultClear => 1 < byteAt b 0 ∨ byteAt b 0 = 1 ∧ 2 < byteAt b 1
      | _ => False) : decodes r b = false := by
  cases r
  case faultClear =>
    rcases h with h | ⟨h0, h1⟩
    · have hne : ¬ byteAt b 0 = 0 ∧ ¬ byteAt b 0 = 1 := by omega
      simp [decodes, hne]
    · have hne : ¬ byteAt b 1 ≤ 2 := by omega
      simp [decodes, h0, hne]
  case postPage | accountOpen | accountUpdate | setSchedule | setProfile | setTimers | setOptions | noticeConfig =>
    simp only [decodes, Bool.and_eq_false_iff, decide_eq_false_iff_not]
    exact .inr (by omega)
  all_goals exact h.elim

/-! ### A REQUEST held in the receive buffer (R178) -/

theorem receiveRequest_held {s : State} {st : Station} (h : s.receives st) (hfull : 16 ≤ (s.link st).replies.length)
    (tag : Byte) (body : List Byte) :
    receiveRequest st tag body s = s.updLink st fun l => { l with buffer := some ⟨tag, body⟩ } := by
  rw [receiveRequest, receiveFrame_up h, dealRequest, if_neg (by simpa [Config.heldAt] using hfull)]

theorem receiveFrame_overrun {s : State} {st : Station} (hr : s.reconciled = true)
    (hb : (s.link st).buffer.isSome = true) (deal : State → State) :
    receiveFrame st deal s = resetLink st .overrun s := by
  simp [receiveFrame, hr, hb]

/-- FRAME_SENT with a frame being sent. -/
theorem exec_frameSent {s : State} {st : Station} {f : TxFrame} (h : (s.link st).sending = some f) :
    exec (.frameSent st) s = followed (afterSent st f (s.updLink st fun l => { l with sending := none })) := by
  show finished (frameDone st s) = _
  rw [frameDone, h]
  rfl

theorem afterSent_reply (st : Station) (r : Reply) (s : State) :
    afterSent st (.reply r) (s.updLink st fun l => { l with sending := none })
      = takeHeld st (s.updLink st fun l => { l with sending := none, replies := l.replies.drop 1 }) := by
  rw [afterSent, State.updLink_updLink]

theorem takeHeld_room {s : State} {st : Station} {h : HeldRequest} (hb : (s.link st).buffer = some h)
    (hroom : (s.link st).replies.length < 16) :
    takeHeld st s = takeBody st h.tag h.body (s.updLink st fun l => { l with buffer := none }) := by
  rw [takeHeld, hb]
  exact if_pos hroom

theorem takeHeld_none {s : State} {st : Station} (hb : (s.link st).buffer = none) : takeHeld st s = s := by
  rw [takeHeld, hb]

/-- Settles O5: each check of R183 by the refusal it leads to, and R178 by the receive buffer. -/
theorem requestAdmission : Obligations.RequestAdmission := by
  refine ⟨⟨fun s st tag b ht => ⟨fun code hcode => ?unknown, fun r => ⟨fun ha => ?permitted, fun ha hl hn => ?full,
    fun ha hl hin => ?inUse⟩⟩, fun s st tag => ⟨fun r b hadm => ?undecoded, fun ht => ?empty⟩⟩,
    fun s st tag r b => ⟨fun hrec hfull => ?held, fun x h hsend hbuf hle hge => ?taken, fun body hrec hbuf => ?overrun⟩⟩
  case unknown =>
    show finished (receiveRequest st tag (code :: b) s) = _
    rw [receiveRequest_taken ht, takeBody, takeRequest, hcode]
    rfl
  case permitted => exact exec_refused ht (linkRefusal_notPermitted ha tag) b
  case full => exact exec_refused ht (linkRefusal_queueFull ha hl hn tag) b
  case inUse => exact exec_refused ht (linkRefusal_tagInUse ha hl hin) b
  case undecoded =>
    rintro at_ undefined (hlen | hundef)
    · exact exec_undecoded hadm (decodes_length hlen)
    · exact exec_undecoded hadm (not_decodes_of_undefined (by cases r <;> exact hundef))
  case empty =>
    show finished (receiveRequest st tag [] s) = _
    rw [receiveRequest_taken ht]
    rfl
  case held => rw [exec_requestOf, receiveRequest_held hrec hfull]
  case taken =>
    rw [exec_frameSent hsend, afterSent_reply, takeHeld_room (h := h) (by simpa using hbuf) (by simp; omega),
      State.updLink_updLink]
  case overrun =>
    refine ⟨congrArg finished (receiveFrame_overrun hrec hbuf _), congrArg finished (receiveFrame_overrun hrec hbuf _), ?_⟩
    rw [exec_requestOf, receiveRequest, receiveFrame_overrun hrec hbuf]

/-! ### SET_PROFILE (R182) -/

theorem stationOf_eq {n : Nat} {t : Station} (h : n = t.val) : stationOf n = some t := by
  subst h
  exact dif_pos t.isLt

theorem onlySupervisor_iff (s : State) (t : Station) :
    onlySupervisor s t = true
      ↔ (s.link t).profile.supervise = true ∧ ∀ u, u ≠ t → (s.link u).profile.supervise = false := by
  have hall : ∀ u : Station, u ∈ allStations := by decide
  simp [onlySupervisor, hall, or_iff_not_imp_left]

/-- Settles O27. -/
theorem setProfile : Obligations.SetProfile := by
  intro s st tag k set hadm hset out no has new
  have hout : out = finished (setProfileRequest st tag [k, set] s) :=
    congrArg finished (receiveRequest_served hadm (by simpa [decodes, byteAt, Req.bodyLength] using hset))
  rw [hout]
  refine ⟨fun hk => ?above, fun t ht => ⟨fun hno honly hothers => ?last, fun hok => ?replaced⟩⟩
  case above =>
    have : stationOf k.toNat = none := dif_neg (by omega)
    simp [setProfileRequest, byteAt, this, no, refuse]
  case last =>
    have hlast : onlySupervisor s t = true := (onlySupervisor_iff s t).mpr ⟨honly, hothers⟩
    have hnew : (familiesOf set.toNat).supervise = false := hno
    simp [setProfileRequest, byteAt, stationOf_eq ht, hlast, hnew, no, refuse]
  case replaced =>
    have hkeeps : (!(familiesOf set.toNat).supervise && onlySupervisor s t) = false := by
      rcases hok with hsup | hsup | ⟨u, hu, hsup⟩
      · have : (familiesOf set.toNat).supervise = true := hsup
        simp [this]
      · have : onlySupervisor s t = false := by simp [onlySupervisor, hsup]
        simp [this]
      · have : onlySupervisor s t ≠ true := fun h => by
          have := ((onlySupervisor_iff s t).mp h).2 u hu
          rw [hsup] at this
          cases this
        simp [this]
    simp only [setProfileRequest, byteAt, List.getD_cons_zero, List.getD_cons_succ, stationOf_eq ht, hkeeps]
    rfl

/-! ### Notices (R193, R194) -/

/-- Settles O30: the cases of `judge`, and a judgement changes links only. -/
theorem noticeJudgement : Obligations.NoticeJudgement := by
  intro s st
  refine ⟨fun i => ?deliverable, fun hstate => ?resetting, fun hstate hempty => ?empty, fun hstate hsome => ?some,
    fun i h1 h2 => ?set⟩
  case deliverable =>
    simp only [deliverable, List.mem_filter, Notices.mem_sourceNumbers, deliverableTo, Bool.and_eq_true, decide_eq_true_eq,
      and_assoc]
  case resetting => simp [judge, hstate]
  case empty => simp [judge, hstate, hempty]
  case some =>
    have hne : (deliverable s st).isEmpty = false := by simpa using hsome
    refine ⟨fun hsent => ?_, fun hsent => ?_⟩
    · simp [judge, hstate, hne, hsent]
    · simp [judge, hstate, hne, hsent, askAttention, State.updLink_updLink]
  case set =>
    exact ⟨noticeSet_eq s h1 h2, noticeSet_pending s h1 h2⟩

/-! ### SET_TIMERS (R188) -/

theorem masked_clamp (m i lo hi v old : Nat) (h : lo ≤ hi) :
    ((masked m i v).map (clamp lo hi)).getD old
      = if m.testBit i then (if v < lo then lo else if hi < v then hi else v) else old := by
  unfold masked maskBit clamp
  split
  · simp only [Option.map_some, Option.getD_some]
    split
    · omega
    · split <;> omega
  · rfl

theorem newTimers_eq (mask : Byte) {a b c d : Nat} (ha : a < 256 ^ 4) (hb : b < 256 ^ 4) (hc : c < 256 ^ 4)
    (hd : d < 256 ^ 4) (t : Timers) :
    newTimers ([mask] ++ beBytes 4 a ++ beBytes 4 b ++ beBytes 4 c ++ beBytes 4 d) t
      = ⟨((masked mask.toNat 0 a).map (clamp 0 3600)).getD t.idleDelay,
          ((masked mask.toNat 1 b).map (clamp 0 86400)).getD t.holdLimit,
          ((masked mask.toNat 2 c).map (clamp 10 600)).getD t.fetchStall,
          ((masked mask.toNat 3 d).map (clamp 30 3600)).getD t.filingStall⟩ := by
  simp (disch := omega) [newTimers]

/-- With no timer running and no drive in STANDBY a change of the settings has nothing to apply to. -/
theorem applyTimers_idle {s : State} (old : Timers)
    (hd : ∀ e : DriveId, (s.drive e).idle = none ∧ (s.drive e).hold = none ∧ (s.drive e).state ≠ .standby)
    (ho : ∀ o ∈ s.fetch.orders, o.stall = none) (hr : s.run.stall = none) : applyTimers old s = s := by
  have hdrives : s.drives.map (holdAfter s.seconds old.holdLimit s.timers.holdLimit) = s.drives := by
    refine Vector.ext fun i hi => ?_
    obtain ⟨-, hhold, hstate⟩ : (s.drives[i]).idle = none ∧ (s.drives[i]).hold = none ∧ (s.drives[i]).state ≠ .standby :=
      hd ⟨i, hi⟩
    rw [Vector.getElem_map, holdAfter, if_neg (c := _ ∧ _) (fun h => hstate h.2.1)]
    split
    · rw [← hhold]
    · rfl
  have hexpiry (d : DriveId) : holdExpiry d (idleExpiry d s) = s := by
    obtain ⟨hidle, hhold, -⟩ := hd d
    have hi : idleExpiry d s = s := by simp [idleExpiry, idleDue, hidle]
    rw [hi]
    simp [holdExpiry, holdDue, hhold]
  have hfetch (id : FetchId) : fetchStallExpiry id s = s := by
    unfold fetchStallExpiry
    split
    · next o ho' => simp [fetchStallDue, ho o (List.mem_of_find?_eq_some ho')]
    · rfl
  have hall {α : Type} (f : State → α → State) (hf : ∀ x, f s x = s) (l : List α) : l.foldl f s = s := by
    induction l with
    | nil => rfl
    | cons x xs ih => rw [List.foldl_cons, hf, ih]
  unfold applyTimers
  simp only [hdrives]
  rw [hall _ hexpiry, hall _ hfetch]
  simp [filingStallExpiry, filingStallDue, hr]

/-! ### SET_OPTIONS and SET_ARM_PRIORITY (R189, R46) -/

theorem setOptionsRequest_bad {mask reserve low : Byte} (st : Station) (tag : Byte)
    (hbit : mask.toNat.testBit 0 = true) (hr : 1 < reserve.toNat) {s : State} :
    setOptionsRequest st tag [mask, reserve, low] s = addReply st ⟨tag, 0x52, .badRequest, .none⟩ s := by
  simp [setOptionsRequest, masked, maskBit, hbit, hr, refuse]

/-- The settings that a SET_OPTIONS leaves (R189). -/
def optionsSet (mask reserve low : Byte) (s : State) : State :=
  { s with
    planner := { s.planner with reserve := if mask.toNat.testBit 0 then reserve == 1 else s.planner.reserve }
    library := { s.library with lowMark := if mask.toNat.testBit 1 then min low.toNat 64 else s.library.lowMark } }

/-- BLANKS_LOW set where the mask names a low mark that the pool is at or below (R26). -/
def judgeMark (mask : Byte) (s : State) : State :=
  if mask.toNat.testBit 1 = true ∧ s.pool.length ≤ s.library.lowMark then noticeSet 12 s else s

theorem judgeMark_noted (mask : Byte) (s : State) : Noted s (judgeMark mask s) := by
  unfold judgeMark
  split
  · exact noticeSet_noted ..
  · exact .refl s

/-- What SET_OPTIONS makes of the state before its reply. -/
def setOptionsState (mask reserve low : Byte) (s : State) : State :=
  let s := s.updPlanner fun q =>
    { q with reserve := match masked mask.toNat 0 reserve.toNat with | some v => v == 1 | none => q.reserve }
  match (masked mask.toNat 1 low.toNat).map (min 64) with
  | some v => judgePool (s.updLibrary fun l => { l with lowMark := v })
  | none => s

theorem setOptionsRequest_good {mask reserve low : Byte} (st : Station) (tag : Byte)
    (hgood : mask.toNat.testBit 0 = true → reserve.toNat ≤ 1) {s : State} :
    setOptionsRequest st tag [mask, reserve, low] s
      = addReply st ⟨tag, 0x52, .done, .options (optionsSet mask reserve low s).planner.reserve
          (optionsSet mask reserve low s).library.lowMark⟩ (judgeMark mask (optionsSet mask reserve low s)) := by
  have hone : (reserve.toNat == 1) = (reserve == 1) := by
    rw [Bool.eq_iff_iff, beq_iff_eq, beq_iff_eq, BitVec.toNat_eq]
    rfl
  have hval : (masked mask.toNat 0 reserve.toNat).any (fun v => 1 < v) = false := by
    rw [Notices.any_masked, Bool.and_eq_false_iff, decide_eq_false_iff_not]
    cases hbit : mask.toNat.testBit 0 with
    | false => exact .inl rfl
    | true => exact .inr (Nat.not_lt.mpr (hgood hbit))
  have hset : setOptionsState mask reserve low s = judgeMark mask (optionsSet mask reserve low s) := by
    unfold setOptionsState judgeMark optionsSet masked maskBit
    cases mask.toNat.testBit 0 <;> cases mask.toNat.testBit 1 <;>
      simp only [if_true, Bool.false_eq_true, if_false, Option.map_some, Option.map_none, Nat.min_comm 64, hone, true_and,
        false_and] <;> rfl
  have hkept := judgeMark_noted mask (optionsSet mask reserve low s)
  rw [← hkept.planner, ← hkept.library, ← hset]
  unfold setOptionsRequest
  simp only [byteAt_here, byteAt_past_byte, hval, Bool.false_eq_true, if_false]
  rfl

/-- Settles O28: the clamps are those of R188, and what a change of the settings applies to is `applyTimers`. -/
theorem timersOptionsPriorities : Obligations.TimersOptionsPriorities := by
  refine ⟨fun s st tag mask a b c d hadm hmask ha hb hc hd => ?timers, fun s st tag =>
    ⟨fun mask reserve low hadm hmask => ?options, fun f g l h hadm => ?priorities⟩⟩
  case timers =>
    intro out set new told
    have hout : out = finished (setTimersRequest st tag ([mask] ++ beBytes 4 a ++ beBytes 4 b ++ beBytes 4 c ++ beBytes 4 d) s) :=
      congrArg finished (receiveRequest_served hadm (by simpa [decodes, Req.bodyLength] using hmask))
    have hnew : newTimers ([mask] ++ beBytes 4 a ++ beBytes 4 b ++ beBytes 4 c ++ beBytes 4 d) s.timers = new := by
      rw [newTimers_eq mask ha hb hc hd]
      simp only [masked_clamp _ _ _ _ _ _ (by omega : (0 : Nat) ≤ 3600), masked_clamp _ _ _ _ _ _ (by omega : (0 : Nat) ≤ 86400),
        masked_clamp _ _ _ _ _ _ (by omega : 10 ≤ 600), masked_clamp _ _ _ _ _ _ (by omega : 30 ≤ 3600)]
      rfl
    have hrequest : setTimersRequest st tag ([mask] ++ beBytes 4 a ++ beBytes 4 b ++ beBytes 4 c ++ beBytes 4 d) s
        = if mask.toNat = 0 then told else settle (applyTimers s.timers told) := by
      unfold setTimersRequest
      rw [hnew]
      rfl
    rw [hout, hrequest]
    have hz : mask = 0 ↔ mask.toNat = 0 := BitVec.toNat_eq
    refine ⟨fun h => ⟨?_, ?_⟩, fun h => ?_, fun h hdrives horders hrun => ?_⟩
    · subst h; rfl
    · rw [if_pos (hz.mp h)]
    · rw [if_neg (mt hz.mpr h)]; rfl
    · rw [if_neg (mt hz.mpr h), applyTimers_idle s.timers (s := told) hdrives horders hrun]; rfl
  case options =>
    intro out on mark set told
    have hout : out = finished (setOptionsRequest st tag [mask, reserve, low] s) :=
      congrArg finished (receiveRequest_served hadm (decide_eq_true hmask))
    rw [hout]
    refine ⟨fun hbit hr => ?_, fun hgood => ⟨fun hbit hpool => ?_, fun hor => ?_⟩⟩
    · rw [setOptionsRequest_bad st tag hbit hr]
    · have hjudge : judgeMark mask (optionsSet mask reserve low s) = noticeSet 12 set := if_pos ⟨hbit, hpool⟩
      rw [setOptionsRequest_good st tag hgood, hjudge]
      rfl
    · have hjudge : judgeMark mask (optionsSet mask reserve low s) = set := if_neg fun ⟨hbit, hpool⟩ =>
        hor.elim (fun h => by rw [hbit] at h; cases h) fun h => absurd h (Nat.not_lt.mpr hpool)
      rw [setOptionsRequest_good st tag hgood, hjudge]
      rfl
  case priorities =>
    intro out p
    have hout : out = finished (setPriorityRequest st tag [f, g, l, h] s) :=
      congrArg finished (receiveRequest_served hadm rfl)
    have hok : ([p.filing, p.fetch, p.lib, p.hold].all (fun v => v ≤ 3) = true ∧ [p.filing, p.fetch, p.lib, p.hold].Nodup)
        ↔ prioritiesOk p := by
      simp [prioritiesOk, and_assoc]
    rw [hout]
    exact ⟨fun h => congrArg finished (if_pos (hok.mpr h)), fun h => congrArg finished (if_neg (mt hok.mp h))⟩

/-! ### CREDIT (R185) -/

theorem stopStalls_noCredit {s : State} {st : Station} (h : (s.link st).credit = 0) : stopStalls st s = s := if_pos h

theorem stopStalls_credit {s : State} {st : Station} (h : 0 < (s.link st).credit) :
    stopStalls st s = s.updFetch fun e =>
      { e with orders := e.orders.map fun o => if o.id.station = st then { o with stall := none } else o } :=
  if_neg (by omega)

theorem exec_credit {s : State} {st : Station} (h : s.receives st) (tag : Byte) (body : List Byte) :
    exec (.credit st tag body) s = finished (dealCredit st body s) :=
  congrArg finished (receiveFrame_up h _)

/-- Settles O32. -/
theorem creditFrame : Obligations.CreditFrame := by
  refine fun s st tag hrec => ⟨fun body hlen => ?discarded, fun n => ⟨fun hzero => ?none, fun hpos => ?some⟩⟩
  case discarded =>
    rw [exec_credit hrec]
    match body, hlen with
    | [], _ => rfl
    | [_], hlen => exact absurd rfl hlen
    | _ :: _ :: _, _ => rfl
  case none =>
    rw [exec_credit hrec, dealCredit, stopStalls_noCredit (by rw [State.link_updLink_self]; exact hzero)]
    rfl
  case some =>
    rw [exec_credit hrec, dealCredit, stopStalls_credit (by rw [State.link_updLink_self]; exact hpos)]
    rfl

/-! ### The transmitter (R137, R179) -/

section
variable {s : State} {st : Station} (hfree : (s.link st).sending = none)
include hfree

theorem kick_reset (h : (s.link st).resetDue = true) :
    kick st s = s.updLink st fun l => { l with sending := some (.linkReset l.cause), resetDue := false } := by
  simp [kick, hfree, h]

variable (hdue : (s.link st).resetDue = false)
include hdue

theorem kick_resetting (h : (s.link st).state = .resetting) : kick st s = s := by simp [kick, hfree, hdue, h]

variable (hup : (s.link st).state = .up)
include hup

theorem kick_reply {r : Reply} {rs : List Reply} (h : (s.link st).replies = r :: rs) :
    kick st s = s.updLink st fun l => { l with sending := some (.reply r) } := by simp [kick, hfree, hdue, hup, h]

variable (hreplies : (s.link st).replies = [])
include hreplies

theorem kick_attention (h : (s.link st).attentionWaiting = true) :
    kick st s = s.updLink st fun l => { l with sending := some .attention, attentionWaiting := false } := by
  simp [kick, hfree, hdue, hup, hreplies, h]

theorem kick_data (h : (s.link st).attentionWaiting = false) :
    kick st s = match nextData s st with
      | some f => s.updLink st fun l => { l with sending := some f }
      | none => s := by
  simp only [kick, hfree, hdue, hup, hreplies, h]
  rfl

end

theorem nextData_none {s : State} {st : Station} (h : (s.link st).sendList = []) : nextData s st = none := by
  simp [nextData, h]

theorem nextData_head {s : State} {st : Station} {id : FetchId} {ids : List FetchId} {o : FetchOrder} {p : Delivering}
    (h : (s.link st).sendList = id :: ids) (ho : s.order? id = some o) (hp : o.delivery = some p) :
    nextData s st = some (dataFrame s o p) := by
  simp [nextData, h, ho, hp]

/-! ### The end of a sent frame (R137) -/

/-- Order `id` after a change that keeps its name. -/
theorem order?_updOrder {s : State} {id : FetchId} {o : FetchOrder} (h : s.order? id = some o)
    {f : FetchOrder → FetchOrder} (hf : ∀ x, (f x).id = x.id) : (s.updOrder id f).order? id = some (f o) := by
  have hname (x : FetchOrder) : (if x.id = id then f x else x).id = x.id := by split <;> simp [hf]
  have hid : o.id = id := by simpa using List.find?_some h
  unfold State.order? at h ⊢
  simp only [State.updOrder, State.updFetch_fetch, List.find?_map]
  rw [show ((fun o : FetchOrder => decide (o.id = id)) ∘ fun o => if o.id = id then f o else o)
    = fun o => decide (o.id = id) from funext fun x => by simp [hname], h]
  simp [hid]

theorem map_updated_twice (l : List FetchOrder) (id : FetchId) (f g : FetchOrder → FetchOrder) (hf : ∀ x, (f x).id = x.id) :
    (l.map fun o => if o.id = id then f o else o).map (fun o => if o.id = id then g o else o)
      = l.map fun o => if o.id = id then g (f o) else o := by
  rw [List.map_map]
  refine List.map_congr_left fun x _ => ?_
  by_cases h : x.id = id <;> simp [h, hf]

theorem order?_filtered {s : State} {id : FetchId} :
    (s.updFetch fun e => { e with orders := e.orders.filter fun o => o.id ≠ id }).order? id = none := by
  simp [State.order?]

/-- A completed fetch is freed (R140). -/
theorem order?_completeFetch (id : FetchId) (outcome : Status) (s : State) :
    (completeFetch id outcome s).order? id = none := by
  unfold completeFetch
  split
  · next h => exact h
  · exact order?_filtered

/-- A unit of fetch order `id` is in progress on drive `d` (R70). -/
def fetchUnitRuns (s : State) (d : DriveId) (id : FetchId) : Prop :=
  ∃ w, (s.drive d).unit = some ⟨w, false⟩ ∧ ((∃ a b, w = .trailerRead id a b) ∨ ∃ b ps a n, w = .pageRead id b ps a n)

/-- The state of a page delivered (R137): its order's delivery over and counted, its buffer free, its order off the send
list. -/
def delivered (id : FetchId) (p : Delivering) (s : State) : State :=
  State.updLink
    { s with fetch := { s.fetch with
      orders := s.fetch.orders.map fun x =>
        if x.id = id then { x with delivery := none, delivered := x.delivered + 1 } else x
      buffers := s.fetch.buffers.setIfInBounds p.buf none } }
    id.station fun l => { l with sendList := l.sendList.filter (fun x => x ≠ id) }

theorem delivered_order {s : State} {id : FetchId} {o : FetchOrder} (p : Delivering) (h : s.order? id = some o) :
    (delivered id p s).order? id = some { o with delivery := none, delivered := o.delivered + 1 } :=
  order?_updOrder (f := fun x => { x with delivery := none, delivered := x.delivered + 1 }) h fun _ => rfl

theorem pageDelivered_eq {s : State} {id : FetchId} {o : FetchOrder} {p : Delivering} {d : DriveId}
    (ho : s.order? id = some o) (hp : o.delivery = some p) (hd : o.place = .drive d) :
    (o.next ≤ o.lastPage ∨ o.staged ≠ none ∨ fetchUnitRuns s d id → pageDelivered id s = delivered id p s)
      ∧ (o.lastPage < o.next → o.staged = none → ¬ fetchUnitRuns s d id →
        pageDelivered id s = completeFetch id (if o.unreadable = 0 then .done else .donePartial) (delivered id p s)) := by
  let running : Bool :=
    match (s.drive d).unit with
    | some ⟨.trailerRead i _ _, ended⟩ => i == id && !ended
    | some ⟨.pageRead i _ _ _ _, ended⟩ => i == id && !ended
    | _ => false
  have hruns : running = true ↔ fetchUnitRuns s d id := by
    unfold running fetchUnitRuns
    split
    · next i a b ended h =>
      simp only [h, Option.some.injEq, DriveUnit.mk.injEq, Bool.and_eq_true, beq_iff_eq, Bool.not_eq_true']
      constructor
      · rintro ⟨rfl, rfl⟩
        exact ⟨_, ⟨rfl, rfl⟩, .inl ⟨a, b, rfl⟩⟩
      · rintro ⟨w, ⟨rfl, rfl⟩, ⟨_, _, hw⟩ | ⟨_, _, _, _, hw⟩⟩ <;> cases hw
        exact ⟨rfl, rfl⟩
    · next i b ps a n ended h =>
      simp only [h, Option.some.injEq, DriveUnit.mk.injEq, Bool.and_eq_true, beq_iff_eq, Bool.not_eq_true']
      constructor
      · rintro ⟨rfl, rfl⟩
        exact ⟨_, ⟨rfl, rfl⟩, .inr ⟨b, ps, a, n, rfl⟩⟩
      · rintro ⟨w, ⟨rfl, rfl⟩, ⟨_, _, hw⟩ | ⟨_, _, _, _, hw⟩⟩ <;> cases hw
        exact ⟨rfl, rfl⟩
    · next h1 h2 =>
      simp only [Bool.false_eq_true, false_iff]
      rintro ⟨w, hw, ⟨a, b, rfl⟩ | ⟨b, ps, a, n, rfl⟩⟩
      · exact h1 _ _ _ _ hw
      · exact h2 _ _ _ _ _ _ hw
  have heq : pageDelivered id s = if o.next > o.lastPage ∧ o.staged = none ∧ (!running) = true
      then completeFetch id (if o.unreadable = 0 then .done else .donePartial) (delivered id p s)
      else delivered id p s := by
    unfold pageDelivered
    simp only [ho, hp, hd]
    rfl
  rw [heq]
  refine ⟨fun h => if_neg ?_, fun hlast hstaged hnot => if_pos ⟨hlast, hstaged, ?_⟩⟩
  · rintro ⟨hlast, hstaged, hnot⟩
    rcases h with h | h | h
    · omega
    · exact h hstaged
    · rw [hruns.mpr h] at hnot; cases hnot
  · exact (Bool.not_eq_true' _).mpr (Bool.eq_false_iff.mpr (mt hruns.mp hnot))

/-- A DATA frame counted in the page in delivery (R137). -/
def countSent (o : FetchOrder) : FetchOrder := { o with delivery := o.delivery.map fun p => { p with sent := p.sent + 1 } }

theorem dataSent_last {s : State} {id : FetchId} {o : FetchOrder} {p : Delivering} {d : DriveId}
    (ho : s.order? id = some o) (hp : o.delivery = some p) (hd : o.place = .drive d) :
    (o.next ≤ o.lastPage ∨ o.staged ≠ none ∨ fetchUnitRuns s d id → dataSent id true s = delivered id p s)
      ∧ (o.lastPage < o.next → o.staged = none → ¬ fetchUnitRuns s d id →
        dataSent id true s = completeFetch id (if o.unreadable = 0 then .done else .donePartial) (delivered id p s)) := by
  have ho' : (s.updOrder id countSent).order? id = some (countSent o) := order?_updOrder ho fun _ => rfl
  have hp' : (countSent o).delivery = some { p with sent := p.sent + 1 } := by simp [countSent, hp]
  have hstate : delivered id { p with sent := p.sent + 1 } (s.updOrder id countSent) = delivered id p s := by
    unfold delivered
    simp only [State.updOrder, State.updFetch, map_updated_twice _ id countSent _ fun _ => rfl]
    rfl
  have h := pageDelivered_eq ho' hp' hd
  rw [hstate] at h
  exact h

/-- Settles O34. -/
theorem transmitter : Obligations.Transmitter := by
  refine ⟨fun s st => ⟨fun f hf => ?busy, fun hfree => ⟨kick_reset hfree, fun hdue => ⟨kick_resetting hfree hdue,
    fun hup => ⟨fun r rs => kick_reply hfree hdue hup, fun hnone hatt => kick_attention hfree hdue hup hnone hatt,
      fun hnone hatt => ⟨fun hlist => ?nothing, fun id ids o p hlist ho hp => ?data⟩⟩⟩⟩⟩,
    fun s st => ⟨fun hnone => ?idle, fun r hr hbuf => ?reply, fun h => ?plain, fun g k i last bytes h => ?orphan,
      fun id g k i bytes h => ?part, fun id g k i bytes o p d h ho hp hd => ?last⟩⟩
  case busy => simp [kick, hf]
  case nothing => rw [kick_data hfree hdue hup hnone hatt, nextData_none hlist]
  case data =>
    rw [kick_data hfree hdue hup hnone hatt, nextData_head hlist ho hp]
    rfl
  case idle =>
    show finished (frameDone st s) = _
    rw [frameDone, hnone]
  case reply =>
    rw [exec_frameSent hr, afterSent_reply, takeHeld_none (by simpa using hbuf)]
  case plain =>
    rcases h with h | ⟨c, h⟩
    · exact (exec_frameSent h).trans (congrArg followed (rfl : afterSent st .attention _ = _))
    · exact (exec_frameSent h).trans (congrArg followed (rfl : afterSent st (.linkReset c) _ = _))
  case orphan =>
    exact (exec_frameSent h).trans (congrArg followed (rfl : afterSent st (.data none g k i last bytes) _ = _))
  case part =>
    exact (exec_frameSent h).trans (congrArg followed (rfl : afterSent st (.data (some id) g k i false bytes) _ = _))
  case last =>
    intro running u
    have ho' : (s.updLink st fun l => { l with sending := none }).order? id = some o := ho
    have hout : exec (.frameSent st) s = followed (dataSent id true (s.updLink st fun l => { l with sending := none })) :=
      (exec_frameSent h).trans (congrArg followed (rfl : afterSent st (.data (some id) g k i true bytes) _ = _))
    obtain ⟨hstays, hends⟩ := dataSent_last ho' hp hd
    refine ⟨delivered_order p ho', fun hbuf => ?_, fun hmore => ?_, fun hlast hstaged hnot => ⟨?_, order?_completeFetch ..⟩⟩
    · show (s.fetch.buffers.setIfInBounds p.buf none).toList[p.buf]? = _
      simp [hbuf]
    · exact hout.trans (congrArg followed (hstays hmore))
    · exact hout.trans (congrArg followed (hends hlast hstaged hnot))

end Sys2Proof.Laws.Links

/-!
PROOF. The requests of the CASH family and SET_DATE (chapter 8): accounts, rates, discounts, the day and the journal; the
obligations O18 to O21.
-/

namespace Sys2Proof.Laws.Cash

open Sys2Proof Sys2Proof.Machine Sys2Proof.Laws.Noting Sys2Proof.Laws.Bodies

@[simp] theorem isSome_masked (m i v : Nat) : (masked m i v).isSome = m.testBit i := by
  unfold masked maskBit
  cases m.testBit i <;> rfl

theorem masked_eq (m i v : Nat) : masked m i v = if m.testBit i then some v else none := rfl

theorem moneyOk_iff (v : Nat) : moneyOk v = true ↔ 1 ≤ v ∧ v ≤ 99999999 := by
  rw [moneyOk, Bool.and_eq_true, decide_eq_true_eq, decide_eq_true_eq]
  exact Iff.rfl

theorem accountNumberOk_iff (n : Nat) : accountNumberOk n = true ↔ 1 ≤ n ∧ n ≤ 9999 := by
  rw [accountNumberOk, Bool.and_eq_true, decide_eq_true_eq, decide_eq_true_eq]

/-! ### ACCOUNT_OPEN (R167) -/

theorem find?_insertAccount (a : Account) (l : List Account) (m : Nat) (h : ∀ x ∈ l, x.number ≠ a.number) :
    (insertAccount a l).find? (fun x => x.number = m)
      = if m = a.number then some a else l.find? (fun x => x.number = m) := by
  induction l with
  | nil => by_cases hm : m = a.number <;> simp [insertAccount, hm, eq_comm]
  | cons x xs ih =>
    have hx : x.number ≠ a.number := h x (by simp)
    have ih := ih fun y hy => h y (by simp [hy])
    unfold insertAccount
    split
    · by_cases hm : m = a.number
      · simp [hm]
      · simp [hm, List.find?_cons, Ne.symm hm]
    · rw [List.find?_cons, List.find?_cons, ih]
      by_cases hm : m = a.number
      · simp [hm, hx]
      · simp [hm]

theorem length_insertAccount (a : Account) (l : List Account) : (insertAccount a l).length = l.length + 1 := by
  induction l with
  | nil => rfl
  | cons x xs ih =>
    unfold insertAccount
    split
    · rfl
    · simp [ih]

theorem account?_none_iff (s : State) (n : Nat) : s.account? n = none ↔ ∀ x ∈ s.fee.accounts, x.number ≠ n := by
  simp [State.account?]

/-- What R167 answers with BAD_REQUEST. -/
abbrev badOpen (n cat mask cap discount low : Nat) : Prop :=
  n = 0 ∨ 9999 < n ∨ cat = 0 ∨ 3 < cat ∨ (mask.testBit 0 = true ∧ (cap = 0 ∨ 99999999 < cap))
    ∨ (mask.testBit 1 = true ∧ 100 < discount) ∨ (mask.testBit 2 = true ∧ (low = 0 ∨ 99999999 < low))
    ∨ (mask.testBit 2 = true ∧ cat ≠ 1) ∨ (cat = 3 ∧ (mask.testBit 0 = true ∨ mask.testBit 1 = true))

theorem accountCategory_none {cat : Nat} (h : cat = 0 ∨ 3 < cat) : accountCategory cat = none := by
  unfold accountCategory
  split
  · omega
  · omega
  · omega
  · rfl

/-- The category of a body's byte from 1 to 3 (R150). -/
def categoryOf (cat : Nat) : Category := if cat = 1 then .solicitor else if cat = 2 then .government else .staff

theorem accountCategory_some {cat : Nat} (h : 1 ≤ cat ∧ cat ≤ 3) :
    accountCategory cat = some (categoryOf cat) ∧ (categoryOf cat = .solicitor ↔ cat = 1)
      ∧ (categoryOf cat = .staff ↔ cat = 3) := by
  obtain rfl | rfl | rfl : cat = 1 ∨ cat = 2 ∨ cat = 3 := by omega
  all_goals decide

/-- The body of an ACCOUNT_OPEN (R205). -/
def openBody (n : Nat) (cat mask : Byte) (cap : Nat) (discount : Byte) (low : Nat) : List Byte :=
  beBytes 2 n ++ [cat, mask] ++ beBytes 4 cap ++ [discount] ++ beBytes 4 low

/-- The account that an ACCOUNT_OPEN makes (R167). -/
def openedAccount (n cat mask cap discount low : Nat) : Account where
  number := n
  category := categoryOf cat
  state := .opened
  balance := if cat = 1 then some 0 else none
  cap := if mask.testBit 0 then some cap else none
  dayTotal := 0
  discount := if mask.testBit 1 then some discount else none
  lowMark := if mask.testBit 2 then some low else none

section
variable {n cap low : Nat} {cat mask discount : Byte} (hn : n < 256 ^ 2) (hcap : cap < 256 ^ 4) (hlow : low < 256 ^ 4)
include hn hcap hlow

theorem openBody_fields :
    field (openBody n cat mask cap discount low) 0 2 = n ∧ byteAt (openBody n cat mask cap discount low) 2 = cat.toNat
      ∧ byteAt (openBody n cat mask cap discount low) 3 = mask.toNat
      ∧ field (openBody n cat mask cap discount low) 4 4 = cap
      ∧ byteAt (openBody n cat mask cap discount low) 8 = discount.toNat
      ∧ field (openBody n cat mask cap discount low) 9 4 = low := by
  refine ⟨?_, ?_, ?_, ?_, ?_, ?_⟩ <;> simp (disch := omega) [openBody]

/-- The refusals and the act of an ACCOUNT_OPEN, on the fields of its body. -/
theorem accountOpenRequest_fields (st : Station) (tag : Byte) (s : State) :
    accountOpenRequest st tag (openBody n cat mask cap discount low) s
      = if badOpen n cat.toNat mask.toNat cap discount.toNat low then addReply st ⟨tag, 0x30, .badRequest, .none⟩ s
        else if s.account? n ≠ none then addReply st ⟨tag, 0x30, .duplicate, .none⟩ s
        else if 2048 ≤ s.fee.accounts.length then addReply st ⟨tag, 0x30, .accountsFull, .none⟩ s
        else addReply st ⟨tag, 0x30, .done, .none⟩
          (s.updFee fun u => { u with
            accounts := insertAccount (openedAccount n cat.toNat mask.toNat cap discount.toNat low) u.accounts }) := by
  obtain ⟨h1, h2, h3, h4, h5, h6⟩ := openBody_fields (cat := cat) (mask := mask) (discount := discount) hn hcap hlow
  simp only [accountOpenRequest, h1, h2, h3, h4, h5, h6]
  by_cases hc : cat.toNat = 0 ∨ 3 < cat.toNat
  · rw [accountCategory_none hc, if_pos (by tauto)]
    rfl
  · obtain ⟨hk, hs, ht⟩ := accountCategory_some (cat := cat.toNat) (by omega)
    simp only [hk]
    have hbad : (!accountNumberOk n || (masked mask.toNat 0 cap).any (fun v => !moneyOk v)
        || (masked mask.toNat 1 discount.toNat).any (fun v => decide (100 < v))
        || (masked mask.toNat 2 low).any (fun v => !moneyOk v)
        || ((masked mask.toNat 2 low).isSome && categoryOf cat.toNat != .solicitor)
        || (categoryOf cat.toNat == .staff && ((masked mask.toNat 0 cap).isSome
          || (masked mask.toNat 1 discount.toNat).isSome))) = true
        ↔ badOpen n cat.toNat mask.toNat cap discount.toNat low := by
      have hm := moneyOk_iff cap
      have hl := moneyOk_iff low
      have ha := accountNumberOk_iff n
      simp only [Notices.any_masked, isSome_masked, Bool.or_eq_true, Bool.and_eq_true, bne_iff_ne, beq_iff_eq, ne_eq, hs,
        ht, decide_eq_true_eq, Bool.not_eq_true', ← Bool.not_eq_true, hm, hl, ha]
      grind
    simp only [hbad, refuse, Option.isSome_iff_ne_none, hs, Config.accountsMax, ge_iff_le]
    rfl

end

/-! ### ACCOUNT_UPDATE (R168) -/

/-- The body of an ACCOUNT_UPDATE (R205). -/
def updateBody (n : Nat) (mask state : Byte) (cap : Nat) (discount : Byte) (low : Nat) : List Byte :=
  beBytes 2 n ++ [mask, state] ++ beBytes 4 cap ++ [discount] ++ beBytes 4 low

/-- What R168 answers with BAD_REQUEST for an account of the table. -/
abbrev badUpdate (a : Account) (mask state cap discount low : Nat) : Prop :=
  (mask.testBit 0 = true ∧ 1 < state) ∨ (mask.testBit 1 = true ∧ 99999999 < cap)
    ∨ (mask.testBit 3 = true ∧ 99999999 < low) ∨ (mask.testBit 2 = true ∧ 100 < discount ∧ discount ≠ 255)
    ∨ (a.category = .staff ∧ (mask.testBit 1 = true ∨ mask.testBit 2 = true))
    ∨ (mask.testBit 3 = true ∧ a.category ≠ .solicitor)

theorem updateRefused_iff (a : Account) (mask state cap discount low : Nat) :
    updateRefused a (masked mask 0 state) (masked mask 1 cap) (masked mask 2 discount) (masked mask 3 low) = true
      ↔ badUpdate a mask state cap discount low := by
  have hmoney (v : Nat) : (v != 0 && !moneyOk v) = true ↔ 99999999 < v := by
    rw [Bool.and_eq_true, Bool.not_eq_true', ← Bool.not_eq_true, moneyOk_iff, bne_iff_ne]
    omega
  simp only [updateRefused, Notices.any_masked, isSome_masked, Bool.or_eq_true, Bool.and_eq_true, hmoney, bne_iff_ne,
    beq_iff_eq, ne_eq, decide_eq_true_eq]
  tauto

/-- The account that an ACCOUNT_UPDATE leaves (R168). -/
theorem updatedAccount_masked (a : Account) (mask state cap discount low : Nat) :
    updatedAccount a (masked mask 0 state) (masked mask 1 cap) (masked mask 2 discount) (masked mask 3 low)
      = { a with
          state := if mask.testBit 0 then (if state = 0 then .opened else .suspended) else a.state
          cap := if mask.testBit 1 then (if cap = 0 then none else some cap) else a.cap
          discount := if mask.testBit 2 then (if discount = 255 then none else some discount) else a.discount
          lowMark := if mask.testBit 3 then (if low = 0 then none else some low) else a.lowMark } := by
  simp only [updatedAccount, masked_eq]
  cases mask.testBit 0 <;> cases mask.testBit 1 <;> cases mask.testBit 2 <;> cases mask.testBit 3 <;> rfl

section
variable {n cap low : Nat} {mask state discount : Byte} (hn : n < 256 ^ 2) (hcap : cap < 256 ^ 4) (hlow : low < 256 ^ 4)
include hn hcap hlow

/-- The refusals and the act of an ACCOUNT_UPDATE, on the fields of its body. -/
theorem accountUpdateRequest_fields (st : Station) (tag : Byte) (s : State) :
    accountUpdateRequest st tag (updateBody n mask state cap discount low) s
      = if n = 0 ∨ 9999 < n then addReply st ⟨tag, 0x31, .badRequest, .none⟩ s
        else (s.account? n).elim (addReply st ⟨tag, 0x31, .noAccount, .none⟩ s) fun a =>
          if badUpdate a mask.toNat state.toNat cap discount.toNat low then addReply st ⟨tag, 0x31, .badRequest, .none⟩ s
          else
            let b := updatedAccount a (masked mask.toNat 0 state.toNat) (masked mask.toNat 1 cap)
              (masked mask.toNat 2 discount.toNat) (masked mask.toNat 3 low)
            addReply st ⟨tag, 0x31, .done, .account b⟩ (s.updAccount n fun _ => b) := by
  have hfields : field (updateBody n mask state cap discount low) 0 2 = n
      ∧ byteAt (updateBody n mask state cap discount low) 2 = mask.toNat
      ∧ byteAt (updateBody n mask state cap discount low) 3 = state.toNat
      ∧ field (updateBody n mask state cap discount low) 4 4 = cap
      ∧ byteAt (updateBody n mask state cap discount low) 8 = discount.toNat
      ∧ field (updateBody n mask state cap discount low) 9 4 = low := by
    refine ⟨?_, ?_, ?_, ?_, ?_, ?_⟩ <;> simp (disch := omega) [updateBody]
  obtain ⟨h1, h2, h3, h4, h5, h6⟩ := hfields
  have hnum : (!accountNumberOk n) = true ↔ n = 0 ∨ 9999 < n := by
    rw [Bool.not_eq_true', ← Bool.not_eq_true, accountNumberOk_iff]
    omega
  simp only [accountUpdateRequest, h1, h2, h3, h4, h5, h6, hnum, updateRefused_iff, refuse]
  split
  · rfl
  · cases s.account? n <;> rfl

end

theorem decodes_accountOpen (n cap low : Nat) (cat discount : Byte) {mask : Byte} (h : mask.toNat < 8) :
    decodes .accountOpen (openBody n cat mask cap discount low) = true := by
  simpa [decodes, openBody, Req.bodyLength] using h

theorem decodes_accountUpdate (n cap low : Nat) (state discount : Byte) {mask : Byte} (h : mask.toNat < 16) :
    decodes .accountUpdate (updateBody n mask state cap discount low) = true := by
  simpa [decodes, updateBody, Req.bodyLength] using h

/-- Settles O18. -/
theorem accountOpenAndUpdate : Obligations.AccountOpenAndUpdate := by
  refine ⟨?_, ?_⟩
  · intro s st tag cat mask discount n cap low hadm hn hcap hlow hmask out no names bad
    have hserve : out = finished (accountOpenRequest st tag (openBody n cat mask cap discount low) s) :=
      exec_served (r := .accountOpen) hadm (decodes_accountOpen n cap low cat discount hmask)
    have hbad : badOpen n cat.toNat mask.toNat cap discount.toNat low ↔ bad := by
      have h0 : cat.toNat = 0 ↔ cat = 0 := by bv_omega
      have h1 : cat.toNat = 1 ↔ cat = 1 := by bv_omega
      have h3 : cat.toNat = 3 ↔ cat = 3 := by bv_omega
      simp only [badOpen, h0, h1, h3, ne_eq, bad, names]
    rw [accountOpenRequest_fields hn hcap hlow] at hserve
    simp only [hbad] at hserve
    refine ⟨fun h => ?_, fun h ha => ?_, fun h ha hl => ?_, fun h ha hl => ?_⟩
    · rw [hserve, if_pos h]
    · rw [hserve, if_neg h, if_pos ha]
    · rw [hserve, if_neg h, if_neg (not_not.2 ha), if_pos hl]
    · rw [if_neg h, if_neg (not_not.2 ha), if_neg (by omega)] at hserve
      refine ⟨_, openedAccount n cat.toNat mask.toNat cap discount.toNat low, hserve, ?_, rfl, length_insertAccount ..,
        fun m => find?_insertAccount _ _ m ((account?_none_iff s n).1 ha)⟩
      have h1 : cat.toNat = 1 ↔ cat = 1 := by bv_omega
      have h2 : cat.toNat = 2 ↔ cat = 2 := by bv_omega
      simp only [openedAccount, categoryOf, h1, h2]
  · intro s st tag mask state discount n cap low hadm hn hcap hlow hmask out no names
    have hserve : out = finished (accountUpdateRequest st tag (updateBody n mask state cap discount low) s) :=
      exec_served (r := .accountUpdate) hadm (decodes_accountUpdate n cap low state discount hmask)
    rw [accountUpdateRequest_fields hn hcap hlow] at hserve
    refine ⟨fun h => by rw [hserve, if_pos h], fun h1 h2 => ?_⟩
    rw [if_neg (by omega)] at hserve
    refine ⟨fun ha => by simp only [hserve, ha, Option.elim_none, no], ?_⟩
    intro a ha bad
    have hff : discount.toNat = 255 ↔ discount = 0xFF := by bv_omega
    have hbad : badUpdate a mask.toNat state.toNat cap discount.toNat low ↔ bad := by
      simp only [badUpdate, hff, ne_eq, bad, names]
    simp only [ha, Option.elim_some, hbad] at hserve
    refine ⟨fun h => by rw [hserve, if_pos h], fun h b hb => ?_⟩
    have hz : state.toNat = 0 ↔ state = 0 := by bv_omega
    rw [if_neg h, updatedAccount_masked] at hserve
    simp only [hff, hz, ← hb] at hserve
    exact hserve

/-! ### ACCOUNT_CREDIT and ACCOUNT_CLOSE (R169, R170) -/

theorem badNumber_iff (n : Nat) : (!accountNumberOk n) = true ↔ n = 0 ∨ 9999 < n := by
  rw [Bool.not_eq_true', ← Bool.not_eq_true, accountNumberOk_iff]
  omega

theorem accountBusy_iff (s : State) (n : Nat) :
    (!(s.holdsOf n).isEmpty || decide (0 < s.fetchesOf n)) = true
      ↔ (∃ h ∈ s.fee.holds, h.account = n) ∨ (∃ o ∈ s.fetch.orders, o.account = n) := by
  simp [State.holdsOf, State.fetchesOf, List.length_pos_iff_exists_mem]

/-- Settles O19. -/
theorem accountCreditAndClose : Obligations.AccountCreditAndClose := by
  intro s st tag n v hn hv
  refine ⟨?_, ?_⟩
  · intro hadm out no
    have hserve : out = finished (accountCreditRequest st tag (beBytes 2 n ++ beBytes 4 v) s) :=
      exec_served (r := .accountCredit) hadm rfl
    have hbad : (!accountNumberOk n || !moneyOk v) = true ↔ n = 0 ∨ 9999 < n ∨ v = 0 ∨ 99999999 < v := by
      rw [Bool.or_eq_true, badNumber_iff, Bool.not_eq_true', ← Bool.not_eq_true, moneyOk_iff]
      omega
    simp (disch := omega) only [accountCreditRequest, field_two, field_past_two, field_four_last, hbad] at hserve
    refine ⟨fun h => by rw [hserve, if_pos h]; rfl, fun h1 h2 h3 h4 => ?_⟩
    rw [if_neg (by omega)] at hserve
    refine ⟨fun ha => by rw [hserve, ha]; rfl, fun a ha => ?_⟩
    simp only [ha] at hserve
    refine ⟨fun hc => by rw [hserve, if_pos hc]; rfl, fun b hc hb => ?_⟩
    rw [if_neg (not_not.2 hc), hb] at hserve
    exact ⟨fun h => by rw [hserve]; exact congrArg finished (if_pos h), fun h => by
      rw [hserve]; exact congrArg finished (if_neg (Nat.not_lt.2 h))⟩
  · intro hadm out no
    have hserve : out = finished (accountCloseRequest st tag (beBytes 2 n) s) :=
      exec_served (r := .accountClose) hadm rfl
    simp (disch := omega) only [accountCloseRequest, field_two_last, badNumber_iff, accountBusy_iff] at hserve
    refine ⟨fun h => by rw [hserve, if_pos h]; rfl, fun h1 h2 => ?_⟩
    rw [if_neg (by omega)] at hserve
    refine ⟨fun ha => by rw [hserve, ha]; rfl, fun a ha => ?_⟩
    simp only [ha] at hserve
    refine ⟨fun h => by rw [hserve, if_pos h]; rfl, fun hh ho => ?_⟩
    rw [hserve, if_neg (by rintro (⟨h, hm, he⟩ | ⟨o, hm, he⟩); exacts [hh h hm he, ho o hm he])]
    rfl

/-! ### Rates and discounts (R172, R173) -/

/-- Settles O20. -/
theorem ratesAndDiscounts : Obligations.RatesAndDiscounts := by
  intro s st tag
  refine ⟨?_, ?_⟩
  · intro cls mask v f g c m x hadm hmask hv hf hg hc hm hx out no named
    have hserve : out = finished (setScheduleRequest st tag ([cls, mask] ++ beBytes 2 v ++ beBytes 2 f ++ beBytes 2 g
        ++ beBytes 2 c ++ beBytes 4 m ++ beBytes 4 x) s) :=
      exec_served (r := .setSchedule) hadm (by simpa [decodes, Req.bodyLength] using hmask)
    simp (disch := omega) only [setScheduleRequest, List.cons_append, List.nil_append, List.append_assoc, byteAt_here,
      byteAt_past_byte, field_past_byte, field_two, field_past_two, field_four, field_past_four, field_four_last,
      Notices.any_masked, Notices.masked_getD, Bool.and_eq_true, decide_eq_true_eq] at hserve
    refine ⟨fun h => by rw [hserve, if_pos (.inl h)]; rfl, ?_⟩
    intro old hold new
    have hrates : s.fee.rates cls.toNat = old := by simp [FeeUnit.rates, List.getD, hold]
    have hcls : cls.toNat ≤ 7 := by
      have := (List.getElem?_eq_some_iff.1 hold).1
      simpa [Nat.lt_succ_iff] using this
    rw [hrates] at hserve
    refine ⟨fun h => ?_, fun h4 h5 hmx => ?_⟩
    · rw [hserve, if_pos (.inr h)]
      rfl
    · rw [hserve, if_neg ?_]
      · rfl
      · rintro (h | ⟨hb, h⟩ | ⟨hb, h⟩ | h)
        · omega
        · exact absurd (h4 hb) (Nat.not_le.2 h)
        · exact absurd (h5 hb) (Nat.not_le.2 h)
        · exact absurd hmx (Nat.not_le.2 h)
  · intro cat v hadm out set
    have hserve : out = finished (setDiscountRequest st tag [cat, v] s) := exec_served (r := .setCategoryDiscount) hadm rfl
    refine ⟨?_, ?_, ?_, fun h => ?_⟩
    · rintro rfl; exact hserve
    · rintro rfl; exact hserve
    · rintro rfl; exact hserve
    · rw [hserve]
      simp only [setDiscountRequest, byteAt_here]
      split
      case h_4 => rfl
      all_goals omega

/-! ### The day and the journal (R163, R165, R166) -/

/-- Settles O21. -/
theorem dayAndJournal : Obligations.DayAndJournal := by
  refine ⟨fun s st tag => ?_, fun s st tag out stay hadm hj hl => ?_⟩
  · intro closed
    refine ⟨?_, ?_⟩
    · intro hadm out
      have hserve : out = finished (dayCloseRequest st tag s) := exec_served (r := .dayClose) hadm rfl
      exact ⟨fun h => hserve.trans (congrArg finished (if_pos h)),
        fun h => hserve.trans (congrArg finished (if_neg (Nat.not_le.2 h)))⟩
    · intro d hadm hd out
      have hserve : out = finished (setDateRequest st tag (beBytes 4 d) s) := exec_served (r := .setDate) hadm rfl
      simp (disch := omega) only [setDateRequest, field_four_last, Config.dateMax] at hserve
      refine ⟨fun h => ?_, fun h hlt => ?_, fun h he => ?_, fun h hlt => ?_⟩
      · rw [hserve, if_pos h]; rfl
      · rw [hserve, if_neg (by omega), if_pos hlt]; rfl
      · rw [hserve, if_neg (by omega), if_neg (by omega), if_pos he]
      · rw [hserve, if_neg (by omega), if_neg (by omega), if_neg (by omega)]; rfl
  · have hserve : exec (.journalTake st tag []) s = finished (journalTakeRequest st tag s) :=
      exec_served (r := .journalTake) hadm rfl
    obtain ⟨htake, hdrop⟩ : s.fee.journal.take 8 = out ∧ s.fee.journal.drop 8 = stay := by
      rw [hj, List.length_append] at hl
      rw [hj, List.take_append, List.drop_append]
      obtain h8 | h0 : out.length = 8 ∨ stay.length = 0 := by omega
      · simp [List.take_of_length_le h8.le, List.drop_eq_nil_of_le h8.le, h8]
      · have hle : out.length ≤ 8 := by omega
        simp [List.take_of_length_le hle, List.drop_eq_nil_of_le hle, List.length_eq_zero_iff.1 h0]
    rw [hserve, journalTakeRequest, htake, hdrop]
    simp only [State.updFee, hdrop]

end Sys2Proof.Laws.Cash

/-!
PROOF. The queries: each answers DONE from the records and changes nothing (the obligation O22).
-/

namespace Sys2Proof.Laws.Queries

open Sys2Proof Sys2Proof.Machine Sys2Proof.Laws.Bodies Sys2Proof.Laws.Cash

/-- Every cartridge of the table is at one of the six kinds of place (R39). -/
theorem sum_locationCounts (s : State) :
    (libraryInfo s).onShelf + (libraryInfo s).inDrive + (libraryInfo s).onArm + (libraryInfo s).inSlot
      + (libraryInfo s).exported + (libraryInfo s).missing = s.library.table.length := by
  simp only [libraryInfo, locationCount]
  induction s.library.table with
  | nil => rfl
  | cons c cs ih =>
    simp only [List.filter_cons, List.length_cons, ← ih]
    cases c.location <;> simp <;> omega

theorem mem_pendingLines (s : State) {i : Nat} (h1 : 1 ≤ i) (h2 : i ≤ 24) :
    ⟨i, (s.source i).level, (s.source i).target, (s.source i).enabled⟩ ∈ pendingLines s ↔ (s.source i).pending = true := by
  simp only [pendingLines, List.mem_map, List.mem_filter, NoticeLine.mk.injEq]
  constructor
  · rintro ⟨j, ⟨-, hp⟩, rfl, -⟩
    exact hp
  · exact fun hp => ⟨i, ⟨Notices.mem_sourceNumbers.2 ⟨h1, h2⟩, hp⟩, rfl, rfl, rfl, rfl⟩

theorem phaseCount_eq (s : State) (p : FetchPhase) :
    phaseCount s p = (((statusInfo s).fetches).filter fun f => f.phase = p).length := by
  rw [statusInfo, List.filter_map, List.length_map]
  rfl

theorem statusInfo_station (s : State) (t : Station) : (statusInfo s).stations.get t = stationStatus s t := by
  fin_cases t <;> rfl

theorem statusInfo_drive (s : State) (d : DriveId) : (statusInfo s).drives.get d = driveStatus s d := by
  fin_cases d <;> rfl

/-- Settles O22. -/
theorem queries : Obligations.Queries := by
  intro s st tag n k hn gives
  refine ⟨?_, ?_, ?_, ?_, ?_, ?_⟩
  · intro hadm out
    have hserve : out = finished (accountQueryRequest st tag (beBytes 2 n) s) := exec_served (r := .accountQuery) hadm rfl
    simp (disch := omega) only [accountQueryRequest, field_two_last] at hserve
    refine ⟨fun h => by rw [hserve, if_pos h]; rfl, fun h => ?_, fun h1 h2 => ?_⟩
    · rw [hserve, if_neg (by omega), if_pos h]
    · rw [if_neg (by omega), if_neg (by omega)] at hserve
      exact ⟨fun ha => by rw [hserve, ha]; rfl, fun a ha => by rw [hserve, ha]⟩
  · intro hadm out
    have hserve : out = finished (tallyQueryRequest st tag [k] s) := exec_served (r := .tallyQuery) hadm rfl
    refine ⟨?_, ?_, fun h => ?_⟩
    · rintro rfl; exact hserve
    · rintro rfl; exact hserve
    · rw [hserve]
      simp only [tallyQueryRequest, byteAt_here]
      split
      case h_3 => rfl
      all_goals omega
  · intro hadm out
    have hserve : out = finished (libraryQueryRequest st tag (beBytes 2 n) s) := exec_served (r := .libraryQuery) hadm rfl
    simp (disch := omega) only [libraryQueryRequest, field_two_last] at hserve
    refine ⟨fun h hc => ?_, fun c h hc => ?_, fun h => ⟨libraryInfo s, ?_, rfl, sum_locationCounts s, rfl, rfl, rfl, rfl,
      rfl, rfl, rfl, rfl⟩⟩
    · rw [hserve, if_neg h, hc]; rfl
    · rw [hserve, if_neg h, hc]
    · rw [hserve, if_pos h]
  · intro hadm
    refine ⟨faultInfo s, exec_served (r := .faultQuery) hadm rfl, rfl, rfl, rfl, rfl, fun m hm => ?_, rfl, rfl, rfl, ?_, rfl,
      rfl⟩
    · simp [faultInfo, hm, State.elapsed, Config.moveTime]
    · simp [faultInfo, groupCount, List.filter_filter, Bool.and_comm]
  · intro hadm
    refine ⟨pendingLines s, exec_served (r := .noticeQuery) hadm rfl, ?_⟩
    rintro i _ h1 h2 rfl
    exact mem_pendingLines s h1 h2
  · intro hadm
    refine ⟨statusInfo s, exec_served (r := .status) hadm rfl, rfl, rfl, rfl, rfl, rfl, rfl, rfl, rfl, rfl, rfl, rfl, rfl,
      rfl, List.length_map .., ?_, rfl, rfl, fun d => ?_, fun t => ?_⟩
    · simp only [← phaseCount_eq]
      rfl
    · rw [statusInfo_drive]
      exact ⟨rfl, rfl, rfl, rfl, rfl⟩
    · rw [statusInfo_station]
      exact ⟨rfl, rfl, rfl, rfl, rfl⟩

end Sys2Proof.Laws.Queries

/-!
PROOF. The requests of the FETCH family: admission, CANCEL_FETCH, QUOTE, LOCATE and FIND, and the acts of the Catalogue
Unit; the obligations O6 to O8 and O10 to O12.
-/

namespace Sys2Proof.Laws.Admissions

open Sys2Proof Sys2Proof.Machine Sys2Proof.Laws.Bodies

/-! ### The checks of admission (R126 to R128) -/

theorem validInstrument_iff (n : Nat) : validInstrument n = true ↔ 1 ≤ n ∧ n ≤ 999999999 := by
  rw [validInstrument, Bool.and_eq_true, decide_eq_true_eq, decide_eq_true_eq]
  exact Iff.rfl

theorem fetchFieldsOk_iff (n p k kind a : Nat) :
    fetchFieldsOk ⟨n, p, k, kind, a⟩ = true
      ↔ (1 ≤ n ∧ n ≤ 999999999) ∧ (1 ≤ p ∧ p ≤ 1000) ∧ k ≤ 1000 ∧ kind ≤ 1 ∧ a ≤ 9999 := by
  simp only [fetchFieldsOk, Bool.and_eq_true, decide_eq_true_eq, validInstrument_iff, and_assoc]

theorem lookup_bad {s : State} {n : Nat} (h : n = 0 ∨ 999999999 < n) : lookup s n = .error .badRequest :=
  if_neg fun hv => by
    have := (validInstrument_iff n).1 hv
    omega

theorem lookup_valid {s : State} {n : Nat} (h1 : 1 ≤ n) (h2 : n ≤ 999999999) :
    lookup s n = match s.entry? n with
      | none => .error .notFiled
      | some e => if e.state = .filing then .error .inFiling else .ok e :=
  if_pos ((validInstrument_iff n).2 ⟨h1, h2⟩)

theorem offLine_iff (c : Cartridge) :
    offLine c = true
      ↔ c.location = .exported ∨ c.location = .missing ∨ c.location = .loadingSlot ∨ c.exportPending = true := by
  unfold offLine
  cases c.location <;> simp

theorem mem_allDrives (d : DriveId) : d ∈ allDrives := by
  fin_cases d <;> decide

theorem upIn_iff {s : State} {n : Nat} {c : Cartridge} (h : s.cart? n = some c) (x : Side) :
    (allDrives.any fun d => s.upIn n x d) = true ↔ c.isUp x := by
  have hup (d : DriveId) : s.upIn n x d = true ↔ c.location = .drive d ∧ c.sideUp = some x := by simp [State.upIn, h]
  simp only [List.any_eq_true, mem_allDrives, true_and, hup]
  rfl

/-- What the checks find that name no account: the COMMITTED entry, and its volume's cartridge (R126, R127). -/
structure Found (s : State) (n p k kind a : Nat) (e : CatEntry) (v : VolumeEntry) (c : Cartridge) : Prop where
  fields : fetchFieldsOk ⟨n, p, k, kind, a⟩ = true
  entry : s.entry? n = some e
  committed : e.state = .committed
  pages : p ≤ e.pages
  volume : s.volume? e.volume = some v
  cart : s.cart? v.cart = some c

/-- The checks that name the account (R128), for a volume that can be brought to a drive. -/
def accountChecks (f : FetchFields) (e : CatEntry) (v : VolumeEntry) (s : State) : Except Status Admission :=
  let acc := if f.account = 0 then none else s.account? f.account
  if f.account ≠ 0 ∧ acc.isNone then .error .noAccount
  else if acc.any (fun a => a.state = .suspended) then .error .suspended
  else
    let snap := snapshot s.fee e.feeClass acc
    if journalled snap.category ∧ s.journalUse ≥ Config.journalMax then .error .journalFull
    else
      let n := effectiveCount e.pages f.first f.count
      let kind := if f.kind = 0 then FetchKind.view else .copy
      .ok ⟨e, n, kind, acc, snap, feeEstimate snap kind n (dayTotalOf acc), v.cart, v.side⟩

section
variable {s : State} {n p k kind a : Nat}

theorem admissionChecks_bad (h : fetchFieldsOk ⟨n, p, k, kind, a⟩ ≠ true) :
    admissionChecks ⟨n, p, k, kind, a⟩ s = .error .badRequest := by
  simp [admissionChecks, h]

theorem admissionChecks_lookup (h : fetchFieldsOk ⟨n, p, k, kind, a⟩ = true) {c : Status} (hl : lookup s n = .error c) :
    admissionChecks ⟨n, p, k, kind, a⟩ s = .error c := by
  simp [admissionChecks, h, hl]

theorem admissionChecks_range (h : fetchFieldsOk ⟨n, p, k, kind, a⟩ = true) {e : CatEntry} (hl : lookup s n = .ok e)
    (hp : e.pages < p) : admissionChecks ⟨n, p, k, kind, a⟩ s = .error .range := by
  simp [admissionChecks, h, hl, hp]

variable {e : CatEntry} {v : VolumeEntry} {c : Cartridge}

theorem Found.lookup (h : Found s n p k kind a e v c) : lookup s n = .ok e := by
  obtain ⟨⟨h1, h2⟩, -⟩ := (fetchFieldsOk_iff ..).1 h.fields
  simp [lookup_valid h1 h2, h.entry, h.committed]

theorem Found.offLine (h : Found s n p k kind a e v c) (ho : offLine c = true) :
    admissionChecks ⟨n, p, k, kind, a⟩ s = .error .offLine := by
  simp [admissionChecks, h.fields, h.lookup, h.pages, h.volume, h.cart, ho]

theorem Found.halted (h : Found s n p k kind a e v c) (ho : Machine.offLine c ≠ true) (hh : s.arm.level = .halted)
    (hu : ¬ c.isUp v.side) : admissionChecks ⟨n, p, k, kind, a⟩ s = .error .libraryHalted := by
  have := mt (upIn_iff h.cart v.side).1 hu
  simp [admissionChecks, h.fields, h.lookup, h.pages, h.volume, h.cart, ho, hh, this]

theorem Found.reachable (h : Found s n p k kind a e v c) (ho : Machine.offLine c ≠ true)
    (hu : s.arm.level = .halted → c.isUp v.side) :
    admissionChecks ⟨n, p, k, kind, a⟩ s = accountChecks ⟨n, p, k, kind, a⟩ e v s := by
  have : ¬ (s.arm.level = .halted ∧ !(allDrives.any fun d => s.upIn v.cart v.side d)) := by
    rintro ⟨hh, hn⟩
    simp [(upIn_iff h.cart v.side).2 (hu hh)] at hn
  unfold admissionChecks
  rw [if_neg (by simp [h.fields]), h.lookup]
  dsimp only
  rw [if_neg (Nat.not_lt.2 h.pages), h.volume]
  dsimp only
  rw [h.cart]
  dsimp only
  rw [if_neg ho, if_neg this]
  rfl

theorem accountChecks_noAccount (ha : a ≠ 0) (hn : s.account? a = none) :
    accountChecks ⟨n, p, k, kind, a⟩ e v s = .error .noAccount := by
  simp [accountChecks, ha, hn]

theorem accountChecks_suspended {x : Account} (ha : a ≠ 0) (hx : s.account? a = some x) (hs : x.state = .suspended) :
    accountChecks ⟨n, p, k, kind, a⟩ e v s = .error .suspended := by
  simp [accountChecks, ha, hx, hs]

/-- The admission that checks 4 to 10 end in. -/
def admission (p k kind : Nat) (e : CatEntry) (v : VolumeEntry) (acc : Option Account) (s : State) : Admission :=
  let snap := snapshot s.fee e.feeClass acc
  let count := if k = 0 then e.pages - p + 1 else min k (e.pages - p + 1)
  let kind := if kind = 0 then FetchKind.view else .copy
  ⟨e, count, kind, acc, snap, feeEstimate snap kind count (dayTotalOf acc), v.cart, v.side⟩

theorem journalled_iff (c : Category) : journalled c = true ↔ c ≠ .staff := by simp [journalled]

/-- For an account that pays, the journal's room is the last of the checks. -/
theorem accountChecks_pays {acc : Option Account} (h : s.pays a acc) :
    accountChecks ⟨n, p, k, kind, a⟩ e v s
      = if (snapshot s.fee e.feeClass acc).category ≠ .staff ∧ 256 ≤ s.fee.journal.length + s.fee.reservations then
          .error .journalFull
        else .ok (admission p k kind e v acc s) := by
  unfold State.pays at h
  unfold accountChecks
  split at h
  case isTrue ha =>
    subst ha h
    simp only [ne_eq, not_true_eq_false, false_and, if_false, if_true, Option.any_none, Bool.false_eq_true, journalled_iff]
    rfl
  case isFalse ha =>
    obtain ⟨hacc, x, rfl, hx⟩ := h
    simp only [ha, hacc, hx, ne_eq, not_false_eq_true, true_and, if_false, Option.isNone_some, Option.any_some,
      Bool.false_eq_true, reduceCtorEq, decide_false, journalled_iff]
    rfl

end

/-! ### A refusal of admission, whatever the request (R126 to R128, R146) -/

theorem refuseFetch_ne {c : Status} (h : c ≠ .offLine) (st : Station) (tag kind : Byte) (s : State) :
    refuseFetch st tag kind c s = refuse st tag kind c s :=
  if_neg h

theorem refuseFetch_offLine (st : Station) (tag kind : Byte) (s : State) :
    refuseFetch st tag kind .offLine s = noticeSet 20 (addReply st ⟨tag, kind, .offLine, .none⟩ s) := by
  rw [refuseFetch, if_pos rfl]
  rfl

theorem refusesAdmission_of_checks {s : State} {st : Station} {tag code : Byte} {n p k a : Nat} {kind : Byte}
    {out : Host.Outcome State Fault Refusal}
    (hout : ∀ c, admissionChecks ⟨n, p, k, kind.toNat, a⟩ s = .error c → out = finished (refuseFetch st tag code c s)) :
    refusesAdmission s st tag code n p k a kind out := by
  have h (c : Status) (hc : admissionChecks ⟨n, p, k, kind.toNat, a⟩ s = .error c) (hne : c ≠ .offLine) :
      out = s.refusing st tag code c := by
    rw [hout c hc, refuseFetch_ne hne]
    rfl
  refine ⟨fun hb => h _ (admissionChecks_bad ?_) nofun, ?_⟩
  · rw [ne_eq, fetchFieldsOk_iff]
    omega
  · rintro ⟨h1, h2, h3, h4, h5, h6, h7⟩
    have hf : fetchFieldsOk ⟨n, p, k, kind.toNat, a⟩ = true :=
      (fetchFieldsOk_iff ..).2 ⟨⟨h1, h2⟩, ⟨h3, h4⟩, h5, h6, h7⟩
    have hl := lookup_valid (s := s) h1 h2
    refine ⟨fun he => h _ (admissionChecks_lookup hf (by rw [hl, he])) nofun, fun e he => ?_⟩
    simp only [he] at hl
    refine ⟨fun hfiling => h _ (admissionChecks_lookup hf (by rw [hl, if_pos hfiling])) nofun, fun hc => ?_⟩
    rw [if_neg (by simp [hc])] at hl
    refine ⟨fun hp => h _ (admissionChecks_range hf hl hp) nofun, fun hp v c hv hcart => ?_⟩
    have hfound : Found s n p k kind.toNat a e v c := ⟨hf, he, hc, hp, hv, hcart⟩
    refine ⟨fun ho => (hout _ (hfound.offLine ((offLine_iff c).2 ho))).trans (congrArg finished (refuseFetch_offLine ..)),
      fun o1 o2 o3 o4 => ?_⟩
    have ho : offLine c ≠ true := by simp [offLine_iff, o1, o2, o3, o4]
    refine ⟨fun hh hu => h _ (hfound.halted ho hh hu) nofun, fun hu => ?_⟩
    have hreach := hfound.reachable ho hu
    refine ⟨fun ha hn => h _ (hreach.trans (accountChecks_noAccount ha hn)) nofun,
      fun x ha hx hs => h _ (hreach.trans (accountChecks_suspended ha hx hs)) nofun, fun acc hacc hstaff hfull => ?_⟩
    exact h _ (hreach.trans ((accountChecks_pays hacc).trans (if_pos ⟨hstaff, hfull⟩))) nofun

/-! ### FETCH and QUOTE (R126 to R129, R146) -/

theorem fetchFields_body {n p k a : Nat} (hn : n < 256 ^ 4) (hp : p < 256 ^ 2) (hk : k < 256 ^ 2) (ha : a < 256 ^ 2)
    (kind : Byte) :
    fetchFields (beBytes 4 n ++ beBytes 2 p ++ beBytes 2 k ++ [kind] ++ beBytes 2 a) = ⟨n, p, k, kind.toNat, a⟩ := by
  simp (disch := omega) [fetchFields]

theorem exec_fetch {s : State} {st : Station} {tag : Byte} (hadm : s.admits st .fetch tag) (n p k a : Nat) (kind : Byte) :
    exec (.fetch st tag (beBytes 4 n ++ beBytes 2 p ++ beBytes 2 k ++ [kind] ++ beBytes 2 a)) s
      = finished (fetchRequest st tag (beBytes 4 n ++ beBytes 2 p ++ beBytes 2 k ++ [kind] ++ beBytes 2 a) s) :=
  exec_served (r := .fetch) hadm rfl

theorem snapshot_category (u : FeeUnit) (cls : Nat) (x : Account) : (snapshot u cls (some x)).category = x.category := by
  by_cases h : x.category = .staff
  · exact (congrArg FeeSnapshot.category (if_pos h)).trans h.symm
  · exact congrArg FeeSnapshot.category (if_neg h)

theorem admissionFunds_admission_solicitor (s : State) (p k kind : Nat) (e : CatEntry) (v : VolumeEntry) {x : Account}
    (h : x.category = .solicitor) :
    admissionFunds s (admission p k kind e v (some x) s) = some (s.available x) :=
  if_pos ((snapshot_category ..).trans h)

theorem admissionFunds_admission_other {s : State} {p k kind : Nat} {e : CatEntry} {v : VolumeEntry} {acc : Option Account}
    (h : (snapshot s.fee e.feeClass acc).category ≠ .solicitor) :
    admissionFunds s (admission p k kind e v acc s) = none :=
  if_neg h

/-- Settles O7. -/
theorem fetchRefused : Obligations.FetchRefused := by
  intro s st tag n p k a kind hadm hn hp hk ha out
  have hserve : out = _ := exec_fetch hadm n p k a kind
  rw [fetchRequest, fetchFields_body hn hp hk ha] at hserve
  refine ⟨refusesAdmission_of_checks fun c hc => by rw [hserve, hc], ?_⟩
  intro e v c x h1 h2 h3 h4 h5 h6 h7 h8 he hcom hpages hv hcart o4 o1 o2 o3 hu hx hopen hsol hroom count hshort
  have hfound : Found s n p k kind.toNat a e v c :=
    ⟨(fetchFieldsOk_iff ..).2 ⟨⟨h1, h2⟩, ⟨h3, h8⟩, h4, h5, h7⟩, he, hcom, hpages, hv, hcart⟩
  have hpays : s.pays a (some x) := by
    rw [State.pays, if_neg (by omega)]
    exact ⟨hx, x, rfl, hopen⟩
  have hchecks := (hfound.reachable (by simp [offLine_iff, o1, o2, o3, o4]) hu).trans (accountChecks_pays hpays)
  rw [if_neg (by omega)] at hchecks
  have hfunds := admissionFunds_admission_solicitor s p k kind.toNat e v hsol
  have hs : fundsShort s (admission p k kind.toNat e v (some x) s) = true := by
    rw [fundsShort, hfunds, Option.any_some, decide_eq_true_eq]
    exact hshort
  rw [hserve, hchecks]
  exact congrArg finished (if_pos hs)

/-- Settles O6. -/
theorem fetchAdmitted : Obligations.FetchAdmitted := by
  intro s st tag n p k a copy e v c acc hadm h1 h2 h3 h4 h5 h6 he hcom hpages hv hcart o4 o1 o2 o3 hu hpays kind snap count
    est hroom hfunds id order
  have hfound : Found s n p k (boolByte copy).toNat a e v c :=
    ⟨(fetchFieldsOk_iff ..).2 ⟨⟨h1, h2⟩, ⟨h3, h4⟩, h5, by cases copy <;> decide, h6⟩, he, hcom, hpages, hv, hcart⟩
  have hchecks := (hfound.reachable (by simp [offLine_iff, o1, o2, o3, o4]) hu).trans (accountChecks_pays hpays)
  rw [if_neg (fun h => absurd (hroom h.1) (Nat.not_lt.2 h.2))] at hchecks
  have hkind : (if (boolByte copy).toNat = 0 then FetchKind.view else .copy) = kind := by cases copy <;> rfl
  have hshort : fundsShort s (admission p k (boolByte copy).toNat e v acc s) = false := by
    by_cases hsol : snap.category = .solicitor
    · have hpaid : ∃ x, acc = some x := by
        cases acc with
        | none => cases hsol
        | some x => exact ⟨x, rfl⟩
      obtain ⟨x, rfl⟩ := hpaid
      rw [fundsShort, admissionFunds_admission_solicitor s p k _ e v (hsol ▸ (snapshot_category ..).symm), Option.any_some,
        decide_eq_false_iff_not, Nat.not_lt]
      simp only [admission, hkind]
      exact hfunds hsol x rfl
    · rw [fundsShort, admissionFunds_admission_other hsol]
      rfl
  rw [exec_fetch hadm, fetchRequest, fetchFields_body (by omega) (by omega) (by omega) (by omega), hchecks]
  simp only [hshort, Bool.false_eq_true, if_false]
  refine congrArg followed ?_
  simp only [admitFetch, newOrder, admission, hkind, journalled_iff]
  rfl

/-- Settles O8. -/
theorem cancelFetch : Obligations.CancelFetch := by
  intro s st tag named hadm
  have hserve : exec (.cancelFetch st tag [named]) s = finished (cancelRequest st tag [named] s) :=
    exec_served (r := .cancelFetch) hadm rfl
  refine ⟨fun h => ?_, fun o h => ?_⟩
  · rw [hserve, cancelRequest, List.getD_cons_zero, h]
    rfl
  · rw [hserve, cancelRequest, List.getD_cons_zero, h]
    rfl

/-- Settles O11. -/
theorem quote : Obligations.Quote := by
  intro s st tag n p k a kind hadm hn hp hk ha out
  have hserve : out = finished (quoteRequest st tag (beBytes 4 n ++ beBytes 2 p ++ beBytes 2 k ++ [kind] ++ beBytes 2 a) s) :=
    exec_served (r := .quote) hadm rfl
  rw [quoteRequest, fetchFields_body hn hp hk ha] at hserve
  refine ⟨refusesAdmission_of_checks fun c hc => by rw [hserve, hc], ?_⟩
  intro e v c acc h1 h2 h3 h4 h5 h6 h7 he hcom hpages hv hcart o4 o1 o2 o3 hu hpays snap hroom count est
  have hfound : Found s n p k kind.toNat a e v c :=
    ⟨(fetchFieldsOk_iff ..).2 ⟨⟨h1, h2⟩, ⟨h3, h4⟩, h5, h6, h7⟩, he, hcom, hpages, hv, hcart⟩
  have hchecks := (hfound.reachable (by simp [offLine_iff, o1, o2, o3, o4]) hu).trans (accountChecks_pays hpays)
  rw [if_neg (fun h => absurd (hroom h.1) (Nat.not_lt.2 h.2))] at hchecks
  rw [hchecks] at hserve
  refine ⟨!fundsShort s (admission p k kind.toNat e v acc s), admissionFunds s (admission p k kind.toNat e v acc s),
    hserve, ?_, fun h => ?_, ?_⟩
  · rintro rfl
    exact ⟨rfl, rfl, rfl⟩
  · rw [fundsShort, admissionFunds_admission_other h]
    exact ⟨rfl, rfl⟩
  · rintro x rfl
    refine ⟨snapshot_category .., fun hx => ?_⟩
    rw [fundsShort, admissionFunds_admission_solicitor s p k _ e v hx, Option.any_some, Bool.not_eq_true',
      decide_eq_false_iff_not, Nat.not_lt]
    exact ⟨rfl, Iff.rfl⟩

/-! ### LOCATE and FIND (R6 to R8) -/

/-- FIND's own test of an entry it examines (R8). -/
def hits (f : FindFilter) (e : CatEntry) : Bool := e.state = .committed && f.matches e

theorem getD_of_any {p : CatEntry → Bool} {o : Option CatEntry} (h : o.any p = true) (e : CatEntry) :
    p (o.getD e) = true := by
  cases o with
  | none => cases h
  | some x => exact h

/-- The examination of R8 goes over some first part of the entries, and stops there for one of its three reasons. -/
theorem findLoop_spec (f : FindFilter) (es : List CatEntry) (found : List Nat) (n last : Nat) (hf : found.length ≤ 16)
    (hn : n ≤ 4096) :
    ∃ k, n + k ≤ 4096 ∧ k ≤ es.length ∧ found.length + ((es.take k).filter (hits f)).length ≤ 16
      ∧ (found.length + ((es.take k).filter (hits f)).length = 16 → 0 < k → (es.take k).getLast?.any (hits f) = true)
      ∧ (found.length + ((es.take k).filter (hits f)).length < 16 → n + k = 4096 ∨ k = es.length)
      ∧ findLoop f es found n last
        = (found.reverse ++ ((es.take k).filter (hits f)).map (·.number), ((es.take k).getLast?.map (·.number)).getD last) := by
  induction es generalizing found n last with
  | nil => exact ⟨0, by simpa using hn, le_rfl, by simpa using hf, by simp, by simp, by simp [findLoop]⟩
  | cons e es ih =>
    by_cases hstop : found.length ≥ 16 ∨ n ≥ 4096
    · refine ⟨0, by simpa using hn, Nat.zero_le _, by simpa using hf, by simp, fun h => .inl ?_, ?_⟩
      · simp at h; omega
      · rw [findLoop, if_pos hstop]; simp
    · obtain ⟨hroom, hmore⟩ := not_or.1 hstop
      have hloop (found' : List Nat) (hfound : found' = if hits f e then e.number :: found else found) :
          findLoop f (e :: es) found n last = findLoop f es found' (n + 1) e.number := by
        rw [findLoop, if_neg hstop, hfound]
        simp [hits]
      have hlast (k : Nat) : ((e :: es).take (k + 1)).getLast? = some ((es.take k).getLast?.getD e) := by
        rw [List.take_succ_cons, List.getLast?_cons]
      have hend (k : Nat) : (((es.take k).getLast?.map (·.number)).getD e.number)
          = ((((e :: es).take (k + 1)).getLast?.map (·.number)).getD last) := by
        rw [hlast]
        cases (es.take k).getLast? <;> rfl
      by_cases hit : hits f e = true
      · obtain ⟨k, h1, h2, h3, h4, h5, h6⟩ := ih (e.number :: found) (n + 1) e.number (by simp; omega) (by omega)
        have hfilter : (((e :: es).take (k + 1)).filter (hits f)) = e :: (es.take k).filter (hits f) := by simp [hit]
        simp only [List.length_cons] at h3 h4 h5
        refine ⟨k + 1, by omega, by simpa using h2, by rw [hfilter, List.length_cons]; omega, fun ht _ => ?_, fun ht => ?_, ?_⟩
        · rw [hlast, Option.any_some]
          cases k with
          | zero => simpa using hit
          | succ k =>
            exact getD_of_any (h4 (by rw [hfilter, List.length_cons] at ht; omega) (Nat.succ_pos k)) e
        · rw [hfilter, List.length_cons] at ht
          rw [List.length_cons]
          have := h5 (by omega)
          omega
        · rw [hloop _ (if_pos hit).symm, h6, hend, hfilter]
          simp
      · obtain ⟨k, h1, h2, h3, h4, h5, h6⟩ := ih found (n + 1) e.number hf (by omega)
        have hfilter : (((e :: es).take (k + 1)).filter (hits f)) = (es.take k).filter (hits f) := by simp [hit]
        refine ⟨k + 1, by omega, by simpa using h2, by rw [hfilter]; exact h3, fun ht _ => ?_, fun ht => ?_, ?_⟩
        · rw [hfilter] at ht
          rw [hlast, Option.any_some]
          cases k with
          | zero => simp at ht; omega
          | succ k =>
            exact getD_of_any (h4 ht (Nat.succ_pos k)) e
        · rw [hfilter] at ht
          rw [List.length_cons]
          have := h5 ht
          omega
        · rw [hloop _ (if_neg hit).symm, h6, hend, hfilter]

theorem findFields_body {start df dt vol : Nat} (hs : start < 256 ^ 4) (hdf : df ≤ 65535) (hdt : dt ≤ 65535)
    (hvol : vol ≤ 65535) (cls fs : Byte) :
    let b := beBytes 4 start ++ beBytes 2 df ++ beBytes 2 dt ++ [cls] ++ beBytes 2 vol ++ [fs]
    field b 0 4 = start ∧ field b 4 2 = df ∧ field b 6 2 = dt ∧ byteAt b 8 = cls.toNat ∧ field b 9 2 = vol
      ∧ byteAt b 11 = fs.toNat := by
  refine ⟨?_, ?_, ?_, ?_, ?_, ?_⟩ <;> simp (disch := omega)

/-- FIND's test of an entry, on the fields of the request (R7). -/
theorem hits_eq (df dt cls vol fs : Nat) (e : CatEntry) :
    hits ⟨df, dt, if cls = 255 then none else some cls, vol, fs⟩ e
      = (e.state = .committed && (df = 0 || df ≤ e.filingDate) && (dt = 0 || e.filingDate ≤ dt)
        && (cls = 255 || e.feeClass = cls) && (vol = 0 || e.volume = vol)
        && (fs = 0 || e.filingStation.val + 1 = fs)) := by
  rw [Bool.eq_iff_iff]
  by_cases hcls : cls = 255 <;> simp [hits, FindFilter.matches, hcls, and_assoc]

/-- Settles O10. -/
theorem locateAndFind : Obligations.LocateAndFind := by
  refine ⟨?_, ?_⟩
  · intro s st tag n hadm hn out
    have hserve : out = finished (locateRequest st tag (beBytes 4 n) s) := exec_served (r := .locate) hadm rfl
    simp (disch := omega) only [locateRequest, field_four_last] at hserve
    refine ⟨fun h => by rw [hserve, lookup_bad h]; rfl, fun h1 h2 => ?_⟩
    have hl := lookup_valid (s := s) h1 h2
    refine ⟨fun he => by rw [hserve, hl, he]; rfl, fun e he => ?_⟩
    simp only [he] at hl
    refine ⟨fun hf => by rw [hserve, hl, if_pos hf]; rfl, fun v c hcom hv hcart => ?_⟩
    rw [hl, if_neg (by simp [hcom])] at hserve
    simp only [hv, Option.bind_some, hcart, Option.map_some] at hserve
    refine ⟨_, ?_, hserve⟩
    cases c.location <;> simp
  · intro s st tag start df dt vol cls fs hadm hs hdf hdt hvol out bad above hit
    have hserve : out = finished (findRequest st tag
        (beBytes 4 start ++ beBytes 2 df ++ beBytes 2 dt ++ [cls] ++ beBytes 2 vol ++ [fs]) s) :=
      exec_served (r := .find) hadm rfl
    obtain ⟨h1, h2, h3, h4, h5, h6⟩ := findFields_body hs hdf hdt hvol cls fs
    simp only [findRequest, h1, h2, h3, h4, h5, h6] at hserve
    refine ⟨fun h => hserve.trans (congrArg finished (if_pos h)), fun h => ?_⟩
    replace hserve := hserve.trans (congrArg finished (if_neg h))
    obtain ⟨k, hk1, hk2, hk3, hk4, hk5, hk6⟩ := findLoop_spec
      ⟨df, dt, if cls.toNat = 255 then none else some cls.toNat, vol, fs.toNat⟩ above [] 0 start (by decide) (by decide)
    have hhit : hits ⟨df, dt, if cls.toNat = 255 then none else some cls.toNat, vol, fs.toNat⟩ = hit :=
      funext fun e => hits_eq ..
    rw [hhit] at hk3 hk4 hk5 hk6
    simp only [List.length_nil, Nat.zero_add, List.reverse_nil, List.nil_append] at hk1 hk3 hk4 hk5 hk6
    refine ⟨k, hk1, hk2, hk3, fun hfull => hk4 hfull ?_, hk5, ?_⟩
    · by_contra h0
      simp [Nat.eq_zero_of_not_pos h0] at hfull
    · rw [hserve, findEntries, hk6]

/-! ### The catalogue (R3, R13, R14) -/

theorem mapSector_none (es : List Extent) {l : Nat} (h : extentSum es ≤ l) : mapSector es l = none := by
  induction es generalizing l with
  | nil => rfl
  | cons e es ih =>
    simp only [extentSum, List.map_cons, List.sum_cons] at h
    rw [mapSector, if_neg (by omega), ih (by simp only [extentSum]; omega)]
    rfl

theorem mapSector_some (es : List Extent) {l : Nat} (h : l < extentSum es) :
    ∃ i x, es[i]? = some x ∧ extentSum (es.take i) ≤ l ∧ l < extentSum (es.take i) + x.len
      ∧ mapSector es l = some (i, x.start + (l - extentSum (es.take i))) := by
  induction es generalizing l with
  | nil => simp [extentSum] at h
  | cons e es ih =>
    by_cases hl : l < e.len
    · exact ⟨0, e, rfl, Nat.zero_le _, by simpa [extentSum] using hl, by simp [mapSector, hl, extentSum]⟩
    · have hsum : extentSum (e :: es) = e.len + extentSum es := by simp [extentSum]
      obtain ⟨i, x, hx, h1, h2, hm⟩ := ih (l := l - e.len) (by omega)
      have htake : extentSum ((e :: es).take (i + 1)) = e.len + extentSum (es.take i) := by simp [extentSum]
      refine ⟨i + 1, x, hx, by omega, by omega, ?_⟩
      rw [mapSector, if_neg hl, hm, htake, Nat.sub_sub]
      rfl

theorem entry?_updEntry {s : State} {n : Nat} {e : CatEntry} (h : s.entry? n = some e) {f : CatEntry → CatEntry}
    (hf : ∀ x, (f x).number = x.number) (m : Nat) :
    (s.updEntry n f).entry? m = if m = n then some (f e) else s.entry? m := by
  have hname (x : CatEntry) : (if x.number = n then f x else x).number = x.number := by split <;> simp [hf]
  have hid : e.number = n := by simpa using List.find?_some h
  have hfind (k : Nat) : (s.updEntry n f).entry? k = (s.entry? k).map fun x => if x.number = n then f x else x := by
    simp only [State.entry?, State.updEntry, List.find?_map]
    congr 2
    funext x
    simp [hname]
  rw [hfind]
  split
  next hm => simp [hm, h, hid]
  next hm =>
    cases hk : s.entry? m with
    | none => rfl
    | some x =>
      have : x.number = m := by simpa using List.find?_some hk
      simp [this, hm]

/-- Settles O12. -/
theorem sectorsAndCatalogueActs : Obligations.SectorsAndCatalogueActs := by
  refine ⟨fun es l => ⟨mapSector_none es, mapSector_some es⟩, fun s t n start len e he => ⟨fun h => ?_, fun h => ?_⟩⟩
  · obtain ⟨e', he', hstate, hpages, hcontent, -, rfl⟩ := extendEntry_ok h
    obtain rfl : e = e' := Option.some.inj (he.symm.trans he')
    have hentry := entry?_updEntry (f := fun e =>
      { e with extents := addExtent e.extents start len, pages := e.pages + 1, content := e.content + len }) he (fun _ => rfl)
    refine ⟨hstate, hpages, hcontent, ⟨_, (hentry n).trans (if_pos rfl), hstate, rfl, rfl, addExtent_sum .., rfl⟩,
      fun m hm => (hentry m).trans (if_neg hm), rfl⟩
  · obtain ⟨e', he', hstate, hpages, -, rfl⟩ := commitEntry_ok h
    obtain rfl : e = e' := Option.some.inj (he.symm.trans he')
    have hentry := entry?_updEntry (f := fun e =>
      { e with extents := addExtent e.extents start 1, trailer := some e.content, state := .committed }) he (fun _ => rfl)
    refine ⟨hstate, hpages, ⟨_, (hentry n).trans (if_pos rfl), rfl, rfl, rfl, addExtent_sum .., rfl⟩,
      fun m hm => (hentry m).trans (if_neg hm), rfl⟩

end Sys2Proof.Laws.Admissions

/-!
PROOF. What the acts on the order list and the plans leave alone: a layer for the statements about the cabinet.
`Cabinet s t` says that from `s` to `t` only the Library Map, the arm, the drives and the Mount Planner have changed.
-/

namespace Sys2Proof.Laws.Cabinets

open Sys2Proof Sys2Proof.Machine

/-- Only the records of the cabinet's blocks have changed. -/
def Cabinet (s t : State) : Prop :=
  t = { s with planner := t.planner, library := t.library, arm := t.arm, drives := t.drives }

theorem Cabinet.refl (s : State) : Cabinet s s := rfl

theorem Cabinet.trans {a b c : State} (h : Cabinet a b) (k : Cabinet b c) : Cabinet a c := by
  unfold Cabinet at *
  rw [k, h]

section
variable {s t : State} (h : Cabinet s t)
include h

theorem Cabinet.queue : t.pending = s.pending := by rw [h]
theorem Cabinet.seconds : t.seconds = s.seconds := by rw [h]
theorem Cabinet.reconciled : t.reconciled = s.reconciled := by rw [h]
theorem Cabinet.timers : t.timers = s.timers := by rw [h]
theorem Cabinet.catalogue : t.catalogue = s.catalogue := by rw [h]
theorem Cabinet.run : t.run = s.run := by rw [h]
theorem Cabinet.fetch : t.fetch = s.fetch := by rw [h]
theorem Cabinet.fee : t.fee = s.fee := by rw [h]
theorem Cabinet.links : t.links = s.links := by rw [h]
theorem Cabinet.notices : t.notices = s.notices := by rw [h]
theorem Cabinet.link (st : Station) : t.link st = s.link st := by rw [State.link, h.links]; rfl
theorem Cabinet.source (i : Nat) : t.source i = s.source i := by rw [State.source, h.notices]; rfl
theorem Cabinet.order? (id : FetchId) : t.order? id = s.order? id := by rw [State.order?, h.fetch]; rfl

end

theorem dropPlan_cabinet (p : Plan) (s : State) : Cabinet s (dropPlan p s) := rfl

theorem replanImport_cabinet (p : Plan) (s : State) : Cabinet s (replanImport p s) := by
  unfold replanImport
  repeat' split
  all_goals rfl

/-- The removal of plans, one after another. -/
theorem dropPlans_cabinet (ps : List Plan) (s : State) :
    Cabinet s (ps.foldl (fun s p => replanImport p (dropPlan p s)) s) := by
  induction ps generalizing s with
  | nil => exact .refl s
  | cons p ps ih => exact ((dropPlan_cabinet p s).trans (replanImport_cabinet p _)).trans (ih _)

theorem ordersGone_cabinet (gone : List MoveOrder) (how : Gone) (s : State) : Cabinet s (ordersGone gone how s) :=
  (show Cabinet s { s with drives := s.drives.map (holdGone (gone.map (·.number)) how s.holdStart) } from rfl).trans
    ((dropPlans_cabinet _ _).trans rfl)

theorem dropOrders_cabinet (ns : List Nat) (how : Gone) (s : State) : Cabinet s (dropOrders ns how s) :=
  (show Cabinet s (s.updOrders fun os => os.filter fun o => !(withDependents s.arm.orders 16 ns).contains o.number)
    from rfl).trans (ordersGone_cabinet ..)

/-- A withdrawal takes an order that is WAITING from the list with its dependents, and does nothing otherwise (R43). -/
theorem tryWithdraw_waiting {n : Nat} {s : State} (h : s.orderWaiting n = true) :
    tryWithdraw n s = dropOrders [n] .withdrawn s := by
  unfold State.orderWaiting at h
  unfold tryWithdraw withdraw
  cases ho : s.armOrder? n with
  | none => simp [ho] at h
  | some o => simp_all

theorem tryWithdraw_cabinet (n : Nat) (s : State) : Cabinet s (tryWithdraw n s) := by
  unfold tryWithdraw withdraw
  cases s.armOrder? n with
  | none => exact .refl s
  | some o =>
    dsimp only
    by_cases h : o.status = .waiting
    · rw [if_pos h]
      exact dropOrders_cabinet ..
    · rw [if_neg h]
      exact .refl s

theorem removeWaiter_cabinet (id : FetchId) (s : State) : Cabinet s (removeWaiter id s) := by
  unfold removeWaiter
  dsimp only
  split
  · exact .refl s
  · split
    · rfl
    · split
      · rfl
      · split
        · exact Cabinet.trans (b := s.updPlanner _) rfl (tryWithdraw_cabinet ..)
        · rfl

theorem takeOut_cabinet (o : FetchOrder) (s : State) : Cabinet s (takeOut o s) := by
  unfold takeOut
  split
  · exact removeWaiter_cabinet ..
  · dsimp only
    repeat' split
    all_goals rfl

end Sys2Proof.Laws.Cabinets

/-!
PROOF. The completion of a fetch with its settlement (R139 to R141, R158 to R164): what it leaves of every record; the
obligation O9.
-/

namespace Sys2Proof.Laws.Completion

open Sys2Proof Sys2Proof.Machine Sys2Proof.Laws.Noting Sys2Proof.Laws.Cabinets

/-! ### The settlement (R158 to R162) -/

/-- The account of a fetch order: none for the public counter (R152). -/
def accountOf (o : FetchOrder) (s : State) : Option Account := if o.account = 0 then none else s.account? o.account

/-- The charge of a settlement (R155, R158). -/
def chargeOf (o : FetchOrder) (s : State) : Nat :=
  feeCharge o.snap o.kind o.delivered (dayTotalOf (accountOf o s)) o.estimate

/-- The receipt number of a settlement, 0 for STAFF (R162). -/
def receiptOf (o : FetchOrder) (s : State) : Nat := if journalled o.snap.category then s.fee.receipt else 0

/-- The Fee Unit after a settlement (R158 to R164). -/
def settledFee (o : FetchOrder) (outcome : Status) (s : State) : FeeUnit :=
  { s.fee with
    accounts := if o.account = 0 then s.fee.accounts
      else s.fee.accounts.map fun a => if a.number = o.account then settleAccount o.snap.category (chargeOf o s) a else a
    holds := s.fee.holds.filter fun h => h.id ≠ o.id
    today := s.fee.today.add o.snap.cls o.kind o.snap.category o.delivered (chargeOf o s)
    journal := if journalled o.snap.category then
        s.fee.journal ++ [⟨s.fee.receipt, s.fee.date, o.id.station, o.account, o.snap.category, o.instrument, o.kind,
          o.delivered, o.unreadable, chargeOf o s, outcome⟩]
      else s.fee.journal
    reservations := if journalled o.snap.category then s.fee.reservations - 1 else s.fee.reservations
    receipt := if journalled o.snap.category then nextReceipt s.fee.receipt else s.fee.receipt }

/-- ACCOUNT_LOW is due (R160), by the account as it stands after the settlement. -/
def fallsLow (o : FetchOrder) (charge : Nat) : Option Account → Bool
  | some a => o.snap.category == .solicitor && 0 < charge && a.lowMark.any fun m => a.balance.getD 0 < m
  | none => false

/-- A notice set where `p` holds. -/
def noticeIf (p : Prop) [Decidable p] (i : Nat) (s : State) : State := if p then noticeSet i s else s

theorem noticeIf_noted (p : Prop) [Decidable p] (i : Nat) (s : State) : Noted s (noticeIf p i s) := by
  unfold noticeIf
  split
  · exact noticeSet_noted i s
  · exact .refl s

/-- The notices of a settlement (R160, R162). -/
def settleNotices (o : FetchOrder) (charge : Nat) (s : State) : State :=
  let t := noticeIf (fallsLow o charge (s.account? o.account)) 18 s
  noticeIf (t.fee.journal.length ≥ 224) 21 t

theorem settleFetch_eq (o : FetchOrder) (outcome : Status) (s : State) :
    settleFetch o outcome s = (chargeOf o s, receiptOf o s,
      let t : State := { s with fee := settledFee o outcome s }
      if journalled o.snap.category then settleNotices o (chargeOf o s) t else t) := by
  unfold settleFetch
  by_cases ha : o.account = 0 <;> by_cases hj : journalled o.snap.category = true
  all_goals
    simp only [ha, hj, if_true, if_false, Bool.false_eq_true, receiptOf, settledFee, settleNotices, chargeOf, accountOf]
    rfl

theorem settleNotices_noted (o : FetchOrder) (charge : Nat) (s : State) : Noted s (settleNotices o charge s) :=
  (noticeIf_noted ..).trans (noticeIf_noted ..)

theorem settleFetch_noted (o : FetchOrder) (outcome : Status) (s : State) :
    Noted { s with fee := settledFee o outcome s } (settleFetch o outcome s).2.2 := by
  rw [settleFetch_eq]
  dsimp only
  split
  · exact settleNotices_noted ..
  · exact .refl _

theorem settleNotices_low {o : FetchOrder} {charge : Nat} {s : State} (h : fallsLow o charge (s.account? o.account) = true) :
    ((settleNotices o charge s).source 18).pending = true :=
  (noticeIf_noted ..).pending 18 (by rw [noticeIf, if_pos h]; exact noticeSet_pending _ (by decide) (by decide))

theorem settleNotices_high {o : FetchOrder} {charge : Nat} {s : State} (h : 224 ≤ s.fee.journal.length) :
    ((settleNotices o charge s).source 21).pending = true := by
  rw [settleNotices, noticeIf, if_pos]
  · exact noticeSet_pending _ (by decide) (by decide)
  · rwa [(noticeIf_noted ..).fee]

theorem settleAccount_number (cat : Category) (charge : Nat) (a : Account) : (settleAccount cat charge a).number = a.number := by
  cases cat <;> rfl

/-- The account of a fetch as it stands after the settlement (R159). -/
theorem account?_settled {o : FetchOrder} {s : State} {a : Account} (h : accountOf o s = some a) (outcome : Status) :
    State.account? { s with fee := settledFee o outcome s } o.account
      = some (settleAccount o.snap.category (chargeOf o s) a) := by
  unfold accountOf at h
  split at h
  · cases h
  next ha =>
    have hnum : a.number = o.account := by simpa using List.find?_some h
    simp only [State.account?, settledFee, if_neg ha, List.find?_map]
    rw [show ((fun a : Account => decide (a.number = o.account)) ∘ fun a =>
        if a.number = o.account then settleAccount o.snap.category (chargeOf o s) a else a)
      = fun a => decide (a.number = o.account) from funext fun x => by
        by_cases hx : x.number = o.account <;> simp [hx, settleAccount_number]]
    rw [State.account?] at h
    simp [h, hnum]

/-! ### The tallies (R164) -/

theorem tallyAdd_eq (a b : Nat) : tallyAdd a b = (min (a + b) 999999999, decide (999999999 < a + b)) := by
  unfold tallyAdd Config.tallyMax
  split
  next h => rw [min_eq_right (by omega), decide_eq_true h]
  next h => rw [min_eq_left (by omega), decide_eq_false h]

/-- The tally of a kind within its class (R164). -/
def kindTally (kind : FetchKind) (c : ClassTally) : KindTally := match kind with | .view => c.view | .copy => c.copy

/-- The tally of a category (R164). -/
def categoryTally (cat : Category) (t : TallySet) : CategoryTally :=
  match cat with
  | .counter => t.counter | .solicitor => t.solicitor | .government => t.government | .staff => t.staff

theorem add_tallies (t : TallySet) (cls : Nat) (kind : FetchKind) (cat : Category) (pages charge : Nat) {k : ClassTally}
    (h : t.classes.toList[cls]? = some k) :
    ∃ k', (t.add cls kind cat pages charge).classes.toList[cls]? = some k'
      ∧ kindTally kind k' = ⟨min ((kindTally kind k).fetches + 1) 999999999, min ((kindTally kind k).pages + pages) 999999999,
          min ((kindTally kind k).charges + charge) 999999999⟩
      ∧ categoryTally cat (t.add cls kind cat pages charge)
        = ⟨min ((categoryTally cat t).fetches + 1) 999999999, min ((categoryTally cat t).charges + charge) 999999999⟩
      ∧ ((t.add cls kind cat pages charge).saturated = true ↔ t.saturated = true
          ∨ 999999999 < (kindTally kind k).fetches + 1 ∨ 999999999 < (kindTally kind k).pages + pages
          ∨ 999999999 < (kindTally kind k).charges + charge ∨ 999999999 < (categoryTally cat t).fetches + 1
          ∨ 999999999 < (categoryTally cat t).charges + charge) := by
  have hcls : cls < 8 := by simpa using (List.getElem?_eq_some_iff.1 h).1
  have hget : t.classes[cls] = k := by simpa [hcls] using h
  cases kind <;> cases cat
  all_goals
    simp [TallySet.add, KindTally.add, CategoryTally.add, kindTally, categoryTally, tallyAdd_eq, hget, hcls, or_assoc]

theorem add_other_class (t : TallySet) {cls i : Nat} (h : i ≠ cls) (kind : FetchKind) (cat : Category)
    (pages charge : Nat) : (t.add cls kind cat pages charge).classes.toList[i]? = t.classes.toList[i]? := by
  cases kind <;> cases cat <;> simp [TallySet.add, Ne.symm h]

/-! ### The pages dropped (R140) -/

/-- The staging buffers with those of an order's pages free. -/
def freeBuffers (o : FetchOrder) (bs : Vector (Option (List Byte)) 16) : Vector (Option (List Byte)) 16 :=
  let bs := match o.staged with | some (_, b) => bs.setIfInBounds b none | none => bs
  match o.delivery with | some p => bs.setIfInBounds p.buf none | none => bs

theorem freeBuffers_staged {o : FetchOrder} {k b : Nat} (h : o.staged = some (k, b)) (hb : b < 16)
    (bs : Vector (Option (List Byte)) 16) : (freeBuffers o bs).toList[b]? = some none := by
  unfold freeBuffers
  rw [h]
  cases o.delivery with
  | none => simp [hb]
  | some p => by_cases hp : p.buf = b <;> simp [hb, hp]

theorem freeBuffers_delivery {o : FetchOrder} {p : Delivering} (h : o.delivery = some p) (hb : p.buf < 16)
    (bs : Vector (Option (List Byte)) 16) : (freeBuffers o bs).toList[p.buf]? = some none := by
  unfold freeBuffers
  rw [h]
  simp [hb]

/-- The Fetch Engine once an order's pages are dropped and it is freed. -/
def freed (o : FetchOrder) (e : FetchEngine) : FetchEngine where
  orders := e.orders.filter fun x => x.id ≠ o.id
  buffers := freeBuffers o e.buffers
  stagedOrder := e.stagedOrder.filter (· ≠ o.id)

/-- A station's context once an order's pages are dropped. -/
def withoutPages (o : FetchOrder) (l : Link) : Link := orphanFrame o.id { l with sendList := l.sendList.filter (· ≠ o.id) }

theorem orphanFrame_rest (id : FetchId) (l : Link) : orphanFrame id l = { l with sending := (orphanFrame id l).sending } := by
  unfold orphanFrame
  repeat' split
  all_goals rfl

theorem dropPages_eq (o : FetchOrder) (s : State) :
    dropPages o s = State.updLink
      { s with fetch := { s.fetch with
        buffers := freeBuffers o s.fetch.buffers, stagedOrder := s.fetch.stagedOrder.filter (· ≠ o.id) } }
      o.id.station (withoutPages o) := by
  unfold dropPages freeBuffers
  cases o.staged <;> cases o.delivery <;> rfl

/-! ### The whole completion (R139 to R141) -/

/-- The reply of a completed fetch (R141). -/
def fetchDone (o : FetchOrder) (outcome : Status) (s : State) : Reply :=
  ⟨o.id.tag, 0x90, outcome,
    .fetchDone ⟨o.instrument, o.first, o.effective, o.delivered, o.unreadable, chargeOf o s, receiptOf o s⟩⟩

/-- A station's context once a reply of a long request has been given or discarded (R184). -/
def answered (r : Reply) (l : Link) : Link :=
  if l.outstanding.any fun e => e.tag = r.tag then
    { l with outstanding := l.outstanding.filter fun e => e.tag ≠ r.tag, replies := l.replies ++ [r] }
  else l

theorem updLink_congr {s : State} {st : Station} {f g : Link → Link} (h : f (s.link st) = g (s.link st)) :
    s.updLink st f = s.updLink st g := by
  unfold State.updLink
  rw [h]

theorem answered_outstanding (r : Reply) (l : Link) :
    (answered r l).outstanding = l.outstanding.filter fun e => e.tag ≠ r.tag := by
  unfold answered
  split
  next => rfl
  next h => exact (List.filter_eq_self.2 (by simpa using h)).symm

theorem answered_replies (r : Reply) (l : Link) :
    (answered r l).replies = if (l.outstanding.any fun e => e.tag = r.tag) = true then l.replies ++ [r] else l.replies := by
  unfold answered
  split <;> rfl

theorem sameButAttention_outstanding {l m : Link} (h : SameButAttention l m) : m.outstanding = l.outstanding := by rw [h]

theorem sameButAttention_replies {l m : Link} (h : SameButAttention l m) : m.replies = l.replies := by rw [h]

theorem sameButAttention_answered {l m : Link} (h : SameButAttention l m) (r : Reply) :
    SameButAttention (answered r l) (answered r m) := by
  unfold SameButAttention at h
  rw [h]
  unfold answered SameButAttention
  split <;> rfl

theorem replyLong_eq (st : Station) (r : Reply) (s : State) : replyLong st r s = s.updLink st (answered r) := by
  unfold replyLong
  split
  next h =>
    rw [addReply, State.updLink_updLink]
    exact updLink_congr (if_pos h).symm
  next h => exact (Frames.updLink_of_eq (if_neg h)).symm

theorem order?_id {s : State} {id : FetchId} {o : FetchOrder} (h : s.order? id = some o) : o.id = id := by
  simpa using List.find?_some h

theorem chargeOf_congr {s t : State} (h : t.fee = s.fee) (o : FetchOrder) : chargeOf o t = chargeOf o s := by
  simp only [chargeOf, accountOf, State.account?, h]

theorem settledFee_congr {s t : State} (h : t.fee = s.fee) (o : FetchOrder) (outcome : Status) :
    settledFee o outcome t = settledFee o outcome s := by
  simp only [settledFee, chargeOf_congr h, h]

theorem fetchDone_congr {s t : State} (h : t.fee = s.fee) (o : FetchOrder) (outcome : Status) :
    fetchDone o outcome t = fetchDone o outcome s := by
  simp only [fetchDone, chargeOf_congr h, receiptOf, h]

/-- The state that a completion settles on: the order out of its place, its pages dropped. -/
def unplaced (o : FetchOrder) (s : State) : State := dropPages o (takeOut o s)

theorem unplaced_fee (o : FetchOrder) (s : State) : (unplaced o s).fee = s.fee := by
  rw [unplaced, dropPages_eq]
  exact (takeOut_cabinet o s).fee

/-- A completion: the order out of its place, its pages dropped, settled, answered and freed (R140). -/
theorem completeFetch_eq {s : State} {o : FetchOrder} (h : s.order? o.id = some o) (outcome : Status) :
    completeFetch o.id outcome s
      = ((settleFetch o outcome (unplaced o s)).2.2.updLink o.id.station (answered (fetchDone o outcome s))).updFetch
          fun e => { e with orders := e.orders.filter fun x => x.id ≠ o.id } := by
  have hcharge : (settleFetch o outcome (unplaced o s)).1 = chargeOf o (unplaced o s) := by rw [settleFetch_eq]
  have hreceipt : (settleFetch o outcome (unplaced o s)).2.1 = receiptOf o (unplaced o s) := by rw [settleFetch_eq]
  rw [← replyLong_eq, ← fetchDone_congr (unplaced_fee o s), fetchDone, ← hcharge, ← hreceipt]
  unfold completeFetch
  rw [h]
  rfl

section
variable {s : State} {o : FetchOrder} (h : s.order? o.id = some o) (outcome : Status)
include h

/-- What a completion leaves of every record but the links and the notices (R140). -/
theorem completeFetch_rest :
    completeFetch o.id outcome s = { takeOut o s with
      fetch := freed o s.fetch, fee := settledFee o outcome s
      links := (completeFetch o.id outcome s).links, notices := (completeFetch o.id outcome s).notices } := by
  have hset := (settleFetch_noted o outcome (unplaced o s)).rest
  rw [settledFee_congr (unplaced_fee o s)] at hset
  rw [completeFetch_eq h, hset, unplaced, dropPages_eq, (takeOut_cabinet o s).fetch]
  rfl

theorem completeFetch_link (st : Station) :
    SameButAttention
      (if st = o.id.station then answered (fetchDone o outcome s) (withoutPages o (s.link st)) else s.link st)
      ((completeFetch o.id outcome s).link st) := by
  have hset := (settleFetch_noted o outcome (unplaced o s)).link st
  have hlink : State.link { unplaced o s with fee := settledFee o outcome (unplaced o s) } st
      = if st = o.id.station then withoutPages o (s.link st) else s.link st := by
    show (unplaced o s).link st = _
    rw [unplaced, dropPages_eq, State.link_updLink]
    split
    next e => rw [e]; exact congrArg _ ((takeOut_cabinet o s).link _)
    next => exact (takeOut_cabinet o s).link st
  rw [hlink] at hset
  rw [completeFetch_eq h, State.link_updFetch, State.link_updLink]
  split
  next e =>
    rw [if_pos e, e] at hset
    rw [e]
    exact sameButAttention_answered hset _
  next e => rwa [if_neg e] at hset

/-- A notice that the settlement sets is set (R160, R162). -/
theorem completeFetch_notice {i : Nat} (hj : journalled o.snap.category = true)
    (hi : ((settleNotices o (chargeOf o s) { unplaced o s with fee := settledFee o outcome s }).source i).pending = true) :
    ((completeFetch o.id outcome s).source i).pending = true := by
  rw [completeFetch_eq h, settleFetch_eq, if_pos hj, settledFee_congr (unplaced_fee o s), chargeOf_congr (unplaced_fee o s)]
  exact hi

theorem completeFetch_pending {i : Nat} (hi : (s.source i).pending = true) :
    ((completeFetch o.id outcome s).source i).pending = true := by
  have hset := (settleFetch_noted o outcome (unplaced o s)).pending i
  have : (State.source { unplaced o s with fee := settledFee o outcome (unplaced o s) } i) = s.source i := by
    rw [unplaced, dropPages_eq]
    exact (takeOut_cabinet o s).source i
  rw [completeFetch_eq h]
  exact hset (by rw [this]; exact hi)

end

/-! ### The wait list (R88) -/

section
variable {s : State} {id : FetchId} {w : Waiter}

/-- The state with the waiter gone from the list, and nothing else. -/
def withoutWaiter (id : FetchId) (s : State) : State :=
  { s with planner := { s.planner with waiters := s.planner.waiters.filter fun w => w.id ≠ id } }

theorem removeWaiter_noPlan (hw : s.planner.waiters.find? (fun w => w.id = id) = some w)
    (h : w.plan.bind (fun d => s.planner.plans.find? fun p => p.drive = d && p.purpose = .fetch) = none) :
    removeWaiter id s = withoutWaiter id s := by
  unfold removeWaiter
  rw [hw]
  dsimp only [State.updPlanner]
  rw [h]
  rfl

theorem removeWaiter_plan (hw : s.planner.waiters.find? (fun w => w.id = id) = some w) {p : Plan}
    (h : w.plan.bind (fun d => s.planner.plans.find? fun p => p.drive = d && p.purpose = .fetch) = some p) :
    removeWaiter id s
      = if (s.planner.waiters.filter fun w => w.id ≠ id).any (fun v => v.plan = some p.drive) then withoutWaiter id s
        else (p.orders.find? fun n => s.orderWaiting n).elim (withoutWaiter id s)
          fun n => tryWithdraw n (withoutWaiter id s) := by
  unfold removeWaiter
  rw [hw]
  dsimp only [State.updPlanner]
  rw [h]
  dsimp only
  split
  · rfl
  · split
    next n hf => rw [show p.orders.find? (fun n => s.orderWaiting n) = some n from hf]; rfl
    next hf => rw [show p.orders.find? (fun n => s.orderWaiting n) = none from hf]; rfl

end

/-- A plan of the Mount Planner's list found by its drive and purpose. -/
theorem find?_plan {ps before after : List Plan} {p : Plan} {d : DriveId} (h : ps = before ++ p :: after) (hd : p.drive = d)
    (hp : p.purpose = .fetch) (hb : ∀ q ∈ before, q.drive = d → q.purpose ≠ .fetch) :
    ps.find? (fun p => p.drive = d && p.purpose = .fetch) = some p := by
  have hnone : before.find? (fun p => p.drive = d && p.purpose = .fetch) = none := by
    simpa using hb
  rw [h, List.find?_append, hnone]
  simp [hd, hp]

theorem replanImport_plans (p : Plan) (s : State) : (replanImport p s).planner.plans = s.planner.plans := by
  unfold replanImport
  repeat' split
  all_goals rfl

/-- Plans dropped one after another: every plan that stays was there, and is on none of their drives. -/
theorem mem_dropPlans {ps : List Plan} {s : State} {q : Plan}
    (h : q ∈ (ps.foldl (fun s p => replanImport p (dropPlan p s)) s).planner.plans) :
    q ∈ s.planner.plans ∧ ∀ p ∈ ps, q.drive ≠ p.drive := by
  induction ps generalizing s with
  | nil => exact ⟨h, nofun⟩
  | cons p ps ih =>
    obtain ⟨hq, hps⟩ := ih h
    rw [replanImport_plans] at hq
    obtain ⟨hq, hp⟩ := List.mem_filter.1 hq
    exact ⟨hq, List.forall_mem_cons.2 ⟨by simpa using hp, hps⟩⟩

/-- A plan that held an order gone is gone, and no other plan of its drive stays (R87). -/
theorem ordersGone_plans {gone : List MoveOrder} {s : State} {p : Plan} (hp : p ∈ s.planner.plans)
    (hh : p.holds (gone.map (·.number)) = true) {how : Gone} {q : Plan} (hq : q ∈ (ordersGone gone how s).planner.plans) :
    q.drive ≠ p.drive :=
  (mem_dropPlans hq).2 p (List.mem_filter.2 ⟨hp, hh⟩)

theorem orderWaiting_mem {s : State} {k : Nat} (h : s.orderWaiting k = true) :
    ∃ o ∈ s.arm.orders, o.number = k ∧ o.status = .waiting := by
  unfold State.orderWaiting State.armOrder? at h
  cases ho : s.arm.orders.find? fun o => o.number = k with
  | none => simp [ho] at h
  | some o => exact ⟨o, List.mem_of_find?_eq_some ho, by simpa using List.find?_some ho, by simpa [ho] using h⟩

/-- An order of the list leaves with itself (R43). -/
theorem mem_leavingWith {s : State} {o : MoveOrder} (ho : o ∈ s.arm.orders) : o ∈ s.leavingWith o.number := by
  refine List.mem_filter.2 ⟨ho, ?_⟩
  simpa using withDependents_self 16 (List.mem_singleton_self _)

/-- An order at a drive leaves its queue; of the cabinet no other drive changes, nor the library or the arm (R140). -/
theorem takeOut_drive {o : FetchOrder} (s : State) {d : DriveId} (h : o.place = .drive d) :
    ((takeOut o s).drive d).queue = (s.drive d).queue.filter (fun x => x ≠ o.id) ∧ (takeOut o s).library = s.library
      ∧ (takeOut o s).arm = s.arm ∧ ∀ e, e ≠ d → (takeOut o s).drive e = s.drive e := by
  unfold takeOut
  rw [h]
  dsimp only
  split_ifs
  all_goals
    refine ⟨?_, rfl, rfl, fun e he => ?_⟩
    · simp [endUnitLater, State.wantPass, State.wantPasses]
    · simp [endUnitLater, State.wantPass, State.wantPasses, State.drive_updDrive_ne _ _ he]

/-- Settles O9. -/
theorem fetchCompletion : Obligations.FetchCompletion := by
  intro s id outcome o acc h hacc t cat charge receipt raised ofKind ofCat
  obtain rfl := order?_id h
  have hrest : t = _ := completeFetch_rest h outcome
  have hfee : t.fee = settledFee o outcome s := by rw [hrest]
  have hfetch : t.fetch = freed o s.fetch := by rw [hrest]
  have hacc' : accountOf o s = acc := by
    unfold accountOf
    split at hacc
    next h0 => rw [if_pos h0, hacc]
    next h0 => rw [if_neg h0, hacc.1]
  have hcharge : chargeOf o s = charge := by rw [chargeOf, hacc']; rfl
  have hj : journalled cat = true ↔ cat ≠ .staff := Admissions.journalled_iff cat
  have hlink := completeFetch_link h outcome o.id.station
  rw [if_pos rfl, withoutPages, orphanFrame_rest] at hlink
  have hdone : fetchDone o outcome s = ⟨o.id.tag, 0x90, outcome,
      .fetchDone ⟨o.instrument, o.first, o.effective, o.delivered, o.unreadable, charge, receipt⟩⟩ := by
    have hreceipt : receiptOf o s = receipt := by
      unfold receiptOf
      by_cases hs : cat = .staff
      · rw [if_neg (fun hjs => hj.1 hjs hs)]
        exact (if_pos hs).symm
      · rw [if_pos (hj.2 hs)]
        exact (if_neg hs).symm
    rw [fetchDone, hcharge, hreceipt]
  rw [hdone] at hlink
  have hreplies := (sameButAttention_replies hlink).trans (answered_replies ..)
  rw [hfee, hfetch]
  refine ⟨Links.order?_completeFetch .., ?accounts, rfl, ?journal, ?staff, ?low, ?tallies, ?classes, rfl, rfl, ?reply,
    ?noReply, ?outstanding, fun k b hs hb => freeBuffers_staged hs hb _, fun p hp hb => freeBuffers_delivery hp hb _,
    by rw [hrest]; exact (takeOut_cabinet o s).catalogue, by rw [hrest]; exact (takeOut_cabinet o s).run, ?alone, ?planned,
    ?drive⟩
  case accounts =>
    have hraised : raised = settleAccount o.snap.category (chargeOf o s) := by
      funext a
      rw [hcharge]
      unfold settleAccount
      simp only [raised, cat]
      cases o.snap.category <;> rfl
    rw [hraised]
    rfl
  case journal =>
    intro hs
    have hjs := hj.2 hs
    have hjournal : (settledFee o outcome s).journal = s.fee.journal ++ [⟨s.fee.receipt, s.fee.date, o.id.station, o.account,
        cat, o.instrument, o.kind, o.delivered, o.unreadable, charge, outcome⟩] := by
      rw [← hcharge]
      exact if_pos hjs
    refine ⟨hjournal, (if_pos hjs).trans ?_, if_pos hjs, fun hl => completeFetch_notice h outcome hjs ?_⟩
    · unfold nextReceipt Config.receiptMax
      by_cases hr : s.fee.receipt < 999999
      · rw [if_pos hr, if_neg (by omega)]
      · rw [if_neg hr, if_pos (by omega)]
    · refine settleNotices_high ?_
      rw [show State.fee _ = settledFee o outcome s from rfl, hjournal, List.length_append]
      exact hl
  case staff =>
    intro hs
    have hjs : ¬ journalled o.snap.category = true := fun hjs => hj.1 hjs hs
    exact ⟨if_neg hjs, if_neg hjs, if_neg hjs⟩
  case low =>
    intro a m b ha hsol hpos hm hb hlow
    have hjs : journalled o.snap.category = true := hj.2 (by rw [hsol]; exact nofun)
    refine completeFetch_notice h outcome hjs (settleNotices_low ?_)
    rw [show State.account? { unplaced o s with fee := settledFee o outcome s } o.account
      = some (settleAccount o.snap.category (chargeOf o s) a) from account?_settled (hacc'.trans ha) outcome]
    have hsol' : o.snap.category = .solicitor := hsol
    simp [fallsLow, hsol', settleAccount, hcharge, hpos, hm, hb, hlow]
  case tallies =>
    intro k hk
    rw [← hcharge]
    exact add_tallies _ _ _ _ _ _ hk
  case classes => exact fun i hi => add_other_class _ hi ..
  case reply =>
    rintro ⟨e, he, htag⟩
    have hany : ((s.link o.id.station).outstanding.any fun e => e.tag = o.id.tag) = true := by
      simpa using ⟨e, he, htag⟩
    exact hreplies.trans (if_pos hany)
  case noReply =>
    intro haw
    refine hreplies.trans (if_neg fun hany => haw ?_)
    simpa [State.awaits] using hany
  case outstanding => exact (sameButAttention_outstanding hlink).trans (answered_outstanding ..)
  case alone =>
    intro w hplace hw hplan
    have htake : takeOut o s = withoutWaiter o.id s := by
      rw [takeOut, hplace]
      exact removeWaiter_noPlan hw (by rw [hplan]; rfl)
    rw [htake] at hrest
    rw [hrest]
    exact ⟨rfl, rfl, rfl, rfl⟩
  case planned =>
    intro w d hplace hw hplan rest u kept
    have htake : takeOut o s = removeWaiter o.id s := by rw [takeOut, hplace]
    have hkept (hu : removeWaiter o.id s = u) : kept := by
      rw [htake, hu] at hrest
      refine ⟨?_, ?_, ?_, ?_⟩ <;> rw [hrest]
    refine ⟨fun hno => hkept ?_, ?_⟩
    · refine removeWaiter_noPlan hw ?_
      rw [hplan]
      simpa using hno
    · intro before p after hps hd hp hb
      have hbind : w.plan.bind (fun d => s.planner.plans.find? fun p => p.drive = d && p.purpose = .fetch) = some p := by
        rw [hplan]
        exact find?_plan hps hd hp hb
      have hremove := removeWaiter_plan hw hbind
      refine ⟨fun ⟨v, hv, hvd⟩ => hkept ?_, fun hno => ?_⟩
      · rw [hremove, if_pos]
        · rfl
        · exact List.any_eq_true.2 ⟨v, hv, by simp [hvd, hd]⟩
      · rw [if_neg (by simpa [hd, rest] using hno)] at hremove
        refine ⟨fun hw => hkept ?_, fun k hk => ?_⟩
        · rw [hremove, List.find?_eq_none.2 (by simpa using hw)]
          rfl
        · have hkw : s.orderWaiting k = true := List.find?_some hk
          have hdrop : takeOut o s = dropOrders [k] .withdrawn u := by
            rw [htake, hremove, hk]
            exact tryWithdraw_waiting hkw
          rw [hdrop] at hrest
          obtain ⟨harm, htold, hpass⟩ := dropOrders_told k .withdrawn u
          obtain ⟨x, hx, hxk, -⟩ := orderWaiting_mem hkw
          have hmem : x ∈ u.leavingWith k := hxk ▸ mem_leavingWith (s := u) hx
          have harm' : t.arm = { s.arm with orders := s.ordersWithout k } := by rw [hrest]; exact harm
          have hplanner : t.planner = (dropOrders [k] .withdrawn u).planner := by rw [hrest]
          refine ⟨harm', fun y hy hyk => ?_, fun q hq => ?_, ?_, ?_, hplanner, by rw [hrest], by rw [hrest]⟩
          · rw [harm']
            exact not_mem_ordersWithout hy hyk
          · rw [hplanner] at hq
            rw [← hd]
            refine ordersGone_plans (s := { u with arm := { u.arm with orders := u.ordersWithout k } }) (p := p)
              (gone := u.leavingWith k) (how := .withdrawn) ?_ ?_ hq
            · show p ∈ s.planner.plans
              simp [hps]
            · refine List.any_eq_true.2 ⟨k, List.mem_of_find?_eq_some hk, ?_⟩
              rw [List.contains_iff_mem]
              exact List.mem_map.2 ⟨x, hmem, hxk⟩
          · rw [hplanner]
            exact htold.waiters
          · rw [hplanner]
            exact lt_of_lt_of_le (Nat.lt_add_of_pos_right (List.length_pos_of_mem hmem)) hpass
  case drive =>
    intro d hplace
    obtain ⟨hq, hl, ha, hd⟩ := takeOut_drive s hplace
    have hdrive (e : DriveId) : t.drive e = (takeOut o s).drive e := by rw [hrest]; rfl
    exact ⟨by rw [hdrive, hq], by rw [hrest]; exact hl, by rw [hrest]; exact ha, fun e he => by rw [hdrive, hd e he]⟩

end Sys2Proof.Laws.Completion

/-!
PROOF. What the Filing Writer's acts on its run can touch (chapter 6): the layer that the statements about filing rest on.
`RunFrame s t` says that from `s` to `t` only the run, the catalogue, the sides of cartridges, the order list with what hangs
on it, and the pin, timers, and end mark of the drives have changed, and notices have been set.
-/

namespace Sys2Proof.Laws.RunFrames

open Sys2Proof Sys2Proof.Machine Sys2Proof.Laws.Noting Sys2Proof.Laws.Cabinets

/-- A cartridge's record less its sides. -/
def sideless (c : Cartridge) : Cartridge := { c with sideA := .unused, sideB := .unused }

/-- An inspection's record less what hangs on its order. -/
def unordered (i : Inspection) : Inspection := { i with phase := .waitingSlot, order := none, orderDue := false }

/-- An entry of the EXPORT list less its order. -/
def orderless (e : ExportEntry) : ExportEntry := { e with order := none }

/-- An inspection that waits on no order and is carried to no drive: nothing said of orders concerns it. -/
def atEase (i : Inspection) : Prop := i.order = none ∧ i.phase ≠ .carrying

structure RunFrame (s t : State) : Prop where
  rest : t = { s with
    catalogue := t.catalogue, library := t.library, arm := t.arm, drives := t.drives, planner := t.planner, run := t.run
    links := t.links, notices := t.notices }
  library : t.library = { s.library with
    table := t.library.table, volumes := t.library.volumes, nextVol := t.library.nextVol
    inspections := t.library.inspections, exports := t.library.exports, probeDue := t.library.probeDue }
  carts : t.library.table.map sideless = s.library.table.map sideless
  inspections : t.library.inspections.map unordered = s.library.inspections.map unordered
  listed : t.library.exports.map orderless = s.library.exports.map orderless
  arm : t.arm = { s.arm with orders := t.arm.orders }
  drive : ∀ d, t.drive d = { s.drive d with
    pin := (t.drive d).pin, idle := (t.drive d).idle, unit := (t.drive d).unit, pendingHold := (t.drive d).pendingHold
    hold := (t.drive d).hold }
  work : ∀ d, (t.drive d).unit.map (·.work) = (s.drive d).unit.map (·.work)
  waiters : t.planner.waiters.map (·.id) = s.planner.waiters.map (·.id)
  passes : s.planner.passesDue ≤ t.planner.passesDue
  link : ∀ st, SameButAttention (s.link st) (t.link st)
  still : ∀ st, (s.link st).state ≠ .up → t.link st = s.link st
  pending : ∀ i, (s.source i).pending = true → (t.source i).pending = true
  orders : t.arm.orders.Sublist s.arm.orders
  plans : s.planner.plans = [] → t.planner.plans = []
  idle : ∀ d, (s.drive d).idle = none → (t.drive d).idle = none
  hold : ∀ d, (s.drive d).state ≠ .standby → (s.drive d).hold = none → (t.drive d).hold = none
  kept : ∀ id i, s.insp? id = some i → atEase i → t.insp? id = some i

theorem RunFrame.refl (s : State) : RunFrame s s :=
  ⟨rfl, rfl, rfl, rfl, rfl, rfl, fun _ => rfl, fun _ => rfl, rfl, le_rfl, fun _ => .refl _, fun _ _ => rfl, fun _ h => h,
    .refl _, id, fun _ h => h, fun _ _ h => h, fun _ _ h _ => h⟩

theorem RunFrame.trans {a b c : State} (h : RunFrame a b) (k : RunFrame b c) : RunFrame a c where
  rest := by rw [k.rest, h.rest]
  library := by rw [k.library, h.library]
  carts := k.carts.trans h.carts
  inspections := k.inspections.trans h.inspections
  listed := k.listed.trans h.listed
  arm := by rw [k.arm, h.arm]
  drive d := by rw [k.drive d, h.drive d]
  work d := (k.work d).trans (h.work d)
  waiters := k.waiters.trans h.waiters
  passes := h.passes.trans k.passes
  link st := (h.link st).trans (k.link st)
  still st hst := (k.still st (by rwa [(h.link st).state])).trans (h.still st hst)
  pending i hi := k.pending i (h.pending i hi)
  orders := k.orders.trans h.orders
  plans hp := k.plans (h.plans hp)
  idle d hd := k.idle d (h.idle d hd)
  hold d hs hd := k.hold d (by rwa [h.drive d]) (h.hold d hs hd)
  kept id i hi he := k.kept id i (h.kept id i hi he) he

theorem Noted.runFrame {s t : State} (h : Noted s t) : RunFrame s t where
  rest := by rw [h.rest]
  library := by rw [h.library]
  carts := by rw [h.library]
  inspections := by rw [h.library]
  listed := by rw [h.library]
  arm := by rw [h.arm]
  drive d := by rw [h.drive]
  work d := by rw [h.drive]
  waiters := by rw [h.planner]
  passes := by rw [h.planner]
  link := h.link
  still := h.still
  pending := h.pending
  orders := by rw [h.arm]
  plans hp := by rw [h.planner, hp]
  idle d hd := by rw [h.drive, hd]
  hold d _ hd := by rw [h.drive, hd]
  kept id i hi _ := by rw [State.insp?, h.library]; exact hi

section
variable {s t : State} (h : RunFrame s t)
include h

theorem RunFrame.queue : t.pending = s.pending := by rw [h.rest]
theorem RunFrame.seconds : t.seconds = s.seconds := by rw [h.rest]
theorem RunFrame.reconciled : t.reconciled = s.reconciled := by rw [h.rest]
theorem RunFrame.timers : t.timers = s.timers := by rw [h.rest]
theorem RunFrame.fetch : t.fetch = s.fetch := by rw [h.rest]
theorem RunFrame.fee : t.fee = s.fee := by rw [h.rest]

end

/-! ### The operations on the run and the catalogue -/

theorem updRun_frame (f : Run → Run) (s : State) : RunFrame s (s.updRun f) :=
  ⟨rfl, rfl, rfl, rfl, rfl, rfl, fun _ => rfl, fun _ => rfl, rfl, le_rfl, fun _ => .refl _, fun _ _ => rfl, fun _ h => h,
    .refl _, id, fun _ h => h, fun _ _ h => h, fun _ _ h _ => h⟩

theorem catalogue_frame (c : List CatEntry) (s : State) : RunFrame s { s with catalogue := c } :=
  ⟨rfl, rfl, rfl, rfl, rfl, rfl, fun _ => rfl, fun _ => rfl, rfl, le_rfl, fun _ => .refl _, fun _ _ => rfl, fun _ h => h,
    .refl _, id, fun _ h => h, fun _ _ h => h, fun _ _ h _ => h⟩

theorem library_frame {s : State} {l : Library}
    (hl : l = { s.library with
      table := l.table, volumes := l.volumes, nextVol := l.nextVol, inspections := l.inspections, exports := l.exports
      probeDue := l.probeDue })
    (ht : l.table.map sideless = s.library.table.map sideless)
    (hi : l.inspections.map unordered = s.library.inspections.map unordered)
    (he : l.exports.map orderless = s.library.exports.map orderless)
    (hk : ∀ id i, s.insp? id = some i → atEase i → l.inspections.find? (·.id = id) = some i) :
    RunFrame s { s with library := l } :=
  ⟨rfl, hl, ht, hi, he, rfl, fun _ => rfl, fun _ => rfl, rfl, le_rfl, fun _ => .refl _, fun _ _ => rfl, fun _ h => h,
    .refl _, id, fun _ h => h, fun _ _ h => h, hk⟩

theorem updLibrary_frame {s : State} {f : Library → Library}
    (hl : f s.library = { s.library with
      table := (f s.library).table, volumes := (f s.library).volumes, nextVol := (f s.library).nextVol
      inspections := (f s.library).inspections, exports := (f s.library).exports, probeDue := (f s.library).probeDue })
    (ht : (f s.library).table.map sideless = s.library.table.map sideless)
    (hi : (f s.library).inspections.map unordered = s.library.inspections.map unordered)
    (he : (f s.library).exports.map orderless = s.library.exports.map orderless)
    (hk : ∀ id i, s.insp? id = some i → atEase i → (f s.library).inspections.find? (·.id = id) = some i) :
    RunFrame s (s.updLibrary f) :=
  library_frame hl ht hi he hk

theorem map_sideless_updSide (l : List Cartridge) (n : Nat) (x : Side) (f : SideRec → SideRec) :
    (l.map fun c => if c.number = n then c.updSide x f else c).map sideless = l.map sideless := by
  rw [List.map_map]
  refine List.map_congr_left fun c _ => ?_
  dsimp only [Function.comp]
  split
  · cases x <;> rfl
  · rfl

theorem updSide_frame (n : Nat) (x : Side) (f : SideRec → SideRec) (s : State) :
    RunFrame s (s.updCart n fun c => c.updSide x f) :=
  library_frame rfl (map_sideless_updSide ..) rfl rfl fun _ _ h _ => h

theorem noticeSet_frame (i : Nat) (s : State) : RunFrame s (noticeSet i s) := Noted.runFrame (noticeSet_noted i s)

theorem makeFull_frame (n : Nat) (x : Side) (s : State) : RunFrame s (makeFull n x s) := by
  refine .trans ?_ (noticeSet_frame nVolumeFull _)
  refine .trans ?_ (updLibrary_frame rfl rfl rfl rfl fun _ _ h _ => h)
  exact updSide_frame n x _ s

theorem takeVolume_frame (n : Nat) (x : Side) (st : SideState) (s : State) : RunFrame s (takeVolume n x st s) :=
  (updSide_frame ..).trans (library_frame rfl rfl rfl rfl fun _ _ h _ => h)

theorem labelFailed_frame (n : Nat) (x : Side) (s : State) : RunFrame s (labelFailed n x s) :=
  (takeVolume_frame ..).trans (Noted.runFrame (withPool_noted ..))

theorem flushRing_frame (s : State) : RunFrame s (flushRing s) := by
  unfold flushRing countDiscarded updCounts
  exact .trans (updRun_frame _ s) (updRun_frame _ _)

theorem countAborted_frame (s : State) : RunFrame s (countAborted s) := by
  unfold countAborted updCounts
  exact updRun_frame _ s

theorem dropPending_frame (s : State) : RunFrame s (dropPending s) := by
  unfold dropPending
  refine .trans ?_ (updRun_frame _ _)
  split
  · exact countAborted_frame s
  · exact .refl s

theorem removeEntry_frame (n : Nat) (s : State) : RunFrame s (orUnchanged s (removeEntry s n)) := by
  unfold removeEntry
  cases s.entry? n with
  | none => exact .refl s
  | some e =>
    dsimp only
    split
    · exact .refl s
    · exact catalogue_frame ..

theorem dropInstrument_frame (s : State) : RunFrame s (dropInstrument s) := by
  unfold dropInstrument
  cases s.run.current with
  | none => exact .refl s
  | some i =>
    dsimp only
    refine .trans (.trans (.trans ?_ (removeEntry_frame i.number _)) (updRun_frame _ _)) (countAborted_frame _)
    split
    · split
      · exact .refl s
      · exact updSide_frame ..
    · exact .refl s

/-! ### The operations on drives -/

theorem drive_mapped (s : State) (f : Drive → Drive) (d : DriveId) :
    State.drive { s with drives := s.drives.map f } d = f (s.drive d) :=
  Vector.getElem_map ..

/-- The changes of a drive that a `RunFrame` admits. -/
def sameButPin (x y : Drive) : Prop :=
  y = { x with pin := y.pin, idle := y.idle, unit := y.unit, pendingHold := y.pendingHold, hold := y.hold }
    ∧ y.unit.map (·.work) = x.unit.map (·.work)
    ∧ (x.idle = none → y.idle = none) ∧ (x.state ≠ .standby → x.hold = none → y.hold = none)

theorem drives_frame {s : State} {v : Vector Drive 4} (h : ∀ d, sameButPin (s.drive d) (v.get d)) :
    RunFrame s { s with drives := v } :=
  ⟨rfl, rfl, rfl, rfl, rfl, rfl, fun d => (h d).1, fun d => (h d).2.1, rfl, le_rfl, fun _ => .refl _, fun _ _ => rfl,
    fun _ h => h, .refl _, id, fun d => (h d).2.2.1, fun d => (h d).2.2.2, fun _ _ h _ => h⟩

theorem mapDrives_frame {s : State} {f : Drive → Drive} (h : ∀ x, sameButPin x (f x)) :
    RunFrame s { s with drives := s.drives.map f } := by
  refine drives_frame fun d => ?_
  rw [show (s.drives.map f).get d = f (s.drive d) from drive_mapped s f d]
  exact h _

theorem updDrive_frame {s : State} {d : DriveId} {f : Drive → Drive} (h : sameButPin (s.drive d) (f (s.drive d))) :
    RunFrame s (s.updDrive d f) := by
  refine drives_frame fun e => ?_
  rw [show (s.drives.set d.val (f (s.drive d)) d.isLt).get e = if e = d then f (s.drive d) else s.drive e
    from State.drive_updDrive s d e f]
  split
  next he => rw [he]; exact h
  next => exact ⟨rfl, rfl, id, fun _ => id⟩

theorem wantPasses_frame (n : Nat) (s : State) : RunFrame s (s.wantPasses n) :=
  ⟨rfl, rfl, rfl, rfl, rfl, rfl, fun _ => rfl, fun _ => rfl, rfl, Nat.le_add_right _ _, fun _ => .refl _, fun _ _ => rfl,
    fun _ h => h, .refl _, id, fun _ h => h, fun _ _ h => h, fun _ _ h _ => h⟩

theorem endFilingUnits_frame (s : State) : RunFrame s (endFilingUnits s) := by
  refine mapDrives_frame fun x => ⟨rfl, ?_, id, fun _ => id⟩
  cases x.unit with
  | none => rfl
  | some u => simp only [Option.map_some]; split <;> rfl

theorem liftPin_frame (d : DriveId) (s : State) : RunFrame s (liftPin d s) := by
  unfold liftPin restartIdle
  refine .trans (.trans (updDrive_frame ⟨rfl, rfl, id, fun _ => id⟩) (updDrive_frame ⟨rfl, rfl, ?_, fun _ => id⟩))
    (wantPasses_frame 1 _)
  exact fun h => congrArg (Option.map _) h

theorem disengage_frame (s : State) : RunFrame s (disengage s) := by
  unfold disengage
  split
  · exact .refl s
  · exact .trans (updRun_frame _ s) (liftPin_frame _ _)

/-- The state once the label and the chosen blank are let go (R113). -/
def unlabelled (s : State) : State := s.updRun fun r => { r with label := none, chosen := none }

/-- The label that an abort leaves has failed, or has not begun or is to end with its command (R113). -/
theorem dropLabel_either (s : State) :
    dropLabel s = unlabelled s ∨ ∃ n x, dropLabel s = unlabelled (labelFailed n x s) := by
  have hfate (b : Bool) (n : Nat) (x : Side) : unlabelled (if b then labelFailed n x s else s) = unlabelled s
      ∨ ∃ m z, unlabelled (if b then labelFailed n x s else s) = unlabelled (labelFailed m z s) := by
    cases b with
    | false => exact .inl rfl
    | true => exact .inr ⟨n, x, rfl⟩
  unfold dropLabel
  cases s.run.label with
  | none => exact .inl rfl
  | some j =>
    cases s.run.chosen with
    | none => exact .inl rfl
    | some p => exact hfate _ p.1 p.2

theorem dropLabel_frame (s : State) : RunFrame s (dropLabel s) := by
  obtain h | ⟨n, x, h⟩ := dropLabel_either s
  · rw [h]
    exact updRun_frame _ s
  · rw [h]
    exact (labelFailed_frame n x s).trans (updRun_frame _ _)

/-! ### The operations on orders and plans -/

theorem planner_frame {s : State} {q : Planner} (hw : q.waiters.map (·.id) = s.planner.waiters.map (·.id))
    (hp : s.planner.passesDue ≤ q.passesDue) (hq : s.planner.plans = [] → q.plans = []) :
    RunFrame s { s with planner := q } :=
  ⟨rfl, rfl, rfl, rfl, rfl, rfl, fun _ => rfl, fun _ => rfl, hw, hp, fun _ => .refl _, fun _ _ => rfl, fun _ h => h,
    .refl _, hq, fun _ h => h, fun _ _ h => h, fun _ _ h _ => h⟩

theorem updPlanner_frame {s : State} {f : Planner → Planner}
    (hw : (f s.planner).waiters.map (·.id) = s.planner.waiters.map (·.id))
    (hp : s.planner.passesDue ≤ (f s.planner).passesDue)
    (hq : s.planner.plans = [] → (f s.planner).plans = []) : RunFrame s (s.updPlanner f) :=
  planner_frame hw hp hq

theorem wantPass_frame (s : State) : RunFrame s s.wantPass := wantPasses_frame 1 s

theorem dropPlan_frame (p : Plan) (s : State) : RunFrame s (dropPlan p s) :=
  planner_frame (dropPlan_told p s).waiters (dropPlan_told p s).passes fun h => by simp [h]

theorem find?_map_kept {l : List Inspection} {f : Inspection → Inspection} (hf : ∀ i, (f i).id = i.id) {id : Nat}
    {i : Inspection} (h : l.find? (·.id = id) = some i) (hi : f i = i) : (l.map f).find? (·.id = id) = some i := by
  rw [List.find?_map, show ((fun i : Inspection => decide (i.id = id)) ∘ f) = fun i => decide (i.id = id) from
    funext fun i => by simp [hf], h]
  exact congrArg some hi

theorem replanImport_frame (p : Plan) (s : State) : RunFrame s (replanImport p s) := by
  unfold replanImport
  split
  · split
    next id _ j hj =>
      split
      next hc =>
        refine .trans (.trans ?_ (updPlanner_frame rfl le_rfl fun h => h)) (wantPass_frame _)
        unfold State.updInsp
        refine updLibrary_frame rfl rfl ?_ rfl fun k i hi he => find?_map_kept ?_ hi (if_neg fun hid => ?_)
        · dsimp only
          rw [List.map_map]
          exact List.map_congr_left fun i _ => by dsimp only [Function.comp]; split <;> rfl
        · intro i
          dsimp only
          split <;> rfl
        · have hk : i.id = k := by simpa using List.find?_some hi
          rw [← hk, hid, hj] at hi
          cases hi
          exact he.2 hc.1
      · exact .refl s
    · exact .refl s
  · exact .refl s

theorem ordersGone_frame (gone : List MoveOrder) (how : Gone) (s : State) : RunFrame s (ordersGone gone how s) := by
  have fold : ∀ (ps : List Plan) (s : State), RunFrame s (ps.foldl (fun s p => replanImport p (dropPlan p s)) s) := by
    intro ps
    induction ps with
    | nil => exact .refl
    | cons p ps ih => exact fun s => ((dropPlan_frame p s).trans (replanImport_frame p _)).trans (ih _)
  unfold ordersGone
  dsimp only
  refine .trans (.trans (.trans ?_ (fold _ _)) (updLibrary_frame rfl rfl ?_ ?_ ?_)) (wantPasses_frame _ _)
  · refine mapDrives_frame fun x => ?_
    unfold holdGone
    split
    · exact ⟨rfl, rfl, id, fun _ => id⟩
    · split
      · exact ⟨rfl, rfl, id, fun hs hh => (if_neg fun h => hs h.2).trans hh⟩
      · exact ⟨rfl, rfl, id, fun _ => id⟩
  · dsimp only
    rw [List.map_map]
    exact List.map_congr_left fun i _ => by dsimp only [Function.comp]; split <;> rfl
  · dsimp only
    rw [List.map_map]
    exact List.map_congr_left fun i _ => by dsimp only [Function.comp]; split <;> rfl
  · intro k i hi he
    refine find?_map_kept (fun i => ?_) hi (if_neg ?_)
    · split <;> rfl
    · simp [he.1]

theorem dropOrders_frame (ns : List Nat) (how : Gone) (s : State) : RunFrame s (dropOrders ns how s) := by
  unfold dropOrders
  refine .trans ?_ (ordersGone_frame _ _ _)
  exact ⟨rfl, rfl, rfl, rfl, rfl, rfl, fun _ => rfl, fun _ => rfl, rfl, le_rfl, fun _ => .refl _, fun _ _ => rfl,
    fun _ h => h, List.filter_sublist, id, fun _ h => h, fun _ _ h => h, fun _ _ h _ => h⟩

theorem tryWithdraw_cases (n : Nat) (s : State) :
    tryWithdraw n s = dropOrders [n] .withdrawn s ∨ tryWithdraw n s = s := by
  unfold tryWithdraw withdraw
  cases s.armOrder? n with
  | none => exact .inr rfl
  | some o =>
    dsimp only
    by_cases h : o.status = .waiting
    · rw [if_pos h]; exact .inl rfl
    · rw [if_neg h]; exact .inr rfl

theorem tryWithdraw_frame (n : Nat) (s : State) : RunFrame s (tryWithdraw n s) := by
  rcases tryWithdraw_cases n s with h | h <;> rw [h]
  · exact dropOrders_frame ..
  · exact .refl s

theorem withdrawAll_frame (ns : List Nat) (s : State) : RunFrame s (ns.foldl (fun s n => tryWithdraw n s) s) := by
  induction ns generalizing s with
  | nil => exact .refl s
  | cons n ns ih => exact (tryWithdraw_frame n s).trans (ih _)

theorem makeFilingReq_frame (p : Nat × Side) (s : State) : RunFrame s (makeFilingReq p s) := by
  unfold makeFilingReq
  exact .trans (updPlanner_frame rfl le_rfl id) (wantPass_frame _)

theorem withdrawFilingReq_frame (s : State) : RunFrame s (withdrawFilingReq s) := by
  unfold withdrawFilingReq
  split
  · exact .refl s
  · have hreq : RunFrame s (s.updPlanner fun q => { q with filingReq := none }).wantPass :=
      .trans (updPlanner_frame rfl le_rfl id) (wantPass_frame _)
    dsimp only
    split
    · exact hreq
    · exact (hreq.trans (withdrawAll_frame _ _)).trans (updPlanner_frame rfl le_rfl fun h => by simp [h])

theorem abortCore_frame (s : State) : RunFrame s (abortCore s) := by
  unfold abortCore
  dsimp only
  refine .trans ?_ (updRun_frame _ _)
  refine .trans ?_ (disengage_frame _)
  refine .trans ?_ (dropLabel_frame _)
  refine .trans ?_ (endFilingUnits_frame _)
  refine .trans ?_ (withdrawFilingReq_frame _)
  refine .trans ?_ (flushRing_frame _)
  exact .trans (dropInstrument_frame s) (dropPending_frame _)

theorem closeRun_frame (s : State) : RunFrame s (closeRun s) := by
  unfold closeRun
  exact updRun_frame _ s

end Sys2Proof.Laws.RunFrames

/-!
PROOF. The ends of instruments and of runs (R111 to R114): what each step of an abort leaves, and with it a run failure and
the end of an instrument as the statements give them.
-/

namespace Sys2Proof.Laws.RunEnds

open Sys2Proof Sys2Proof.Machine Sys2Proof.Laws.Noting Sys2Proof.Laws.Cabinets Sys2Proof.Laws.RunFrames
open Sys2Proof.Laws.Completion

/-! ### Which records each step touches -/

theorem dropInstrument_none {s : State} (h : s.run.current = none) : dropInstrument s = s := by
  unfold dropInstrument
  rw [h]

/-- The sectors of an instrument that become dead as it ends (R112). -/
def deadSectors (s : State) (i : Instrument) : Nat :=
  ((s.entry? i.number).map fun e => extentSum e.extents).getD 0 + i.attemptSectors

/-- The state with an instrument's sectors counted dead on the OPEN side (R112). -/
def withDead (i : Instrument) (s : State) : State :=
  match s.openSide with
  | some (n, x) => if deadSectors s i = 0 then s else countDead n x (deadSectors s i) s
  | none => s

theorem withDead_rest (i : Instrument) (s : State) : withDead i s = { s with library := (withDead i s).library } := by
  unfold withDead
  repeat' split
  all_goals rfl

theorem dropInstrument_some {s : State} {i : Instrument} (h : s.run.current = some i) :
    dropInstrument s = { s with
      catalogue := (orUnchanged s (removeEntry s i.number)).catalogue
      library := (withDead i s).library
      run := { s.run with
        current := none, counts := { s.run.counts with aborted := countUp s.run.counts.aborted 1 } } } := by
  have hw := withDead_rest i s
  have hremove (t : State) (ht : t.catalogue = s.catalogue) :
      orUnchanged t (removeEntry t i.number) = { t with catalogue := (orUnchanged s (removeEntry s i.number)).catalogue } := by
    unfold removeEntry State.entry?
    rw [ht]
    cases s.catalogue.find? fun e => e.number = i.number with
    | none => simp [orUnchanged, ← ht]
    | some e =>
      dsimp only
      split
      · simp [orUnchanged, ← ht]
      · simp [orUnchanged]
  have hdead : dropInstrument s
      = countAborted ((orUnchanged (withDead i s) (removeEntry (withDead i s) i.number)).updRun fun r =>
          { r with current := none }) := by
    unfold dropInstrument
    rw [h]
    rfl
  rw [hdead, hremove _ (by rw [hw]), hw]
  rfl

theorem dropInstrument_rest (s : State) :
    dropInstrument s = { s with
      catalogue := (dropInstrument s).catalogue, library := (dropInstrument s).library, run := (dropInstrument s).run } := by
  cases h : s.run.current with
  | none => rw [dropInstrument_none h]
  | some i => rw [dropInstrument_some h]

/-- A volume label reported failed: its side FULL with the next number, and at most BLANKS_LOW set (R20, R26). -/
theorem labelFailed_noted (n : Nat) (x : Side) (s : State) : Noted (takeVolume n x .full s) (labelFailed n x s) :=
  withPool_noted ..

theorem dropLabel_rest (s : State) :
    dropLabel s = { s with
      library := (dropLabel s).library, links := (dropLabel s).links, notices := (dropLabel s).notices
      run := { s.run with label := none, chosen := none } } := by
  have hfailed (n : Nat) (x : Side) : labelFailed n x s = { s with
      library := (labelFailed n x s).library, links := (labelFailed n x s).links
      notices := (labelFailed n x s).notices } :=
    (labelFailed_noted n x s).rest.trans (by rw [(labelFailed_noted n x s).library]; rfl)
  obtain h | ⟨n, x, h⟩ := dropLabel_either s
  · rw [h]
    rfl
  · rw [h, hfailed]
    rfl

/-- The label that an abort leaves: a command in flight is to end, an unissued WRITE leaves the side BLANK, and an issued
one with none in flight has failed (R113). -/
theorem dropLabel_cases {s : State} {j : LabelJob} {n : Nat} {x : Side} (hj : s.run.label = some j)
    (hc : s.run.chosen = some (n, x)) :
    ((j.issued = false ∨ ∃ u, (s.drive j.drive).unit = some u ∧ u.work.isFiling = true) → (dropLabel s).library = s.library)
      ∧ (j.issued = true → (∀ u, (s.drive j.drive).unit = some u → u.work.isFiling = false) →
        (dropLabel s).library = (takeVolume n x .full s).library) := by
  have hlib (b : Bool) : ((if b then labelFailed n x s else s).updRun fun r =>
      { r with label := none, chosen := none }).library = if b then (takeVolume n x .full s).library else s.library := by
    cases b
    · rfl
    · exact (labelFailed_noted n x s).library
  unfold dropLabel
  rw [hj, hc]
  dsimp only
  cases hu : (s.drive j.drive).unit with
  | none =>
    refine ⟨?_, fun hi _ => ?_⟩
    · rintro (hi | ⟨u, h, -⟩)
      · simp [hi]
      · cases h
    · exact (hlib _).trans (by simp [hi])
  | some u =>
    refine ⟨?_, fun hi hu => ?_⟩
    · rintro (hi | ⟨v, h, hv⟩)
      · simp [hi]
      · cases h
        simp [hv]
    · exact (hlib _).trans (by simp [hi, hu u rfl])

theorem disengage_none {s : State} (h : s.run.engaged = none) : disengage s = s := by
  unfold disengage
  rw [h]

theorem disengage_rest (s : State) :
    disengage s = { s with
      drives := (disengage s).drives, planner := { s.planner with passesDue := (disengage s).planner.passesDue }
      run := { s.run with engaged := none } } := by
  unfold disengage
  split
  next h => rw [← h]
  next d h => rfl

theorem disengage_pin {s : State} {d : DriveId} (h : s.run.engaged = some d) : ((disengage s).drive d).pin = false := by
  unfold disengage
  rw [h]
  simp [liftPin, restartIdle, State.wantPass, State.wantPasses]

/-! ### What leaves the order list leaves only there (R43) -/

/-- From `s` to `t` the Library Map has at most lost orders of its inspections and exports. -/
def SameShelves (s t : State) : Prop :=
  t.library = { s.library with inspections := t.library.inspections, exports := t.library.exports }

theorem SameShelves.trans {a b c : State} (h : SameShelves a b) (k : SameShelves b c) : SameShelves a c := by
  unfold SameShelves at *
  rw [k, h]

theorem replanImport_shelves (p : Plan) (s : State) : SameShelves s (replanImport p s) := by
  unfold replanImport
  repeat' split
  all_goals rfl

theorem ordersGone_shelves (gone : List MoveOrder) (how : Gone) (s : State) : SameShelves s (ordersGone gone how s) := by
  have fold : ∀ (ps : List Plan) (s : State), SameShelves s (ps.foldl (fun s p => replanImport p (dropPlan p s)) s) := by
    intro ps
    induction ps with
    | nil => exact fun _ => rfl
    | cons p ps ih => exact fun s => (show SameShelves s _ from replanImport_shelves p (dropPlan p s)).trans (ih _)
  unfold ordersGone
  dsimp only
  exact SameShelves.trans (fold (s.planner.plans.filter fun p => p.holds (gone.map MoveOrder.number))
    { s with drives := s.drives.map (holdGone (gone.map MoveOrder.number) how s.holdStart) }) rfl

theorem tryWithdraw_shelves (n : Nat) (s : State) : SameShelves s (tryWithdraw n s) := by
  rcases tryWithdraw_cases n s with h | h <;> rw [h]
  · exact ordersGone_shelves _ _ _
  · rfl

/-- A withdrawal leaves the Mount Planner its requests (R43). -/
theorem tryWithdraw_filingReq (n : Nat) (s : State) : (tryWithdraw n s).planner.filingReq = s.planner.filingReq := by
  rcases tryWithdraw_cases n s with h | h <;> rw [h]
  exact (dropOrders_told n .withdrawn s).2.1.filingReq

theorem withdrawAll_spec (ns : List Nat) (s : State) :
    Cabinet s (ns.foldl (fun s n => tryWithdraw n s) s) ∧ SameShelves s (ns.foldl (fun s n => tryWithdraw n s) s)
      ∧ (ns.foldl (fun s n => tryWithdraw n s) s).planner.filingReq = s.planner.filingReq := by
  induction ns generalizing s with
  | nil => exact ⟨rfl, rfl, rfl⟩
  | cons n ns ih =>
    obtain ⟨hc, hs, hf⟩ := ih (tryWithdraw n s)
    exact ⟨(tryWithdraw_cabinet n s).trans hc, (tryWithdraw_shelves n s).trans hs, hf.trans (tryWithdraw_filingReq n s)⟩

theorem replanImport_drives (p : Plan) (s : State) : (replanImport p s).drives = s.drives := by
  unfold replanImport
  repeat' split
  all_goals rfl

theorem dropPlans_drives (ps : List Plan) (s : State) :
    (ps.foldl (fun s p => replanImport p (dropPlan p s)) s).drives = s.drives := by
  induction ps generalizing s with
  | nil => rfl
  | cons p ps ih =>
    exact (ih _).trans (replanImport_drives p (dropPlan p s))

/-- The drives once orders are gone: each hears of its hold order (R72), and of nothing else. -/
theorem ordersGone_drive (gone : List MoveOrder) (how : Gone) (s : State) (d : DriveId) :
    (ordersGone gone how s).drive d = holdGone (gone.map (·.number)) how s.holdStart (s.drive d) := by
  have h : (ordersGone gone how s).drives = s.drives.map (holdGone (gone.map (·.number)) how s.holdStart) :=
    dropPlans_drives ..
  rw [State.drive, h]
  exact drive_mapped s _ d

/-- What a drive may hear of a withdrawal. -/
def sameButHold (x y : Drive) : Prop := y = { x with pendingHold := y.pendingHold, hold := y.hold }

theorem sameButHold.trans {x y z : Drive} (h : sameButHold x y) (k : sameButHold y z) : sameButHold x z := by
  unfold sameButHold at *
  rw [k, h]

theorem holdGone_sameButHold (ns : List Nat) (how : Gone) (start : Option Nat) (x : Drive) :
    sameButHold x (holdGone ns how start x) := by
  unfold holdGone
  repeat' split
  all_goals rfl

theorem tryWithdraw_drive (n : Nat) (s : State) (d : DriveId) : sameButHold (s.drive d) ((tryWithdraw n s).drive d) := by
  rcases tryWithdraw_cases n s with h | h <;> rw [h]
  · rw [dropOrders, ordersGone_drive]
    exact holdGone_sameButHold ..
  · rfl

theorem withdrawAll_drive (ns : List Nat) (s : State) (d : DriveId) :
    sameButHold (s.drive d) ((ns.foldl (fun s n => tryWithdraw n s) s).drive d) := by
  induction ns generalizing s with
  | nil => rfl
  | cons n ns ih => exact (tryWithdraw_drive n s d).trans (ih _)

theorem withdrawFilingReq_drive (s : State) (d : DriveId) :
    sameButHold (s.drive d) ((withdrawFilingReq s).drive d) := by
  unfold withdrawFilingReq
  split
  · rfl
  · dsimp only
    split
    · rfl
    · exact withdrawAll_drive _ (s.updPlanner fun q => { q with filingReq := none }).wantPass d

/-- The withdrawal of the filing request leaves none, and of the cabinet nothing but what hangs on orders (R90). -/
theorem withdrawFilingReq_spec (s : State) :
    Cabinet s (withdrawFilingReq s) ∧ SameShelves s (withdrawFilingReq s)
      ∧ (withdrawFilingReq s).planner.filingReq = none := by
  unfold withdrawFilingReq
  split
  next h => exact ⟨rfl, rfl, Option.isNone_iff_eq_none.1 h⟩
  next h =>
    dsimp only
    split
    · exact ⟨rfl, rfl, rfl⟩
    · obtain ⟨hc, hs, hf⟩ := withdrawAll_spec _ _
      refine ⟨.trans (b := (s.updPlanner fun q => { q with filingReq := none }).wantPass) rfl (hc.trans rfl), ?_, ?_⟩
      · exact SameShelves.trans (b := (s.updPlanner fun q => { q with filingReq := none }).wantPass) rfl (hs.trans rfl)
      · exact hf

/-! ### An abort (R113) -/

/-- The counts of a run that is aborted: its instrument, and one that a separator named, aborted, its ring discarded. -/
def abortedCounts (r : Run) : RunCounts :=
  let a := if r.current.isSome then countUp r.counts.aborted 1 else r.counts.aborted
  { r.counts with
    aborted := if r.pendingSep.isSome then countUp a 1 else a
    discarded := countUp r.counts.discarded r.ring.length }

/-- The run that an abort leaves, before it is closed or kept to be closed. -/
def abortedRun (r : Run) : Run :=
  { r with
    current := none, pendingSep := none, engaged := none, label := none, chosen := none, probing := none, stall := none
    head := r.tail, ring := [], counts := abortedCounts r }

/-- The state once an abort has dropped the instrument and flushed the ring. -/
def flushed (s : State) : State := flushRing (dropPending (dropInstrument s))

theorem dropPending_run (s : State) :
    (dropPending s).run = { s.run with
      pendingSep := none
      counts := { s.run.counts with
        aborted := if s.run.pendingSep.isSome then countUp s.run.counts.aborted 1 else s.run.counts.aborted } } := by
  unfold dropPending
  cases s.run.pendingSep <;> rfl

theorem dropPending_rest (s : State) : dropPending s = { s with run := (dropPending s).run } := by
  unfold dropPending
  cases s.run.pendingSep <;> rfl

theorem flushed_run (s : State) :
    (flushed s).run = { s.run with
      current := none, pendingSep := none, head := s.run.tail, ring := [], counts := abortedCounts s.run } := by
  have hflush (t : State) : (flushRing t).run = { t.run with
      head := t.run.tail, ring := []
      counts := { t.run.counts with discarded := countUp t.run.counts.discarded t.run.ring.length } } := rfl
  rw [flushed, hflush, dropPending_run]
  cases h : s.run.current with
  | none =>
    rw [dropInstrument_none h]
    simp only [abortedCounts, h, Option.isSome_none, Bool.false_eq_true, if_false, Run.tail]
  | some i =>
    rw [dropInstrument_some h]
    simp only [abortedCounts, h, Option.isSome_some, if_true, Run.tail]

theorem flushed_rest (s : State) :
    flushed s = { s with
      catalogue := (dropInstrument s).catalogue, library := (dropInstrument s).library, run := (flushed s).run } := by
  have hflush (t : State) : flushRing t = { t with run := (flushRing t).run } := rfl
  rw [flushed, hflush, dropPending_rest, dropInstrument_rest]

/-- The state that an abort leaves just before the label's fate and the pin: the filing request withdrawn, the filing units to
end. -/
def unfiled (s : State) : State := endFilingUnits (withdrawFilingReq (flushed s))

theorem abortCore_eq (s : State) :
    abortCore s = (disengage (dropLabel (unfiled s))).updRun fun r => { r with probing := none, stall := none } := rfl

theorem unfiled_run (s : State) : (unfiled s).run = (flushed s).run := (withdrawFilingReq_spec (flushed s)).1.run

theorem abortCore_run (s : State) : (abortCore s).run = abortedRun s.run := by
  have h : (abortCore s).run = { (disengage (dropLabel (unfiled s))).run with probing := none, stall := none } := rfl
  rw [h, disengage_rest, dropLabel_rest, unfiled_run, flushed_run]
  rfl

theorem abortCore_catalogue (s : State) : (abortCore s).catalogue = (dropInstrument s).catalogue := by
  have h : (abortCore s).catalogue = (disengage (dropLabel (unfiled s))).catalogue := rfl
  rw [h, disengage_rest, dropLabel_rest]
  refine (withdrawFilingReq_spec (flushed s)).1.catalogue.trans ?_
  rw [flushed_rest]

theorem abortCore_filingReq (s : State) : (abortCore s).planner.filingReq = none := by
  have h : (abortCore s).planner = (disengage (dropLabel (unfiled s))).planner := rfl
  rw [h, disengage_rest, dropLabel_rest]
  exact (withdrawFilingReq_spec (flushed s)).2.2

theorem abortCore_library (s : State) : (abortCore s).library = (dropLabel (unfiled s)).library := by
  have h : (abortCore s).library = (disengage (dropLabel (unfiled s))).library := rfl
  rw [h, disengage_rest]

/-- Of the Library Map an abort has changed, when it comes to the label, only what hangs on orders and the dead counts. -/
theorem unfiled_library (s : State) :
    (unfiled s).library = { (dropInstrument s).library with
      inspections := (unfiled s).library.inspections, exports := (unfiled s).library.exports } := by
  have h := (withdrawFilingReq_spec (flushed s)).2.1
  have hf : (flushed s).library = (dropInstrument s).library := by rw [flushed_rest]
  unfold SameShelves at h
  rw [hf] at h
  exact h

theorem abortCore_pin {s : State} {d : DriveId} (h : s.run.engaged = some d) : ((abortCore s).drive d).pin = false := by
  have hd : (abortCore s).drive d = (disengage (dropLabel (unfiled s))).drive d := rfl
  rw [hd]
  refine disengage_pin ?_
  rw [dropLabel_rest, unfiled_run, flushed_run]
  exact h

/-- A drive's unit of filing work is to end at its command's completion (R70). -/
theorem unfiled_unit (s : State) (d : DriveId) :
    ((unfiled s).drive d).unit
      = ((s.drive d).unit.map fun u => if u.work.isFiling then { u with ended := true } else u) := by
  have hw := withdrawFilingReq_drive (flushed s) d
  have hf : (flushed s).drive d = s.drive d := by rw [flushed_rest]; rfl
  rw [hf] at hw
  rw [unfiled, endFilingUnits, drive_mapped, hw]

theorem abortCore_unit (s : State) (d : DriveId) :
    ((abortCore s).drive d).unit
      = ((s.drive d).unit.map fun u => if u.work.isFiling then { u with ended := true } else u) := by
  have hdis (t : State) : ((disengage t).drive d).unit = (t.drive d).unit := by
    unfold disengage
    split
    · rfl
    next e _ =>
      by_cases he : d = e
      · subst he; simp [liftPin, restartIdle, State.wantPass, State.wantPasses]
      · simp [liftPin, restartIdle, State.wantPass, State.wantPasses, State.drive_updDrive_ne _ _ he]
  rw [← unfiled_unit]
  refine (hdis _).trans ?_
  rw [dropLabel_rest]
  rfl

/-- Without a volume label under way an abort leaves the Library Map's table as the instrument's end left it. -/
theorem abortCore_table {s : State} (h : s.run.chosen = none ∨ s.run.label = none) :
    (abortCore s).library.table = (dropInstrument s).library.table := by
  have hno : (dropLabel (unfiled s)).library = (unfiled s).library := by
    have hl : (unfiled s).run.label = s.run.label := by rw [unfiled_run, flushed_run]
    have hc : (unfiled s).run.chosen = s.run.chosen := by rw [unfiled_run, flushed_run]
    unfold dropLabel
    rw [hl, hc]
    rcases h with h | h <;> rw [h]
    · cases s.run.label <;> rfl
    · rfl
  rw [abortCore_library, hno, unfiled_library]

theorem side?_of_table {s t : State} (h : t.library.table = s.library.table) (n : Nat) (x : Side) :
    t.side? n x = s.side? n x := by
  rw [State.side?, State.cart?, h]
  rfl

theorem cart?_updCart {s : State} {n : Nat} {f : Cartridge → Cartridge} (hf : ∀ c, (f c).number = c.number) (m : Nat) :
    (s.updCart n f).cart? m = (s.cart? m).map fun c => if c.number = n then f c else c := by
  have hname (c : Cartridge) : (if c.number = n then f c else c).number = c.number := by split <;> simp [hf]
  simp only [State.cart?, State.updCart, State.updLibrary, List.find?_map]
  congr 2
  funext c
  simp [hname]

theorem cart?_number {s : State} {n : Nat} {c : Cartridge} (h : s.cart? n = some c) : c.number = n := by
  simpa using List.find?_some h

theorem updSide_number (c : Cartridge) (x : Side) (f : SideRec → SideRec) : (c.updSide x f).number = c.number := by
  cases x <;> rfl

theorem sideRec_updSide (c : Cartridge) (x : Side) (f : SideRec → SideRec) : (c.updSide x f).sideRec x = f (c.sideRec x) := by
  cases x <;> rfl

/-- A side that has been updated reads as updated. -/
theorem side?_updSide (s : State) (n : Nat) (x : Side) (f : SideRec → SideRec) :
    (s.updCart n fun c => c.updSide x f).side? n x = (s.side? n x).map f := by
  rw [State.side?, cart?_updCart (fun c => updSide_number c x f), State.side?]
  cases h : s.cart? n with
  | none => rfl
  | some c => simp [cart?_number h, sideRec_updSide]

/-- The OPEN side carries an instrument's sectors as dead once it has ended, its frontier as it was (R112). -/
theorem dropInstrument_side {s : State} {i : Instrument} {n : Nat} {x : Side} {q : SideRec} (h : s.run.current = some i)
    (ho : s.openSide = some (n, x)) (hq : s.side? n x = some q) :
    (dropInstrument s).side? n x = some { q with dead := q.dead + deadSectors s i } := by
  rw [dropInstrument_some h]
  show (withDead i s).side? n x = _
  unfold withDead
  rw [ho]
  dsimp only
  split
  next h0 =>
    rw [hq, h0]
    rfl
  next => rw [countDead, side?_updSide, hq]; rfl

theorem removeEntry_catalogue {s : State} {n : Nat} {e : CatEntry} (he : s.entry? n = some e) (hf : e.state = .filing) :
    (orUnchanged s (removeEntry s n)).catalogue = s.catalogue.filter fun x => x.number ≠ n := by
  simp [removeEntry, he, hf, orUnchanged]

theorem dropInstrument_catalogue {s : State} {i : Instrument} {e : CatEntry} (h : s.run.current = some i)
    (he : s.entry? i.number = some e) (hf : e.state = .filing) :
    (dropInstrument s).catalogue = s.catalogue.filter fun x => x.number ≠ i.number := by
  rw [dropInstrument_some h]
  exact removeEntry_catalogue he hf

/-! ### Pending requests answered (R98, R111, R113, R114) -/

theorem replyOpen_none {s : State} (h : s.run.openTag = none) (c : Status) (b : ReplyBody) : replyOpen c b s = s := by
  unfold replyOpen
  rw [h]

theorem replyOpen_some {s : State} {g : Byte} (h : s.run.openTag = some g) (c : Status) (b : ReplyBody) :
    replyOpen c b s = (s.updLink s.run.owner (answered ⟨g, 0x20, c, b⟩)).updRun fun r => { r with openTag := none } := by
  unfold replyOpen
  rw [h, ← replyLong_eq]

theorem replyClose_none {s : State} (h : s.run.closeTag = none) (c : Status) (b : ReplyBody) : replyClose c b s = s := by
  unfold replyClose
  rw [h]

theorem replyClose_some {s : State} {g : Byte} (h : s.run.closeTag = some g) (c : Status) (b : ReplyBody) :
    replyClose c b s = (s.updLink s.run.owner (answered ⟨g, 0x22, c, b⟩)).updRun fun r => { r with closeTag := none } := by
  unfold replyClose
  rw [h, ← replyLong_eq]

/-- An answer to a request that is outstanding joins the replies; nothing else of them changes (R184). -/
theorem answered_awaited {r : Reply} {l : Link} (h : ∃ e ∈ l.outstanding, e.tag = r.tag) :
    (answered r l).replies = l.replies ++ [r] := by
  rw [answered_replies, if_pos]
  simpa using h

/-- A pending request's answer, where one is pending (R184). -/
def answeredIf (tag : Option Byte) (r : Byte → Reply) (l : Link) : Link := tag.elim l fun g => answered (r g) l

theorem replyOpen_eq (c : Status) (b : ReplyBody) (s : State) :
    replyOpen c b s = (s.updLink s.run.owner (answeredIf s.run.openTag fun g => ⟨g, 0x20, c, b⟩)).updRun fun r =>
      { r with openTag := none } := by
  cases h : s.run.openTag with
  | none =>
    rw [replyOpen_none h, Frames.updLink_of_eq rfl, State.updRun, ← h]
  | some g => rw [replyOpen_some h]; rfl

theorem replyClose_eq (c : Status) (b : ReplyBody) (s : State) :
    replyClose c b s = (s.updLink s.run.owner (answeredIf s.run.closeTag fun g => ⟨g, 0x22, c, b⟩)).updRun fun r =>
      { r with closeTag := none } := by
  cases h : s.run.closeTag with
  | none =>
    rw [replyClose_none h, Frames.updLink_of_eq rfl, State.updRun, ← h]
  | some g => rw [replyClose_some h]; rfl

/-! ### A run failure (R114) -/

theorem sameButAttention_awaits {s t : State} {st : Station} (h : SameButAttention (s.link st) (t.link st)) (g : Byte) :
    t.awaits st g ↔ s.awaits st g := by
  unfold State.awaits
  rw [sameButAttention_outstanding h]

/-- The aborted run with the reason of its failure. -/
def failedRun (reason : Status) (s : State) : State := (abortCore s).updRun fun r => { r with failure := some reason }

theorem failedRun_run (reason : Status) (s : State) :
    (failedRun reason s).run = { abortedRun s.run with failure := some reason } := by
  rw [← abortCore_run]
  rfl

theorem failedRun_frame (reason : Status) (s : State) : RunFrame s (failedRun reason s) :=
  (abortCore_frame s).trans (updRun_frame _ _)

section
variable {s : State} {reason : Status} (hs : s.run.state ≠ .closed) (hf : s.run.failure = none)
include hs hf

theorem runFailure_open {g : Byte} (h : s.run.openTag = some g) :
    runFailure reason s = closeRun (replyOpen reason .none (failedRun reason s)) := by
  have hr : (failedRun reason s).run.openTag = some g := by rw [failedRun_run]; exact h
  unfold runFailure
  rw [if_neg (by simp [hs, hf])]
  exact if_pos (by rw [show (State.updRun (abortCore s) _).run.openTag = some g from hr]; rfl)

theorem runFailure_close {g : Byte} (ho : s.run.openTag = none) (h : s.run.closeTag = some g) :
    runFailure reason s
      = closeRun (replyClose reason (.closed (abortedCounts s.run) none none) (failedRun reason s)) := by
  have hr := failedRun_run reason s
  unfold runFailure
  rw [if_neg (by simp [hs, hf])]
  dsimp only
  rw [← failedRun, hr, if_neg (by simp [abortedRun, ho]), if_pos (by simp [abortedRun, h])]
  rfl

theorem runFailure_unasked (ho : s.run.openTag = none) (hc : s.run.closeTag = none) :
    runFailure reason s = (failedRun reason s).updRun fun r => { r with state := .closing } := by
  have hr := failedRun_run reason s
  unfold runFailure
  rw [if_neg (by simp [hs, hf])]
  dsimp only
  rw [← failedRun, hr, if_neg (by simp [abortedRun, ho]), if_neg (by simp [abortedRun, hc])]

/-- A run failure leaves the run as R114 gives it. -/
theorem runFailure_fails : runFails s (runFailure reason s) reason := by
  have hrun := failedRun_run reason s
  have hreq : (failedRun reason s).planner.filingReq = none := abortCore_filingReq s
  have howner : (failedRun reason s).run.owner = s.run.owner := by rw [hrun]; rfl
  have hlink := (failedRun_frame reason s).link s.run.owner
  have hreply (b : Byte) (g : Byte) (body : ReplyBody) (haw : s.awaits s.run.owner g) :
      ⟨g, b, reason, body⟩
        ∈ (answered ⟨g, b, reason, body⟩ ((failedRun reason s).link s.run.owner)).replies := by
    have hout : ∃ e ∈ ((failedRun reason s).link s.run.owner).outstanding, e.tag = (⟨g, b, reason, body⟩ : Reply).tag :=
      (sameButAttention_awaits hlink g).2 haw
    rw [answered_awaited hout]
    simp
  cases ho : s.run.openTag with
  | some g =>
    have ho' : (failedRun reason s).run.openTag = some g := by rw [hrun]; exact ho
    rw [runFailure_open hs hf ho, replyOpen_some ho', howner]
    refine ⟨?_, ?_, ?_, ?_, ?_, hreq, fun h => absurd (ho.symm.trans h) nofun, fun g' hg' => ⟨rfl, fun haw => ?_⟩,
      fun _ h => absurd (ho.symm.trans h) nofun⟩
    iterate 5 simp [closeRun, hrun, abortedRun]
    obtain rfl : g = g' := Option.some.inj (ho.symm.trans hg')
    simpa [closeRun] using hreply 0x20 g .none haw
  | none =>
    cases hc : s.run.closeTag with
    | some g =>
      have hc' : (failedRun reason s).run.closeTag = some g := by rw [hrun]; exact hc
      rw [runFailure_close hs hf ho hc, replyClose_some hc', howner]
      refine ⟨?_, ?_, ?_, ?_, ?_, hreq, fun _ h => absurd (hc.symm.trans h) nofun, fun _ h => absurd (ho.symm.trans h) nofun,
        fun g' _ hg' => ⟨rfl, fun haw => ?_⟩⟩
      iterate 5 simp [closeRun, hrun, abortedRun]
      obtain rfl : g = g' := Option.some.inj (hc.symm.trans hg')
      have hcounts : (failedRun reason s).run.counts = abortedCounts s.run := by rw [hrun]; rfl
      simpa [closeRun, hcounts] using hreply 0x22 g (.closed (abortedCounts s.run) none none) haw
    | none =>
      rw [runFailure_unasked hs hf ho hc]
      refine ⟨?_, ?_, ?_, ?_, ?_, hreq, fun _ _ => ⟨?_, rfl⟩, fun _ h => absurd (ho.symm.trans h) nofun,
        fun _ _ h => absurd (hc.symm.trans h) nofun⟩
      iterate 6 simp [hrun, abortedRun]

end

end Sys2Proof.Laws.RunEnds

/-!
PROOF. The requests of the FILE family and the PAGE frame (R97 to R105, R111, R113); the obligations O14 to O16.
-/

namespace Sys2Proof.Laws.FileRequests

open Sys2Proof Sys2Proof.Machine Sys2Proof.Laws.Noting Sys2Proof.Laws.Bodies Sys2Proof.Laws.Completion
open Sys2Proof.Laws.RunFrames Sys2Proof.Laws.RunEnds

/-! ### ABORT_INSTRUMENT (R113) -/

/-- The run CLOSED by an abort (R113). -/
def closedRun (r : Run) : Run := { abortedRun r with state := .closed, openTag := none, closeTag := none }

/-- The answers that an abort gives, before the run is CLOSED (R113). -/
def abortAnswers (s : State) : State :=
  replyClose .aborted (.closed (abortedCounts s.run) none none) (replyOpen .aborted .none (abortCore s))

theorem abortRun_eq (s : State) : abortRun s = closeRun (abortAnswers s) := by
  have h : (abortCore s).run.counts = abortedCounts s.run := by rw [abortCore_run]; rfl
  rw [abortAnswers, ← h]
  rfl

/-- The owner's context with the pending requests of its run answered ABORTED (R113). -/
def abortedLink (r : Run) (l : Link) : Link :=
  answeredIf r.closeTag (fun g => ⟨g, 0x22, .aborted, .closed (abortedCounts r) none none⟩)
    (answeredIf r.openTag (fun g => ⟨g, 0x20, .aborted, .none⟩) l)

theorem abortRun_rest (s : State) :
    abortRun s = { (abortCore s).updLink s.run.owner (abortedLink s.run) with run := closedRun s.run } := by
  have hrun := abortCore_run s
  have hlink := State.updLink_updLink (abortCore s) s.run.owner
    (answeredIf s.run.openTag fun g => ⟨g, 0x20, .aborted, .none⟩)
    (answeredIf s.run.closeTag fun g => ⟨g, 0x22, .aborted, .closed (abortedCounts s.run) none none⟩)
  have howner : (abortCore s).run.owner = s.run.owner := by rw [hrun]; rfl
  have hopen : (abortCore s).run.openTag = s.run.openTag := by rw [hrun]; rfl
  have hclose : (abortCore s).run.closeTag = s.run.closeTag := by rw [hrun]; rfl
  rw [abortRun_eq, abortAnswers, replyOpen_eq, replyClose_eq, howner, hopen]
  simp only [State.updRun_run, State.updLink_run, howner, hclose]
  rw [show State.updLink _ s.run.owner (abortedLink s.run) = _ from hlink.symm]
  simp only [closeRun, State.updRun, closedRun, ← hrun]
  rfl

theorem abortRun_link (s : State) (st : Station) :
    (abortRun s).link st
      = if st = s.run.owner then abortedLink s.run ((abortCore s).link st) else (abortCore s).link st := by
  rw [abortRun_rest]
  refine (State.link_updLink (abortCore s) s.run.owner st (abortedLink s.run)).trans ?_
  split
  next h => rw [h]
  next => rfl

/-- An answered request leaves the replies with its answer at the end, if it was awaited (R184). -/
theorem answeredIf_some {tag : Option Byte} {g : Byte} (h : tag = some g) (r : Byte → Reply) (l : Link) :
    answeredIf tag r l = answered (r g) l := by
  rw [h]
  rfl

theorem answeredIf_none {tag : Option Byte} (h : tag = none) (r : Byte → Reply) (l : Link) : answeredIf tag r l = l := by
  rw [h]
  rfl

/-- The request stays awaited when another has been answered. -/
theorem mem_outstanding_answered {r : Reply} {l : Link} {g : Byte} (hne : g ≠ r.tag)
    (h : ∃ e ∈ l.outstanding, e.tag = g) : ∃ e ∈ (answered r l).outstanding, e.tag = g := by
  obtain ⟨e, he, ht⟩ := h
  refine ⟨e, ?_, ht⟩
  rw [answered_outstanding]
  exact List.mem_filter.2 ⟨he, by simpa [ht] using hne⟩

theorem abortedCounts_eq (r : Run) :
    abortedCounts r = { r.counts with
      aborted := if r.current = none ∧ r.pendingSep = none then r.counts.aborted
        else min (r.counts.aborted + (if r.current = none ∨ r.pendingSep = none then 1 else 2)) 65535
      discarded := min (r.counts.discarded + r.ring.length) 65535 } := by
  have htwice (n : Nat) : countUp (countUp n 1) 1 = min (n + 2) 65535 := by
    unfold countUp Config.countMax
    omega
  unfold abortedCounts
  cases r.current <;> cases r.pendingSep <;> simp [htwice] <;> simp [countUp, Config.countMax]

/-- Settles O16. -/
theorem closeAndAbortInstrument : Obligations.CloseAndAbortInstrument := by
  refine ⟨fun s st tag hadm => ?_, fun s st tag hadm => ?_⟩
  · intro out no r listed
    have hserve : out = finished (closeRequest st tag s) := exec_served (r := .closeInstrument) hadm rfl
    unfold closeRequest at hserve
    refine ⟨fun h => hserve.trans (congrArg finished (if_pos h)), fun hs ho => ?_⟩
    replace hserve := hserve.trans (congrArg finished (if_neg (not_or.2 ⟨hs, not_not.2 ho⟩)))
    refine ⟨fun hc => hserve.trans (congrArg finished (if_pos (Option.isSome_iff_ne_none.2 hc))), fun hc => ?_⟩
    replace hserve := hserve.trans (congrArg finished (if_neg (by simp [show s.run.closeTag = none from hc])))
    refine ⟨fun c hf => ?_, fun hf => ?_⟩
    · rw [show s.run.failure = some c from hf] at hserve
      exact hserve
    · rw [show s.run.failure = none from hf] at hserve
      exact ⟨fun h => hserve.trans (congrArg finished (if_pos h)), fun h => hserve.trans (congrArg finished (if_neg h))⟩
  · intro out r
    have hserve : out = finished (abortRequest st tag s) := exec_served (r := .abortInstrument) hadm rfl
    unfold abortRequest at hserve
    refine ⟨fun h => hserve.trans (congrArg finished (if_pos h)), fun hs ho => ?_⟩
    replace hserve := hserve.trans (congrArg finished (if_neg (not_or.2 ⟨hs, not_not.2 ho⟩)))
    have hrest := abortRun_rest s
    have hframe := abortCore_frame s
    have hrun : (abortRun s).run = closedRun s.run := by rw [hrest]
    have hcat : (abortRun s).catalogue = (dropInstrument s).catalogue := by
      rw [hrest]; exact abortCore_catalogue s
    have hlib : (abortRun s).library = (abortCore s).library := by rw [hrest]; rfl
    have hdrive (d : DriveId) : (abortRun s).drive d = (abortCore s).drive d := by rw [hrest]; rfl
    have hlink : (abortRun s).link st = abortedLink s.run ((abortCore s).link st) := by
      rw [abortRun_link, if_pos ho.symm]
    have hreplies : ((abortCore s).link st).replies = (s.link st).replies := sameButAttention_replies (hframe.link st)
    refine ⟨abortRun s, hserve, by rw [hrun]; rfl, by rw [hrun]; rfl, by rw [hrun]; rfl, by rw [hrun]; rfl,
      by rw [hrun]; rfl, by rw [hrun]; rfl, by rw [hrun]; rfl, by rw [hrun]; rfl, by rw [hrun]; rfl, by rw [hrun]; rfl,
      by rw [hrun]; rfl, ?counts, ?req, fun d hd => by rw [hdrive]; exact abortCore_pin hd, ?noInstrument,
      fun i e hi he hf => by rw [hcat]; exact dropInstrument_catalogue hi he hf, ?dead, ?table, ?opening, ?closing, ?both,
      ?label, ?neither, ?fetch, ?fee⟩
    case counts => rw [hrun]; exact abortedCounts_eq s.run
    case req => rw [hrest]; exact abortCore_filingReq s
    case noInstrument => exact fun hi => by rw [hcat, dropInstrument_none hi]
    case dead =>
      intro i n x q hi hc hop hq
      rw [side?_of_table (s := dropInstrument s) (by rw [hlib, abortCore_table (.inl hc)])]
      exact dropInstrument_side hi hop hq
    case table => exact fun hi hl => by rw [hlib, abortCore_table (.inr hl), dropInstrument_none hi]
    case opening =>
      intro g hg hc haw
      rw [hlink, abortedLink, answeredIf_none hc, answeredIf_some hg, ← hreplies]
      exact answered_awaited ((sameButAttention_awaits (hframe.link st) g).2 haw)
    case closing =>
      intro g hg hc haw
      rw [hlink, abortedLink, answeredIf_some hc, answeredIf_none hg, ← hreplies, hrun]
      exact answered_awaited (r := ⟨g, 0x22, .aborted, .closed (abortedCounts s.run) none none⟩)
        ((sameButAttention_awaits (hframe.link st) g).2 haw)
    case both =>
      intro g h hg hh hne haw haw'
      have hg' := (sameButAttention_awaits (hframe.link st) g).2 haw
      have hh' := (sameButAttention_awaits (hframe.link st) h).2 haw'
      rw [hlink, abortedLink, answeredIf_some hh, answeredIf_some hg, hrun,
        answered_awaited (r := ⟨h, 0x22, .aborted, .closed (abortedCounts s.run) none none⟩)
          (mem_outstanding_answered (r := ⟨g, 0x20, .aborted, .none⟩) hne.symm hh'),
        answered_awaited (r := ⟨g, 0x20, .aborted, .none⟩) hg', hreplies, List.append_assoc]
      rfl
    case label =>
      intro j n x c hj hc hi hcart unit
      obtain ⟨hkept, hfailed⟩ := dropLabel_cases (s := unfiled s) (by rw [unfiled_run, flushed_run]; exact hj)
        (by rw [unfiled_run, flushed_run]; exact hc)
      have htable : (unfiled s).library.table = s.library.table := by rw [unfiled_library, dropInstrument_none hi]
      have hvol : (unfiled s).library.nextVol = s.library.nextVol := by rw [unfiled_library, dropInstrument_none hi]
      have hvols : (unfiled s).library.volumes = s.library.volumes := by rw [unfiled_library, dropInstrument_none hi]
      rw [unfiled_unit] at hkept hfailed
      refine ⟨fun hu => ?_, fun u _ hu hw => ⟨?_, ?_⟩, fun his hu => ?_⟩
      · rw [hlib, abortCore_library, hkept (.inl hu), htable]
      · rw [hlib, abortCore_library, hkept (.inr ⟨{ u with ended := true }, ?_, hw⟩), htable]
        rw [show (s.drive j.drive).unit = some u from hu, Option.map_some, if_pos hw]
      · rw [hdrive, abortCore_unit, show (s.drive j.drive).unit = some u from hu, Option.map_some, if_pos hw]
      · have hl := hfailed his ?_
        · rw [hlib, abortCore_library, hl]
          refine ⟨?_, ?_, ?_⟩
          · rw [side?_of_table (s := takeVolume n x .full (unfiled s)) (by rw [hlib, abortCore_library, hl])]
            refine (side?_updSide (unfiled s) n x fun _ => ⟨.full, some (unfiled s).library.nextVol, 32, 0, 0⟩).trans ?_
            rw [side?_of_table htable, State.side?, hcart, hvol]
            rfl
          · rw [← hvol]; rfl
          · rw [← hvol, ← hvols]; rfl
        · intro u hu'
          cases h : (s.drive j.drive).unit with
          | none => simp [h] at hu'
          | some v =>
            have hv := hu v h
            simp only [h, Option.map_some, hv, Bool.false_eq_true, if_false, Option.some.injEq] at hu'
            rw [← hu', hv]
    case neither => exact fun hg hc => by rw [hlink, abortedLink, answeredIf_none hc, answeredIf_none hg, hreplies]
    case fetch => rw [hrest]; exact hframe.fetch
    case fee => rw [hrest]; exact hframe.fee

/-! ### OPEN_INSTRUMENT (R97, R98) -/

/-- A notice does not look at the run. -/
theorem noticeSet_withRun (i : Nat) (s : State) (r : Run) :
    noticeSet i { s with run := r } = { noticeSet i s with run := r } := by
  have hd (t : State) (st : Station) : deliverable { t with run := r } st = deliverable t st := rfl
  have hj (t : State) (st : Station) : judge st { t with run := r } = { judge st t with run := r } := by
    have hl : State.link { t with run := r } st = t.link st := rfl
    unfold judge
    rw [hl, hd]
    repeat' split
    all_goals rfl
  exact hj (s.updSource i fun x => { x with pending := true }) _

theorem makeFull_withRun (n : Nat) (x : Side) (s : State) (r : Run) :
    makeFull n x { s with run := r } = { makeFull n x s with run := r } :=
  noticeSet_withRun nVolumeFull
    ((s.updCart n fun c => c.updSide x fun r => { r with state := .full }).updLibrary fun l => { l with probeDue := false })
    r

section
variable {s : State} {src : Byte} {n cls : Nat}

theorem openRefusal_source (h : 1 < src.toNat ∨ 7 < cls) : openRefusal ⟨src.toNat, n, cls⟩ s = some .badRequest := if_pos h

theorem openRefusal_busy (h1 : src.toNat ≤ 1) (h2 : cls ≤ 7) (h : s.run.state ≠ .closed) :
    openRefusal ⟨src.toNat, n, cls⟩ s = some .busy :=
  (if_neg (by dsimp only; omega)).trans (if_pos h)

/-- The checks after the first three (R97). -/
def laterRefusal (s : State) : Option Status :=
  if !catalogueRoom s then some .catalogueFull
  else if openFaulted s then some .filingDriveFault
  else if s.arm.level = .halted ∧ (rolloverNeeded s || !openUp s) then some .libraryHalted
  else if rolloverNeeded s ∧ (blankChoice s (s.openSide.map (·.1))).isNone then some .noBlank
  else none

theorem openRefusal_closed (h1 : src.toNat ≤ 1) (h2 : cls ≤ 7) (h : s.run.state = .closed) :
    openRefusal ⟨src.toNat, n, cls⟩ s
      = if src.toNat = 0 ∧ !validInstrument n then some .badRequest
        else if src.toNat = 0 ∧ (s.entry? n).isSome then some .duplicate
        else laterRefusal s :=
  (if_neg (by dsimp only; omega)).trans (if_neg (not_not.2 h))

end

theorem catalogueRoom_iff (s : State) : catalogueRoom s = true ↔ s.catalogue.length < 65536 := decide_eq_true_iff

theorem rolloverNeeded_iff (s : State) : rolloverNeeded s = true ↔ s.freeSectors < 4096 := decide_eq_true_iff

theorem openFaulted_iff (s : State) :
    openFaulted s = true ↔ ∃ m x c d, s.openSide = some (m, x) ∧ s.cart? m = some c ∧ c.location = .drive d
      ∧ (s.drive d).state = .faulted := by
  unfold openFaulted
  cases s.openSide with
  | none => simp
  | some p =>
    obtain ⟨m, x⟩ := p
    cases hc : s.cart? m with
    | none => simp [hc]
    | some c => cases hl : c.location <;> simp [hc, hl]

theorem openUp_iff (s : State) : openUp s = true ↔ ∃ m x d, s.openSide = some (m, x) ∧ s.upIn m x d = true := by
  unfold openUp
  cases s.openSide with
  | none => simp
  | some p =>
    obtain ⟨m, x⟩ := p
    simp [Admissions.mem_allDrives]

theorem blankChoice_congr {s t : State} (h : t.library = s.library) (named : Option Nat) :
    blankChoice t named = blankChoice s named := by
  unfold blankChoice State.pool State.beingShelved
  rw [h]

/-- The OPEN side FULL, where there is one (R100). -/
def openFull (s : State) : State := s.openSide.elim s fun p => makeFull p.1 p.2 s

theorem openFull_eq (s : State) : openFull s = (match s.openSide with | some (n, x) => makeFull n x s | none => s) := by
  unfold openFull
  cases s.openSide <;> rfl

theorem beginRollover_some {s : State} {p : Nat × Side} (h : blankChoice s (s.openSide.map (·.1)) = some p) :
    beginRollover s = startRollover p s := by
  unfold beginRollover
  cases hb : blankChoice s (s.openSide.map (·.1)) with
  | none => cases h.symm.trans hb
  | some q =>
    cases h.symm.trans hb
    rfl

theorem startRollover_eq (p : Nat × Side) (s : State) :
    startRollover p s = makeFilingReq p ((disengage (openFull s)).updRun fun r =>
      { r with chosen := some p, state := .opening, stall := none, label := none, probing := none }) := by
  unfold startRollover openFull
  cases s.openSide <;> rfl

theorem openFull_withRun (s : State) (r : Run) : openFull { s with run := r } = { openFull s with run := r } := by
  have h : State.openSide { s with run := r } = s.openSide := rfl
  unfold openFull
  rw [h]
  cases s.openSide with
  | none => rfl
  | some q => exact makeFull_withRun ..

/-- A rollover of a run that engages no drive: the OPEN side FULL, and the request made for the blank (R100). -/
theorem beginRollover_opening {s : State} {r : Run} {p : Nat × Side} (hb : blankChoice s (s.openSide.map (·.1)) = some p)
    (hr : r = { r with engaged := none, chosen := none, state := .opening, stall := none, label := none, probing := none }) :
    beginRollover { s with run := r } = { openFull s with
      run := { r with chosen := some p }
      planner := { (openFull s).planner with filingReq := some p, passesDue := (openFull s).planner.passesDue + 1 } } := by
  have hengaged : r.engaged = none := by rw [hr]
  have hblank : blankChoice { s with run := r } ((State.openSide { s with run := r }).map (·.1)) = some p :=
    (blankChoice_congr rfl _).trans hb
  rw [beginRollover_some hblank, startRollover_eq, openFull_withRun, disengage_none (s := { openFull s with run := r }) hengaged,
    hr]
  rfl

/-- Settles O14. -/
theorem openInstrument : Obligations.OpenInstrument := by
  intro s st tag src cls n hadm hn out no run opened listed
  have hserve : out = finished (openRequest st tag ([src] ++ beBytes 4 n ++ [cls]) s) :=
    exec_served (r := .openInstrument) hadm rfl
  have hfields : openFields ([src] ++ beBytes 4 n ++ [cls]) = ⟨src.toNat, n, cls.toNat⟩ := by
    simp (disch := omega) [openFields]
  rw [openRequest, hfields] at hserve
  have hno {c : Status} (h : openRefusal ⟨src.toNat, n, cls.toNat⟩ s = some c) : out = no c := by
    rw [hserve, h]; rfl
  refine ⟨fun h => hno (openRefusal_source h), fun h1 h2 => ⟨fun h => hno (openRefusal_busy h1 h2 h), fun hclosed => ?_⟩⟩
  have hchecks := openRefusal_closed (n := n) h1 h2 hclosed
  have hsrc : src.toNat = 0 ↔ src = 0 := by bv_omega
  simp only [hsrc] at hchecks
  have hopen : (s.updRun (openRun st tag ⟨src.toNat, n, cls.toNat⟩)) = { s with run := run } := by
    simp only [State.updRun, openRun, hsrc, run]
  have hvalid := Admissions.validInstrument_iff n
  refine ⟨fun h0 hbad => ?_, fun h0 hl hu he => ?_, fun hgiven => ?_⟩
  · refine hno (hchecks.trans (if_pos ⟨h0, ?_⟩))
    rw [Bool.not_eq_true', ← Bool.not_eq_true, hvalid]
    omega
  · refine hno (hchecks.trans ?_)
    rw [if_neg (by simp [hvalid.2 ⟨hl, hu⟩]), if_pos ⟨h0, Option.isSome_iff_ne_none.2 he⟩]
  · have hlater : openRefusal ⟨src.toNat, n, cls.toNat⟩ s = laterRefusal s := by
      refine hchecks.trans ((if_neg ?_).trans (if_neg ?_))
      · rintro ⟨h0, hv⟩
        obtain ⟨hl, hu, -⟩ := hgiven h0
        simp [hvalid.2 ⟨hl, hu⟩] at hv
      · rintro ⟨h0, he⟩
        simp [(hgiven h0).2.2] at he
    unfold laterRefusal at hlater
    refine ⟨fun hfull => ?_, fun hroom => ?_⟩
    · refine hno (hlater.trans (if_pos ?_))
      rw [Bool.not_eq_true', ← Bool.not_eq_true, catalogueRoom_iff]
      omega
    replace hlater := hlater.trans (if_neg (by simp [(catalogueRoom_iff s).2 hroom]))
    refine ⟨fun m x c d ho hc hl hf => hno (hlater.trans (if_pos ((openFaulted_iff s).2 ⟨m, x, c, d, ho, hc, hl, hf⟩))),
      fun hwhole => ?_⟩
    replace hlater := hlater.trans (if_neg (by
      rw [openFaulted_iff]
      rintro ⟨m, x, c, d, ho, hc, hl, hf⟩
      exact hwhole m x c d ho hc hl hf))
    refine ⟨fun hh hdown => ?_, fun m x hroom ho hup => ?_, fun hh hneed => ?_⟩
    · refine hno (hlater.trans (if_pos ⟨hh, ?_⟩))
      rw [Bool.or_eq_true, rolloverNeeded_iff, Bool.not_eq_true', ← Bool.not_eq_true, openUp_iff]
      refine hdown.imp_right fun hdown => ?_
      rintro ⟨m, x, d, ho, hd⟩
      simp [hdown m x d ho] at hd
    · have hno' : rolloverNeeded s = false := by
        rw [← Bool.not_eq_true, rolloverNeeded_iff]
        omega
      have hnone : openRefusal ⟨src.toNat, n, cls.toNat⟩ s = none := by
        refine hlater.trans ((if_neg ?_).trans (if_neg (by simp [hno'])))
        rintro ⟨hh, hbad⟩
        obtain ⟨d, hd⟩ := hup hh
        simp [hno', (openUp_iff s).2 ⟨m, x, d, ho, hd⟩] at hbad
      rw [hserve, hnone]
      simp only [hno', Bool.false_eq_true, if_false]
      rw [show (addOutstanding st _ (s.updRun _)).openSide = some (m, x) from ho, hopen]
      rfl
    · have hyes : rolloverNeeded s = true := (rolloverNeeded_iff s).2 hneed
      replace hlater := hlater.trans (if_neg (by simp [hh]))
      refine ⟨fun hblank => hno (hlater.trans (if_pos ⟨hyes, by simp [hblank]⟩)), fun p hblank => ?_⟩
      have hnone : openRefusal ⟨src.toNat, n, cls.toNat⟩ s = none := hlater.trans (if_neg (by simp [hblank]))
      rw [hserve, hnone]
      simp only [hyes, if_true]
      rw [hopen]
      have hroll := beginRollover_opening (s := listed) (r := run) (p := p) hblank rfl
      refine congrArg followed (hroll.trans ?_)
      rw [openFull_eq]
      rfl

/-! ### POST_PAGE and PAGE (R104, R105) -/

theorem receiveInto_none {tag : Byte} {bytes : List Byte} {ring : List RingSlot}
    (h : ∀ p ∈ ring, ¬ (p.complete = false ∧ p.tag = tag)) : receiveInto tag bytes ring = ring := by
  induction ring with
  | nil => rfl
  | cons p ps ih =>
    rw [receiveInto, if_neg (by simpa using h p), ih fun q hq => h q (List.mem_cons_of_mem p hq)]

theorem receiveInto_first {tag : Byte} {bytes : List Byte} {before after : List RingSlot} {p : RingSlot}
    (hbefore : ∀ q ∈ before, ¬ (q.complete = false ∧ q.tag = tag)) (hp : p.complete = false ∧ p.tag = tag) :
    receiveInto tag bytes (before ++ p :: after) = before ++ p.receive bytes :: after := by
  induction before with
  | nil => rw [List.nil_append, receiveInto, if_pos (by simpa using hp), List.nil_append]
  | cons q qs ih =>
    rw [List.cons_append, receiveInto, if_neg (by simpa using hbefore q),
      ih fun r hr => hbefore r (List.mem_cons_of_mem q hr), List.cons_append]

/-- A slot stays FILLING until its declared length has arrived (R105). -/
theorem receive_eq (p : RingSlot) (bytes : List Byte) :
    p.receive bytes = if p.bytes.length + bytes.length < p.declared then { p with bytes := p.bytes ++ bytes }
      else { p with
        bytes := (p.bytes ++ bytes).take p.declared ++ List.replicate (p.sectors * 1024 - p.declared) 0
        complete := true } := by
  have hlen : ((p.bytes ++ bytes).take p.declared).length = min p.declared (p.bytes.length + bytes.length) := by
    rw [List.length_take, List.length_append]
  unfold RingSlot.receive
  by_cases h : p.bytes.length + bytes.length < p.declared
  · rw [if_pos h, if_neg (by omega), List.take_of_length_le (by rw [List.length_append]; omega)]
  · rw [if_neg h, if_pos (by omega)]
    rfl

theorem exec_page {s : State} {st : Station} (h : s.receives st) (tag : Byte) (bytes : List Byte) :
    exec (.page st tag bytes) s = finished (pageFrame st tag bytes s) :=
  congrArg finished (receiveFrame_up h _)

theorem decodes_postPage (len : Nat) (notify : Bool) : decodes .postPage (beBytes 4 len ++ [boolByte notify]) = true := by
  cases notify <;> rfl

theorem byteAt_notify (len : Nat) (notify : Bool) :
    decide (byteAt (beBytes 4 len ++ [boolByte notify]) 4 = 1) = notify := by
  cases notify <;> rfl

/-- Settles O15. -/
theorem postedPages : Obligations.PostedPages := by
  refine ⟨fun s st tag len notify hadm hlen => ?_, fun s st tag bytes hrec => ?_⟩
  · intro out no r n
    have hserve : out = finished (postRequest st tag (beBytes 4 len ++ [boolByte notify]) s) :=
      exec_served (r := .postPage) hadm (decodes_postPage len notify)
    have hfield : field (beBytes 4 len ++ [boolByte notify]) 0 4 = len := field_four hlen _
    rw [postRequest, hfield, byteAt_notify] at hserve
    have hno {c : Status} (h : postRefusal st len n s = some c) : out = no c := by
      rw [hserve, show postRefusal st len (ceilDiv len Config.sectorBytes) s = some c from h]; rfl
    refine ⟨fun h => hno (if_pos h), fun h1 h2 => ?_⟩
    have hchecks : postRefusal st len n s = _ := if_neg (by omega)
    refine ⟨fun h => hno (hchecks.trans (if_pos h)), fun hs hc hcr ho => ?_⟩
    replace hchecks := hchecks.trans (if_neg (by
      rintro (h | h | h | h)
      · exact hs h
      · exact hc h
      · exact Bool.false_ne_true (hcr.symm.trans h)
      · exact h ho))
    refine ⟨fun h => hno (hchecks.trans (if_pos h)), fun hring => ?_⟩
    replace hchecks := hchecks.trans (if_neg (Nat.not_le.2 hring))
    refine ⟨fun hg h => hno (hchecks.trans (if_pos ⟨hg, h⟩)), fun hlim => ?_⟩
    replace hchecks := hchecks.trans (if_neg (by
      rintro ⟨hg, h | h⟩
      · exact absurd h (Nat.not_lt.2 (hlim hg).1)
      · exact absurd h (Nat.not_lt.2 (hlim hg).2)))
    rw [hserve, show postRefusal st len (ceilDiv len Config.sectorBytes) s = none from hchecks]
    rfl
  · intro out mine
    have hexec : out = finished (pageFrame st tag bytes s) := exec_page hrec tag bytes
    unfold pageFrame at hexec
    refine ⟨fun h => hexec.trans (congrArg finished (if_neg ?_)), fun ho hs h1 h2 => ?_⟩
    · rintro ⟨ho, hs, h1, h2⟩
      simp only [Config.frameBytes] at h2
      obtain h | h | h | h := h
      · exact h ho
      · exact hs h
      all_goals omega
    replace hexec := hexec.trans (congrArg finished (if_pos ⟨ho, hs, h1, h2⟩))
    refine ⟨fun hnone => ?_, fun before p after hring hbefore hp => ?_⟩
    · rw [hexec, State.updRun, receiveInto_none hnone]
      rfl
    · rw [hexec, State.updRun, hring, receiveInto_first hbefore hp, receive_eq]
      rfl

end Sys2Proof.Laws.FileRequests

/-!
PROOF. What the Library Map's operations on its records do (chapter 2): the layer that the statements about cartridges,
shelf slots and inspections rest on. `Mapped s t` says that from `s` to `t` only the Library Map, the inspection request, the
passes due and notices have changed; `Reslotted s t` that of the map only slots have been reserved.
-/

namespace Sys2Proof.Laws.Mapping

open Sys2Proof Sys2Proof.Machine Sys2Proof.Laws.Noting Sys2Proof.Laws.RunEnds

/-- Only the Library Map, the inspection request and the passes due have changed, and notices been set. -/
structure Mapped (s t : State) : Prop where
  rest : t = { s with
    library := t.library
    planner := { s.planner with inspReq := t.planner.inspReq, passesDue := t.planner.passesDue }
    links := t.links, notices := t.notices }
  passes : s.planner.passesDue ≤ t.planner.passesDue
  link : ∀ st, SameButAttention (s.link st) (t.link st)
  still : ∀ st, (s.link st).state ≠ .up → t.link st = s.link st
  pending : ∀ i, (s.source i).pending = true → (t.source i).pending = true

theorem Mapped.refl (s : State) : Mapped s s := ⟨rfl, le_rfl, fun _ => .refl _, fun _ _ => rfl, fun _ h => h⟩

theorem Mapped.trans {a b c : State} (h : Mapped a b) (k : Mapped b c) : Mapped a c where
  rest := by rw [k.rest, h.rest]
  passes := h.passes.trans k.passes
  link st := (h.link st).trans (k.link st)
  still st hst := (k.still st (by rwa [(h.link st).state])).trans (h.still st hst)
  pending i hi := k.pending i (h.pending i hi)

theorem mapped_of_noted {s t : State} (h : Noted s t) : Mapped s t where
  rest := by rw [h.rest]
  passes := by rw [h.planner]
  link := h.link
  still := h.still
  pending := h.pending

section
variable {s t : State} (h : Mapped s t)
include h

theorem Mapped.queue : t.pending = s.pending := by rw [h.rest]
theorem Mapped.seconds : t.seconds = s.seconds := by rw [h.rest]
theorem Mapped.reconciled : t.reconciled = s.reconciled := by rw [h.rest]
theorem Mapped.timers : t.timers = s.timers := by rw [h.rest]
theorem Mapped.catalogue : t.catalogue = s.catalogue := by rw [h.rest]
theorem Mapped.arm : t.arm = s.arm := by rw [h.rest]
theorem Mapped.drives : t.drives = s.drives := by rw [h.rest]
theorem Mapped.run : t.run = s.run := by rw [h.rest]
theorem Mapped.fetch : t.fetch = s.fetch := by rw [h.rest]
theorem Mapped.fee : t.fee = s.fee := by rw [h.rest]
theorem Mapped.plans : t.planner.plans = s.planner.plans := by rw [h.rest]
theorem Mapped.waiters : t.planner.waiters = s.planner.waiters := by rw [h.rest]
theorem Mapped.filingReq : t.planner.filingReq = s.planner.filingReq := by rw [h.rest]
theorem Mapped.drive (d : DriveId) : t.drive d = s.drive d := by rw [State.drive, h.drives]; rfl
theorem Mapped.replies (st : Station) : (t.link st).replies = (s.link st).replies := by rw [h.link st]
theorem Mapped.outstanding (st : Station) : (t.link st).outstanding = (s.link st).outstanding := by rw [h.link st]

end

theorem library_mapped (l : Library) (s : State) : Mapped s { s with library := l } :=
  ⟨rfl, le_rfl, fun _ => .refl _, fun _ _ => rfl, fun _ h => h⟩

theorem updLibrary_mapped (f : Library → Library) (s : State) : Mapped s (s.updLibrary f) := library_mapped ..

theorem updInsp_mapped (id : Nat) (f : Inspection → Inspection) (s : State) : Mapped s (s.updInsp id f) := library_mapped ..

theorem updCart_mapped (n : Nat) (f : Cartridge → Cartridge) (s : State) : Mapped s (s.updCart n f) := library_mapped ..

theorem wantPasses_mapped (n : Nat) (s : State) : Mapped s (s.wantPasses n) :=
  ⟨rfl, Nat.le_add_right _ _, fun _ => .refl _, fun _ _ => rfl, fun _ h => h⟩

theorem inspReq_mapped (r : Option Nat) (s : State) : Mapped s (s.updPlanner fun p => { p with inspReq := r }) :=
  ⟨rfl, le_rfl, fun _ => .refl _, fun _ _ => rfl, fun _ h => h⟩

theorem dropInspReq_mapped (id : Nat) (s : State) : Mapped s (dropInspReq id s) :=
  ⟨rfl, le_rfl, fun _ => .refl _, fun _ _ => rfl, fun _ h => h⟩

theorem noticeSet_mapped (i : Nat) (s : State) : Mapped s (noticeSet i s) := mapped_of_noted (noticeSet_noted i s)

theorem withPool_mapped {act : State → State} {s : State} (h : Mapped s (act s)) : Mapped s (withPool act s) :=
  h.trans (mapped_of_noted (withPool_noted act s))

theorem makeFull_mapped (n : Nat) (x : Side) (s : State) : Mapped s (makeFull n x s) :=
  (library_mapped _ s).trans (noticeSet_mapped nVolumeFull _)

/-! ### Reservations of shelf slots (R24, R28) -/

/-- An inspection as it was, or taken from WAITING_SLOT with a slot reserved. -/
def Slotted (i j : Inspection) : Prop :=
  j = i ∨ i.phase = .waitingSlot
    ∧ ∃ p n, (p = InspPhase.waitingDrive ∨ p = .loading) ∧ j = { i with phase := p, reserved := some n }

theorem Slotted.trans {i j k : Inspection} (h : Slotted i j) (g : Slotted j k) : Slotted i k := by
  obtain rfl | ⟨hi, p, n, hp, rfl⟩ := h
  · exact g
  · obtain rfl | ⟨hj, -⟩ := g
    · exact .inr ⟨hi, p, n, hp, rfl⟩
    · obtain rfl | rfl := hp <;> cases hj

/-- The inspections have names of their own. -/
def inspsNamed (s : State) : Prop := (s.library.inspections.map (·.id)).Nodup

/-- Of the Library Map only slots have been reserved for inspections, each by its name. -/
def Reslotted (s t : State) : Prop :=
  ∃ g : Inspection → Inspection, (∀ i, g i = { i with phase := (g i).phase, reserved := (g i).reserved })
    ∧ (inspsNamed s → ∀ i ∈ s.library.inspections, Slotted i (g i))
    ∧ t.library = { s.library with inspections := s.library.inspections.map g }

theorem reslotted_of_library {s t : State} (h : t.library = s.library) : Reslotted s t :=
  ⟨fun i => i, fun _ => rfl, fun _ _ _ => .inl rfl, by rw [h, List.map_id']⟩

theorem Reslotted.ids {s t : State} (h : Reslotted s t) :
    t.library.inspections.map (·.id) = s.library.inspections.map (·.id) := by
  obtain ⟨g, hg, -, hl⟩ := h
  rw [hl, List.map_map]
  exact List.map_congr_left fun i _ => by rw [Function.comp, hg]

theorem Reslotted.trans {a b c : State} (h : Reslotted a b) (k : Reslotted b c) : Reslotted a c := by
  have hids := h.ids
  obtain ⟨f, hf, hfn, hab⟩ := h
  obtain ⟨g, hg, hgn, hbc⟩ := k
  refine ⟨g ∘ f, fun i => ?_, fun hn i hi => (hfn hn i hi).trans (hgn ?_ _ ?_), by rw [hbc, hab, List.map_map]⟩
  · rw [Function.comp, hg (f i), hf i]
  · rwa [inspsNamed, hids]
  · rw [hab]
    exact List.mem_map_of_mem hi

theorem Reslotted.table {s t : State} (h : Reslotted s t) : t.library.table = s.library.table := by
  obtain ⟨_, _, _, h⟩ := h
  rw [h]

theorem cart?_of_table {s t : State} (h : t.library.table = s.library.table) (n : Nat) : t.cart? n = s.cart? n := by
  rw [State.cart?, h]
  rfl

theorem openSide_of_table {s t : State} (h : t.library.table = s.library.table) : t.openSide = s.openSide := by
  rw [State.openSide, h]
  rfl

/-- Where names differ, a member of a list is the one that its name finds. -/
theorem find?_of_nodup {α β : Type} [DecidableEq β] {f : α → β} {l : List α} (h : (l.map f).Nodup) {a : α} (ha : a ∈ l) :
    l.find? (fun x => f x = f a) = some a := by
  induction l with
  | nil => cases ha
  | cons x xs ih =>
    rw [List.map_cons, List.nodup_cons] at h
    obtain rfl | ha := List.mem_cons.1 ha
    · rw [List.find?_cons_of_pos (by simp)]
    · rw [List.find?_cons_of_neg, ih h.2 ha]
      have : f x ≠ f a := fun e => h.1 (e ▸ List.mem_map_of_mem ha)
      simpa using this

theorem insp?_id {s : State} {id : Nat} {i : Inspection} (h : s.insp? id = some i) : i.id = id := by
  simpa using List.find?_some h

theorem insp?_mem {s : State} {id : Nat} {i : Inspection} (h : s.insp? id = some i) : i ∈ s.library.inspections :=
  List.mem_of_find?_eq_some h

/-- An inspection of names of their own is the one that its name finds. -/
theorem insp?_of_mem {s : State} (hn : inspsNamed s) {i : Inspection} (hi : i ∈ s.library.inspections) :
    s.insp? i.id = some i := 
  find?_of_nodup (show (s.library.inspections.map (·.id)).Nodup from hn) hi

theorem slotCheck_reslotted (id : Nat) (s : State) : Reslotted s (slotCheck id s) := by
  unfold slotCheck
  cases hi : s.insp? id with
  | none => exact reslotted_of_library rfl
  | some i =>
    dsimp only
    split
    next hp =>
      have slotted (p : InspPhase) (n : Nat) (hphase : p = .waitingDrive ∨ p = .loading) :
          Reslotted s (s.updInsp id fun i => { i with reserved := some n, phase := p }) := by
        refine ⟨_, fun j => ?_, fun hn j hj => ?_, rfl⟩
        · split <;> rfl
        · split
          next hid =>
            have : j = i := by
              have := insp?_of_mem hn hj
              rw [hid, hi] at this
              exact (Option.some.inj this).symm
            subst this
            exact .inr ⟨hp, p, n, hphase, rfl⟩
          next => exact .inl rfl
      cases s.lowestFree with
      | none => exact reslotted_of_library (noticeSet_noted ..).library
      | some n =>
        dsimp only
        split
        · exact (slotted .waitingDrive n (.inl rfl)).trans (reslotted_of_library rfl)
        · exact slotted .loading n (.inr rfl)
    next => exact reslotted_of_library rfl

theorem slotCheck_mapped (id : Nat) (s : State) : Mapped s (slotCheck id s) := by
  unfold slotCheck
  cases s.insp? id with
  | none => exact .refl s
  | some i =>
    dsimp only
    split
    · cases s.lowestFree with
      | none => exact noticeSet_mapped ..
      | some n =>
        dsimp only
        split
        · exact .trans (.trans (updInsp_mapped ..) (inspReq_mapped ..)) (wantPasses_mapped 1 _)
        · exact updInsp_mapped ..
    · exact .refl s

theorem slotRetry_reslotted (s : State) : Reslotted s (slotRetry s) := by
  have fold (ids : List Nat) (s : State) : Reslotted s (ids.foldl (fun s id => slotCheck id s) s) := by
    induction ids generalizing s with
    | nil => exact reslotted_of_library rfl
    | cons id ids ih => exact (slotCheck_reslotted id s).trans (ih _)
  exact fold _ s

theorem slotRetry_mapped (s : State) : Mapped s (slotRetry s) := by
  have fold (ids : List Nat) (s : State) : Mapped s (ids.foldl (fun s id => slotCheck id s) s) := by
    induction ids generalizing s with
    | nil => exact .refl s
    | cons id ids ih => exact (slotCheck_mapped id s).trans (ih _)
  exact fold _ s

/-- The reserving of slots carries no inspection into SHELVING, nor out of it. -/
theorem Reslotted.pool {s t : State} (h : Reslotted s t) (hn : inspsNamed s) : t.pool = s.pool := by
  obtain ⟨g, -, hg, hl⟩ := h
  have hshelved (n : Nat) : t.beingShelved n = s.beingShelved n := by
    unfold State.beingShelved
    rw [hl, Bool.eq_iff_iff, List.any_eq_true, List.any_eq_true]
    simp only [List.mem_map, exists_exists_and_eq_and]
    refine exists_congr fun i => and_congr_right fun hi => ?_
    obtain h | ⟨hp, p, n, hphase, h⟩ := hg hn i hi
    · rw [h]
    · rw [h, hp]
      obtain rfl | rfl := hphase <;> simp
  unfold State.pool
  simp only [hshelved]
  rw [hl]

/-! ### The operations on inspection records -/

theorem addInspection_mapped (o : Origin) (p : InspPlace) (ph : InspPhase) (s : State) : Mapped s (addInspection o p ph s) :=
  library_mapped ..

theorem releaseSlot_mapped (id : Nat) (s : State) : Mapped s (releaseSlot id s) := by
  unfold releaseSlot
  split
  · exact (updInsp_mapped ..).trans (slotRetry_mapped _)
  · exact .refl s

theorem dropInspection_mapped (id : Nat) (s : State) : Mapped s (dropInspection id s) := by
  unfold dropInspection
  exact .trans (.trans (withPool_mapped (updLibrary_mapped ..)) (dropInspReq_mapped ..)) (wantPasses_mapped ..)

theorem endInspection_mapped (id : Nat) (s : State) : Mapped s (endInspection id s) := by
  unfold endInspection
  split
  · exact (dropInspection_mapped ..).trans (slotRetry_mapped _)
  · exact dropInspection_mapped ..

theorem rejectInspection_mapped (id : Nat) (r : RejectReason) (await : Bool) (s : State) :
    Mapped s (rejectInspection id r await s) := by
  unfold rejectInspection
  exact .trans (.trans (.trans (updInsp_mapped ..) (updLibrary_mapped ..)) (releaseSlot_mapped ..)) (noticeSet_mapped ..)

theorem abandonInspection_mapped (id : Nat) (s : State) : Mapped s (abandonInspection id s) := by
  unfold abandonInspection
  exact .trans (.trans (updLibrary_mapped ..) (endInspection_mapped ..)) (noticeSet_mapped ..)

theorem setLocation_mapped (n : Nat) (l : Location) (up : Option Side) (s : State) : Mapped s (setLocation n l up s) := by
  unfold setLocation
  exact withPool_mapped (updCart_mapped ..)

/-- An inspection that has ended is no longer in the map, and of the others slots may have been reserved (R24, R32). -/
theorem endInspection_library (id : Nat) (s : State) :
    ∃ u, u.library = { s.library with inspections := s.library.inspections.filter fun i => i.id ≠ id }
      ∧ Reslotted u (endInspection id s) := by
  have hdrop : (dropInspection id s).library
      = { s.library with inspections := s.library.inspections.filter fun i => i.id ≠ id } :=
    (withPool_noted (fun s => s.updLibrary fun l => { l with inspections := l.inspections.filter fun i => i.id ≠ id })
      s).library
  refine ⟨dropInspection id s, hdrop, ?_⟩
  unfold endInspection
  split
  · exact slotRetry_reslotted _
  · exact reslotted_of_library rfl

theorem insp?_eq_none {s : State} {id : Nat} : s.insp? id = none ↔ id ∉ s.library.inspections.map (·.id) := by
  simp [State.insp?]

theorem endInspection_insp? (id : Nat) (s : State) : (endInspection id s).insp? id = none := by
  obtain ⟨u, hu, h⟩ := endInspection_library id s
  rw [insp?_eq_none, h.ids, hu]
  simp

/-! ### The operations on the cartridge table -/

theorem cart?_mem {s : State} {n : Nat} {c : Cartridge} (h : s.cart? n = some c) : c ∈ s.library.table :=
  List.mem_of_find?_eq_some h

/-- The cartridges of the table have numbers of their own. -/
def cartsNumbered (s : State) : Prop := (s.library.table.map (·.number)).Nodup

theorem cart?_of_mem {s : State} (h : cartsNumbered s) {c : Cartridge} (hc : c ∈ s.library.table) :
    s.cart? c.number = some c := 
  find?_of_nodup (show (s.library.table.map (·.number)).Nodup from h) hc

/-- The OPEN side is the OPEN side of a cartridge of the table. -/
theorem openSide_mem {s : State} {n : Nat} {x : Side} (h : s.openSide = some (n, x)) :
    ∃ c ∈ s.library.table, c.number = n ∧ (c.sideRec x).state = .opened := by
  obtain ⟨c, hc, h⟩ := List.exists_of_findSome?_eq_some h
  refine ⟨c, hc, ?_⟩
  split at h
  next ha =>
    cases h
    exact ⟨rfl, ha⟩
  next =>
    split at h
    next hb =>
      cases h
      exact ⟨rfl, hb⟩
    next => cases h

/-- A change of a cartridge that keeps its number and its sides keeps the OPEN side. -/
theorem openSide_updCart {s : State} {n : Nat} {f : Cartridge → Cartridge}
    (hf : ∀ c, (f c).number = c.number ∧ (f c).sideA = c.sideA ∧ (f c).sideB = c.sideB) :
    (s.updCart n f).openSide = s.openSide := by
  have hmap : (s.updCart n f).openSide = List.findSome? _ (s.library.table.map _) := rfl
  rw [hmap, List.findSome?_map]
  unfold State.openSide
  refine congrFun (congrArg _ (funext fun c => ?_)) _
  dsimp only [Function.comp]
  split
  · obtain ⟨h1, h2, h3⟩ := hf c
    rw [h1, h2, h3]
  · rfl

theorem setLocation_table (n : Nat) (l : Location) (up : Option Side) (s : State) :
    (setLocation n l up s).library = (s.updCart n fun c => { c with location := l, sideUp := up }).library :=
  (withPool_noted (fun s => s.updCart n fun c => { c with location := l, sideUp := up }) s).library

theorem cart?_updCart_self {s : State} {n : Nat} {f : Cartridge → Cartridge} (hf : ∀ c, (f c).number = c.number) :
    (s.updCart n f).cart? n = (s.cart? n).map f := by
  rw [cart?_updCart hf]
  cases h : s.cart? n with
  | none => rfl
  | some c => simp [cart?_number h]

theorem cart?_updCart_ne {s : State} {n m : Nat} {f : Cartridge → Cartridge} (hf : ∀ c, (f c).number = c.number)
    (h : m ≠ n) : (s.updCart n f).cart? m = s.cart? m := by
  rw [cart?_updCart hf]
  cases hc : s.cart? m with
  | none => rfl
  | some c => simp [cart?_number hc, h]

theorem cart?_setLocation_self (n : Nat) (l : Location) (up : Option Side) (s : State) :
    (setLocation n l up s).cart? n = (s.cart? n).map fun c => { c with location := l, sideUp := up } := by
  rw [cart?_of_table (congrArg (·.table) (setLocation_table n l up s))]
  exact cart?_updCart_self (f := fun c => { c with location := l, sideUp := up }) fun _ => rfl

theorem cart?_setLocation_ne {n m : Nat} (h : m ≠ n) (l : Location) (up : Option Side) (s : State) :
    (setLocation n l up s).cart? m = s.cart? m := by
  rw [cart?_of_table (congrArg (·.table) (setLocation_table n l up s))]
  exact cart?_updCart_ne (f := fun c => { c with location := l, sideUp := up }) (fun _ => rfl) h

/-! ### A cartridge that leaves the cabinet (R33, R34) -/

/-- The record of a cartridge outside the cabinet, an OPEN side of it FULL (R34, R100). -/
def away (s : State) (c : Cartridge) : Cartridge :=
  { c with
    location := .exported, home := none, sideUp := none, exportPending := false
    sideA := if s.openSide = some (c.number, .a) then { c.sideA with state := .full } else c.sideA
    sideB := if s.openSide = some (c.number, .b) then { c.sideB with state := .full } else c.sideB }

/-- The first act of `leaveCabinet`: the record EXPORTED, R26 applied. -/
def exported (n : Nat) (s : State) : State :=
  withPool (fun s => s.updCart n fun c =>
    { c with location := .exported, home := none, sideUp := none, exportPending := false }) s

/-- The second: an OPEN side of the cartridge FULL. -/
def filled (n : Nat) (s : State) : State :=
  s.openSide.elim s fun p => if p.1 = n then makeFull n p.2 s else s

/-- The third: a record with both sides BLANK removed. -/
def unlisted (n : Nat) (s : State) : State :=
  (s.cart? n).elim s fun c =>
    if c.sideA.state = .blank ∧ c.sideB.state = .blank then
      s.updLibrary fun l => { l with table := l.table.filter fun c => c.number ≠ n }
    else s

theorem leaveCabinet_eq (n : Nat) (s : State) :
    leaveCabinet n s = slotRetry (unlisted n (filled n (exported n s))) := by
  have hfilled (u : State) : filled n u
      = (match u.openSide with | some (m, x) => if m = n then makeFull n x u else u | none => u) := by
    unfold filled
    cases u.openSide <;> rfl
  have hunlisted (u : State) : unlisted n u = (match u.cart? n with
      | some c => if c.sideA.state = .blank ∧ c.sideB.state = .blank then
          u.updLibrary fun l => { l with table := l.table.filter fun c => c.number ≠ n } else u
      | none => u) := by
    unfold unlisted
    cases u.cart? n <;> rfl
  rw [hunlisted, hfilled]
  rfl

theorem exported_mapped (n : Nat) (s : State) : Mapped s (exported n s) := withPool_mapped (updCart_mapped ..)

theorem filled_mapped (n : Nat) (s : State) : Mapped s (filled n s) := by
  unfold filled
  cases s.openSide with
  | none => exact .refl s
  | some p =>
    dsimp only [Option.elim]
    split
    · exact makeFull_mapped ..
    · exact .refl s

theorem unlisted_mapped (n : Nat) (s : State) : Mapped s (unlisted n s) := by
  unfold unlisted
  cases s.cart? n with
  | none => exact .refl s
  | some c =>
    dsimp only [Option.elim]
    split
    · exact updLibrary_mapped ..
    · exact .refl s

theorem leaveCabinet_mapped (n : Nat) (s : State) : Mapped s (leaveCabinet n s) := by
  rw [leaveCabinet_eq]
  exact (((exported_mapped n s).trans (filled_mapped ..)).trans (unlisted_mapped ..)).trans (slotRetry_mapped _)

theorem exported_table (n : Nat) (s : State) : (exported n s).library.table = (s.updCart n fun c =>
    { c with location := .exported, home := none, sideUp := none, exportPending := false }).library.table :=
  congrArg (·.table) (withPool_noted (fun s => s.updCart n fun c =>
    { c with location := .exported, home := none, sideUp := none, exportPending := false }) s).library

theorem exported_openSide (n : Nat) (s : State) : (exported n s).openSide = s.openSide :=
  (openSide_of_table (exported_table n s)).trans (openSide_updCart fun _ => ⟨rfl, rfl, rfl⟩)

theorem makeFull_library (n : Nat) (x : Side) (s : State) : (makeFull n x s).library =
    { (s.updCart n fun c => c.updSide x fun r => { r with state := .full }).library with probeDue := false } :=
  (noticeSet_noted nVolumeFull _).library

theorem filled_cart_ne {n m : Nat} (h : m ≠ n) (s : State) : (filled n s).cart? m = s.cart? m := by
  unfold filled
  cases s.openSide with
  | none => rfl
  | some p =>
    dsimp only [Option.elim]
    split
    next =>
      rw [cart?_of_table (congrArg (·.table) (makeFull_library n p.2 s))]
      exact cart?_updCart_ne (fun c => updSide_number ..) h
    next => rfl

/-- The record of cartridge `n` with the OPEN side `p`, if it is its own, FULL. -/
def sidesFull (n : Nat) (p : Option (Nat × Side)) (c : Cartridge) : Cartridge :=
  { c with
    sideA := if p = some (n, .a) then { c.sideA with state := .full } else c.sideA
    sideB := if p = some (n, .b) then { c.sideB with state := .full } else c.sideB }

theorem filled_cart (n : Nat) (s : State) : (filled n s).cart? n = (s.cart? n).map (sidesFull n s.openSide) := by
  unfold filled
  cases hp : s.openSide with
  | none =>
    have : sidesFull n none = id := by
      funext c
      simp [sidesFull]
    rw [this, Option.map_id_fun]
    rfl
  | some p =>
    obtain ⟨m, x⟩ := p
    dsimp only [Option.elim]
    split
    next hm =>
      subst hm
      rw [cart?_of_table (congrArg (·.table) (makeFull_library m x s))]
      refine (cart?_updCart_self fun c => updSide_number ..).trans ?_
      congr 1
      funext c
      cases x <;> simp [sidesFull, Cartridge.updSide]
    next hm =>
      have : sidesFull n (some (m, x)) = id := by
        funext c
        simp [sidesFull, hm]
      rw [this, Option.map_id_fun]
      rfl

theorem unlisted_cart_ne {n m : Nat} (h : m ≠ n) (s : State) : (unlisted n s).cart? m = s.cart? m := by
  unfold unlisted
  cases s.cart? n with
  | none => rfl
  | some c =>
    dsimp only [Option.elim]
    split
    · refine (List.find?_filter ..).trans ?_
      congr 1
      funext c
      by_cases hc : c.number = m <;> simp [hc, h]
    · rfl

theorem unlisted_cart {n : Nat} {s : State} {c : Cartridge} (h : s.cart? n = some c) :
    (unlisted n s).cart? n = if c.sideA.state = .blank ∧ c.sideB.state = .blank then none else some c := by
  unfold unlisted
  rw [h]
  dsimp only [Option.elim]
  split
  · refine (List.find?_filter ..).trans ?_
    simp
  · exact h

/-- Of the map a cartridge that leaves changes its record, the slots reserved, and the probe mark. -/
theorem leaveCabinet_library (n : Nat) (s : State) :
    (leaveCabinet n s).library = { s.library with
      table := (leaveCabinet n s).library.table, inspections := (leaveCabinet n s).library.inspections
      probeDue := (leaveCabinet n s).library.probeDue } := by
  have hexp : (exported n s).library = { s.library with table := (exported n s).library.table } :=
    (withPool_noted (fun s => s.updCart n fun c =>
      { c with location := .exported, home := none, sideUp := none, exportPending := false }) s).library.trans
      (by rw [exported_table]; rfl)
  have hfull (s : State) : (filled n s).library = { s.library with
      table := (filled n s).library.table, probeDue := (filled n s).library.probeDue } := by
    unfold filled
    cases s.openSide with
    | none => rfl
    | some p =>
      dsimp only [Option.elim]
      split
      · rw [makeFull_library]
        rfl
      · rfl
  have hun (s : State) : (unlisted n s).library = { s.library with table := (unlisted n s).library.table } := by
    unfold unlisted
    cases s.cart? n with
    | none => rfl
    | some c =>
      dsimp only [Option.elim]
      split <;> rfl
  obtain ⟨g, -, -, hslot⟩ := slotRetry_reslotted (unlisted n (filled n (exported n s)))
  rw [leaveCabinet_eq, hslot, hun, hfull, hexp]

theorem leaveCabinet_cart_ne {n m : Nat} (h : m ≠ n) (s : State) : (leaveCabinet n s).cart? m = s.cart? m := by
  rw [leaveCabinet_eq, cart?_of_table (slotRetry_reslotted _).table, unlisted_cart_ne h, filled_cart_ne h,
    cart?_of_table (exported_table n s)]
  exact cart?_updCart_ne (f := fun c => { c with location := .exported, home := none, sideUp := none, exportPending := false })
    (fun _ => rfl) h

/-- The cartridge that has left keeps its record, EXPORTED, unless both its sides are BLANK (R34). -/
theorem leaveCabinet_cart {n : Nat} {s : State} {c : Cartridge} (hc : s.cart? n = some c) (hn : cartsNumbered s) :
    (leaveCabinet n s).cart? n
      = if c.sideA.state = .blank ∧ c.sideB.state = .blank then none else some (away s c) := by
  have hnum := cart?_number hc
  have hexp : (exported n s).cart? n
      = some { c with location := .exported, home := none, sideUp := none, exportPending := false } := by
    rw [cart?_of_table (exported_table n s)]
    refine (cart?_updCart_self
      (f := fun c => { c with location := .exported, home := none, sideUp := none, exportPending := false })
      fun _ => rfl).trans ?_
    rw [hc]
    rfl
  have hfull : (filled n (exported n s)).cart? n = some (away s c) := by
    rw [filled_cart, hexp, exported_openSide, away, hnum]
    rfl
  rw [leaveCabinet_eq, cart?_of_table (slotRetry_reslotted _).table, unlisted_cart hfull]
  have hblank : ((away s c).sideA.state = .blank ∧ (away s c).sideB.state = .blank)
      ↔ c.sideA.state = .blank ∧ c.sideB.state = .blank := by
    have hopen {x : Side} (ho : s.openSide = some (c.number, x)) : (c.sideRec x).state = .opened := by
      obtain ⟨d, hd, hdn, hdx⟩ := openSide_mem ho
      have := cart?_of_mem hn hd
      rw [hdn, hnum, hc] at this
      cases this
      exact hdx
    unfold away
    dsimp only
    by_cases ha : s.openSide = some (c.number, .a)
    · have := hopen ha
      simp only [Cartridge.sideRec] at this
      simp [ha, this]
    · by_cases hb : s.openSide = some (c.number, .b)
      · have := hopen hb
        simp only [Cartridge.sideRec] at this
        simp [hb, this]
      · simp [ha, hb]
  simp only [hblank]

/-- An OPEN side of a cartridge that leaves sets VOLUME_FULL (R100). -/
theorem leaveCabinet_full {n : Nat} {s : State} {x : Side} (h : s.openSide = some (n, x)) :
    ((leaveCabinet n s).source 13).pending = true := by
  rw [leaveCabinet_eq]
  refine (slotRetry_mapped _).pending 13 ((unlisted_mapped ..).pending 13 ?_)
  rw [filled, exported_openSide, h]
  dsimp only [Option.elim]
  rw [if_pos rfl]
  exact noticeSet_pending _ (by decide) (by decide)

end Sys2Proof.Laws.Mapping

/-!
PROOF. The loading slot's and the shelf slots' reports (R24, R27, R28, R34); the obligation O39.
-/

namespace Sys2Proof.Laws.SlotReports

open Sys2Proof Sys2Proof.Machine Sys2Proof.Laws.Noting Sys2Proof.Laws.RunEnds Sys2Proof.Laws.Mapping Sys2Proof.Laws.RunFrames

/-! ### A new inspection and its slot check (R28, R38) -/

/-- A new inspection in the map. -/
def begun (o : Origin) (p : InspPlace) (ph : InspPhase) (reserved : Option Nat) (s : State) : State :=
  { s with library := { s.library with
      inspections := s.library.inspections ++
        [⟨s.library.inspectionSeq, o, p, ph, reserved, none, none, none, false, false⟩]
      inspectionSeq := s.library.inspectionSeq + 1 } }

section
variable {s : State} (hids : ∀ i ∈ s.library.inspections, i.id < s.library.inspectionSeq) {o : Origin} {p : InspPlace}
  {ph : InspPhase} {r : Option Nat}
include hids

theorem insp?_begun : (begun o p ph r s).insp? s.library.inspectionSeq
    = some ⟨s.library.inspectionSeq, o, p, ph, r, none, none, none, false, false⟩ := by
  refine (List.find?_append ..).trans ?_
  rw [List.find?_eq_none.2 fun i hi => by simpa using (hids i hi).ne]
  simp

theorem updInsp_begun {q : InspPhase} {n : Nat} :
    ((begun o p ph r s).updInsp s.library.inspectionSeq fun i => { i with reserved := some n, phase := q })
      = begun o p q (some n) s := by
  have hold : (s.library.inspections.map fun i =>
      if i.id = s.library.inspectionSeq then { i with reserved := some n, phase := q } else i) = s.library.inspections := by
    refine (List.map_congr_left fun i hi => if_neg (hids i hi).ne).trans (List.map_id' _)
  unfold State.updInsp State.updLibrary begun
  simp only [List.map_append, hold]
  simp

end

theorem lowestFree_begun (o : Origin) (p : InspPlace) (ph : InspPhase) (s : State) :
    (begun o p ph none s).lowestFree = s.lowestFree := by
  have hfree (n : Nat) : (begun o p ph none s).slotFree n = s.slotFree n := by
    unfold State.slotFree begun
    simp [State.slotReads]
  unfold State.lowestFree
  simp only [hfree]

section
variable {s : State} (hids : ∀ i ∈ s.library.inspections, i.id < s.library.inspectionSeq) {p : InspPlace}
include hids

theorem slotCheck_none (o : Origin) (h : s.lowestFree = none) :
    slotCheck s.library.inspectionSeq (addInspection o p .waitingSlot s) = noticeSet 8 (begun o p .waitingSlot none s) := by
  change slotCheck s.library.inspectionSeq (begun o p .waitingSlot none s) = _
  unfold slotCheck
  rw [insp?_begun hids]
  dsimp only
  rw [if_pos rfl, lowestFree_begun, h]
  rfl

theorem slotCheck_fromSlot {n : Nat} (h : s.lowestFree = some n) :
    slotCheck s.library.inspectionSeq (addInspection .loadingSlot p .waitingSlot s) = { begun .loadingSlot p .waitingDrive (some n) s with
      planner := { s.planner with inspReq := some s.library.inspectionSeq, passesDue := s.planner.passesDue + 1 } } := by
  change slotCheck s.library.inspectionSeq (begun .loadingSlot p .waitingSlot none s) = _
  unfold slotCheck
  rw [insp?_begun hids]
  dsimp only
  rw [if_pos rfl, lowestFree_begun, h]
  dsimp only
  rw [if_pos rfl, updInsp_begun hids]
  rfl

theorem slotCheck_startUp {n : Nat} (h : s.lowestFree = some n) :
    slotCheck s.library.inspectionSeq (addInspection .startUp p .waitingSlot s) = begun .startUp p .loading (some n) s := by
  change slotCheck s.library.inspectionSeq (begun .startUp p .waitingSlot none s) = _
  unfold slotCheck
  rw [insp?_begun hids]
  dsimp only
  rw [if_pos rfl, lowestFree_begun, h]
  dsimp only
  rw [if_neg (by simp), updInsp_begun hids]

end

/-! ### The sensors of the shelf (R24) -/

theorem getLsbD_one_shiftLeft {n i : Nat} (h : i < 96) (hn : n < 96) : (1#96 <<< n).getLsbD i = decide (i = n) := by
  rw [BitVec.getLsbD_shiftLeft, BitVec.getLsbD_one]
  by_cases hlt : i < n
  · simp [hlt, hlt.ne]
  · by_cases he : i = n
    · subst he
      simp [h]
    · simp [hlt, he, show i - n ≠ 0 by omega]

theorem slotReads_setShelf {n m : Nat} (hn1 : 1 ≤ n) (hn : n ≤ 96) (hm1 : 1 ≤ m) (hm : m ≤ 96) (v : Bool) (s : State) :
    (setShelf n v s).slotReads m = if m = n then v else s.slotReads m := by
  have hbit := getLsbD_one_shiftLeft (n := n - 1) (i := m - 1) (by omega) (by omega)
  have hone : decide (m - 1 = n - 1) = decide (m = n) := decide_eq_decide.2 (by omega)
  unfold State.slotReads setShelf State.updLibrary
  dsimp only
  cases v
  · simp only [Bool.false_eq_true, if_false, BitVec.getLsbD_and, BitVec.getLsbD_not, hbit, hone]
    by_cases h : m = n
    · simp [h]
    · simp [h, show m - 1 < 96 by omega]
  · simp only [if_true, BitVec.getLsbD_or, hbit, hone]
    by_cases h : m = n <;> simp [h]

/-! ### The loading slot (R27, R34) -/

theorem withdrawAll_shelves (ns : List Nat) (s : State) : SameShelves s (ns.foldl (fun s n => tryWithdraw n s) s) :=
  (withdrawAll_spec ns s).2.1

/-- The removal of an ARRIVED cartridge ends its inspection and leaves the cartridges and the slot as they are (R27). -/
theorem arrivedRemoved_spec (s : State) :
    (∀ i, s.slotInsp = some i → (arrivedRemoved s).insp? i.id = none)
      ∧ (arrivedRemoved s).library.table = s.library.table
      ∧ (arrivedRemoved s).library.slotSensor = s.library.slotSensor := by
  unfold arrivedRemoved
  cases h : s.slotInsp with
  | none => exact ⟨fun i hi => (by cases hi), rfl, rfl⟩
  | some i =>
    dsimp only
    obtain ⟨u, hu, g, -, -, hg⟩ := endInspection_library i.id (withdrawAll (importOrders s i.id) s)
    have hlib : (withdrawAll (importOrders s i.id) s).library = _ := withdrawAll_shelves (importOrders s i.id) s
    refine ⟨fun j hj => ?_, ?_, ?_⟩
    · cases hj
      exact endInspection_insp? ..
    · rw [hg, hu, hlib]
    · rw [hg, hu, hlib]

/-- The sensor's reading taken in. -/
def slotOff (s : State) : State := s.updLibrary fun l => { l with slotSensor := false }

section
variable {s : State}

theorem slotEmptied_early (h : s.reconciled = false) : slotEmptied s = slotOff s :=
  if_pos (by simpa [State.updLibrary] using h)

theorem slotEmptied_quiet (h : s.library.slot = .empty ∨ s.library.slot = .busy) : slotEmptied s = slotOff s := by
  unfold slotEmptied
  dsimp only
  split
  · rfl
  · obtain h | h := h <;> rw [show (s.updLibrary fun l => { l with slotSensor := false }).library.slot = _ from h] <;> rfl

theorem slotEmptied_rejected (hr : s.reconciled = true) (h : s.library.slot = .rejected) :
    slotEmptied s = settle ((slotOff s).updLibrary fun l => { l with slot := .empty }) := by
  refine (if_neg (by simpa [State.updLibrary] using hr)).trans ?_
  rw [show (s.updLibrary fun l => { l with slotSensor := false }).library.slot = _ from h]
  rfl

theorem slotEmptied_held (hr : s.reconciled = true) (h : s.library.slot = .held) :
    slotEmptied s = settle ((heldRemoved (slotOff s)).updLibrary fun l => { l with slot := .empty }) := by
  refine (if_neg (by simpa [State.updLibrary] using hr)).trans ?_
  rw [show (s.updLibrary fun l => { l with slotSensor := false }).library.slot = _ from h]
  rfl

theorem slotEmptied_arrived (hr : s.reconciled = true) (h : s.library.slot = .arrived) :
    slotEmptied s = settle ((arrivedRemoved (slotOff s)).updLibrary fun l => { l with slot := .empty }) := by
  refine (if_neg (by simpa [State.updLibrary] using hr)).trans ?_
  rw [show (s.updLibrary fun l => { l with slotSensor := false }).library.slot = _ from h]
  rfl

end

theorem heldRemoved_some {s : State} {c : Cartridge} (h : s.library.table.find? (fun c => c.location = .loadingSlot) = some c) :
    heldRemoved s = leaveCabinet c.number s := by
  unfold heldRemoved
  rw [h]

theorem heldRemoved_sensor (s : State) : (heldRemoved s).library.slotSensor = s.library.slotSensor := by
  unfold heldRemoved
  split
  · rfl
  · rw [leaveCabinet_library]

/-- Settles O39. -/
theorem loadingSlotAndShelfSensors : Obligations.LoadingSlotAndShelfSensors := by
  refine ⟨fun s hids => ?_, fun s => ?_⟩
  · intro out id arrived
    have hexec : out = finished (slotCartridge s) := rfl
    unfold slotCartridge at hexec
    refine ⟨fun h => hexec.trans (congrArg finished (if_neg ?_)), fun hr hs => ?_⟩
    · rintro ⟨hr, hs⟩
      obtain h | h := h
      · exact Bool.false_ne_true (h.symm.trans hr)
      · exact h hs
    replace hexec := hexec.trans (congrArg finished (if_pos ⟨hr, hs⟩))
    refine ⟨fun hfree => hexec.trans (congrArg followed ?_), fun n hfree => hexec.trans (congrArg followed ?_)⟩
    · exact slotCheck_none (s := (s.updLibrary fun l => { l with slotSensor := true }).updLibrary fun l =>
        { l with slot := .arrived }) hids .loadingSlot hfree
    · exact slotCheck_fromSlot (s := (s.updLibrary fun l => { l with slotSensor := true }).updLibrary fun l =>
        { l with slot := .arrived }) hids hfree
  · intro out off
    have hexec : out = finished (slotEmptied s) := rfl
    unfold slotEmptied at hexec
    refine ⟨fun h => hexec.trans (congrArg finished ?quiet),
      fun hr hs => hexec.trans (congrArg finished (slotEmptied_rejected hr hs)), fun hr hs hn => ?held, fun hr hs => ?arrived,
      fun n present h1 h2 => ?shelf⟩
    case quiet =>
      obtain h | h := h
      · exact slotEmptied_early h
      · exact slotEmptied_quiet h
    case held =>
      let t := (heldRemoved (slotOff s)).updLibrary fun l => { l with slot := .empty }
      refine ⟨t, hexec.trans (congrArg finished (slotEmptied_held hr hs)), rfl, heldRemoved_sensor (slotOff s),
        fun c hf hc => ?_⟩
      have hcart (m : Nat) : t.cart? m = (leaveCabinet c.number (slotOff s)).cart? m := by
        rw [← heldRemoved_some (s := slotOff s) hf]
        rfl
      have hpending {x : Side} (ho : s.openSide = some (c.number, x)) : (t.source 13).pending = true := by
        have := leaveCabinet_full (s := slotOff s) (x := x) ho
        rw [← heldRemoved_some (s := slotOff s) hf] at this
        exact this
      have hleft := (hcart c.number).trans (leaveCabinet_cart (s := slotOff s) hc hn)
      refine ⟨fun ha hb => hleft.trans (if_pos ⟨ha, hb⟩),
        fun hab => ⟨away s c, hleft.trans (if_neg (by tauto)), rfl, rfl, rfl, rfl, fun ho => ⟨?_, hpending ho⟩,
          fun ho => ⟨?_, hpending ho⟩⟩,
        fun m hm => (hcart m).trans (leaveCabinet_cart_ne hm (slotOff s))⟩
      · rw [away, if_pos ho]
      · rw [away, if_pos ho]
    case arrived =>
      obtain ⟨hi, htable, hsensor⟩ := arrivedRemoved_spec (slotOff s)
      exact ⟨(arrivedRemoved (slotOff s)).updLibrary fun l => { l with slot := .empty },
        hexec.trans (congrArg finished (slotEmptied_arrived hr hs)), rfl, hsensor, hi, htable⟩
    case shelf =>
      intro read
      have hread : exec (.shelfSlotSensor n present) s = finished (shelfChanged n present s) := rfl
      unfold shelfChanged at hread
      refine ⟨⟨(slotReads_setShelf h1 h2 h1 h2 present s).trans (if_pos rfl), fun m hm1 hm hne =>
          (slotReads_setShelf h1 h2 hm1 hm present s).trans (if_neg hne)⟩,
        fun hr => hread.trans (congrArg finished (if_pos ?_)),
        fun hr hf => hread.trans (congrArg finished ((if_neg ?_).trans (congrArg settle (if_neg ?_)))),
        fun hr hf => hread.trans (congrArg finished ((if_neg ?_).trans (congrArg settle (if_pos hf))))⟩
      · simpa [setShelf, State.updLibrary] using hr
      · simpa [setShelf, State.updLibrary] using hr
      · rw [show (setShelf n present s).slotFree n = false from hf]
        exact Bool.false_ne_true
      · simpa [setShelf, State.updLibrary] using hr

end Sys2Proof.Laws.SlotReports

/-!
PROOF. Asking for an order (R41, R42, R56): which number is given out, and the answers of the order list.
-/

namespace Sys2Proof.Laws.Asking

open Sys2Proof Sys2Proof.Machine

/-! ### The number given out (R41) -/

/-- The numbers that orders of a list hold or name. -/
def numbersUsed (os : List MoveOrder) : List Nat := os.map (·.number) ++ os.filterMap (·.after)

theorem mem_numbersUsed {os : List MoveOrder} {n : Nat} :
    n ∈ numbersUsed os ↔ (os.any fun o => o.number = n || o.after = some n) = true := by
  simp only [numbersUsed, List.mem_append, List.mem_map, List.mem_filterMap, List.any_eq_true, Bool.or_eq_true,
    decide_eq_true_eq]
  constructor
  · rintro (⟨o, ho, h⟩ | ⟨o, ho, h⟩)
    · exact ⟨o, ho, .inl h⟩
    · exact ⟨o, ho, .inr h⟩
  · rintro ⟨o, ho, h | h⟩
    · exact .inl ⟨o, ho, h⟩
    · exact .inr ⟨o, ho, h⟩

theorem length_numbersUsed (os : List MoveOrder) : (numbersUsed os).length ≤ 2 * os.length := by
  have h : (os.filterMap (·.after)).length ≤ os.length := List.length_filterMap_le ..
  rw [numbersUsed, List.length_append, List.length_map]
  omega

/-- The `j`th number after `n`. -/
def laterNumber (n : Nat) : Nat → Nat
  | 0 => n
  | j + 1 => laterNumber (succNumber n) j

theorem laterNumber_eq {n j : Nat} (hj : j ≤ 33) :
    laterNumber n j = if j = 0 ∨ n + j ≤ 65535 then n + j else if n ≤ 65535 then n + j - 65535 else j := by
  induction j generalizing n with
  | zero => simp [laterNumber]
  | succ j ih =>
    rw [laterNumber, ih (by omega), succNumber]
    simp only [Nat.succ_ne_zero, false_or]
    split_ifs <;> omega

theorem freshNumber_unused {os : List MoveOrder} {fuel n : Nat} (h : ∃ j < fuel, laterNumber n j ∉ numbersUsed os) :
    freshNumber os fuel n ∉ numbersUsed os := by
  induction fuel generalizing n with
  | zero =>
    obtain ⟨j, hj, -⟩ := h
    omega
  | succ fuel ih =>
    unfold freshNumber
    split
    next hused =>
      refine ih ?_
      obtain ⟨j, hj, hun⟩ := h
      cases j with
      | zero => exact absurd (mem_numbersUsed.2 hused) hun
      | succ j => exact ⟨j, by omega, hun⟩
    next hfree => exact fun hn => hfree (mem_numbersUsed.1 hn)

/-- Of 33 numbers in a row some order list of 16 leaves one free (R41). -/
theorem exists_unused {os : List MoveOrder} (h : os.length ≤ 16) (n : Nat) : ∃ j < 33, laterNumber n j ∉ numbersUsed os := by
  by_contra hall
  push Not at hall
  have hcard : (Finset.range 33).card ≤ (numbersUsed os).toFinset.card := by
    refine Finset.card_le_card_of_injOn (laterNumber n) (fun j hj => ?_) fun i hi j hj hij => ?_
    · exact List.mem_toFinset.2 (hall j (Finset.mem_range.1 hj))
    · have hi' := Finset.mem_range.1 hi
      have hj' := Finset.mem_range.1 hj
      simp only [laterNumber_eq hi'.le, laterNumber_eq hj'.le] at hij
      split_ifs at hij <;> omega
  have := (List.toFinset_card_le (numbersUsed os)).trans (length_numbersUsed os)
  rw [Finset.card_range] at hcard
  omega

theorem unused_of_not_mem {s : State} {k : Nat} (h : k ∉ numbersUsed s.arm.orders) : s.unused k := by
  intro o ho
  refine ⟨fun hn => h ?_, fun ha => h ?_⟩
  · exact List.mem_append_left _ (List.mem_map.2 ⟨o, ho, hn⟩)
  · exact List.mem_append_right _ (List.mem_filterMap.2 ⟨o, ho, ha⟩)

/-- The number that `takeOrderNumber` gives out. -/
def nextNumber (s : State) : Nat := freshNumber s.arm.orders 33 s.arm.counter

theorem nextNumber_unused {s : State} (h : s.arm.orders.length ≤ 16) : s.unused (nextNumber s) :=
  unused_of_not_mem (freshNumber_unused (exists_unused h _))

/-! ### The answers of the order list (R41, R42, R56) -/

/-- The state with order `o` at the end of the list. -/
def asked (o : MoveOrder) (s : State) : State :=
  { s with arm := { s.arm with
      orders := s.arm.orders ++ [{ o with number := nextNumber s, status := .waiting }]
      counter := succNumber (nextNumber s) } }

section
variable {s : State} {o : MoveOrder}

theorem askOrder_halted (h : s.arm.level = .halted) : askOrder o s = .error .libraryHalted := if_pos h

theorem askOrder_bad (h : s.arm.level ≠ .halted) (hf : orderFits s o = false) : askOrder o s = .error .badOrder :=
  (if_neg h).trans (if_pos (by simp [hf]))

theorem askOrder_full (h : s.arm.level ≠ .halted) (hf : orderFits s o = true) (hl : 16 ≤ s.arm.orders.length) :
    askOrder o s = .error .listFull :=
  (if_neg h).trans ((if_neg (by simp [hf])).trans (if_pos hl))

theorem askOrder_ok (h : s.arm.level ≠ .halted) (hf : orderFits s o = true) (hl : s.arm.orders.length < 16) :
    askOrder o s = .ok (nextNumber s, asked o s) :=
  (if_neg h).trans ((if_neg (by simp [hf])).trans (if_neg (Nat.not_le.2 hl)))

end

end Sys2Proof.Laws.Asking

/-!
PROOF. The phases of a move up to its PLACE (R25, R27, R47, R48); the obligations O40 and O41.
-/

namespace Sys2Proof.Laws.Picks

open Sys2Proof Sys2Proof.Machine Sys2Proof.Laws.Noting Sys2Proof.Laws.RunEnds Sys2Proof.Laws.Mapping
open Sys2Proof.Laws.SlotReports

/-! ### The Library Map's part of a PICK completion (R25) -/

section
variable {m : Move} {s : State} {n : Nat}

theorem pickLocation_absent (hc : m.order.cart = .number n) (h : tracked s n = false) :
    pickLocation m s = mismatch n m s := by
  unfold pickLocation
  rw [hc]
  exact if_neg (by simp [h])

theorem releaseDrive_mapped (m : Move) (s : State) : Mapped s (releaseDrive m s) := by
  unfold releaseDrive
  split
  · exact wantPasses_mapped 1 s
  · exact .refl s

theorem releaseDrive_library (m : Move) (s : State) : (releaseDrive m s).library = s.library := by
  unfold releaseDrive
  split <;> rfl

theorem pickLocation_inspection {id : Nat} (hc : m.order.cart = .inspection id) :
    pickLocation m s = releaseDrive m (s.updInsp id fun i => { i with place := .arm }) := by
  unfold pickLocation
  rw [hc]

/-- The side up on the arm (R25). -/
def pickedSide (m : Move) (s : State) (n : Nat) : Option Side :=
  if m.order.source.isDrive then (s.cart? n).bind (·.sideUp) else some (m.order.side.getD .a)

/-- The inspection that the picked cartridge's order belongs to has it on the arm (R31). -/
def pickedInsp (m : Move) (s : State) : State :=
  (s.inspOfOrder m.order.number).elim s fun i => releaseDrive m (s.updInsp i.id fun i => { i with place := .arm })

theorem pickLocation_tracked (hc : m.order.cart = .number n) (h : tracked s n = true) :
    pickLocation m s = pickedInsp m (setLocation n .arm (pickedSide m s n) s)
      ∨ pickLocation m s = (pickedInsp m (setLocation n .arm (pickedSide m s n) s)).wantPass := by
  have hinsp (u : State) : pickedInsp m u = (match u.inspOfOrder m.order.number with
      | some i => releaseDrive m (u.updInsp i.id fun i => { i with place := .arm })
      | none => u) := by
    unfold pickedInsp
    cases u.inspOfOrder m.order.number <;> rfl
  have hside : (match m.order.source with | .drive _ => (s.cart? n).bind (·.sideUp) | _ => some (m.order.side.getD .a))
      = pickedSide m s n := by
    unfold pickedSide
    cases m.order.source <;> rfl
  unfold pickLocation
  rw [hc]
  dsimp only
  rw [if_pos h, hinsp, ← hside]
  split
  · exact .inr rfl
  · exact .inl rfl

theorem pickedInsp_mapped (m : Move) (s : State) : Mapped s (pickedInsp m s) := by
  unfold pickedInsp
  cases s.inspOfOrder m.order.number with
  | none => exact .refl s
  | some i => exact (updInsp_mapped ..).trans (releaseDrive_mapped ..)

theorem pickedInsp_table (m : Move) (s : State) : (pickedInsp m s).library.table = s.library.table := by
  unfold pickedInsp
  cases s.inspOfOrder m.order.number with
  | none => rfl
  | some i => exact congrArg (·.table) (releaseDrive_library m (s.updInsp i.id fun i => { i with place := .arm }))

theorem pickLocation_tracked_mapped (hc : m.order.cart = .number n) (h : tracked s n = true) :
    Mapped s (pickLocation m s) := by
  have hpicked : Mapped s (pickedInsp m (setLocation n .arm (pickedSide m s n) s)) :=
    (setLocation_mapped ..).trans (pickedInsp_mapped ..)
  obtain e | e := pickLocation_tracked hc h <;> rw [e]
  · exact hpicked
  · exact hpicked.trans (wantPasses_mapped 1 _)

theorem pickLocation_tracked_table (hc : m.order.cart = .number n) (h : tracked s n = true) :
    (pickLocation m s).library.table = (setLocation n .arm (pickedSide m s n) s).library.table := by
  have hpicked := pickedInsp_table m (setLocation n .arm (pickedSide m s n) s)
  obtain e | e := pickLocation_tracked hc h <;> rw [e]
  · exact hpicked
  · exact hpicked

end

/-- What the Library Map's part of a PICK leaves alone. -/
structure PickFrame (s t : State) : Prop where
  arm : t.arm = { s.arm with mismatchCount := t.arm.mismatchCount, mismatch := t.arm.mismatch }
  rest : t = { s with
    library := t.library, arm := t.arm, links := t.links, notices := t.notices
    planner := { s.planner with inspReq := t.planner.inspReq, passesDue := t.planner.passesDue } }
  link : ∀ st, SameButAttention (s.link st) (t.link st)

theorem pickFrame_of_mapped {s t : State} (h : Mapped s t) : PickFrame s t :=
  ⟨by rw [h.arm], by rw [h.rest], h.link⟩

theorem pickLocation_frame (m : Move) (s : State) : PickFrame s (pickLocation m s) := by
  cases hc : m.order.cart with
  | number n =>
    by_cases h : tracked s n = true
    · exact pickFrame_of_mapped (pickLocation_tracked_mapped hc h)
    · rw [pickLocation_absent hc (by simpa using h)]
      exact ⟨rfl, rfl, fun _ => .refl _⟩
  | inspection id =>
    rw [pickLocation_inspection hc]
    exact pickFrame_of_mapped ((updInsp_mapped ..).trans (releaseDrive_mapped ..))

/-! ### The sensors' part (R27, R47) -/

section
variable {m : Move} {s : State}

theorem pickSource_shelf {n : Nat} (h : m.order.source = .shelf n) :
    Mapped s (pickSource m s) ∧ Reslotted (setShelf n false s) (pickSource m s) := by
  unfold pickSource
  rw [h]
  dsimp only
  split
  · exact ⟨(updLibrary_mapped ..).trans (slotRetry_mapped _), slotRetry_reslotted _⟩
  · exact ⟨updLibrary_mapped .., reslotted_of_library rfl⟩

theorem pickSource_slot (h : m.order.source = .loadingSlot) :
    pickSource m s = s.updLibrary fun l => { l with slot := .empty, slotSensor := false } := by
  unfold pickSource
  rw [h]

theorem pickSource_arm (h : m.order.source = .arm) : pickSource m s = s := by
  unfold pickSource
  rw [h]

theorem pickSource_drive {d : DriveId} (h : m.order.source = .drive d) : pickSource m s = driveTaken d s := by
  unfold pickSource
  rw [h]

theorem driveTaken_unloading {d : DriveId} (h : (s.drive d).state = .unloading) : driveTaken d s = becomeEmpty d s := by
  unfold driveTaken
  rw [h]

end

theorem driveTaken_rest (d : DriveId) (s : State) : driveTaken d s = { s with
    drives := (driveTaken d s).drives
    planner := { s.planner with passesDue := (driveTaken d s).planner.passesDue } } := by
  unfold driveTaken
  cases (s.drive d).state <;> rfl

theorem becomeEmpty_drive (d : DriveId) (s : State) : (becomeEmpty d s).drive d = { s.drive d with
    state := .empty, cart := none, sideUp := none, idle := none, hold := none, unloadKept := false, vacate := false
    holdKept := false, presence := false } :=
  State.drive_updDrive_self s d fun x => { x with
    state := .empty, cart := none, sideUp := none, idle := none, hold := none, unloadKept := false, vacate := false
    holdKept := false, presence := false }

theorem becomeEmpty_drive_ne {d e : DriveId} (h : e ≠ d) (s : State) : (becomeEmpty d s).drive e = s.drive e := by
  rw [becomeEmpty, State.wantPass, State.drive_wantPasses, State.drive_updDrive_ne _ _ h]

theorem driveTaken_drive_ne {d e : DriveId} (h : e ≠ d) (s : State) : (driveTaken d s).drive e = s.drive e := by
  unfold driveTaken
  cases (s.drive d).state
  case empty => rfl
  case unloading | ready | standby => exact becomeEmpty_drive_ne h s
  all_goals exact State.drive_updDrive_ne s _ h

/-- What the sensors' part of a PICK leaves alone. -/
theorem pickSource_rest (m : Move) (s : State) : (pickSource m s).arm = s.arm
    ∧ (pickSource m s).catalogue = s.catalogue ∧ (pickSource m s).fee = s.fee ∧ (pickSource m s).run = s.run
    ∧ (pickSource m s).fetch = s.fetch ∧ (pickSource m s).library.table = s.library.table
    ∧ ∀ st, SameButAttention (s.link st) ((pickSource m s).link st) := by
  cases h : m.order.source with
  | shelf n =>
    obtain ⟨hm, hr⟩ := pickSource_shelf (s := s) h
    exact ⟨hm.arm, hm.catalogue, hm.fee, hm.run, hm.fetch, hr.table, hm.link⟩
  | drive d =>
    rw [pickSource_drive h, driveTaken_rest]
    exact ⟨rfl, rfl, rfl, rfl, rfl, rfl, fun _ => rfl⟩
  | loadingSlot =>
    rw [pickSource_slot h]
    exact ⟨rfl, rfl, rfl, rfl, rfl, rfl, fun _ => rfl⟩
  | arm =>
    rw [pickSource_arm h]
    exact ⟨rfl, rfl, rfl, rfl, rfl, rfl, fun _ => rfl⟩

/-- The drives after the sensors' part of a PICK from elsewhere. -/
theorem pickSource_drives {m : Move} (h : m.order.source.isDrive = false) (s : State) :
    (pickSource m s).drives = s.drives := by
  cases hs : m.order.source with
  | shelf n => exact (pickSource_shelf (s := s) hs).1.drives
  | drive d => simp [hs, ArmPlace.isDrive] at h
  | loadingSlot => rw [pickSource_slot hs]; rfl
  | arm => rw [pickSource_arm hs]

/-! ### PICK completions (R47) -/

theorem pickDone_arm (m : Move) (s : State) : (pickDone m s).arm = { s.arm with
    mismatchCount := (pickLocation m s).arm.mismatchCount, mismatch := (pickLocation m s).arm.mismatch
    gripSensor := true, moving := some { m with phase := .travel } } := by
  have h : (pickDone m s).arm = { (pickSource m (pickLocation m s)).arm with
    gripSensor := true, moving := some { m with phase := .travel } } := rfl
  rw [h, (pickSource_rest m (pickLocation m s)).1, (pickLocation_frame m s).arm]

theorem pickDone_link (m : Move) (s : State) (st : Station) : SameButAttention (s.link st) ((pickDone m s).link st) := by
  obtain ⟨-, -, -, -, -, -, h⟩ := pickSource_rest m (pickLocation m s)
  exact ((pickLocation_frame m s).link st).trans (h st)

theorem pickDone_cart (m : Move) (s : State) (k : Nat) : (pickDone m s).cart? k = (pickLocation m s).cart? k := by
  obtain ⟨-, -, -, -, -, h, -⟩ := pickSource_rest m (pickLocation m s)
  exact cart?_of_table h k

/-- The picked cartridge is on the arm (R25). -/
theorem pickDone_tracked {m : Move} {s : State} {n : Nat} (hn : m.order.cart = .number n) (h : tracked s n = true) (k : Nat) :
    (pickDone m s).cart? k = (setLocation n .arm (pickedSide m s n) s).cart? k :=
  (pickDone_cart m s k).trans (cart?_of_table (pickLocation_tracked_table hn h) k)

/-- Settles O40. -/
theorem pickCompletion : Obligations.PickCompletion := by
  intro s
  have hexec : exec .pickCompletion s = finished (pickCompleted s) := rfl
  unfold pickCompleted at hexec
  refine ⟨fun h => ?_, fun m hm => ⟨fun hp => ?_, fun hp hsrc => ?_⟩⟩
  · rw [h] at hexec
    exact hexec
  · rw [hm] at hexec
    exact hexec.trans (congrArg finished (if_neg fun h => hp h.1))
  · rw [hm] at hexec
    have hpossible : pickPossible s m = true := by
      unfold pickPossible
      obtain h | ⟨d, hd, hu, hc, hpres⟩ := hsrc
      · cases hs : m.order.source with
        | drive d => exact absurd hs (h d)
        | _ => rfl
      · rw [hd]
        dsimp only
        rw [hu]
        simp [hc, hpres]
    replace hexec := hexec.trans (congrArg finished (if_pos ⟨hp, hpossible⟩))
    have hframe := pickLocation_frame m s
    obtain ⟨-, hcat, hfee, hrun, hfetch, htable, -⟩ := pickSource_rest m (pickLocation m s)
    have harm := pickDone_arm m s
    refine ⟨pickDone m s, hexec, by rw [harm], by rw [harm], by rw [harm], by rw [harm], hcat.trans (by rw [hframe.rest]),
      hfee.trans (by rw [hframe.rest]), hrun.trans (by rw [hframe.rest]), hfetch.trans (by rw [hframe.rest]),
      fun n c hn hc hl => ?_, fun n hn hc => ?_, fun n hs h1 h2 => ?_, fun hs => ?_, fun d hs => ?_⟩
    · have htracked : tracked s n = true := by simp [tracked, hc, hl]
      have hloc := pickDone_tracked hn htracked
      refine ⟨?_, fun k hk => (hloc k).trans (cart?_setLocation_ne hk ..)⟩
      rw [hloc, cart?_setLocation_self, hc, pickedSide, hc]
      cases m.order.source <;> rfl
    · have habs := pickLocation_absent hn (s := s) (by simp [tracked, hc])
      have hnote : (pickLocation m s).arm.mismatchCount = min (s.arm.mismatchCount + 1) 65535
          ∧ (pickLocation m s).arm.mismatch = some ⟨n, m.order.number, .pick⟩ := by
        rw [habs, ← hp]
        exact ⟨rfl, rfl⟩
      refine ⟨by rw [harm, hnote.1], by rw [harm, hnote.2], htable.trans (by rw [habs]; rfl)⟩
    · have hdrives := pickSource_drives (by rw [hs]; rfl) (pickLocation m s)
      refine ⟨?_, hdrives.trans (by rw [hframe.rest])⟩
      obtain ⟨g, -, -, hl⟩ := (pickSource_shelf (s := pickLocation m s) hs).2
      refine Eq.trans ?_ ((slotReads_setShelf h1 h2 h1 h2 false (pickLocation m s)).trans (if_pos rfl))
      show (pickSource m (pickLocation m s)).library.shelfSensors.getLsbD (n - 1) = _
      rw [hl]
      rfl
    · have hdrives := pickSource_drives (by rw [hs]; rfl) (pickLocation m s)
      have hslot := pickSource_slot (s := pickLocation m s) hs
      refine ⟨?_, ?_, hdrives.trans (by rw [hframe.rest])⟩
      · exact congrArg (fun t : State => t.library.slot) hslot
      · exact congrArg (fun t : State => t.library.slotSensor) hslot
    · obtain h | ⟨e, he, hu, -, -⟩ := hsrc
      · exact absurd hs (h d)
      · cases hs.symm.trans he
        have hdrive (e : DriveId) : (pickLocation m s).drive e = s.drive e := by
          rw [hframe.rest]
          rfl
        have htaken : (pickDone m s).drive d = _ := (congrArg (fun t : State => t.drive d)
          ((pickSource_drive hs).trans (driveTaken_unloading (by rw [hdrive, hu])))).trans (becomeEmpty_drive ..)
        refine ⟨by rw [htaken], by rw [htaken], by rw [htaken], by rw [htaken], by rw [htaken], fun e hne => ?_⟩
        exact ((congrArg (fun t : State => t.drive e) (pickSource_drive hs)).trans (driveTaken_drive_ne hne _)).trans
          (hdrive e)

/-! ### TRAVEL completions (R48) -/

/-- Settles O41. -/
theorem travelCompletion : Obligations.TravelCompletion := by
  intro s
  have hexec : exec .travelCompletion s = finished (travelCompleted s) := rfl
  unfold travelCompleted at hexec
  refine ⟨fun h => ?_, fun m hm => ?_⟩
  · rw [h] at hexec
    exact hexec
  intro placing
  rw [hm] at hexec
  refine ⟨fun hp => hexec.trans (congrArg finished (if_neg hp)), fun hp => ?_⟩
  replace hexec := hexec.trans (congrArg finished (if_pos hp))
  unfold beginPlace at hexec
  rw [hm] at hexec
  dsimp only at hexec
  refine ⟨fun n hd => ?_, fun d hd => ?_, fun hd => ?_⟩
  all_goals rw [hd] at hexec
  · refine ⟨fun hr => hexec.trans (congrArg followed (if_neg ?_)), fun hr => hexec.trans (congrArg followed (if_pos hr))⟩
    exact fun k => Bool.false_ne_true (hr.symm.trans k)
  · refine ⟨fun he hf hpres => hexec.trans (congrArg followed ((if_neg ?_).trans (if_neg ?_))),
      fun h => hexec.trans (congrArg followed (if_pos ?_))⟩
    · rintro (k | k)
      · exact k he
      · exact Bool.false_ne_true (((Bool.not_eq_true' _).mp k).symm.trans hf)
    · exact fun k => Bool.false_ne_true (hpres.symm.trans k)
    · exact h.imp_right fun k => (Bool.not_eq_true' _).mpr k
  · refine ⟨fun hr => hexec.trans (congrArg followed (if_neg ?_)), fun hr => hexec.trans (congrArg followed (if_pos hr))⟩
    exact fun k => Bool.false_ne_true (hr.symm.trans k)

end Sys2Proof.Laws.Picks

/-!
PROOF. EXPORT (R33), RECOVER (R54) and the drive resets (R75, R76); the obligations O23, O26 and O24.
-/

namespace Sys2Proof.Laws.LibraryActs

open Sys2Proof Sys2Proof.Machine Sys2Proof.Laws.Noting Sys2Proof.Laws.Bodies Sys2Proof.Laws.Completion
open Sys2Proof.Laws.RunEnds Sys2Proof.Laws.Mapping Sys2Proof.Laws.SlotReports Sys2Proof.Laws.Asking Sys2Proof.Laws.Picks

/-! ### EXPORT (R33) -/

section
variable {s : State} {n : Nat} {c : Cartridge}

theorem exportChecks_absent (h0 : n ≠ 0) (h : s.cart? n = none) : exportChecks n s = .error .noCartridge := by
  unfold exportChecks
  rw [if_neg h0, h]

theorem exportChecks_some (h0 : n ≠ 0) (h : s.cart? n = some c) :
    exportChecks n s = if c.location = .exported then .error .notPresent
      else if exportBusy s c then .error .cartridgeBusy
      else if s.arm.level = .halted ∧ c.location ≠ .loadingSlot ∧ c.location ≠ .missing then .error .libraryHalted
      else .ok c := by
  unfold exportChecks
  rw [if_neg h0, h]

theorem exportRequest_error {st : Station} {tag : Byte} {b : List Byte} {e : Status} (hb : field b 0 2 = n)
    (h : exportChecks n s = .error e) : exportRequest st tag b s = refuse st tag 0x40 e s := by
  unfold exportRequest
  dsimp only
  rw [hb, h]

/-- The EXPORT mark set, R26 applied. -/
def marked (n : Nat) (s : State) : State := withPool (fun s => s.updCart n fun c => { c with exportPending := true }) s

/-- Cartridge `n` put on the list, and the request outstanding (R33). -/
def listedExport (n : Nat) (st : Station) (tag : Byte) (u : State) : State :=
  addOutstanding st ⟨tag, .exportCartridge, .libraryMap⟩ (u.updLibrary fun l =>
    { l with exports := l.exports ++ [⟨n, st, tag, none, true⟩] })

theorem exportRequest_ok {st : Station} {tag : Byte} {b : List Byte} (hb : field b 0 2 = n)
    (h : exportChecks n s = .ok c) :
    exportRequest st tag b s =
      if c.location = .loadingSlot then noticeSet nExportReady (addReply st ⟨tag, 0x40, .done, .none⟩ s)
      else if c.location = .missing then settle (addReply st ⟨tag, 0x40, .done, .none⟩ (leaveCabinet n s).wantPass)
      else if s.library.exports.length ≥ 32 then refuse st tag 0x40 .listFull s
      else settle (listedExport n st tag (marked n s)) := by
  unfold exportRequest
  dsimp only
  rw [hb, h]
  rfl

end

theorem marked_noted (n : Nat) (s : State) :
    Noted (s.updCart n fun c => { c with exportPending := true }) (marked n s) :=
  withPool_noted (fun s => s.updCart n fun c => { c with exportPending := true }) s

/-- Settles O23. -/
theorem exportObligation : Obligations.Export := by
  intro s st tag n hadm hn out no
  have hserve : out = finished (exportRequest st tag (beBytes 2 n) s) := exec_served (r := .exportCartridge) hadm rfl
  have hfield : field (beBytes 2 n) 0 2 = n := field_two_last hn
  have hno {e : Status} (h : exportChecks n s = .error e) : out = no e :=
    hserve.trans (congrArg finished (exportRequest_error hfield h))
  refine ⟨fun h0 => hno (if_pos h0), fun h0 hc => hno (exportChecks_absent h0 hc), fun c h0 hc => ?_⟩
  have hchecks := exportChecks_some h0 hc
  have hbusy (hl : c.location ≠ .exported) (hb : exportBusy s c = true) : out = no .cartridgeBusy :=
    hno (hchecks.trans ((if_neg hl).trans (if_pos hb)))
  refine ⟨fun hl => hno (hchecks.trans (if_pos hl)), fun h => ?_, hbusy, fun hl hb => ?_⟩
  · obtain hl | ⟨hp, hl⟩ := h
    · exact hbusy (by simp [hl]) (by simp [exportBusy, hl])
    · exact hbusy hl (by simp [exportBusy, hp])
  replace hchecks := hchecks.trans ((if_neg hl).trans (if_neg (by simp [hb])))
  have hok (h : ¬ (s.arm.level = .halted ∧ c.location ≠ .loadingSlot ∧ c.location ≠ .missing)) :
      out = finished _ :=
    hserve.trans (congrArg finished (exportRequest_ok hfield (hchecks.trans (if_neg h))))
  refine ⟨fun hh h1 h2 => hno (hchecks.trans (if_pos ⟨hh, h1, h2⟩)), fun hslot => ?_, fun hmiss hnum => ?_, fun hh hin => ?_⟩
  · exact (hok fun h => h.2.1 hslot).trans (congrArg finished (if_pos hslot))
  · obtain rfl := cart?_number hc
    have hout := (hok fun h => h.2.2 hmiss).trans (congrArg finished ((if_neg (by simp [hmiss])).trans (if_pos hmiss)))
    have hleft := leaveCabinet_cart hc hnum
    have hkept (m : Nat) (hm : m ≠ c.number) := leaveCabinet_cart_ne hm s
    have hfull (y : Side) (ho : s.openSide = some (c.number, y)) := leaveCabinet_full ho
    have hcat := (leaveCabinet_mapped c.number s).catalogue
    rw [away] at hleft
    generalize leaveCabinet c.number s = u at hout hleft hkept hfull hcat
    refine ⟨u.wantPass, hout, ?_, ?_, hfull, hkept, hcat⟩
    · exact fun ha hb => hleft.trans (if_pos ⟨ha, hb⟩)
    · exact fun hab => hleft.trans (if_neg (not_and_or.2 hab))
  · have hplace : c.location ≠ .loadingSlot ∧ c.location ≠ .missing := by
      obtain h | ⟨d, h⟩ := hin <;> simp [h]
    have hout := (hok fun h => hh h.1).trans (congrArg finished ((if_neg hplace.1).trans (if_neg hplace.2)))
    refine ⟨fun hlen => hout.trans (congrArg finished (if_pos hlen)), fun hlen => ?_⟩
    have hmark := marked_noted n s
    have hout := hout.trans (congrArg finished (if_neg (Nat.not_le.2 hlen)))
    generalize marked n s = u at hout hmark
    have htable : u.library.table = (s.updCart n fun c => { c with exportPending := true }).library.table := by
      rw [hmark.library]
    have hlink : (listedExport n st tag u).link st = { u.link st with
        outstanding := (u.link st).outstanding ++ [⟨tag, .exportCartridge, .libraryMap⟩] } := State.link_updLink_self ..
    refine ⟨listedExport n st tag u, hout, ?_, fun m hm => ?_, ?_, ?_, ?_, hmark.arm, hmark.drives, hmark.catalogue,
      hmark.fee⟩
    · refine (cart?_of_table htable n).trans ?_
      rw [cart?_updCart_self (f := fun c => { c with exportPending := true }) fun _ => rfl, hc]
      rfl
    · exact (cart?_of_table htable m).trans (cart?_updCart_ne (f := fun c => { c with exportPending := true })
        (fun _ => rfl) hm)
    · show u.library.exports ++ _ = _
      rw [hmark.library]
      rfl
    · rw [hlink]
      exact congrArg (· ++ _) (hmark.outstanding st)
    · rw [hlink]
      exact hmark.replies st

/-! ### RECOVER (R54) -/

section
variable {s : State} {n p : Nat} {c : Cartridge}

theorem recoverChecks_absent (h : ¬ (n = 0 ∨ 96 < p)) (hc : s.cart? n = none) :
    recoverChecks n p s = .error .noCartridge := by
  unfold recoverChecks
  rw [if_neg h, hc]

theorem recoverChecks_some (h : ¬ (n = 0 ∨ 96 < p)) (hc : s.cart? n = some c) :
    recoverChecks n p s = if c.location ≠ .missing then .error .notMissing
      else if recovering s n then .error .cartridgeBusy
      else if s.arm.level = .halted then .error .libraryHalted
      else if p = 0 ∧ armTaken s ∨ p ≠ 0 ∧ slotOwned s n p then .error .slotOccupied
      else .ok c := by
  unfold recoverChecks
  rw [if_neg h, hc]

theorem armTaken_iff : armTaken s = true
    ↔ (∃ x ∈ s.library.table, x.location = .arm) ∨ ∃ i ∈ s.library.inspections, i.place = .arm := by
  simp [armTaken]

theorem slotOwned_iff : slotOwned s n p = true
    ↔ ∃ x ∈ s.library.table, x.number ≠ n ∧ x.home = some p ∧ x.location = .shelf := by
  simp [slotOwned, and_assoc]

variable {st : Station} {tag : Byte} {b : List Byte}

theorem recoverRequest_error {e : Status} (hn : field b 0 2 = n) (hp : byteAt b 2 = p) (h : recoverChecks n p s = .error e) :
    recoverRequest st tag b s = refuse st tag 0x43 e s := by
  unfold recoverRequest
  dsimp only
  rw [hn, hp, h]

section
variable {hm : Nat} (hn : field b 0 2 = n) (hp : byteAt b 2 = p) (h : recoverChecks n p s = .ok c) (hc : c.home = some hm)
include hn hp h hc

theorem recoverRequest_home (h0 : p ≠ 0) (heq : p = hm) : recoverRequest st tag b s =
    if s.slotReads hm then settle (addReply st ⟨tag, 0x43, .done, .none⟩ (setLocation n .shelf none s).wantPass)
    else refuse st tag 0x43 .sourceEmpty s := by
  unfold recoverRequest
  dsimp only
  rw [hn, hp, h]
  dsimp only
  rw [hc]
  exact if_pos ⟨h0, heq⟩

theorem recoverRequest_busy (hne : p ≠ hm) (hl : s.arm.level ≠ .normal) (hmv : s.arm.moving ≠ none) :
    recoverRequest st tag b s = refuse st tag 0x43 .armBusy s := by
  unfold recoverRequest
  dsimp only
  rw [hn, hp, h]
  dsimp only
  rw [hc]
  exact (if_neg fun k => hne k.2).trans ((if_neg hl).trans (if_pos (Option.isSome_iff_ne_none.2 hmv)))

theorem recoverRequest_now (hne : p ≠ hm) (hl : s.arm.level ≠ .normal) (hmv : s.arm.moving = none) :
    recoverRequest st tag b s = settle (recoverNow st tag (recoverOrder n p hm) s) := by
  unfold recoverRequest
  dsimp only
  rw [hn, hp, h]
  dsimp only
  rw [hc]
  exact (if_neg fun k => hne k.2).trans ((if_neg hl).trans (if_neg (by simp [hmv])))

section
variable (hne : p ≠ hm) (hl : s.arm.level = .normal)
include hne hl

theorem recoverRequest_full {e : AskRefusal} (ha : askOrder (recoverOrder n p hm) s = .error e) :
    recoverRequest st tag b s = refuse st tag 0x43 .listFull s := by
  unfold recoverRequest
  dsimp only
  rw [hn, hp, h]
  dsimp only
  rw [hc]
  refine (if_neg fun k => hne k.2).trans ((if_pos hl).trans ?_)
  rw [show (some hm).getD 0 = hm from rfl, ha]

theorem recoverRequest_asked {k : Nat} {t : State} (ha : askOrder (recoverOrder n p hm) s = .ok (k, t)) :
    recoverRequest st tag b s = settle (addReply st ⟨tag, 0x43, .done, .order k⟩ t) := by
  unfold recoverRequest
  dsimp only
  rw [hn, hp, h]
  dsimp only
  rw [hc]
  refine (if_neg fun k => hne k.2).trans ((if_pos hl).trans ?_)
  rw [show (some hm).getD 0 = hm from rfl, ha]

end

end

theorem orderFits_recover {hm : Nat} (hc : s.cart? n = some c) (hh : c.home = some hm) :
    orderFits s (recoverOrder n p hm) = true := by
  have hhome : s.homeOf (.number n) = some hm := by
    show (s.cart? n).bind (·.home) = _
    rw [hc]
    exact hh
  unfold orderFits recoverOrder
  dsimp only
  rw [hhome]
  by_cases hp : p = 0 <;> simp [hp]

end

/-- The move of RECOVER under way, before its PICK begins (R54). -/
def recovered (st : Station) (tag : Byte) (o : MoveOrder) (s : State) : State :=
  let t := addReply st ⟨tag, 0x43, .done, .order (nextNumber s)⟩
    (s.updArm fun a => { a with counter := succNumber (nextNumber s) })
  t.updArm fun a => { a with
    moving := some ⟨{ o with number := nextNumber s, status := .running }, .pick, s.seconds, .recover, false⟩ }

theorem recoverNow_eq (st : Station) (tag : Byte) (o : MoveOrder) (s : State) :
    recoverNow st tag o s = beginPick moveFault (recovered st tag o s) := rfl

theorem recovered_replies (st : Station) (tag : Byte) (o : MoveOrder) (s : State) :
    ((recovered st tag o s).link st).replies = (s.link st).replies ++ [⟨tag, 0x43, .done, .order (nextNumber s)⟩] := by
  have h := State.link_updLink_self (s.updArm fun a => { a with counter := succNumber (nextNumber s) }) st fun l =>
    { l with replies := l.replies ++ [⟨tag, 0x43, .done, .order (nextNumber s)⟩] }
  exact congrArg (·.replies) h

theorem recovered_shelf {st : Station} {tag : Byte} {s : State} {n p hm : Nat} (hp : p ≠ 0) :
    recoverNow st tag (recoverOrder n p hm) s =
      if s.slotReads p then recovered st tag (recoverOrder n p hm) s
      else moveFault .pickEmpty (recovered st tag (recoverOrder n p hm) s) := by
  have hsrc : (recoverOrder n p hm).source = .shelf p := if_neg hp
  rw [recoverNow_eq]
  unfold beginPick
  rw [show (recovered st tag (recoverOrder n p hm) s).arm.moving = some _ from rfl]
  dsimp only
  rw [hsrc]
  rfl

theorem recovered_arm {st : Station} {tag : Byte} {s : State} {n hm : Nat} :
    recoverNow st tag (recoverOrder n 0 hm) s = pickDone
      ⟨{ recoverOrder n 0 hm with number := nextNumber s, status := .running }, .pick, s.seconds, .recover, false⟩
      (recovered st tag (recoverOrder n 0 hm) s) := rfl

/-- Settles O26. -/
theorem recover : Obligations.Recover := by
  intro s st tag place n hadm hn out no p
  have hserve : out = finished (recoverRequest st tag (beBytes 2 n ++ [place]) s) := exec_served (r := .recover) hadm rfl
  have hfield : field (beBytes 2 n ++ [place]) 0 2 = n := field_two hn _
  have hbyte : byteAt (beBytes 2 n ++ [place]) 2 = p := rfl
  have hno {e : Status} (h : recoverChecks n p s = .error e) : out = no e :=
    hserve.trans (congrArg finished (recoverRequest_error hfield hbyte h))
  refine ⟨fun h => hno (if_pos h), fun h0 hp hc => hno (recoverChecks_absent (by omega) hc), fun c h0 hp hc => ?_⟩
  have hchecks := recoverChecks_some (s := s) (p := p) (by omega) hc
  refine ⟨fun h => hno (hchecks.trans (if_pos h)), fun hmiss => ?_⟩
  replace hchecks := hchecks.trans (if_neg (not_not.2 hmiss))
  refine ⟨fun h => hno (hchecks.trans (if_pos h)), fun hrec => ?_⟩
  replace hchecks := hchecks.trans (if_neg (by simp [hrec]))
  refine ⟨fun h => hno (hchecks.trans (if_pos h)), fun hlevel => ?_⟩
  replace hchecks := hchecks.trans (if_neg hlevel)
  refine ⟨fun hp0 h => hno (hchecks.trans (if_pos (.inl ⟨hp0, armTaken_iff.2 h⟩))),
    fun hp0 h => hno (hchecks.trans (if_pos (.inr ⟨hp0, slotOwned_iff.2 h⟩))), fun harm hslot hm hhome hm0 => ?_⟩
  have hok : recoverChecks n p s = .ok c := by
    refine hchecks.trans (if_neg ?_)
    rintro (⟨hp0, h⟩ | ⟨hp0, h⟩)
    · obtain ⟨hx, hi⟩ := harm hp0
      obtain ⟨x, hxm, hxl⟩ | ⟨i, him, hip⟩ := armTaken_iff.1 h
      · exact hx x hxm hxl
      · exact hi i him hip
    · obtain ⟨x, hxm, hxn, hxh, hxl⟩ := slotOwned_iff.1 h
      obtain h | h | h := hslot hp0 x hxm
      · exact hxn h
      · exact h hxh
      · exact h hxl
  refine ⟨fun heq hr => ?_, fun heq hr => ?_, fun hne hl => ⟨fun hlen => ?_, fun hlen => ?_⟩, fun hne hl => ?_⟩
  · refine hserve.trans (congrArg finished ((recoverRequest_home hfield hbyte hok hhome (heq ▸ hm0) heq).trans (if_neg ?_)))
    exact fun k => Bool.false_ne_true (hr.symm.trans k)
  · have hout := hserve.trans
      (congrArg finished ((recoverRequest_home hfield hbyte hok hhome (heq ▸ hm0) heq).trans (if_pos hr)))
    have hself := cart?_setLocation_self n .shelf none s
    have hother (m : Nat) (h : m ≠ n) := cart?_setLocation_ne h .shelf none s
    have harm := (setLocation_mapped n .shelf none s).arm
    rw [hc] at hself
    generalize setLocation n .shelf none s = u at hout hself hother harm
    exact ⟨u.wantPass, hout, hself, hother, harm⟩
  · exact hserve.trans (congrArg finished (recoverRequest_full hfield hbyte hok hhome hne hl
      (askOrder_full hlevel (orderFits_recover hc hhome) hlen)))
  · have hout := hserve.trans (congrArg finished (recoverRequest_asked hfield hbyte hok hhome hne hl
      (askOrder_ok hlevel (orderFits_recover hc hhome) hlen)))
    exact ⟨asked (recoverOrder n p hm) s, nextNumber s, hout, nextNumber_unused hlen.le, rfl, rfl⟩
  · have hl' : s.arm.level ≠ .normal := by obtain h | h := hl <;> simp [h]
    have hout (hmv : s.arm.moving = none) :=
      hserve.trans (congrArg finished (recoverRequest_now hfield hbyte hok hhome hne hl' hmv))
    refine ⟨fun hmv => hserve.trans (congrArg finished (recoverRequest_busy hfield hbyte hok hhome hne hl' hmv)),
      fun hmv hp0 hr => ?_, fun hmv hp0 hr => ?_, fun hmv hp0 => ?_⟩
    · refine ⟨recovered st tag (recoverOrder n p hm) s, nextNumber s, (hout hmv).trans (congrArg followed ?_), rfl, rfl, ?_,
        recovered_replies ..⟩
      · exact (recovered_shelf hp0).trans (if_pos hr)
      · simp only [recovered, recoverOrder, if_neg hp0, State.updArm_arm]
    · refine ⟨recovered st tag (recoverOrder n p hm) s, nextNumber s, (hout hmv).trans (congrArg followed ?_), rfl, rfl, ?_,
        recovered_replies ..⟩
      · exact (recovered_shelf hp0).trans (if_neg fun k => Bool.false_ne_true (hr.symm.trans k))
      · simp only [recovered, recoverOrder, if_neg hp0, State.updArm_arm]
    · have hpicked := hout hmv
      rw [show recoverOrder n p hm = recoverOrder n 0 hm by rw [show p = 0 from hp0], recovered_arm] at hpicked
      have harm := pickDone_arm ⟨{ recoverOrder n 0 hm with number := nextNumber s, status := .running }, .pick, s.seconds,
        .recover, false⟩ (recovered st tag (recoverOrder n 0 hm) s)
      have htracked : tracked (recovered st tag (recoverOrder n 0 hm) s) n = true := by
        show ((s.cart? n).any fun c => c.location != .exported) = true
        simp [hc, hmiss]
      have hcart := pickDone_tracked (m := ⟨{ recoverOrder n 0 hm with number := nextNumber s, status := .running }, .pick,
        s.seconds, .recover, false⟩) rfl htracked n
      rw [cart?_setLocation_self, show (recovered st tag (recoverOrder n 0 hm) s).cart? n = some c from hc] at hcart
      have hreply := sameButAttention_replies (pickDone_link ⟨{ recoverOrder n 0 hm with
        number := nextNumber s, status := .running }, .pick, s.seconds, .recover, false⟩
        (recovered st tag (recoverOrder n 0 hm) s) st)
      rw [recovered_replies] at hreply
      generalize pickDone _ _ = u at hpicked harm hcart hreply
      exact ⟨u, nextNumber s, hpicked, by rw [harm]; rfl, by rw [harm]; rfl, by rw [harm]; rfl, ⟨_, hcart, rfl⟩, hreply⟩

end Sys2Proof.Laws.LibraryActs

/-!
PROOF. DRIVE_RESET and its completions, with what they tell the Library Map (R75, R76); the obligation O24.
-/

namespace Sys2Proof.Laws.DriveResetting

open Sys2Proof Sys2Proof.Machine Sys2Proof.Laws.Noting Sys2Proof.Laws.Bodies Sys2Proof.Laws.Completion
open Sys2Proof.Laws.RunEnds Sys2Proof.Laws.Mapping Sys2Proof.Laws.SlotReports Sys2Proof.Laws.Picks

/-! ### DRIVE_RESET (R75) -/

theorem driveOf_some {n : Nat} {d : DriveId} (h : n = d.val) : driveOf n = some d := by
  unfold driveOf
  subst h
  exact dif_pos d.isLt

theorem driveOf_none {n : Nat} (h : 3 < n) : driveOf n = none := dif_neg (by omega)

section
variable {s : State} {st : Station} {tag k kind : Byte} {d : DriveId}

theorem driveResetRequest_some (h : k.toNat = d.val) : driveResetRequest st tag [k, kind] s =
    if kind.toNat > 1 then refuse st tag 0x41 .badRequest s
    else if !(s.drive d).fitted then refuse st tag 0x41 .notFitted s
    else if (s.drive d).state = .resetting then refuse st tag 0x41 .busy s
    else if (s.drive d).state ≠ .faulted then refuse st tag 0x41 .notNeeded s
    else addOutstanding st ⟨tag, .driveReset, .driveUnit d⟩
      (issue d (if kind.toNat = 0 then .reinit else .powerCycle) .driveUnit
        (s.updDrive d fun x => { x with state := .resetting, resetBy := some ⟨st, tag⟩ })) := by
  unfold driveResetRequest
  rw [show driveOf (byteAt [k, kind] 0) = some d from driveOf_some h]
  rfl

theorem driveResetRequest_none (h : 3 < k.toNat) : driveResetRequest st tag [k, kind] s = refuse st tag 0x41 .badRequest s := by
  unfold driveResetRequest
  rw [show driveOf (byteAt [k, kind] 0) = none from driveOf_none h]

end

/-! ### The pool judged (R26) -/

/-- From `s` to `t` a change of the pool has been judged (R26). -/
def Judged (s t : State) : Prop :=
  t.poolSize ≠ s.poolSize → t.poolSize ≤ s.library.lowMark → (t.source 12).pending = true

theorem Judged.trans {a b c : State} (h : Judged a b) (k : Judged b c) (hl : b.library.lowMark = a.library.lowMark)
    (hp : (b.source 12).pending = true → (c.source 12).pending = true) : Judged a c := by
  intro hne hle
  by_cases hbc : c.poolSize = b.poolSize
  · exact hp (h (hbc ▸ hne) (hbc ▸ hle))
  · exact k hbc (hl ▸ hle)

theorem judged_of_pool {s t : State} (h : t.pool = s.pool) : Judged s t := by
  intro hne
  rw [State.poolSize, h] at hne
  exact absurd rfl hne

theorem withPool_judged {act : State → State} {s : State} (hl : (act s).library.lowMark = s.library.lowMark) :
    Judged s (withPool act s) := by
  have hpool (u v : State) (h : v.library = u.library) : v.poolSize = u.poolSize := by
    unfold State.poolSize State.pool State.beingShelved
    rw [h]
  intro hne hle
  rw [hpool (act s) _ (withPool_noted act s).library] at hne hle
  unfold withPool judgePool
  dsimp only
  rw [if_neg hne, if_pos (hl ▸ hle)]
  exact noticeSet_pending _ (by decide) (by decide)

theorem setLocation_judged (n : Nat) (l : Location) (up : Option Side) (s : State) : Judged s (setLocation n l up s) :=
  withPool_judged rfl

theorem endInspection_judged {s : State} (hn : inspsNamed s) (id : Nat) : Judged s (endInspection id s) := by
  have hdrop : Judged s (dropInspection id s) := withPool_judged
    (act := fun s => s.updLibrary fun l => { l with inspections := l.inspections.filter fun i => i.id ≠ id }) rfl
  have hlib : (dropInspection id s).library
      = { s.library with inspections := s.library.inspections.filter fun i => i.id ≠ id } :=
    (withPool_noted (fun s => s.updLibrary fun l => { l with inspections := l.inspections.filter fun i => i.id ≠ id })
      s).library
  unfold endInspection
  split
  · refine hdrop.trans (judged_of_pool ((slotRetry_reslotted _).pool ?_)) (by rw [hlib]) ((slotRetry_mapped _).pending 12)
    unfold inspsNamed
    rw [hlib]
    exact hn.sublist (List.filter_sublist.map _)
  · exact hdrop

theorem abandonInspection_judged {s : State} (hn : inspsNamed s) (id : Nat) : Judged s (abandonInspection id s) := by
  unfold abandonInspection
  dsimp only
  have hend := endInspection_judged
    (s := s.updLibrary fun l => { l with lastReject := some (.abandoned, (s.insp? id).bind (·.numberRead)) }) hn id
  generalize endInspection id (s.updLibrary _) = u at hend
  have hnote := noticeSet_noted nImportRejected u
  refine fun hne hle => hnote.pending 12 (hend ?_ ?_)
  · intro h
    refine hne (Eq.trans ?_ h)
    unfold State.poolSize State.pool State.beingShelved
    rw [hnote.library]
  · refine le_trans (le_of_eq ?_) hle
    unfold State.poolSize State.pool State.beingShelved
    rw [hnote.library]

/-! ### The presence report to the Library Map (R76) -/

theorem updDrive_updDrive (s : State) (d : DriveId) (f g : Drive → Drive) :
    (s.updDrive d f).updDrive d g = s.updDrive d fun x => g (f x) := by
  have hset : (s.updDrive d f).drives.set d.val (g ((s.updDrive d f).drive d)) d.isLt
      = s.drives.set d.val (g (f (s.drive d))) d.isLt := by
    rw [State.drive_updDrive_self]
    exact Vector.set_set ..
  exact congrArg (fun v => { s with drives := v }) hset

theorem cartIn_eq_none {s : State} {d : DriveId} : s.cartIn d = none ↔ ∀ c ∈ s.library.table, c.location ≠ .drive d := by
  simp [State.cartIn]

theorem heldBy_eq_none {s : State} {d : DriveId} :
    s.heldBy d = none ↔ ∀ i ∈ s.library.inspections, i.place ≠ .drive d := by
  simp [State.heldBy]

section
variable {s : State} {d : DriveId}

theorem presenceReported_known (h : s.cartIn d ≠ none ∨ s.heldBy d ≠ none) : presenceReported d true s = s := by
  unfold presenceReported
  refine (if_pos rfl).trans (if_pos ?_)
  simpa [Option.isSome_iff_ne_none] using h

theorem presenceReported_unknown (hc : s.cartIn d = none) (hi : s.heldBy d = none) :
    presenceReported d true s = inspectDrive d s := by
  unfold presenceReported
  exact (if_pos rfl).trans (if_neg (by simp [hc, hi]))

/-- The drive's cartridge unidentified, the inspection of the next name (R38). -/
def unidentified (s : State) (d : DriveId) : State :=
  s.updDrive d fun r => { r with cart := some (.inspection s.library.inspectionSeq), sideUp := none }

theorem inspectDrive_eq (d : DriveId) (s : State) : inspectDrive d s
    = slotCheck (unidentified s d).library.inspectionSeq (addInspection .startUp (.drive d) .waitingSlot (unidentified s d)) :=
  rfl

theorem inspectDrive_mapped (d : DriveId) (s : State) : Mapped (unidentified s d) (inspectDrive d s) := by
  rw [inspectDrive_eq]
  exact (addInspection_mapped ..).trans (slotCheck_mapped ..)

theorem inspectDrive_exports (d : DriveId) (s : State) : (inspectDrive d s).library.exports = s.library.exports := by
  rw [inspectDrive_eq]
  obtain ⟨g, -, -, h⟩ := slotCheck_reslotted (unidentified s d).library.inspectionSeq
    (addInspection .startUp (.drive d) .waitingSlot (unidentified s d))
  rw [h]
  rfl

/-- The inspection in a drive found without a cartridge is over (R32). -/
def emptied (d : DriveId) (s : State) : State := (s.heldBy d).elim s fun i => abandonInspection i.id s

theorem presenceReported_absent : presenceReported d false s
    = ((emptied d s).cartIn d).elim (emptied d s) fun c => markMissing c.number (emptied d s) := by
  have hemptied : emptied d s = (match s.heldBy d with | some i => abandonInspection i.id s | none => s) := by
    unfold emptied
    cases s.heldBy d <;> rfl
  have hmissing (u : State) : (u.cartIn d).elim u (fun c => markMissing c.number u)
      = (match u.cartIn d with | some c => markMissing c.number u | none => u) := by
    cases u.cartIn d <;> rfl
  rw [hmissing, hemptied]
  rfl

theorem emptied_mapped (d : DriveId) (s : State) : Mapped s (emptied d s) := by
  unfold emptied
  cases s.heldBy d with
  | none => exact .refl s
  | some i => exact abandonInspection_mapped ..

theorem abandonInspection_library (id : Nat) (s : State) :
    ∃ u, u.library = { s.library with
        inspections := s.library.inspections.filter fun i => i.id ≠ id
        lastReject := some (.abandoned, (s.insp? id).bind (·.numberRead)) }
      ∧ Reslotted u (abandonInspection id s) := by
  obtain ⟨u, hu, h⟩ := endInspection_library id
    (s.updLibrary fun l => { l with lastReject := some (.abandoned, (s.insp? id).bind (·.numberRead)) })
  exact ⟨u, hu, h.trans (reslotted_of_library (noticeSet_noted ..).library)⟩

theorem emptied_spec (d : DriveId) (s : State) : (emptied d s).library.table = s.library.table
    ∧ (emptied d s).library.exports = s.library.exports ∧ (emptied d s).library.lowMark = s.library.lowMark := by
  unfold emptied
  cases s.heldBy d with
  | none => exact ⟨rfl, rfl, rfl⟩
  | some i =>
    obtain ⟨u, hu, g, -, -, h⟩ := abandonInspection_library i.id s
    simp only [Option.elim]
    rw [h, hu]
    exact ⟨rfl, rfl, rfl⟩

theorem absent_mapped (d : DriveId) (s : State) : Mapped s (presenceReported d false s) := by
  rw [presenceReported_absent]
  refine (emptied_mapped d s).trans ?_
  cases (emptied d s).cartIn d with
  | none => exact .refl _
  | some c => exact setLocation_mapped ..

theorem absent_library (d : DriveId) (s : State) :
    (presenceReported d false s).library = { (emptied d s).library with table := (presenceReported d false s).library.table } := by
  rw [presenceReported_absent]
  cases (emptied d s).cartIn d with
  | none => rfl
  | some c =>
    have h := setLocation_table c.number .missing none (emptied d s)
    simp only [Option.elim, markMissing]
    rw [h]
    rfl

end

/-! ### Reset completions (R76) -/

/-- The drive at the completion of its reset (R76). -/
def resetDrive (present : Bool) (seconds : Nat) (x : Drive) : Drive :=
  if present then
    { x with
      command := some ⟨.spinUp, .driveUnit, seconds⟩, fault := none, presence := true, resetBy := none, state := .loading }
  else { x with
    command := none, fault := none, presence := false, resetBy := none, state := .empty, cart := none, sideUp := none }

/-- The reply to the DRIVE_RESET that asked for the reset (R76). -/
def answerReset (who : Option FetchId) (present : Bool) (s : State) : State :=
  who.elim s fun w => replyLong w.station ⟨w.tag, 0x41, .done, .presence present⟩ s

theorem spinUp_loading {s : State} {d : DriveId} (hs : (s.drive d).state = .loading) (hc : (s.drive d).command = none) :
    spinUp d s = s.updDrive d fun x => { x with command := some ⟨.spinUp, .driveUnit, s.seconds⟩ } := by
  unfold spinUp issue
  rw [hs]
  exact (if_neg (by simp [hc])).trans (if_pos rfl)

theorem resetCompleted_eq (d : DriveId) (present : Bool) (s : State) : resetCompleted d present s
    = answerReset (s.drive d).resetBy present
        (presenceReported d present (s.updDrive d (resetDrive present s.seconds))).wantPass := by
  have hspin (f : Drive → Drive) (hs : (f (s.drive d)).state = .loading) (hc : (f (s.drive d)).command = none) :
      spinUp d (s.updDrive d f) = s.updDrive d fun x => { f x with command := some ⟨.spinUp, .driveUnit, s.seconds⟩ } := by
    rw [spinUp_loading (by rwa [State.drive_updDrive_self]) (by rwa [State.drive_updDrive_self]), updDrive_updDrive]
    rfl
  unfold resetCompleted clearCommand
  simp only [updDrive_updDrive]
  cases present
  · rw [if_neg (by simp)]
    cases (s.drive d).resetBy <;> rfl
  · rw [if_pos rfl, hspin _ rfl rfl]
    cases (s.drive d).resetBy <;> rfl

theorem answerReset_rest (who : Option FetchId) (present : Bool) (s : State) :
    answerReset who present s = { s with links := (answerReset who present s).links } := by
  unfold answerReset
  cases who with
  | none => rfl
  | some w =>
    dsimp only [Option.elim]
    rw [replyLong_eq]
    rfl

/-- The state before the presence report, the drive's cartridge named by its inspection where it is not known (R38). -/
def reporting (d : DriveId) (present : Bool) (s : State) : State :=
  if present = true ∧ s.cartIn d = none ∧ s.heldBy d = none then unidentified s d else s

theorem presenceReported_mapped (d : DriveId) (present : Bool) (s : State) :
    Mapped (reporting d present s) (presenceReported d present s) := by
  unfold reporting
  split
  next h =>
    obtain ⟨rfl, hc, hi⟩ := h
    rw [presenceReported_unknown hc hi]
    exact inspectDrive_mapped d s
  next h =>
    cases present with
    | false => exact absent_mapped d s
    | true =>
      rw [presenceReported_known (by tauto)]
      exact .refl s

theorem presenceReported_exports (d : DriveId) (present : Bool) (s : State) :
    (presenceReported d present s).library.exports = s.library.exports := by
  cases present with
  | false => rw [absent_library]; exact (emptied_spec d s).2.1
  | true =>
    by_cases h : s.cartIn d = none ∧ s.heldBy d = none
    · rw [presenceReported_unknown h.1 h.2]
      exact inspectDrive_exports d s
    · rw [presenceReported_known (by tauto)]

theorem reporting_drive_ne {d e : DriveId} (h : e ≠ d) (present : Bool) (s : State) :
    (reporting d present s).drive e = s.drive e := by
  unfold reporting
  split
  · exact State.drive_updDrive_ne s _ h
  · rfl

theorem reporting_drive (d : DriveId) (present : Bool) (s : State) : (reporting d present s).drive d = { s.drive d with
    cart := ((reporting d present s).drive d).cart, sideUp := ((reporting d present s).drive d).sideUp } := by
  unfold reporting
  split
  · rw [unidentified, State.drive_updDrive_self]
  · rfl

theorem reporting_rest (d : DriveId) (present : Bool) (s : State) :
    reporting d present s = { s with drives := (reporting d present s).drives } := by
  unfold reporting
  split <;> rfl

/-- A cartridge that the map does not know begins an inspection of origin START_UP (R38, R76). -/
theorem report_unknown {s v : State} {d : DriveId} (hv : presenceReported d true s = v)
    (hc : s.cartIn d = none) (hi : s.heldBy d = none)
    (hids : ∀ i ∈ s.library.inspections, i.id < s.library.inspectionSeq) :
    (v.drive d).cart = some (.inspection s.library.inspectionSeq)
      ∧ (v.drive d).sideUp = none
      ∧ (s.lowestFree = none → v.library = (begun .startUp (.drive d) .waitingSlot none s).library
          ∧ (v.source 8).pending = true)
      ∧ ∀ n, s.lowestFree = some n →
          v.library = (begun .startUp (.drive d) .loading (some n) s).library := by
  rw [← hv, presenceReported_unknown hc hi]
  have hdrive := (inspectDrive_mapped d s).drive d
  rw [unidentified, State.drive_updDrive_self] at hdrive
  refine ⟨by rw [hdrive], by rw [hdrive], fun h => ?_, fun n h => ?_⟩
  · rw [inspectDrive_eq, slotCheck_none (s := unidentified s d) hids .startUp h]
    exact ⟨(noticeSet_noted ..).library, noticeSet_pending _ (by decide) (by decide)⟩
  · rw [inspectDrive_eq, slotCheck_startUp (s := unidentified s d) hids h]
    rfl

/-- A cartridge recorded in a drive found without one is MISSING, an inspection there is over (R32, R76). -/
theorem report_absent {s v : State} {d : DriveId} (hv : presenceReported d false s = v)
    (hn : cartsNumbered s) (hin : inspsNamed s) :
    (∀ y, s.cartIn d = some y →
        v.cart? y.number = some { y with location := .missing, sideUp := none })
      ∧ (∀ m, (∀ y, s.cartIn d = some y → m ≠ y.number) → v.cart? m = s.cart? m)
      ∧ Judged s v
      ∧ (∀ i, s.heldBy d = some i → v.insp? i.id = none
        ∧ v.library.lastReject = some (.abandoned, i.numberRead)
        ∧ (v.source 10).pending = true)
      ∧ (s.heldBy d = none → v.library.inspections = s.library.inspections
        ∧ v.library.lastReject = s.library.lastReject) := by
  subst hv
  obtain ⟨htable, -, hmark⟩ := emptied_spec d s
  have hcart : (emptied d s).cartIn d = s.cartIn d := by
    unfold State.cartIn
    rw [htable]
  have hinsp (i : Inspection) (hi : s.heldBy d = some i) : (emptied d s) = abandonInspection i.id s := by
    rw [emptied, hi]
    rfl
  refine ⟨fun y hy => ?_, fun m hm => ?_, ?_, fun i hi => ⟨?_, ?_, ?_⟩, fun hi => ⟨?_, ?_⟩⟩
  · rw [presenceReported_absent, hcart, hy]
    refine (cart?_setLocation_self ..).trans ?_
    rw [cart?_of_table htable, cart?_of_mem hn (List.mem_of_find?_eq_some hy)]
    rfl
  · rw [presenceReported_absent, hcart]
    cases hy : s.cartIn d with
    | none => exact cart?_of_table htable m
    | some y => exact (cart?_setLocation_ne (hm y hy) ..).trans (cart?_of_table htable m)
  · have hempty : Judged s (emptied d s) := by
      unfold emptied
      cases s.heldBy d with
      | none => exact judged_of_pool rfl
      | some i => exact abandonInspection_judged hin i.id
    rw [presenceReported_absent]
    cases (emptied d s).cartIn d with
    | none => exact hempty
    | some y => exact hempty.trans (setLocation_judged y.number .missing none (emptied d s)) hmark ((setLocation_mapped ..).pending 12)
  · rw [insp?_eq_none, absent_library, hinsp i hi]
    obtain ⟨u, hu, h⟩ := abandonInspection_library i.id s
    rw [h.ids, hu]
    simp
  · rw [absent_library, hinsp i hi]
    obtain ⟨u, hu, g, -, -, h⟩ := abandonInspection_library i.id s
    rw [h, hu, insp?_of_mem hin (List.mem_of_find?_eq_some hi)]
    rfl
  · have hset : ((emptied d s).source 10).pending = true := by
      rw [hinsp i hi]
      exact noticeSet_pending _ (by decide) (by decide)
    rw [presenceReported_absent]
    cases (emptied d s).cartIn d with
    | none => exact hset
    | some y => exact (setLocation_mapped ..).pending 10 hset
  · rw [absent_library, emptied, hi]
    rfl
  · rw [absent_library, emptied, hi]
    rfl

/-- Settles O24. -/
theorem driveResets : Obligations.DriveResets := by
  refine ⟨fun s st tag k kind hadm => ?_, fun s d present cmd c hcmd => ?_⟩
  · intro out no
    have hserve : out = finished (driveResetRequest st tag [k, kind] s) := exec_served (r := .driveReset) hadm rfl
    refine ⟨fun h => ?_, fun d hd hkind => ?_⟩
    · by_cases hk : 3 < k.toNat
      · exact hserve.trans (congrArg finished (driveResetRequest_none hk))
      · refine hserve.trans (congrArg finished
          ((driveResetRequest_some (d := ⟨k.toNat, by omega⟩) rfl).trans (if_pos (by omega))))
    · replace hserve := hserve.trans (congrArg finished ((driveResetRequest_some hd).trans (if_neg (by omega))))
      refine ⟨fun h => hserve.trans (congrArg finished (if_pos (by simp [h]))), fun hfit => ?_⟩
      replace hserve := hserve.trans (congrArg finished (if_neg (by simp [hfit])))
      refine ⟨fun h => hserve.trans (congrArg finished (if_pos h)),
        fun h h' => hserve.trans (congrArg finished ((if_neg h).trans (if_pos h'))), fun h => ?_⟩
      replace hserve := hserve.trans (congrArg finished ((if_neg (by simp [h])).trans (if_neg (not_not.2 h))))
      have hkind' : (kind.toNat = 0) ↔ kind = 0 := by bv_omega
      have hissue : issue d (if kind.toNat = 0 then .reinit else .powerCycle) .driveUnit
          (s.updDrive d fun x => { x with state := .resetting, resetBy := some ⟨st, tag⟩ })
          = s.updDrive d fun x => { x with
              state := .resetting, resetBy := some ⟨st, tag⟩
              command := some ⟨if kind = 0 then .reinit else .powerCycle, .driveUnit, s.seconds⟩ } := by
        refine (if_pos ?_).trans ?_
        · rw [State.drive_updDrive_self]
          split <;> rfl
        · rw [updDrive_updDrive]
          simp only [hkind']
          rfl
      rw [hserve, hissue]
      rfl
  · have hexec : exec c s = finished (if flying s d (· == cmd) then settle (resetCompleted d present s) else s) := by
      obtain ⟨rfl, rfl⟩ | ⟨rfl, rfl⟩ := hcmd <;> rfl
    refine ⟨fun hnot => hexec.trans (congrArg finished (if_neg ?_)), fun f hf hfc => ?_⟩
    · unfold flying
      cases hf : (s.drive d).command with
      | none => simp
      | some f => simpa using hnot f hf
    replace hexec := hexec.trans (congrArg finished (if_pos (by simp [flying, hf, hfc])))
    let u := s.updDrive d (resetDrive present s.seconds)
    have hu : u.drive d = resetDrive present s.seconds (s.drive d) := State.drive_updDrive_self ..
    have hue (e : DriveId) (he : e ≠ d) : u.drive e = s.drive e := State.drive_updDrive_ne s _ he
    have heq : resetCompleted d present s = answerReset (s.drive d).resetBy present (presenceReported d present u).wantPass :=
      resetCompleted_eq d present s
    have hmap := presenceReported_mapped d present u
    have hrest := reporting_rest d present u
    have hdrive : (presenceReported d present u).drive d = { resetDrive present s.seconds (s.drive d) with
        cart := ((presenceReported d present u).drive d).cart, sideUp := ((presenceReported d present u).drive d).sideUp } := by
      rw [← hu, hmap.drive]
      exact reporting_drive d present u
    have hexports := presenceReported_exports d present u
    have hknown (h : present = true → u.cartIn d ≠ none ∨ u.heldBy d ≠ none) :
        (presenceReported d present u).drive d = resetDrive present s.seconds (s.drive d) := by
      rw [← hu, hmap.drive, reporting, if_neg (by tauto)]
    have hfound (hp : present = true) (h : u.cartIn d ≠ none ∨ u.heldBy d ≠ none) :
        (presenceReported d present u).library = s.library := by
      rw [hp, presenceReported_known h]
      rfl
    have hnew (hp : present = true) := report_unknown (d := d) (s := u) (v := presenceReported d present u) (by rw [hp])
    have hgone (hp : present = false) := report_absent (d := d) (s := u) (v := presenceReported d present u) (by rw [hp])
    have hanswer := answerReset_rest (s.drive d).resetBy present (presenceReported d present u).wantPass
    have hreply (w : FetchId) (hw : (s.drive d).resetBy = some w) :
        (answerReset (s.drive d).resetBy present (presenceReported d present u).wantPass).link w.station
          = answered ⟨w.tag, 0x41, .done, .presence present⟩ ((presenceReported d present u).link w.station) := by
      rw [hw]
      exact (congrArg (·.link w.station) (replyLong_eq ..)).trans (State.link_updLink_self ..)
    rw [heq] at hexec
    generalize presenceReported d present u = v at *
    generalize answerReset _ _ _ = t at *
    have htd (e : DriveId) : t.drive e = v.drive e := by rw [hanswer]; rfl
    have hlib : t.library = v.library := by rw [hanswer]; rfl
    have hsource (i : Nat) : t.source i = v.source i := by rw [hanswer]; rfl
    have hplans : v.planner.plans = s.planner.plans := by rw [hmap.plans, hrest]; rfl
    have hwaiters : v.planner.waiters = s.planner.waiters := by rw [hmap.waiters, hrest]; rfl
    have hreq : v.planner.filingReq = s.planner.filingReq := by rw [hmap.filingReq, hrest]; rfl
    have hpasses : s.planner.passesDue ≤ v.planner.passesDue := by
      have := hmap.passes
      rw [hrest] at this
      exact this
    have hcart (n : Nat) : t.cart? n = v.cart? n := cart?_of_table (by rw [hlib]) n
    refine ⟨t, hexec, ?_, ?_, ?_, fun hp => ?_, fun hp => ?_, fun e he => ?_, fun w hw haw => ?_, fun hp h => ?_,
      fun hp hc hi => ?_, fun hp hn hin => ?_, by rw [hlib, hexports]; rfl, ?_, ?_, ?_, ?_, ?_, ?_, ?_, ?_⟩
    · rw [htd, hdrive]
      cases present <;> rfl
    · rw [htd, hdrive]
      cases present <;> rfl
    · rw [htd, hdrive]
      cases present <;> rfl
    · subst hp
      rw [htd, hdrive]
      exact ⟨rfl, rfl⟩
    · subst hp
      rw [htd, hknown (by simp)]
      exact ⟨rfl, rfl, rfl, rfl⟩
    · rw [htd, hmap.drive, reporting_drive_ne he, hue e he]
    · have hsame : SameButAttention (s.link w.station) (v.link w.station) := by
        have := hmap.link w.station
        rw [hrest] at this
        exact this
      rw [hreply w hw, answered_awaited (by rw [sameButAttention_outstanding hsame]; exact haw),
        sameButAttention_replies hsame]
    · have hk : u.cartIn d ≠ none ∨ u.heldBy d ≠ none := by
        obtain ⟨y, hy, hl⟩ | ⟨i, hi, hl⟩ := h
        · exact .inl fun hnone => cartIn_eq_none.1 hnone y hy hl
        · exact .inr fun hnone => heldBy_eq_none.1 hnone i hi hl
      rw [htd, hknown fun _ => hk, hlib, hfound hp hk, hp]
      exact ⟨rfl, rfl, rfl⟩
    · intro id begun
      obtain ⟨hdc, hds, hfull, hroom⟩ := hnew hp (cartIn_eq_none.2 hc) (heldBy_eq_none.2 fun i h => (hi i h).1) fun i h => (hi i h).2
      rw [htd, hlib, hsource]
      exact ⟨hdc, hds, hfull, hroom⟩
    · obtain ⟨hmiss, hkept, hjudged, hover, hnone⟩ := hgone hp hn hin
      have hpool : t.poolSize = v.poolSize := by
        unfold State.poolSize State.pool State.beingShelved
        rw [hlib]
      refine ⟨fun y hy => (hcart _).trans (hmiss y hy), fun m hm => (hcart _).trans (hkept m hm), ?_, fun i hi => ?_,
        fun hi => ?_⟩
      · rw [hpool, hsource]
        exact hjudged
      · rw [State.insp?, hlib, hsource]
        exact hover i hi
      · rw [hlib]
        exact hnone hi
    · rw [hanswer, show v.wantPass.arm = v.arm from rfl, hmap.arm, hrest]; rfl
    · rw [hanswer]; exact hplans
    · rw [hanswer]; exact hwaiters
    · rw [hanswer]; exact hreq
    · rw [hanswer]; exact Nat.lt_succ_of_le hpasses
    · rw [hanswer, show v.wantPass.catalogue = v.catalogue from rfl, hmap.catalogue, hrest]; rfl
    · rw [hanswer, show v.wantPass.fee = v.fee from rfl, hmap.fee, hrest]; rfl
    · rw [hanswer, show v.wantPass.run = v.run from rfl, hmap.run, hrest]; rfl

end Sys2Proof.Laws.DriveResetting

/-!
PROOF. Timers that expire (R71, R72, R115, R138), and the acts that follow a command; the obligations O49 and O50.
-/

namespace Sys2Proof.Laws.Expiries

open Sys2Proof Sys2Proof.Machine Sys2Proof.Laws.Asking Sys2Proof.Laws.Mapping Sys2Proof.Laws.DriveResetting

/-! ### Whether a timer has run its time -/

section
variable {s : State} {x : Drive}

theorem idleDue_iff : idleDue s x = true
    ↔ ∃ t, x.idle = some t ∧ x.state = .ready ∧ s.timers.idleDelay ≤ s.seconds - t := by
  unfold idleDue State.elapsed
  cases x.idle <;> simp

theorem holdDue_iff : holdDue s x = true ↔ ∃ t, x.hold = some t ∧ x.state = .standby ∧ s.timers.holdLimit ≠ 0
    ∧ s.timers.holdLimit ≤ s.seconds - t := by
  unfold holdDue State.elapsed
  cases x.hold <;> simp [and_assoc]

theorem fetchStallDue_iff {o : FetchOrder} : fetchStallDue s o = true
    ↔ ∃ t, o.stall = some t ∧ s.timers.fetchStall ≤ s.seconds - t := by
  unfold fetchStallDue State.elapsed
  cases o.stall <;> simp

theorem filingStallDue_iff : filingStallDue s = true
    ↔ ∃ t, s.run.stall = some t ∧ s.run.stallSent = false ∧ s.timers.filingStall ≤ s.seconds - t := by
  unfold filingStallDue State.elapsed
  cases s.run.stall <;> simp [and_comm]

end

/-! ### The hold timer (R72) -/

section
variable {s : State} {d : DriveId}

theorem goStandby_eq (d : DriveId) (s : State) : goStandby d s = s.updDrive d fun x => { x with
    state := .standby, idle := none, hold := s.holdStart, command := some ⟨.spinDown, .driveUnit, s.seconds⟩ } := by
  refine (if_pos ?_).trans (updDrive_updDrive ..)
  rw [State.drive_updDrive_self]
  rfl

/-- What R72 asks for, as the record of the cartridge in the drive shows it. -/
theorem holdConditions_some {n : Nat} {c : Cartridge} {h : Nat} (hp : (s.drive d).pin = false)
    (hx : (s.drive d).cart = some (.number n)) (hc : s.cart? n = some c) (hh : c.home = some h)
    (he : c.exportPending = false) (hw : ∀ w ∈ s.planner.waiters, w.cart ≠ n)
    (ho : ∀ o ∈ s.arm.orders, o.source ≠ .drive d) (hi : ∀ i ∈ s.library.inspections, i.place ≠ .drive d) :
    holdConditions d s = some (n, h) := by
  have hwaits : (s.planner.waiters.any fun w => w.cart = n) = false := by simpa using hw
  have horders : (s.arm.orders.any fun o => o.source = .drive d) = false := by simpa using ho
  unfold holdConditions
  dsimp only
  rw [hx]
  dsimp only
  rw [hc]
  refine (if_pos ?_).trans (by rw [hh]; rfl)
  simp only [hp, hwaits, heldBy_eq_none.2 hi, horders, he]
  rfl

/-- Where R72 does not allow the DEMOUNT, no conditions are met. -/
theorem holdConditions_none
    (h : (s.drive d).pin = true ∨ (s.drive d).cart = none ∨ (∃ w ∈ s.planner.waiters, (s.drive d).cart = some (.number w.cart))
      ∨ (∃ o ∈ s.arm.orders, o.source = .drive d) ∨ (∃ id, (s.drive d).cart = some (.inspection id))
      ∨ (∃ i ∈ s.library.inspections, i.place = .drive d)
      ∨ (∃ n, (s.drive d).cart = some (.number n) ∧ s.cart? n = none)
      ∨ (∃ n c, (s.drive d).cart = some (.number n) ∧ s.cart? n = some c ∧ (c.exportPending = true ∨ c.home = none))) :
    holdConditions d s = none := by
  unfold holdConditions
  dsimp only
  cases hx : (s.drive d).cart with
  | none => rfl
  | some ref =>
    cases ref with
    | inspection id => rfl
    | number n =>
      dsimp only
      cases hc : s.cart? n with
      | none => rfl
      | some c =>
        dsimp only
        split
        next hok =>
          simp only [Bool.and_eq_true, Bool.not_eq_true', List.any_eq_false, decide_eq_true_eq,
            Option.isNone_iff_eq_none] at hok
          obtain ⟨⟨⟨⟨hp, hw⟩, hi⟩, ho⟩, he⟩ := hok
          obtain h | h | ⟨w, hwm, h⟩ | ⟨o, hom, h⟩ | ⟨id, h⟩ | ⟨i, him, h⟩ | ⟨m, h, hm⟩ | ⟨m, c', h, hm, hbad⟩ := h
          · exact absurd (hp.symm.trans h) Bool.false_ne_true
          · exact absurd (hx.symm.trans h) (by simp)
          · refine absurd (hx.symm.trans h) fun e => hw w hwm ?_
            simpa using e.symm
          · exact absurd h (ho o hom)
          · exact absurd (hx.symm.trans h) (by simp)
          · exact absurd h (heldBy_eq_none.1 hi i him)
          · cases hx.symm.trans h
            exact absurd (hc.symm.trans hm) (by simp)
          · cases hx.symm.trans h
            cases hc.symm.trans hm
            obtain hb | hb := hbad
            · exact absurd (he.symm.trans hb) Bool.false_ne_true
            · rw [hb]
              rfl
        next => rfl

theorem askHold_none (h : holdConditions d s = none) : askHold d s = restartHold d s := by
  unfold askHold
  rw [h]

/-- The G-HOLD DEMOUNT (R72). -/
def holdOrder (n : Nat) (d : DriveId) (h : Nat) : MoveOrder :=
  ⟨0, .demount, .number n, .drive d, .shelf h, none, .hold, none, .holdExpiry, .waiting⟩

variable {n h : Nat} (hc : holdConditions d s = some (n, h))
include hc

theorem askHold_ok {k : Nat} {t : State} (ha : askOrder (holdOrder n d h) s = .ok (k, t)) :
    askHold d s = t.updDrive d fun x => { x with pendingHold := some k, hold := none, holdKept := false } := by
  unfold askHold
  rw [hc]
  dsimp only
  unfold holdOrder at ha
  rw [ha]

theorem askHold_full (ha : askOrder (holdOrder n d h) s = .error .listFull) :
    askHold d s = s.updDrive d fun x => { x with hold := none, holdKept := true } := by
  unfold askHold
  rw [hc]
  dsimp only
  unfold holdOrder at ha
  rw [ha]

theorem askHold_halted (ha : askOrder (holdOrder n d h) s = .error .libraryHalted) : askHold d s = restartHold d s := by
  unfold askHold
  rw [hc]
  dsimp only
  unfold holdOrder at ha
  rw [ha]

end

theorem orderFits_hold {s : State} {n h : Nat} {c : Cartridge} (d : DriveId) (hc : s.cart? n = some c)
    (hh : c.home = some h) : orderFits s (holdOrder n d h) = true := by
  have hhome : s.homeOf (.number n) = some h := by
    show (s.cart? n).bind (·.home) = _
    rw [hc]
    exact hh
  unfold orderFits holdOrder
  dsimp only
  rw [hhome]
  simp [ArmPlace.isDrive]

/-- Settles O49. -/
theorem timerExpiries : Obligations.TimerExpiries := by
  intro s d x holdStart
  have hidle : exec (.idleTimerExpiry d) s = followed (idleExpiry d s) := rfl
  have hhold : exec (.holdTimerExpiry d) s = followed (holdExpiry d s) := rfl
  have hfetch (st : Station) (tag : Byte) :
      exec (.fetchStallLimit st tag) s = followed (fetchStallExpiry ⟨st, tag⟩ s) := rfl
  have hfiling : exec .filingStallLimit s = finished (filingStallExpiry s) := rfl
  refine ⟨fun h => ?_, fun t ht hs hl => ?_, fun h => ?_, fun t ht hs h0 hl => ⟨fun h => ?_, ?_⟩, fun st tag h => ?_,
    fun st tag o t ho ht hl => ⟨?_, Links.order?_completeFetch ..⟩, fun h => ?_, fun t ht hs hl => ?_⟩
  · refine hidle.trans (congrArg followed (if_neg fun hdue => ?_))
    obtain ⟨t, ht, hs, hl⟩ := idleDue_iff.1 hdue
    exact absurd hl (Nat.not_le.2 (h t ht hs))
  · exact hidle.trans (congrArg followed ((if_pos (idleDue_iff.2 ⟨t, ht, hs, hl⟩)).trans (goStandby_eq d s)))
  · refine hhold.trans (congrArg followed (if_neg fun hdue => ?_))
    obtain ⟨t, ht, hs, h0, hl⟩ := holdDue_iff.1 hdue
    exact absurd hl (Nat.not_le.2 (h t ht hs h0))
  · replace hhold := hhold.trans (congrArg followed (if_pos (holdDue_iff.2 ⟨t, ht, hs, h0, hl⟩)))
    refine hhold.trans (congrArg followed (?_ : askHold d s = restartHold d s))
    by_cases hhalt : s.arm.level = .halted
    · cases hcond : holdConditions d s with
      | none => exact askHold_none hcond
      | some p => exact askHold_halted (n := p.1) (h := p.2) hcond (askOrder_halted hhalt)
    · simp only [x, hhalt, false_or] at h
      exact askHold_none (holdConditions_none h)
  · intro n c h hp hx hc hh he hw ho hi
    replace hhold := hhold.trans (congrArg followed (if_pos (holdDue_iff.2 ⟨t, ht, hs, h0, hl⟩)))
    have hcond := holdConditions_some hp hx hc hh he hw ho hi
    refine ⟨fun hhalt hlen => ?_, fun hhalt hlen => ?_⟩
    · refine ⟨_, nextNumber s, hhold.trans (congrArg followed
        (askHold_ok hcond (askOrder_ok hhalt (orderFits_hold d hc hh) hlen))), rfl, State.drive_updDrive_self ..⟩
    · exact hhold.trans (congrArg followed (askHold_full hcond (askOrder_full hhalt (orderFits_hold d hc hh) hlen)))
  · refine (hfetch st tag).trans (congrArg followed ?_)
    unfold fetchStallExpiry
    cases ho : s.order? ⟨st, tag⟩ with
    | none => rfl
    | some o =>
      refine if_neg fun hdue => ?_
      obtain ⟨t, ht, hl⟩ := fetchStallDue_iff.1 hdue
      exact absurd hl (Nat.not_le.2 (h o t ho ht))
  · refine (hfetch st tag).trans (congrArg followed ?_)
    unfold fetchStallExpiry
    rw [ho]
    exact if_pos (fetchStallDue_iff.2 ⟨t, ht, hl⟩)
  · refine hfiling.trans (congrArg finished (if_neg fun hdue => ?_))
    obtain ⟨t, ht, hs, hl⟩ := filingStallDue_iff.1 hdue
    exact absurd hl (Nat.not_le.2 (h t ht hs))
  · exact hfiling.trans (congrArg finished (if_pos (filingStallDue_iff.2 ⟨t, ht, hs, hl⟩)))

/-! ### The acts that follow a command -/

/-- The acts taken by `settleFor`, one after another. -/
theorem settleFor_run (fuel : Nat) (s : State) : ∃ (run : Nat → State) (k : Nat), run 0 = s ∧ run k = settleFor fuel s
    ∧ k ≤ fuel ∧ (∀ i, i < k → nextAct (run i) = some (run (i + 1))) ∧ (k < fuel → nextAct (settleFor fuel s) = none) := by
  induction fuel generalizing s with
  | zero => exact ⟨fun _ => s, 0, rfl, rfl, le_rfl, fun i h => absurd h (Nat.not_lt_zero i), fun h => absurd h (Nat.lt_irrefl 0)⟩
  | succ fuel ih =>
    cases hnext : nextAct s with
    | none =>
      have hrest : settleFor (fuel + 1) s = s := by rw [settleFor, hnext]
      refine ⟨fun _ => s, 0, rfl, hrest.symm, Nat.zero_le _, fun i h => absurd h (Nat.not_lt_zero i), fun _ => ?_⟩
      rw [hrest, hnext]
    | some t =>
      have hgo : settleFor (fuel + 1) s = settleFor fuel t := by rw [settleFor, hnext]
      obtain ⟨run, k, h0, hk, hle, hsteps, hend⟩ := ih t
      refine ⟨fun i => i.casesOn s run, k + 1, rfl, hk.trans hgo.symm, Nat.succ_le_succ hle, fun i hi => ?_, fun h => ?_⟩
      · cases i with
        | zero => exact hnext.trans (congrArg some h0.symm)
        | succ i => exact hsteps i (by omega)
      · rw [hgo]
        exact hend (by omega)

/-- The first of the drives that has an act. -/
theorem findSome?_drives {s t : State} {d : DriveId} (h : driveAct s d = some t) (hlow : ∀ e, e < d → driveAct s e = none) :
    allDrives.findSome? (driveAct s) = some t := by
  have hdrives : allDrives.Pairwise (· < ·) := by decide
  have hd := Admissions.mem_allDrives d
  generalize allDrives = ds at hdrives hd
  induction ds with
  | nil => cases hd
  | cons e ds ih =>
    rw [List.pairwise_cons] at hdrives
    obtain rfl | hd := List.mem_cons.1 hd
    · rw [List.findSome?_cons, h]
    · rw [List.findSome?_cons, hlow e (hdrives.1 d hd)]
      exact ih hdrives.2 hd

/-- Settles O50. -/
theorem actsUntilRest : Obligations.ActsUntilRest := by
  refine fun s => ⟨settleFor_run 1000 s, fun o ho => ?_, fun hdel => ⟨fun o ho => ?_, fun hstall => ⟨fun t ht => ?_,
    fun hfil => ⟨fun d t ht hlow => ?_, fun hdrives => ?_⟩⟩⟩⟩
  · rw [nextAct, ho]
  · rw [nextAct, hdel, ho]
  · rw [nextAct, hdel, hstall, ht]
  · rw [nextAct, hdel, hstall, hfil, findSome?_drives ht hlow]
  · have hnone : allDrives.findSome? (driveAct s) = none := List.findSome?_eq_none_iff.2 fun d _ => hdrives d
    refine ⟨fun hp => ?_, fun hp => ⟨fun t ht => ?_, fun hlib => ?_⟩⟩
    all_goals rw [nextAct, hdel, hstall, hfil, hnone]
    · exact if_pos hp
    all_goals refine (if_neg (by omega)).trans ?_
    · rw [ht]
    · rw [hlib]

end Sys2Proof.Laws.Expiries

/-!
PROOF. Readiness, the arbiter's choice, and the begin of a move (R44, R45, R47, R50, R51); the obligation O51.
-/

namespace Sys2Proof.Laws.Arbiter

open Sys2Proof Sys2Proof.Machine Sys2Proof.Laws.Noting Sys2Proof.Laws.RunEnds Sys2Proof.Laws.Mapping
open Sys2Proof.Laws.Picks Sys2Proof.Laws.DriveResetting

/-! ### Readiness (R44) -/

section
variable {s : State} {o : MoveOrder}

theorem onShelf_iff {c : CartRef} : onShelf s c = true
    ↔ ∃ k r, c = .number k ∧ s.cart? k = some r ∧ r.location = .shelf := by
  unfold onShelf
  cases c with
  | number n => cases h : s.cart? n <;> simp [h]
  | inspection id => simp

theorem cartAt_iff {c : CartRef} {d : DriveId} : cartAt s c d = true
    ↔ (∃ k r, c = .number k ∧ s.cart? k = some r ∧ r.location = .drive d)
      ∨ ∃ k i, c = .inspection k ∧ s.insp? k = some i ∧ i.place = .drive d := by
  unfold cartAt
  cases c with
  | number n => cases h : s.cart? n <;> simp [h]
  | inspection id => cases hi : s.insp? id <;> simp [hi]

theorem sourceReady_shelf {n : Nat} (h : o.source = .shelf n) : sourceReady s o = true
    ↔ (∃ k c, o.cart = .number k ∧ s.cart? k = some c ∧ c.location = .shelf)
      ∨ (o.kind = .returnMove ∧ s.slotReads n = true) := by
  unfold sourceReady
  rw [h]
  simp only [Bool.or_eq_true, onShelf_iff, Bool.and_eq_true, beq_iff_eq]

theorem sourceReady_drive {d : DriveId} (h : o.source = .drive d) : sourceReady s o = true
    ↔ ((∃ k c, o.cart = .number k ∧ s.cart? k = some c ∧ c.location = .drive d)
        ∨ ∃ k i, o.cart = .inspection k ∧ s.insp? k = some i ∧ i.place = .drive d)
      ∧ ((s.drive d).state = .ready ∨ (s.drive d).state = .standby) ∧ (s.drive d).unit = none := by
  unfold sourceReady
  rw [h]
  simp only [Bool.or_eq_true, cartAt_iff, Bool.and_eq_true, beq_iff_eq, Option.isNone_iff_eq_none, and_assoc]

theorem sourceReady_slot (h : o.source = .loadingSlot) : sourceReady s o = true
    ↔ s.library.slot = .arrived ∧ ∃ k i, o.cart = .inspection k ∧ s.insp? k = some i ∧ i.place = .loadingSlot := by
  unfold sourceReady
  rw [h]
  dsimp only
  cases o.cart with
  | number n => simp
  | inspection id => cases hi : s.insp? id <;> simp [hi]

theorem sourceReady_arm (h : o.source = .arm) : sourceReady s o = true ↔ s.arm.gripSensor = true := by
  unfold sourceReady
  rw [h]

theorem destReady_shelf {n : Nat} (h : o.dest = .shelf n) : destReady s o = true ↔ s.slotReads n = false := by
  unfold destReady
  rw [h]
  simp

theorem destReady_drive {d : DriveId} (h : o.dest = .drive d) : destReady s o = true
    ↔ o.kind = .flip ∨ ((s.drive d).fitted = true ∧ (s.drive d).state = .empty
      ∧ ∀ p ∈ s.arm.orders, p.dest = .drive d → p.status = .waiting) := by
  unfold destReady
  rw [h]
  dsimp only
  by_cases hk : o.kind = .flip
  · simp [hk]
  · rw [if_neg hk]
    simp [hk, and_assoc]

theorem destReady_slot (h : o.dest = .loadingSlot) : destReady s o = true ↔ s.library.slot = .empty := by
  unfold destReady
  rw [h]
  simp

theorem destReady_arm (h : o.dest = .arm) : destReady s o = true ↔ False := by
  unfold destReady
  rw [h]
  simp

theorem ready_iff : ready s o = true ↔ o.status = .waiting ∧ sourceReady s o = true ∧ destReady s o = true
    ∧ ∀ n, o.after = some n → ∀ p ∈ s.arm.orders, p.number ≠ n := by
  unfold ready
  cases ha : o.after with
  | none => simp [and_assoc]
  | some n => simp [State.armOrder?, and_assoc]

end

/-! ### The choice (R45) -/

theorem foldl_higher_max {p : Priorities} {a : MoveOrder} {os : List MoveOrder} (h : ∀ o ∈ os, p.of o.group ≤ p.of a.group) :
    os.foldl (higher p) a = a := by
  induction os with
  | nil => rfl
  | cons o os ih =>
    rw [List.foldl_cons, higher, if_neg (Nat.not_lt.2 (h o List.mem_cons_self))]
    exact ih fun q hq => h q (List.mem_cons_of_mem o hq)

theorem foldl_higher_first {p : Priorities} {a o : MoveOrder} {before after : List MoveOrder}
    (ha : p.of a.group < p.of o.group) (hb : ∀ q ∈ before, p.of q.group < p.of o.group)
    (hafter : ∀ q ∈ after, p.of q.group ≤ p.of o.group) : (before ++ o :: after).foldl (higher p) a = o := by
  induction before generalizing a with
  | nil => rw [List.nil_append, List.foldl_cons, higher, if_pos ha, foldl_higher_max hafter]
  | cons q qs ih =>
    rw [List.cons_append, List.foldl_cons]
    refine ih ?_ fun r hr => hb r (List.mem_cons_of_mem q hr)
    unfold higher
    split
    · exact hb q List.mem_cons_self
    · exact ha

theorem arbiterChoice_first {s : State} {before after : List MoveOrder} {o : MoveOrder}
    (h : s.arm.orders = before ++ o :: after) (hr : ready s o = true)
    (hall : ∀ p ∈ s.arm.orders, ready s p = true → s.arm.priorities.of p.group ≤ s.arm.priorities.of o.group)
    (hb : ∀ p ∈ before, ready s p = true → s.arm.priorities.of p.group < s.arm.priorities.of o.group) :
    arbiterChoice s = some o := by
  have hfilter : s.arm.orders.filter (ready s) = before.filter (ready s) ++ o :: after.filter (ready s) := by
    rw [h, List.filter_append, List.filter_cons_of_pos hr]
  have hafter : ∀ q ∈ after.filter (ready s), s.arm.priorities.of q.group ≤ s.arm.priorities.of o.group := by
    intro q hq
    obtain ⟨hq, hqr⟩ := List.mem_filter.1 hq
    exact hall q (by simp [h, hq]) hqr
  have hbefore : ∀ q ∈ before.filter (ready s), s.arm.priorities.of q.group < s.arm.priorities.of o.group := by
    intro q hq
    obtain ⟨hq, hqr⟩ := List.mem_filter.1 hq
    exact hb q hq hqr
  unfold arbiterChoice
  rw [hfilter]
  cases hbs : before.filter (ready s) with
  | nil => exact congrArg some (foldl_higher_max hafter)
  | cons q qs =>
    rw [hbs] at hbefore
    exact congrArg some (foldl_higher_first (hbefore q List.mem_cons_self)
      (fun r hr => hbefore r (List.mem_cons_of_mem q hr)) hafter)

theorem arbiterChoice_none {s : State} (h : ∀ o ∈ s.arm.orders, ready s o = false) : arbiterChoice s = none := by
  have hfilter : s.arm.orders.filter (ready s) = [] := List.filter_eq_nil_iff.2 fun o ho => by simp [h o ho]
  unfold arbiterChoice
  rw [hfilter]

/-! ### The order taken (R45, R47) -/

/-- The state as the arbiter's move begins (R45). -/
def taking (o : MoveOrder) (s : State) : State :=
  { s with arm := { s.arm with
      orders := s.arm.orders.map fun p => if p.number = o.number then { p with status := .running } else p
      moving := some ⟨{ o with status := .running }, .pick, s.seconds, .arbiter, true⟩ } }

theorem takeOrder_eq (o : MoveOrder) (s : State) : takeOrder o s = beginPick arbiterFault (taking o s) := rfl

/-- A first fault of the arbiter's move, as the arm's record shows it (R51). -/
def faultedArm (code : MoveFault) (o : MoveOrder) (s : State) : Arm :=
  { s.arm with
    orders := s.arm.orders.map fun p => if p.number = o.number then { p with status := .suspended } else p
    level := .attention, moving := none
    primary := some ⟨code, { o with status := .running }, s.seconds, .pick, false, true⟩ }

theorem suspend_running (n : Nat) (os : List MoveOrder) :
    ((os.map fun p => if p.number = n then { p with status := .running } else p).map fun p =>
        if p.number = n then { p with status := .suspended } else p)
      = os.map fun p => if p.number = n then { p with status := .suspended } else p := by
  rw [List.map_map]
  refine List.map_congr_left fun p _ => ?_
  by_cases h : p.number = n <;> simp [h]

theorem arbiterFault_taking (code : MoveFault) (o : MoveOrder) (s : State) (l : Library) :
    (arbiterFault code { taking o s with library := l }).arm = faultedArm code o s
      ∧ ((arbiterFault code { taking o s with library := l }).source 1).pending = true
      ∧ (arbiterFault code { taking o s with library := l }).drives = s.drives
      ∧ (arbiterFault code { taking o s with library := l }).library = l := by
  let m : Move := ⟨{ o with status := .running }, .pick, s.seconds, .arbiter, true⟩
  let t : State := (stopMove m { taking o s with library := l }).updArm fun a =>
    { a with primary := some (faultRecord code m { taking o s with library := l }), level := .attention }
  have hnote := noticeSet_noted nArmAttention t
  have heq : arbiterFault code { taking o s with library := l } = noticeSet nArmAttention t := rfl
  refine ⟨?_, ?_, ?_, ?_⟩
  · rw [heq, hnote.arm]
    exact congrArg (fun os => { s.arm with
      orders := os, level := .attention, moving := none
      primary := some ⟨code, { o with status := .running }, s.seconds, .pick, false, true⟩ })
      (suspend_running o.number s.arm.orders)
  · rw [heq]
    exact noticeSet_pending _ (by decide) (by decide)
  · rw [heq, hnote.drives]
    rfl
  · rw [heq, hnote.library]
    rfl

section
variable {s : State} {o : MoveOrder}

theorem takeOrder_shelf {n : Nat} (h : o.source = .shelf n) :
    takeOrder o s = if s.slotReads n then taking o s else arbiterFault .pickEmpty (taking o s) := by
  rw [takeOrder_eq]
  unfold beginPick
  rw [show (taking o s).arm.moving = some _ from rfl]
  dsimp only
  rw [h]
  rfl

theorem takeOrder_slot (h : o.source = .loadingSlot) : takeOrder o s =
    if s.library.slotSensor then { taking o s with library := { s.library with slot := .busy } }
    else arbiterFault .pickEmpty { taking o s with library := { s.library with slot := .busy } } := by
  rw [takeOrder_eq]
  unfold beginPick
  rw [show (taking o s).arm.moving = some _ from rfl]
  dsimp only
  rw [h]
  rfl

theorem takeOrder_arm (h : o.source = .arm) :
    takeOrder o s = pickDone ⟨{ o with status := .running }, .pick, s.seconds, .arbiter, true⟩ (taking o s) := by
  rw [takeOrder_eq]
  unfold beginPick
  rw [show (taking o s).arm.moving = some _ from rfl]
  dsimp only
  rw [h]

theorem takeOrder_refused {d : DriveId} (h : o.source = .drive d) (hr : requestUnload d (taking o s) = none) :
    takeOrder o s = arbiterFault .driveRefused (taking o s) := by
  rw [takeOrder_eq]
  unfold beginPick
  rw [show (taking o s).arm.moving = some _ from rfl]
  dsimp only
  rw [h]
  dsimp only
  rw [hr]
  rfl

theorem takeOrder_unloads {d : DriveId} {t : State} (h : o.source = .drive d) (hr : requestUnload d (taking o s) = some t) :
    takeOrder o s = t := by
  rw [takeOrder_eq]
  unfold beginPick
  rw [show (taking o s).arm.moving = some _ from rfl]
  dsimp only
  rw [h]
  dsimp only
  rw [hr]
  rfl

end

/-! ### The drive asked to unload (R62) -/

theorem updDrive_congr {s : State} {d : DriveId} {f g : Drive → Drive} (h : f (s.drive d) = g (s.drive d)) :
    s.updDrive d f = s.updDrive d g := by
  unfold State.updDrive
  rw [h]

section
variable {s : State} {d : DriveId}

theorem requestUnload_refused (h : (s.drive d).pin = true ∨ (s.drive d).queueIdle = false) : requestUnload d s = none :=
  if_pos (h.imp_right fun h => by simp [h])

theorem startUnload_eq (d : DriveId) (s : State) : startUnload d s = s.updDrive d fun x => { x with
    state := .unloading, idle := none, hold := none, unloadKept := false
    command := some ⟨.spinDown, .driveUnit, s.seconds⟩ } := by
  refine (if_pos ?_).trans (updDrive_updDrive ..)
  rw [State.drive_updDrive_self]
  rfl

variable (hp : (s.drive d).pin = false) (hq : (s.drive d).queueIdle = true)
include hp hq

theorem requestUnload_ready (h : (s.drive d).state = .ready) : requestUnload d s = some (startUnload d s) := by
  refine (if_neg (by simp [hp, hq])).trans ?_
  dsimp only
  rw [h]

theorem requestUnload_standby (h : (s.drive d).state = .standby) : requestUnload d s = some (s.updDrive d fun x => { x with
    state := .unloading, hold := none, holdKept := false
    command := if x.command = none then some ⟨.eject, .driveUnit, s.seconds⟩ else x.command }) := by
  refine (if_neg (by simp [hp, hq])).trans ?_
  dsimp only
  rw [h]
  refine congrArg some ?_
  cases hc : (s.drive d).command with
  | none =>
    refine (if_neg (by simp)).trans ((if_pos ?_).trans ?_)
    · rw [State.drive_updDrive_self]
      rfl
    · rw [updDrive_updDrive]
      exact updDrive_congr (by simp [hc])
  | some c => exact (if_pos rfl).trans (updDrive_congr (by simp [hc]))

end

/-- Settles O51. -/
theorem arbiterTakesOrder : Obligations.ArbiterTakesOrder := by
  refine ⟨fun s o => ?_, fun s => ⟨fun h => ?_, fun before o after hl hmv ho hr hall hb => ?_⟩⟩
  · intro held clear
    have hheld : sourceReady s o = true ↔ held := by
      cases h : o.source with
      | shelf n => rw [sourceReady_shelf h]; simp only [held, h]
      | drive d => rw [sourceReady_drive h]; simp only [held, h]
      | loadingSlot => rw [sourceReady_slot h]; simp only [held, h]
      | arm => rw [sourceReady_arm h]; simp only [held, h]
    have hclear : destReady s o = true ↔ clear := by
      cases h : o.dest with
      | shelf n => rw [destReady_shelf h]; simp only [clear, h]
      | drive d => rw [destReady_drive h]; simp only [clear, h]
      | loadingSlot => rw [destReady_slot h]; simp only [clear, h]
      | arm => rw [destReady_arm h]; simp only [clear, h]
    rw [ready_iff, hheld, hclear]
  · unfold arbiterAct
    split
    next hidle =>
      obtain h | h | h := h
      · exact absurd hidle.1 h
      · exact absurd (Option.isNone_iff_eq_none.1 hidle.2) h
      · rw [arbiterChoice_none h]
        rfl
    next => rfl
  · intro run taken faults
    have hact : arbiterAct s = some (takeOrder o s) := by
      unfold arbiterAct
      rw [if_pos ⟨hl, by simp [hmv]⟩, arbiterChoice_first ho hr hall hb]
      rfl
    have htaking : taking o s = { s with arm := taken } := rfl
    have hfaulted (code : MoveFault) : faultedArm code o s = { s.arm with
        orders := s.arm.orders.map fun p => if p.number = o.number then { p with status := .suspended } else p
        level := .attention, primary := some ⟨code, run, s.seconds, .pick, false, true⟩ } := by
      rw [faultedArm, ← hmv]
    have hfault (code : MoveFault) (l : Library) : faults code (arbiterFault code { taking o s with library := l }) := by
      obtain ⟨ha, hp, hd, -⟩ := arbiterFault_taking code o s l
      exact ⟨ha.trans (hfaulted code), hp, hd⟩
    refine ⟨takeOrder o s, hact, fun n hs => ⟨fun hreads => ?_, fun hreads => ?_⟩, fun hs => ?_, fun hs => ?_, fun d hs => ?_⟩
    · exact (takeOrder_shelf hs).trans (if_pos hreads)
    · rw [takeOrder_shelf hs, if_neg (by simp [hreads])]
      exact hfault .pickEmpty s.library
    · rw [takeOrder_slot hs]
      refine ⟨?_, fun h => ?_, fun h => ?_⟩
      · by_cases h : s.library.slotSensor = true
        · rw [if_pos h]
        · rw [if_neg h]
          exact (arbiterFault_taking .pickEmpty o s { s.library with slot := .busy }).2.2.2
      · rw [if_pos h]
        rfl
      · rw [if_neg (by simp [h])]
        exact hfault .pickEmpty _
    · have hpicked := takeOrder_arm (s := s) hs
      let m : Move := ⟨run, .pick, s.seconds, .arbiter, true⟩
      have harm := pickDone_arm m (taking o s)
      have hframe := pickLocation_frame m (taking o s)
      have hdrives : (pickDone m (taking o s)).drives = s.drives := by
        refine (pickSource_drives (m := m) (by rw [show m.order.source = .arm from hs]; rfl) _).trans ?_
        rw [hframe.rest]
        rfl
      rw [hpicked]
      refine ⟨harm.trans (by rw [harm]; rfl), hdrives, fun n c hn hc hloc => ?_⟩
      have htracked : tracked (taking o s) n = true := by
        show ((s.cart? n).any fun c => c.location != .exported) = true
        simp [hc, hloc]
      have hsame := (pickLocation_tracked_mapped (m := m) hn htracked).arm
      have hcart := pickDone_tracked (m := m) hn htracked n
      rw [cart?_setLocation_self, show (taking o s).cart? n = some c from hc] at hcart
      refine ⟨?_, ?_, _, hcart, rfl⟩
      · rw [harm, hsame]
        rfl
      · rw [harm, hsame]
        rfl
    · intro x
      obtain ⟨-, hsrc, -⟩ := ready_iff.1 hr
      obtain ⟨-, -, hunit⟩ := (sourceReady_drive hs).1 hsrc
      have hidle (hq : x.queue = []) : ((taking o s).drive d).queueIdle = true := by
        show (s.drive d).queueIdle = true
        unfold Drive.queueIdle Drive.fetchUnit
        rw [show (s.drive d).queue = [] from hq, hunit]
        rfl
      refine ⟨fun h => ?_, fun hp hq hst => ?_, fun hp hq hst => ?_⟩
      · have hrefused : requestUnload d (taking o s) = none := by
          refine requestUnload_refused (h.imp_right fun hq => ?_)
          show (s.drive d).queueIdle = false
          unfold Drive.queueIdle
          simp [show (s.drive d).queue ≠ [] from hq]
        rw [takeOrder_refused hs hrefused]
        exact hfault .driveRefused s.library
      · exact (takeOrder_unloads hs (requestUnload_ready hp (hidle hq) hst)).trans (startUnload_eq ..)
      · exact takeOrder_unloads hs (requestUnload_standby hp (hidle hq) hst)

end Sys2Proof.Laws.Arbiter

/-!
PROOF. The begin of a delivery, the stall timers of the fetch orders, and the stall timer of the filing run (R115, R136,
R138); the obligation O55.
-/

namespace Sys2Proof.Laws.Deliveries

open Sys2Proof Sys2Proof.Machine Sys2Proof.Laws.RunEnds

variable {s : State} {id : FetchId} {o : FetchOrder}

/-! ### The candidates -/

theorem order?_id (h : s.order? id = some o) : o.id = id := by
  simpa using List.find?_some h

/-- The order of a staged page may begin its delivery (R136). -/
def begins (s : State) (id : FetchId) : Prop :=
  ∃ o, s.order? id = some o ∧ o.staged ≠ none ∧ o.delivery = none ∧ 0 < (s.link id.station).credit

/-- The filter of `deliveryCandidate` on one identifier. -/
theorem deliveryTest_eq_some :
    ((s.order? id).filter fun o => o.staged.isSome && o.delivery.isNone && 0 < (s.link o.id.station).credit) = some o
      ↔ s.order? id = some o ∧ o.staged ≠ none ∧ o.delivery = none ∧ 0 < (s.link id.station).credit := by
  rw [Option.filter_eq_some_iff]
  refine and_congr_right fun ho => ?_
  rw [order?_id ho]
  simp [Option.isSome_iff_ne_none, and_assoc]

theorem deliveryTest_eq_none :
    ((s.order? id).filter fun o => o.staged.isSome && o.delivery.isNone && 0 < (s.link o.id.station).credit) = none
      ↔ ¬ begins s id := by
  constructor
  · rintro h ⟨o, ho⟩
    rw [deliveryTest_eq_some.2 ho] at h
    cases h
  · intro h
    by_contra hne
    obtain ⟨o, ho⟩ := Option.ne_none_iff_exists'.1 hne
    exact h ⟨o, deliveryTest_eq_some.1 ho⟩

theorem deliveryCandidate_none : deliveryCandidate s = none ↔ ∀ j ∈ s.fetch.stagedOrder, ¬ begins s j := by
  unfold deliveryCandidate
  rw [List.findSome?_eq_none_iff]
  exact forall₂_congr fun _ _ => deliveryTest_eq_none

theorem deliveryCandidate_first {before after : List FetchId} (h : s.fetch.stagedOrder = before ++ id :: after)
    (hbefore : ∀ j ∈ before, ¬ begins s j) (hid : begins s id) (ho : s.order? id = some o) :
    deliveryCandidate s = some o := by
  obtain ⟨o', ho', htest⟩ := hid
  cases ho.symm.trans ho'
  unfold deliveryCandidate
  rw [h, List.findSome?_append, List.findSome?_eq_none_iff.2 fun j hj => deliveryTest_eq_none.2 (hbefore j hj),
    List.findSome?_cons, deliveryTest_eq_some.2 ⟨ho, htest⟩]
  rfl

/-- The begin of a delivery, spelled out on the records it changes. -/
theorem beginDelivery_eq {k b : Nat} (h : o.staged = some (k, b)) : beginDelivery o s = State.updLink
    { s with fetch := { s.fetch with
        orders := s.fetch.orders.map fun q =>
          if q.id = o.id then { q with staged := none, delivery := some ⟨k, b, 0⟩, stall := none } else q
        stagedOrder := s.fetch.stagedOrder.filter fun j => j ≠ o.id } }
    o.id.station fun l => { l with credit := l.credit - 1, sendList := l.sendList ++ [o.id] } := by
  unfold beginDelivery
  rw [h]
  rfl

theorem stalling_iff : stalling s o = true ↔ o.staged ≠ none ∧ (s.link o.id.station).credit = 0 := by
  unfold stalling
  simp [Option.isSome_iff_ne_none]

/-- The test of `stallCandidate`: the stall timer does not stand as R138 says. -/
theorem stallTest_iff : (stalling s o != o.stall.isSome) = true
    ↔ ¬ (o.stall ≠ none ↔ o.staged ≠ none ∧ (s.link o.id.station).credit = 0) := by
  rw [bne_iff_ne, ne_eq, Bool.eq_iff_iff, stalling_iff, Option.isSome_iff_ne_none]
  exact not_congr Iff.comm

theorem stallCandidate_none : stallCandidate s = none
    ↔ ∀ o ∈ s.fetch.orders, (o.stall ≠ none ↔ o.staged ≠ none ∧ (s.link o.id.station).credit = 0) := by
  unfold stallCandidate
  rw [List.find?_eq_none]
  refine forall₂_congr fun o _ => ?_
  rw [stallTest_iff, not_not]

theorem stallCandidate_first {before after : List FetchOrder} (h : s.fetch.orders = before ++ o :: after)
    (hbefore : ∀ q ∈ before, (q.stall ≠ none ↔ q.staged ≠ none ∧ (s.link q.id.station).credit = 0))
    (ho : ¬ (o.stall ≠ none ↔ o.staged ≠ none ∧ (s.link o.id.station).credit = 0)) : stallCandidate s = some o := by
  have hnone : before.find? (fun q => stalling s q != q.stall.isSome) = none :=
    List.find?_eq_none.2 fun q hq => by rw [stallTest_iff, not_not]; exact hbefore q hq
  unfold stallCandidate
  rw [h, List.find?_append, hnone, List.find?_cons, stallTest_iff.2 ho]
  rfl

/-! ### At rest -/

theorem candidates_of_rests (h : s.rests) : deliveryCandidate s = none ∧ stallCandidate s = none := by
  unfold State.rests nextAct at h
  cases hd : deliveryCandidate s with
  | some o => rw [hd] at h; cases h
  | none =>
    cases hs : stallCandidate s with
    | some o => rw [hd, hs] at h; cases h
    | none => exact ⟨rfl, rfl⟩

/-! ### The filing run between units (R106, R115) -/

theorem filingBusy_false {d : DriveId} (h : s.run.engaged = some d)
    (hunit : ∀ u, (s.drive d).unit = some u → u.work.isFiling = true → u.ended = true) : filingBusy s = false := by
  unfold filingBusy
  rw [h]
  dsimp only
  cases hu : (s.drive d).unit with
  | none => rfl
  | some u =>
    have := hunit u hu
    revert this
    dsimp only
    cases u.work.isFiling <;> cases u.ended <;> simp

theorem headPage_none (h : ∀ p, s.run.ring.head? = some p → p.complete = false) : s.run.headPage = none := by
  unfold Run.headPage
  cases hp : s.run.ring.head? with
  | none => rfl
  | some p => simp [h p hp]

theorem headPage_some {p : RingSlot} (h : s.run.ring.head? = some p) (hc : p.complete = true) :
    s.run.headPage = some p := by
  unfold Run.headPage
  rw [h]
  simp [hc]

/-- With a run engaged and nothing under way, `filingAct` is the choice by the run's state and its head page. -/
theorem filingAct_waiting {d : DriveId} (he : s.run.engaged = some d) (hf : s.run.failure = none)
    (hc : s.run.chosen = none) (hp : s.run.probing = none)
    (hunit : ∀ u, (s.drive d).unit = some u → u.work.isFiling = true → u.ended = true) :
    (s.run.state = .running → s.run.headPage = none → filingAct s = some (enterWaiting s))
      ∧ (s.run.state = .waitingPage → s.run.headPage = none → filingAct s = none)
      ∧ (s.run.state = .waitingPage → s.run.headPage ≠ none →
        filingAct s = some (s.updRun fun r => { r with state := .running, stall := none })) := by
  have hbusy := filingBusy_false he hunit
  unfold filingAct
  simp only [hc]
  refine ⟨fun hs hh => ?_, fun hs hh => ?_, fun hs hh => ?_⟩
  · simp [Run.writing, he, hf, hs, hp, hbusy, hh]
  · have hsep : s.run.headSeparator = none := by simp [Run.headSeparator, hh]
    have hdue : s.run.trailerDue = false := by simp [Run.trailerDue, hs, hsep]
    cases hcur : s.run.current <;> simp [Run.writing, he, hf, hs, hp, hbusy, hh, hsep, hdue]
  · obtain ⟨p, hh⟩ := Option.ne_none_iff_exists'.1 hh
    simp [Run.writing, he, hf, hs, hp, hbusy, hh]

/-- Settles O55. -/
theorem deliveryAndStallTimers : Obligations.DeliveryAndStallTimers := by
  refine ⟨fun s => ?_, fun s d he hf hc hp hunit => ?_⟩
  · intro _ _
    refine ⟨fun before id after o k b hl hbefore hid ho hst => ?_,
      fun before o after hdel hl hbefore ho => ⟨if stalling s o then some s.seconds else none, ?_, fun h => ?_, fun h => ?_⟩, fun h => ?_⟩
    · have hcand := deliveryCandidate_first hl hbefore hid ho
      have hid' := order?_id ho
      subst hid'
      unfold nextAct
      rw [hcand]
      exact congrArg some (beginDelivery_eq hst)
    · unfold nextAct
      rw [deliveryCandidate_none.2 hdel, stallCandidate_first hl hbefore ho]
      rfl
    · exact if_pos (stalling_iff.2 h)
    · exact if_neg (mt stalling_iff.1 h)
    · obtain ⟨hd, hs⟩ := candidates_of_rests h
      exact ⟨deliveryCandidate_none.1 hd, stallCandidate_none.1 hs⟩
  · obtain ⟨hrun, hwait, hback⟩ := filingAct_waiting he hf hc hp hunit
    refine ⟨fun hs hh => hrun hs (headPage_none hh), fun hs hh => hwait hs (headPage_none hh), fun p hs hh hcp => ?_⟩
    exact hback hs (by rw [headPage_some hh hcp]; simp)

end Sys2Proof.Laws.Deliveries

/-!
PROOF. The Library Map's own acts for inspections and exports (R28, R30 to R34, R37, R38, R41); the obligation O56.
-/

namespace Sys2Proof.Laws.LibraryActing

open Sys2Proof Sys2Proof.Machine Sys2Proof.Laws.Asking Sys2Proof.Laws.Arbiter

variable {s : State} {i : Inspection} {d : DriveId}

/-! ### Which inspection, else the exports -/

theorem libraryAct_first {before after : List Inspection} {t : State} (h : s.library.inspections = before ++ i :: after)
    (hbefore : ∀ j ∈ before, inspectionAct s j = none) (hi : inspectionAct s i = some t) : libraryAct s = some t := by
  unfold libraryAct
  rw [h, List.findSome?_append, List.findSome?_eq_none_iff.2 hbefore, List.findSome?_cons, hi]
  rfl

theorem libraryAct_exports (h : ∀ i ∈ s.library.inspections, inspectionAct s i = none) : libraryAct s = exportAct s := by
  unfold libraryAct
  rw [List.findSome?_eq_none_iff.2 h]
  rfl

/-! ### The order of an inspection -/

theorem listRoom_pos : 0 < s.listRoom ↔ s.arm.orders.length < 16 := by
  unfold State.listRoom Config.orderListMax
  omega

theorem driveUp_iff {x : Drive} : driveUp x = true ↔ x.state = .ready ∨ x.state = .standby ∨ x.state = .active := by
  unfold driveUp
  simp [or_assoc]

/-- The place of an inspection as the source of a move. -/
def sourceOf : InspPlace → ArmPlace
  | .drive d => .drive d
  | .arm => .arm
  | .loadingSlot => .loadingSlot

/-- The order that an inspection in `phase` asks for, its cartridge and its destination given. -/
def inspectionMove (kind : MoveKind) (cart : CartRef) (source dest : ArmPlace) (originator : Originator) : MoveOrder :=
  ⟨0, kind, cart, source, dest, none, .lib, none, originator, .waiting⟩

theorem inspectionOrder_flipping (h : i.phase = .flipping) : inspectionOrder s i
    = some (inspectionMove .flip (.inspection i.id) (sourceOf i.place) (sourceOf i.place) .importJob) := by
  unfold inspectionOrder
  rw [h]
  cases i.place <;> rfl

theorem inspectionOrder_rejecting (h : i.phase = .rejecting) : inspectionOrder s i
    = some (inspectionMove .returnMove (.inspection i.id) (sourceOf i.place) .loadingSlot .importJob) := by
  unfold inspectionOrder
  rw [h]
  cases i.place <;> rfl

theorem inspectionOrder_returning (h : i.phase = .returning) : inspectionOrder s i
    = some (inspectionMove .returnMove (.inspection i.id) (sourceOf i.place) .loadingSlot .startUp) := by
  unfold inspectionOrder
  rw [h]
  cases i.place <;> rfl

theorem inspectionOrder_shelving {n : Nat} (h : i.phase = .shelving) (hn : i.cartNumber = some n) : inspectionOrder s i
    = (s.homeOf (.number n)).map fun k => inspectionMove .inspectShelve (.number n) (sourceOf i.place) (.shelf k) .importJob := by
  unfold inspectionOrder
  rw [h, hn]
  cases i.place <;> rfl

theorem inspectionOrder_none (hf : i.phase ≠ .flipping) (hs : i.phase ≠ .shelving) (hr : i.phase ≠ .rejecting)
    (ht : i.phase ≠ .returning) : inspectionOrder s i = none := by
  unfold inspectionOrder
  dsimp only
  split
  next h => exact absurd h hf
  next h => exact absurd h hs
  next h => exact absurd h hr
  next h => exact absurd h ht
  next => rfl

/-! ### Asking for it -/

/-- What an inspection's act is where it may ask for order `o`: it waits with 16 orders in the list, drops the request in
HALTED, and otherwise has the order (R41, R56, R92). -/
def Asks (s : State) (i : Inspection) (o : MoveOrder) : Prop :=
  (¬ s.arm.orders.length < 16 → inspectionAct s i = none)
    ∧ (s.arm.orders.length < 16 → s.arm.level = .halted →
      inspectionAct s i = some (s.updInsp i.id fun e => { e with orderDue := false }))
    ∧ (s.arm.orders.length < 16 → s.arm.level ≠ .halted → ∃ k counter, s.unused k ∧ inspectionAct s i = some { s with
        arm := { s.arm with orders := s.arm.orders ++ [{ o with number := k, status := .waiting }], counter := counter }
        library := { s.library with inspections := s.library.inspections.map fun e =>
          if e.id = i.id then { e with order := some k, orderDue := false, awaitReady := false } else e } })

theorem asks_of_act {o : MoveOrder} (hfit : orderFits s o = true)
    (hact : inspectionAct s i = if 0 < s.listRoom then some (askInspectionOrder i o s) else none) : Asks s i o := by
  refine ⟨fun hr => ?_, fun hr hl => ?_, fun hr hl => ⟨nextNumber s, succNumber (nextNumber s), nextNumber_unused hr.le, ?_⟩⟩
  · rw [hact, if_neg (mt listRoom_pos.1 hr)]
  · rw [hact, if_pos (listRoom_pos.2 hr), askInspectionOrder, askOrder_halted hl]
  · rw [hact, if_pos (listRoom_pos.2 hr), askInspectionOrder, askOrder_ok hl hfit hr]
    rfl

/-- Where an inspection stands, and is free to ask for its order: on the arm with the order due, or in a drive that is up
where the order waits for READY. -/
def MayAsk (s : State) (i : Inspection) : Prop :=
  i.orderDue = true
    ∧ (i.place = .arm ∨ ∃ d, i.place = .drive d ∧ i.phase ≠ .loading ∧ (i.awaitReady = true → driveUp (s.drive d) = true))

theorem awaited_drive (h : i.place = .drive d) :
    awaited s i = true ↔ (i.awaitReady = true → driveUp (s.drive d) = true) := by
  unfold awaited
  rw [h]
  cases i.awaitReady <;> simp

theorem inspectionAct_ask (h : MayAsk s i) : inspectionAct s i
    = if 0 < s.listRoom then (inspectionOrder s i).map fun o => askInspectionOrder i o s else none := by
  obtain ⟨hdue, harm | ⟨d, hd, hph, hup⟩⟩ := h
  · unfold inspectionAct
    rw [harm]
    simp only [hdue, true_and]
  · unfold inspectionAct
    rw [hd]
    have haw := (awaited_drive hd).2 hup
    simp only [hph, false_and, if_false, hdue, haw, true_and, and_true, Bool.not_true, Bool.false_eq_true, and_false]

theorem asks_of_order {o : MoveOrder} (h : MayAsk s i) (ho : inspectionOrder s i = some o)
    (hfit : orderFits s o = true) : Asks s i o := by
  refine asks_of_act hfit ((inspectionAct_ask h).trans ?_)
  rw [ho]
  rfl

theorem asks_rejecting (h : MayAsk s i) (hp : i.phase = .rejecting) :
    Asks s i (inspectionMove .returnMove (.inspection i.id) (sourceOf i.place) .loadingSlot .importJob) := by
  refine asks_of_order h (inspectionOrder_rejecting hp) ?_
  obtain ⟨-, harm | ⟨d, hd, -⟩⟩ := h
  · rw [harm]; rfl
  · rw [hd]; rfl

theorem asks_returning (h : MayAsk s i) (hp : i.phase = .returning) :
    Asks s i (inspectionMove .returnMove (.inspection i.id) (sourceOf i.place) .loadingSlot .startUp) := by
  refine asks_of_order h (inspectionOrder_returning hp) ?_
  obtain ⟨-, harm | ⟨d, hd, -⟩⟩ := h
  · rw [harm]; rfl
  · rw [hd]; rfl

theorem asks_flipping (h : MayAsk s i) (hd : i.place = .drive d) (hp : i.phase = .flipping) :
    Asks s i (inspectionMove .flip (.inspection i.id) (sourceOf i.place) (sourceOf i.place) .importJob) := by
  refine asks_of_order h (inspectionOrder_flipping hp) ?_
  simp [orderFits, inspectionMove, hd, sourceOf, ArmPlace.isDrive]

theorem asks_shelving {n k : Nat} {c : Cartridge} (h : MayAsk s i) (hd : i.place = .drive d) (hp : i.phase = .shelving)
    (hn : i.cartNumber = some n) (hc : s.cart? n = some c) (hk : c.home = some k) :
    Asks s i (inspectionMove .inspectShelve (.number n) (sourceOf i.place) (.shelf k) .importJob) := by
  have hhome : s.homeOf (.number n) = some k := by simp [State.homeOf, hc, hk]
  have ho := inspectionOrder_shelving (s := s) hp hn
  rw [hhome] at ho
  refine asks_of_order h ho ?_
  simp [orderFits, inspectionMove, hhome, hd, sourceOf, ArmPlace.isDrive]

/-! ### An inspection in a drive -/

section
variable (hd : i.place = .drive d)
include hd

theorem inspectionAct_loading (hp : i.phase = .loading) (hup : driveUp (s.drive d) = true) :
    inspectionAct s i = some (s.updInsp i.id fun i => { i with phase := .reading }) := by
  unfold inspectionAct
  rw [hd]
  exact if_pos ⟨hp, hup⟩

theorem inspectionAct_flipped (hp : i.phase = .flipping) (hdue : i.orderDue = false) (ho : i.order = none)
    (hb : (s.drive d).sideUp = some .b) (hup : driveUp (s.drive d) = true) :
    inspectionAct s i = some (s.updInsp i.id fun i => { i with phase := .labelSecond }) := by
  unfold inspectionAct
  rw [hd]
  exact (if_neg fun h => by simp [hp] at h).trans (if_pos ⟨hp, by simp [hdue], by simp [ho], hb, hup⟩)

/-- Nothing is done where the label cannot be read nor the second label written yet, and no order can be asked for. -/
theorem inspectionAct_none (hread : i.phase = .loading → driveUp (s.drive d) = false)
    (hflip : i.phase = .flipping → i.orderDue = false → i.order ≠ none ∨ (s.drive d).sideUp ≠ some .b
      ∨ driveUp (s.drive d) = false)
    (hask : i.orderDue = true → awaited s i = true → inspectionOrder s i = none) : inspectionAct s i = none := by
  unfold inspectionAct
  rw [hd]
  refine (if_neg fun h => ?_).trans ((if_neg fun h => ?_).trans ?_)
  · rw [hread h.1] at h
    exact Bool.false_ne_true h.2
  · obtain ⟨hp, hdue, ho, hb, hup⟩ := h
    rcases hflip hp (by simpa using hdue) with hne | hne | hne
    · exact hne (by simpa using ho)
    · exact hne hb
    · rw [hne] at hup
      exact Bool.false_ne_true hup
  · split
    next h => rw [hask h.1 h.2.2]; rfl
    next => rfl

theorem inspectionAct_waits (hp : i.phase ≠ .loading) (hdue : i.orderDue = true) (haw : i.awaitReady = true)
    (hup : ¬ driveUp (s.drive d) = true) : inspectionAct s i = none :=
  inspectionAct_none hd (fun h => absurd h hp) (fun _ h => absurd (hdue.symm.trans h) (by decide))
    fun _ h => absurd ((awaited_drive hd).1 h haw) hup

end

theorem inspectionAct_arm (ha : i.place = .arm) (hdue : i.orderDue = false) : inspectionAct s i = none := by
  unfold inspectionAct
  rw [ha]
  simp [hdue]

/-! ### The exports -/

/-- The order that EXPORT `e` may have now is to bring its cartridge from `p`. -/
def ExportAble (s : State) (e : ExportEntry) (p : ArmPlace) : Prop :=
  e.order = none ∧ (∀ o ∈ s.arm.orders, o.cart ≠ .number e.cart) ∧ ∃ c, s.cart? e.cart = some c
    ∧ ((c.location = .shelf ∧ ∃ h, c.home = some h ∧ p = .shelf h) ∨ ∃ d, c.location = .drive d ∧ p = .drive d)

/-- The EXPORT move from `p`. -/
def exportMove (n : Nat) (p : ArmPlace) : MoveOrder :=
  ⟨0, .exportMove, .number n, p, .loadingSlot, none, .lib, none, .exportJob, .waiting⟩

theorem exportOrder_eq {e : ExportEntry} {m : MoveOrder} :
    exportOrder s e = some m ↔ ∃ p, ExportAble s e p ∧ m = exportMove e.cart p := by
  unfold exportOrder ExportAble exportMove
  have hordered : s.orderedFor e.cart = true ↔ ¬ ∀ o ∈ s.arm.orders, o.cart ≠ .number e.cart := by
    unfold State.orderedFor
    simp
  by_cases hfree : e.order = none ∧ ∀ o ∈ s.arm.orders, o.cart ≠ .number e.cart
  · rw [if_neg (by rw [hordered, hfree.1]; simpa using hfree.2)]
    have hfree' := iff_true_intro hfree.2
    simp only [hfree.1, hfree', true_and]
    cases hc : s.cart? e.cart with
    | none => simp
    | some c => cases hl : c.location <;> cases hh : c.home <;> simp [hl, hh, eq_comm]
  · have htaken : e.order.isSome = true ∨ s.orderedFor e.cart = true := by
      rw [hordered, Option.isSome_iff_ne_none]
      tauto
    rw [if_pos htaken]
    refine iff_of_false (fun h => by cases h) ?_
    rintro ⟨p, ⟨ho, hn, -⟩, -⟩
    exact hfree ⟨ho, hn⟩

theorem exportOrder_none {e : ExportEntry} (h : ∀ p, ¬ ExportAble s e p) : exportOrder s e = none := by
  by_contra hne
  obtain ⟨m, hm⟩ := Option.ne_none_iff_exists'.1 hne
  obtain ⟨p, hp, -⟩ := exportOrder_eq.1 hm
  exact h p hp

theorem exportMove_fits {e : ExportEntry} {p : ArmPlace} (h : ExportAble s e p) :
    orderFits s (exportMove e.cart p) = true := by
  obtain ⟨-, -, c, hc, ⟨-, k, hk, rfl⟩ | ⟨d, hd, rfl⟩⟩ := h
  · have hhome : s.homeOf (.number e.cart) = some k := by simp [State.homeOf, hc, hk]
    simp [orderFits, exportMove, hhome]
  · have hat : cartAt s (.number e.cart) d = true := cartAt_iff.2 (.inl ⟨_, c, rfl, hc, hd⟩)
    simp [orderFits, exportMove, ArmPlace.holds, hat]

theorem exportAct_idle (h : ¬ s.arm.orders.length < 16 ∨ s.arm.level = .halted) : exportAct s = none := by
  unfold exportAct
  refine if_pos (h.imp_left fun h => ?_)
  have := mt listRoom_pos.1 h
  omega

section
variable (hroom : s.arm.orders.length < 16) (hlevel : s.arm.level ≠ .halted)
include hroom hlevel

theorem exportAct_eq : exportAct s = s.library.exports.findSome? fun e => (exportOrder s e).bind fun o =>
    if orderFits s o then some ((asked o s).updLibrary fun l =>
      { l with exports := l.exports.map fun x =>
        if x.cart = e.cart then { x with order := some (nextNumber s) } else x })
    else none := by
  unfold exportAct
  rw [if_neg (by have := listRoom_pos.2 hroom; simp [hlevel]; omega)]
  congr 1
  funext e
  congr 1
  funext o
  cases hf : orderFits s o with
  | true => rw [askOrder_ok hlevel hf hroom]; rfl
  | false => rw [askOrder_bad hlevel hf]; rfl

theorem exportAct_none (h : ∀ e ∈ s.library.exports, ∀ p, ¬ ExportAble s e p) : exportAct s = none := by
  rw [exportAct_eq hroom hlevel, List.findSome?_eq_none_iff]
  intro e he
  rw [exportOrder_none (h e he)]
  rfl

theorem exportAct_first {before after : List ExportEntry} {e : ExportEntry} {p : ArmPlace}
    (h : s.library.exports = before ++ e :: after) (hbefore : ∀ x ∈ before, ∀ q, ¬ ExportAble s x q)
    (he : ExportAble s e p) : exportAct s = some ((asked (exportMove e.cart p) s).updLibrary fun l =>
      { l with exports := l.exports.map fun x =>
        if x.cart = e.cart then { x with order := some (nextNumber s) } else x }) := by
  rw [exportAct_eq hroom hlevel]
  rw (occs := .pos [1]) [h]
  rw [List.findSome?_append, List.findSome?_eq_none_iff.2 fun x hx => by rw [exportOrder_none (hbefore x hx)]; rfl,
    List.findSome?_cons, exportOrder_eq.2 ⟨p, he, rfl⟩, Option.bind_some, if_pos (exportMove_fits he)]
  rfl

end

/-- Settles O56. -/
theorem libraryMapActs : Obligations.LibraryMapActs := by
  intro s room listed
  refine ⟨fun before i after t => libraryAct_first, libraryAct_exports, fun i => ?_, exportAct_idle,
    fun hr hl => ⟨exportAct_none hr hl, fun before e after p h hb he => ?_⟩⟩
  · intro act with_ source asks returns
    have hsource : source = sourceOf i.place := by
      simp only [source]
      cases i.place <;> rfl
    clear_value source
    subst hsource
    refine ⟨fun hp => ?_, fun hp => ⟨inspectionAct_arm hp, fun hdue => ?_⟩, fun d hd => ?_⟩
    · simp only [act, inspectionAct, hp]
    · exact ⟨asks_rejecting ⟨hdue, .inl hp⟩, asks_returning ⟨hdue, .inl hp⟩⟩
    · intro x up
      have hup : up ↔ driveUp x = true := driveUp_iff.symm
      have hdown (h : ¬ up) : driveUp x = false := by simpa [hup] using h
      refine ⟨fun hp => ⟨fun h => inspectionAct_loading hd hp (hup.1 h), fun h => ?_⟩,
        fun hp hdue => ⟨fun ho hb h => inspectionAct_flipped hd hp hdue ho hb (hup.1 h), fun h => ?_⟩,
        fun hp => ?_, fun hp hdue => ?_, fun hp hdue haw h => inspectionAct_waits hd hp hdue haw (mt hup.2 h),
        fun hdue hready => ?_⟩
      · refine inspectionAct_none hd (fun _ => hdown h) (fun hf => ?_) fun _ _ => inspectionOrder_none ?_ ?_ ?_ ?_
        all_goals simp_all
      · refine inspectionAct_none hd (fun hl => ?_) (fun _ _ => h.imp_right (.imp_right hdown)) fun hd' => ?_
        · rw [hp] at hl; cases hl
        · rw [hdue] at hd'; cases hd'
      · have hne : i.phase ≠ .loading ∧ i.phase ≠ .flipping ∧ i.phase ≠ .shelving ∧ i.phase ≠ .rejecting
            ∧ i.phase ≠ .returning := by
          obtain h | h | h | h | h | h := hp <;> simp [h]
        obtain ⟨hl, hf, hs, hr, ht⟩ := hne
        exact inspectionAct_none hd (fun h => absurd h hl) (fun h => absurd h hf) fun _ _ =>
          inspectionOrder_none hf hs hr ht
      · have hne : i.phase ≠ .loading ∧ i.phase ≠ .flipping := by
          obtain h | h | h := hp <;> simp [h]
        refine inspectionAct_none hd (fun h => absurd h hne.1) (fun h => absurd h hne.2) fun hd' => ?_
        rw [hdue] at hd'; cases hd'
      · have may (hp : i.phase ≠ .loading) : MayAsk s i := ⟨hdue, .inr ⟨d, hd, hp, fun h => hup.1 (hready h)⟩⟩
        refine ⟨⟨fun hp => asks_rejecting (may (by simp [hp])) hp, fun hp => asks_returning (may (by simp [hp])) hp⟩,
          fun hp => ?_, fun n c hp hn hc => ⟨fun hh => ?_, fun h hh => ?_⟩⟩
        · exact asks_flipping (may (by simp [hp])) hd hp
        · have hhome : s.homeOf (.number n) = none := by simp [State.homeOf, hc, hh]
          refine inspectionAct_none hd (fun hl => ?_) (fun hf => ?_) fun _ _ => ?_
          · rw [hp] at hl; cases hl
          · rw [hp] at hf; cases hf
          · rw [inspectionOrder_shelving hp hn, hhome]
            rfl
        · exact asks_shelving (may (by simp [hp])) hd hp hn hc hh
  · exact ⟨nextNumber s, succNumber (nextNumber s), nextNumber_unused hr.le, exportAct_first hr hl h hb he⟩

end Sys2Proof.Laws.LibraryActing

/-!
PROOF. What a Drive Unit does between commands (R68, R69, R71): the work that is offered, the units it starts, idle and the
wake; the obligation O54.
-/

namespace Sys2Proof.Laws.Selecting

open Sys2Proof Sys2Proof.Machine Sys2Proof.Laws.RunFrames Sys2Proof.Laws.RunEnds
open Sys2Proof.Laws.DriveResetting Sys2Proof.Laws.Expiries Sys2Proof.Laws.Arbiter Sys2Proof.Laws.Deliveries Sys2Proof.Laws.LibraryActing

variable {s : State} {d : DriveId}

/-! ### The work that is offered -/

theorem freeBuffer_isSome : s.freeBuffer.isSome = true ↔ none ∈ s.fetch.buffers.toList := by
  unfold State.freeBuffer
  rw [List.findIdx?_isSome, List.any_eq_true]
  simp

/-- The order can take a unit now (R130). -/
def able (s : State) (id : FetchId) : Prop := ∃ o, s.order? id = some o
  ∧ (o.lengths = none ∨ (o.staged = none ∧ o.next ≤ o.lastPage ∧ none ∈ s.fetch.buffers.toList))

theorem canTakeUnit_iff {id : FetchId} : canTakeUnit s id = true ↔ able s id := by
  unfold canTakeUnit able
  cases ho : s.order? id with
  | none => simp
  | some o =>
    simp only [Option.some.injEq, exists_eq_left', ← freeBuffer_isSome]
    cases o.lengths <;> cases o.staged <;> simp

theorem fetchCandidate_first {before after : List FetchId} {id : FetchId} (h : (s.drive d).queue = before ++ id :: after)
    (hbefore : ∀ j ∈ before, ¬ able s j) (hid : able s id) : fetchCandidate s d = some id := by
  have hnone : before.find? (canTakeUnit s) = none :=
    List.find?_eq_none.2 fun j hj => mt canTakeUnit_iff.1 (hbefore j hj)
  unfold fetchCandidate
  rw [h, List.find?_append, hnone, List.find?_cons, canTakeUnit_iff.2 hid]
  rfl

theorem fetchCandidate_none : fetchCandidate s d = none ↔ ∀ id ∈ (s.drive d).queue, ¬ able s id := by
  unfold fetchCandidate
  rw [List.find?_eq_none]
  exact forall₂_congr fun _ _ => not_congr canTakeUnit_iff

/-- The inspection that holds drive `d` asks for a unit there (R29, R30). -/
def libraryWork (s : State) (d : DriveId) (i : Inspection) : Prop :=
  s.heldBy d = some i ∧ (i.phase = .reading ∨ i.phase = .labelFirst ∨ i.phase = .labelSecond)

theorem libraryStep_some {i : Inspection} : libraryStep s d = some i ↔ libraryWork s d i := by
  unfold libraryStep libraryWork
  rw [Option.filter_eq_some_iff]
  simp [or_assoc]

theorem libraryStep_none : libraryStep s d = none ↔ ∀ i, ¬ libraryWork s d i := by
  rw [Option.eq_none_iff_forall_ne_some]
  exact forall_congr' fun i => not_congr libraryStep_some

/-- The Filing Writer offers its step to the engaged drive, or to the one whose label is due (R106). -/
theorem filingStep_drive (h : filingStep s d ≠ none) :
    s.run.engaged = some d ∨ ∃ j, s.run.label = some j ∧ j.drive = d := by
  unfold filingStep at h
  cases hl : s.run.label with
  | some j =>
    simp only [hl] at h
    refine .inr ⟨j, rfl, ?_⟩
    by_contra hne
    exact h (if_neg hne)
  | none =>
    simp only [hl] at h
    refine .inl ?_
    by_contra hne
    exact h (if_neg fun h => hne h.1)

theorem hasWork_iff : hasWork s d = true ↔ (s.drive d).queue ≠ [] ∨ (s.drive d).unit ≠ none ∨ filingStep s d ≠ none
    ∨ ∃ i, libraryWork s d i := by
  have hlib : (libraryStep s d).isSome = true ↔ ∃ i, libraryWork s d i := by
    rw [Option.isSome_iff_exists]
    exact exists_congr fun _ => libraryStep_some
  unfold hasWork
  simp only [Bool.or_eq_true, hlib, Bool.not_eq_true', List.isEmpty_eq_false_iff, Option.isSome_iff_ne_none, ne_eq,
    or_assoc]

/-! ### A unit starts (R64, R68) -/

/-- Drive `x` with the unit `w` begun and its first command in flight. -/
def begun (now : Nat) (w : UnitWork) (cmd : DriveCmd) (owner : Owner) (x : Drive) : Drive :=
  { x with
    state := .active, idle := none, lastActive := now, unit := some ⟨w, false⟩, command := some ⟨cmd, owner, now⟩ }

theorem issue_startUnit {cmd : DriveCmd} (h : cmd.issuedIn .active = true) (w : UnitWork) (owner : Owner) :
    issue d cmd owner (startUnit d w s) = s.updDrive d (begun s.seconds w cmd owner) := by
  unfold issue startUnit
  rw [if_pos (by rw [State.drive_updDrive_self]; exact h), updDrive_updDrive]
  rfl

theorem startLibraryUnit_eq (i : Inspection) : startLibraryUnit d i s = s.updDrive d
    (if i.phase = .reading then begun s.seconds (.labelRead i.id 0) (.read 0 1) .libraryMap
      else begun s.seconds (.labelWrite i.id (labelToWrite i)) (.write 0 (labelToWrite i)) .libraryMap) := by
  unfold startLibraryUnit
  split <;> exact issue_startUnit rfl _ _

/-! ### A fetch unit (R131, R133) -/

section
variable {id : FetchId} {o : FetchOrder} (ho : s.order? id = some o)
include ho

theorem startFetchUnit_trailer (hl : o.lengths = none) {e k : Nat} (hm : mapSector o.extents o.trailer = some (e, k)) :
    startFetchUnit d id s = s.updDrive d fun x =>
      { begun s.seconds (.trailerRead id k 0) (.read k 1) .fetchEngine x with queue := x.queue.filter fun j => j ≠ id } := by
  have hid := order?_id ho
  unfold startFetchUnit startTrailerRead
  simp only [ho, hl, hm, hid, Option.isNone_none, if_true, Option.map_some, Option.getD_some]
  rw [issue_startUnit rfl, updDrive_updDrive]
  rfl

/-- The order and its buffer as its page unit begins: the buffer in use, empty, and named by the order. -/
def pageBegun (o : FetchOrder) (b : Nat) (s : State) : State :=
  (s.setBuffer b (some [])).updOrder o.id fun o => { o with reading := some b }

theorem startFetchUnit_page (hl : o.lengths ≠ none) {b i n : Nat} (hb : s.freeBuffer = some b)
    (hr : nextPageRead (pageSectorList o o.next) = some (i, n)) :
    startFetchUnit d id s = (pageBegun o b s).updDrive d fun x =>
      { begun s.seconds (.pageRead id b (pageSectorList o o.next) i n)
          (.read ((((pageSectorList o o.next)[i]?).map (·.phys)).getD 0) n) .fetchEngine x with
        queue := x.queue.filter fun j => j ≠ id } := by
  have hid := order?_id ho
  subst hid
  have hfree : ∀ f, (s.updDrive d f).freeBuffer = some b := fun _ => hb
  unfold startFetchUnit startPageRead
  simp only [ho, Option.isNone_iff_eq_none, hl, if_false, hfree, hr]
  rw [issue_startUnit rfl]
  exact updDrive_updDrive (pageBegun o b s) d (fun x => { x with queue := x.queue.filter fun j => j ≠ o.id }) _

end

theorem nextPageRead_fresh {p : PageSector} {ps : List PageSector} (h : p.tries = 0) :
    nextPageRead (p :: ps) = some (0, runLength p.extent (p :: ps)) := by
  unfold nextPageRead
  simp [List.findIdx?_cons, h]

theorem pageSectorList_tries {o : FetchOrder} {k : Nat} {p : PageSector} (h : p ∈ pageSectorList o k) : p.tries = 0 := by
  unfold pageSectorList at h
  obtain ⟨i, -, hp⟩ := List.mem_filterMap.1 h
  obtain ⟨q, -, rfl⟩ := Option.map_eq_some_iff.1 hp
  rfl

theorem runLength_take (e : Nat) (ps : List PageSector) : ∀ q ∈ ps.take (runLength e ps), q.extent = e := by
  induction ps with
  | nil => simp
  | cons p ps ih =>
    unfold runLength
    split
    next hp => simpa [hp] using ih
    next => simp

theorem runLength_next (e : Nat) (ps : List PageSector) {q : PageSector} (h : ps[runLength e ps]? = some q) :
    q.extent ≠ e := by
  induction ps with
  | nil => simp at h
  | cons p ps ih =>
    unfold runLength at h
    split at h
    next => exact ih (by simpa using h)
    next hp =>
      obtain rfl : p = q := by simpa using h
      exact hp

theorem pageBegun_order? {id : FetchId} {o : FetchOrder} (ho : s.order? id = some o) (b : Nat) :
    (pageBegun o b s).order? id = some { o with reading := some b } := by
  have hid := order?_id ho
  subst hid
  unfold State.order? at ho ⊢
  have hfun : ((fun q : FetchOrder => decide (q.id = o.id)) ∘ fun q => if q.id = o.id then { q with reading := some b } else q)
      = fun q => decide (q.id = o.id) := by
    funext q
    dsimp only [Function.comp]
    split <;> rfl
  change (s.fetch.orders.map fun q => if q.id = o.id then { q with reading := some b } else q).find? _ = _
  rw [List.find?_map, hfun, ho]
  simp

theorem pageBegun_bufferBytes (o : FetchOrder) (b : Nat) : (pageBegun o b s).bufferBytes b = [] := by
  change ((s.fetch.buffers.setIfInBounds b (some [])).toList.getD b none).getD [] = []
  rw [Vector.toList_setIfInBounds, List.getD_eq_getElem?_getD, List.getElem?_set]
  simp only [if_true]
  split <;> rfl

/-! ### A filing unit (R101, R102, R107) -/

theorem frontier_of_openSide {n : Nat} {y : Side} {r : SideRec} (h : s.openSide = some (n, y)) (hr : s.side? n y = some r) :
    s.frontier = r.frontier := by
  unfold State.frontier
  rw [h]
  simp [hr]

theorem writeCheck_passes {n : Nat} {y : Side} {r : SideRec} (ha : (s.drive d).state = .active) (hr : s.side? n y = some r)
    (ho : r.state = .opened) (hlow : 32 ≤ r.frontier) (hhigh : r.frontier < 300000) :
    writeCheck s d n y r.frontier = none := by
  unfold writeCheck
  rw [if_neg (by simp [ha]), if_neg (by omega), if_neg (by simp only [Config.firstData, Config.sectorsPerSide]; omega), hr]
  dsimp only
  rw [if_neg (lt_irrefl _), if_neg (by simp [ho])]

theorem startFilingUnit_write {kind : PassKind} {n : Nat} {y : Side} {r : SideRec} {i : Instrument} {b : List Byte}
    {left : List (List Byte)} (hopen : s.openSide = some (n, y)) (hr : s.side? n y = some r) (ho : r.state = .opened)
    (hlow : 32 ≤ r.frontier) (hhigh : r.frontier < 300000) (hi : s.run.current = some i)
    (hp : passSectors s i kind = b :: left) : startFilingUnit d (.write kind) s
      = (s.updRun fun u => { u with current := some { i with start := r.frontier } }).updDrive d
        (begun s.seconds (.writePass kind n y left) (.write r.frontier b) .filingWriter) := by
  have hinst : updInstrument (fun i => { i with start := s.frontier }) s
      = s.updRun fun u => { u with current := some { i with start := r.frontier } } := by
    unfold updInstrument State.updRun
    dsimp only
    rw [hi, frontier_of_openSide hopen hr]
    rfl
  have hactive (u : State) : ((startUnit d (.writePass kind n y []) u).drive d).state = .active := by
    rw [startUnit, State.drive_updDrive_self]
  unfold startFilingUnit
  simp only [hopen, hi, hp, hinst]
  generalize hu : (s.updRun fun u => { u with current := some { i with start := r.frontier } }) = u
  have hru : u.side? n y = some r := by rw [← hu]; exact hr
  have hsec : u.seconds = s.seconds := by rw [← hu]; rfl
  have hru' : (startUnit d (.writePass kind n y []) u).side? n y = some r := hru
  unfold issueWrite
  simp only [hru', Option.map_some, Option.getD_some, writeCheck_passes (hactive u) hru' ho hlow hhigh]
  unfold issue continueUnit
  rw [if_pos (by rw [State.drive_updDrive_self]; exact congrArg _ (hactive u)), updDrive_updDrive, startUnit,
    updDrive_updDrive, ← hsec]
  rfl

theorem startFilingUnit_verify {kind : PassKind} {i : Instrument} (hi : s.run.current = some i) :
    startFilingUnit d (.verify kind) s = s.updDrive d (begun s.seconds (.verifyPass kind)
      (.verify i.start (passSectors s i kind).length (passSectors s i kind).flatten) .filingWriter) := by
  unfold startFilingUnit
  simp only [hi]
  exact issue_startUnit rfl _ _

theorem startFilingUnit_probe {n : Nat} {y : Side} (h : s.openSide = some (n, y)) :
    startFilingUnit d .probe s = s.updDrive d (begun s.seconds (.probe n y) (.blankCheck s.frontier) .filingWriter) := by
  unfold startFilingUnit
  simp only [h]
  exact issue_startUnit rfl _ _

section
variable {n : Nat} {y : Side} {j : LabelJob} (hc : s.run.chosen = some (n, y)) (hj : s.run.label = some j)
include hc hj

theorem startFilingUnit_labelWrite : startFilingUnit d .labelWrite s
    = (s.updRun fun u => { u with label := some { j with issued := true } }).updDrive d
      (begun s.seconds (.volumeLabelWrite n y j.volume) (.write 1 (volumeLabel j.volume n y)) .filingWriter) := by
  unfold startFilingUnit
  simp only [hc, hj]
  exact issue_startUnit rfl _ _

theorem startFilingUnit_labelVerify : startFilingUnit d .labelVerify s = s.updDrive d
    (begun s.seconds (.volumeLabelVerify n y j.volume) (.verify 1 1 (volumeLabel j.volume n y)) .filingWriter) := by
  unfold startFilingUnit
  simp only [hc, hj]
  exact issue_startUnit rfl _ _

end

/-! ### What is selected (R68, R69) -/

theorem driveAct_ready (h : (s.drive d).state = .ready) (hu : (s.drive d).unit = none) (hc : (s.drive d).command = none) :
    (∀ t, selectUnit d s = some t → driveAct s d = some t)
      ∧ (selectUnit d s = none → driveAct s d =
        if hasWork s d then
          if (s.drive d).idle.isSome then some (s.updDrive d fun x => { x with idle := none }) else none
        else if s.timers.idleDelay = 0 then some (goStandby d s)
        else if (s.drive d).idle.isNone then some (s.updDrive d fun x => { x with idle := some s.seconds })
        else none) := by
  unfold driveAct
  simp only [h, hu, hc, Option.isSome_none, Bool.or_false, Bool.false_eq_true, if_false]
  refine ⟨fun t ht => ?_, fun hn => ?_⟩
  · simp only [ht]
  · simp only [hn]

theorem selectUnit_library {i : Inspection} (h : libraryWork s d i) : selectUnit d s = some (startLibraryUnit d i s) := by
  unfold selectUnit
  rw [libraryStep_some.2 h]

section
variable (hlib : ∀ i, ¬ libraryWork s d i)
include hlib

theorem selectUnit_fetch {id : FetchId} (hf : fetchCandidate s d = some id)
    (hturn : filingStep s d = none ∨ ((s.drive d).pin = true ∧ (s.drive d).share = .fetch)) :
    selectUnit d s = some (startFetchUnit d id s) := by
  unfold selectUnit
  rw [libraryStep_none.2 hlib, hf]
  cases hs : filingStep s d with
  | none => rfl
  | some step => exact if_pos (hturn.resolve_left (by simp [hs]))

theorem selectUnit_filing {step : FilingStep} (hs : filingStep s d = some step)
    (hturn : fetchCandidate s d = none ∨ ¬ ((s.drive d).pin = true ∧ (s.drive d).share = .fetch)) :
    selectUnit d s = some (startFilingUnit d step s) := by
  unfold selectUnit
  rw [libraryStep_none.2 hlib, hs]
  cases hf : fetchCandidate s d with
  | none => rfl
  | some id => exact if_neg (hturn.resolve_left (by simp [hf]))

theorem selectUnit_none (hf : fetchCandidate s d = none) (hs : filingStep s d = none) : selectUnit d s = none := by
  unfold selectUnit
  rw [libraryStep_none.2 hlib, hf, hs]

end

/-! ### The wake (R71, R72) -/

/-- Work in STANDBY withdraws the pending hold order. -/
def holdFreed (d : DriveId) (s : State) : State := ((s.drive d).pendingHold.map fun n => tryWithdraw n s).getD s

theorem wake_eq (d : DriveId) (s : State) : wake d s = (holdFreed d s).updDrive d fun x => { x with
    state := .waking, hold := none, idle := none, holdKept := false
    command := if x.command = none then some ⟨.spinUp, .driveUnit, s.seconds⟩ else x.command } := by
  have hwake : wake d s = spinUp d ((holdFreed d s).updDrive d fun x =>
      { x with state := .waking, hold := none, idle := none, holdKept := false }) := by
    unfold wake holdFreed
    cases (s.drive d).pendingHold <;> rfl
  have hsec : (holdFreed d s).seconds = s.seconds := by
    unfold holdFreed
    cases (s.drive d).pendingHold with
    | none => rfl
    | some n =>
      change (tryWithdraw n s).seconds = s.seconds
      rw [(tryWithdraw_frame n s).rest]
  rw [hwake, ← hsec]
  generalize holdFreed d s = u
  unfold spinUp
  rw [State.drive_updDrive_self]
  dsimp only
  cases hc : (u.drive d).command with
  | some c =>
    refine (if_pos rfl).trans (updDrive_congr ?_)
    simp [hc]
  | none =>
    refine (if_neg (by simp)).trans ((if_pos ?_).trans ((updDrive_updDrive ..).trans (updDrive_congr ?_)))
    · rw [State.drive_updDrive_self]
      rfl
    · simp [hc]

/-- Settles O54. -/
theorem selection : Obligations.Selection := by
  intro s d x act busy able' library fetchTurn
  refine ⟨filingStep_drive, fun hr hs => ?_, fun hr hbusy => ?_, fun hr hu hc => ⟨fun i hi => ?_, fun hlib =>
    ⟨fun before id after o hq hb hid ho hturn => ?_, fun hturn => ?_, fun hfil hq => ?_⟩⟩, fun hs => ?_⟩
  · simp only [act, driveAct]
    split
    next h => exact absurd h hr
    next h => exact absurd h hs
    next => rfl
  · simp only [x] at hr hbusy
    simp only [act, driveAct, hr, Option.isSome_iff_ne_none, Bool.or_eq_true]
    exact if_pos hbusy
  · refine ((driveAct_ready hr hu hc).1 _ (selectUnit_library hi)).trans (congrArg some ?_)
    refine (startLibraryUnit_eq i).trans (updDrive_congr ?_)
    by_cases hp : i.phase = .reading
    · simp only [hp, if_true]
      rfl
    · simp only [hp, if_false]
      rfl
  · have hsel := (driveAct_ready hr hu hc).1 _ (selectUnit_fetch hlib (fetchCandidate_first hq hb hid) hturn)
    refine ⟨fun e k hl hm => ?_, fun p ps b hl hpl hfree => ?_⟩
    · refine hsel.trans (congrArg some ((startFetchUnit_trailer ho hl hm).trans (updDrive_congr rfl)))
    · have hp : p.tries = 0 := pageSectorList_tries (hpl ▸ List.mem_cons_self)
      have hstart := startFetchUnit_page (d := d) ho hl hfree ((congrArg _ hpl).trans (nextPageRead_fresh hp))
      rw [hpl] at hstart
      refine ⟨_, runLength p.extent (p :: ps), hsel.trans (congrArg some hstart), ?_, runLength_take _ _, fun q =>
        runLength_next _ _, State.drive_updDrive_self .., pageBegun_order? ho b, pageBegun_bufferBytes o b, fun e he =>
        State.drive_updDrive_ne _ _ he⟩
      unfold runLength
      simp
  · have hstep {step : FilingStep} (hf : filingStep s d = some step) :=
      (driveAct_ready hr hu hc).1 _ (selectUnit_filing hlib hf (hturn.imp_left fetchCandidate_none.2))
    refine ⟨fun n y hf ho => ?_, fun kind n y r i b left hf ho hr' hst hlow hhigh hi hp => ?_, fun kind i hf hi => ?_,
      fun n y j hf hch hj => ?_, fun n y j hf hch hj => ?_⟩
    · exact (hstep hf).trans (congrArg some ((startFilingUnit_probe ho).trans (updDrive_congr rfl)))
    · exact (hstep hf).trans (congrArg some
        ((startFilingUnit_write ho hr' hst hlow hhigh hi hp).trans (updDrive_congr rfl)))
    · exact (hstep hf).trans (congrArg some ((startFilingUnit_verify hi).trans (updDrive_congr rfl)))
    · exact (hstep hf).trans (congrArg some ((startFilingUnit_labelWrite hch hj).trans (updDrive_congr rfl)))
    · exact (hstep hf).trans (congrArg some ((startFilingUnit_labelVerify hch hj).trans (updDrive_congr rfl)))
  · have hidle := (driveAct_ready hr hu hc).2 (selectUnit_none hlib (fetchCandidate_none.2 hq) hfil)
    have hwork : hasWork s d = true ↔ x.queue ≠ [] := by
      rw [hasWork_iff]
      simp only [hu, hfil, ne_eq, not_true_eq_false, false_or, x]
      exact or_iff_left fun ⟨i, hi⟩ => hlib i hi
    refine ⟨fun h => hidle.trans ?_, fun h h0 => hidle.trans ?_, fun h h0 => hidle.trans ?_⟩
    · rw [if_pos (hwork.2 h)]
      simp only [x]
      cases (s.drive d).idle <;> rfl
    · rw [if_neg (mt hwork.1 (not_not.2 h)), if_pos h0, goStandby_eq]
      rfl
    · rw [if_neg (mt hwork.1 (not_not.2 h)), if_neg h0]
      simp only [x]
      cases (s.drive d).idle <;> rfl
  · intro work freed
    have hfreed : freed = holdFreed d s := by
      simp only [freed, x, holdFreed]
      cases (s.drive d).pendingHold <;> rfl
    have hwork : hasWork s d = true ↔ work := hasWork_iff
    have hact : act = if hasWork s d then some (wake d s)
        else if x.holdKept ∧ 0 < s.listRoom then some (askHold d s) else none := by
      simp only [x] at hs
      simp only [act, driveAct, hs, x]
    refine ⟨fun h => ?_, fun h => ?_⟩
    · rw [hact, if_pos (hwork.2 h), wake_eq, hfreed]
    · simp only [hact, mt hwork.1 h, listRoom_pos]
      rfl

end Sys2Proof.Laws.Selecting

/-!
PROOF. The PLACE completion of a move (R25, R27, R49, R52, R61): the cartridge and its destination, the originators of the
order, and the arm; the obligation O42.
-/

namespace Sys2Proof.Laws.Places

open Sys2Proof Sys2Proof.Machine Sys2Proof.Laws.Noting Sys2Proof.Laws.RunEnds Sys2Proof.Laws.Mapping
open Sys2Proof.Laws.SlotReports Sys2Proof.Laws.DriveResetting Sys2Proof.Laws.Completion

/-! ### The cartridge at its destination (R25, R27, R61) -/

/-- The place in the map of an inspection whose cartridge has been put somewhere. -/
def inspPlaceOf : ArmPlace → Option InspPlace
  | .drive d => some (.drive d)
  | _ => none

/-- An inspection after move `m` has put its cartridge down. -/
def carried (m : Move) (i : Inspection) : Inspection :=
  if m.order.cart = .inspection i.id then { i with place := (inspPlaceOf m.order.dest).getD i.place } else i

theorem carried_id (m : Move) (i : Inspection) : (carried m i).id = i.id := by
  unfold carried
  split <;> rfl

theorem carried_order (m : Move) (i : Inspection) : (carried m i).order = i.order := by
  unfold carried
  split <;> rfl

theorem carried_phase (m : Move) (i : Inspection) : (carried m i).phase = i.phase := by
  unfold carried
  split <;> rfl

theorem carried_number {m : Move} {n : Nat} (h : m.order.cart = .number n) (i : Inspection) : carried m i = i :=
  if_neg (by simp [h])

/-- What the placing of a cartridge may change. -/
structure PlaceFrame (m : Move) (s t : State) : Prop where
  rest : t = { s with
    library := t.library, drives := t.drives, links := t.links, notices := t.notices
    arm := { s.arm with
      mismatchCount := t.arm.mismatchCount, mismatch := t.arm.mismatch
      gripSensor := t.arm.gripSensor, moving := t.arm.moving }
    planner := { s.planner with passesDue := t.planner.passesDue } }
  library : t.library = { s.library with
    table := t.library.table, slot := t.library.slot, slotSensor := t.library.slotSensor
    shelfSensors := t.library.shelfSensors, inspections := s.library.inspections.map (carried m) }
  link : ∀ st, SameButAttention (s.link st) (t.link st)
  hold : ∀ d, (t.drive d).pendingHold = (s.drive d).pendingHold

section
variable {m : Move} {s : State}

/-- The drive that has been given a cartridge: LOADING, with its SPIN_UP issued unless a command is in flight (R61). -/
def loaded (now : Nat) (ref : CartRef) (up : Option Side) (x : Drive) : Drive :=
  { x with
    state := .loading, cart := some ref, sideUp := up, presence := true, vacate := false, unloadKept := false
    command := x.command.or (some ⟨.spinUp, .driveUnit, now⟩) }

theorem drivePlaced_eq (d : DriveId) (ref : CartRef) (up : Option Side) (s : State) :
    drivePlaced d ref up s = s.updDrive d (loaded s.seconds ref up) := by
  unfold drivePlaced
  cases hc : (s.drive d).command with
  | some c =>
    unfold spinUp
    rw [State.drive_updDrive_self]
    refine (if_pos (by simp [hc])).trans (Arbiter.updDrive_congr ?_)
    simp [loaded, hc]
  | none =>
    rw [spinUp_loading (by rw [State.drive_updDrive_self]) (by rw [State.drive_updDrive_self]; exact hc),
      updDrive_updDrive]
    refine Arbiter.updDrive_congr ?_
    simp [loaded, hc]

theorem map_carried_number {n : Nat} (h : m.order.cart = .number n) (is : List Inspection) : is.map (carried m) = is :=
  (List.map_congr_left fun i _ => carried_number h i).trans (List.map_id' is)

theorem map_carried_elsewhere (h : m.order.dest.isDrive = false) (is : List Inspection) : is.map (carried m) = is := by
  refine (List.map_congr_left fun i _ => ?_).trans (List.map_id' is)
  unfold carried inspPlaceOf
  cases hd : m.order.dest with
  | drive d => simp [hd, ArmPlace.isDrive] at h
  | _ => simp

theorem updInsp_carried {id : Nat} {d : DriveId} (hc : m.order.cart = .inspection id) (hd : m.order.dest = .drive d) :
    (s.updInsp id fun i => { i with place := .drive d })
      = { s with library := { s.library with inspections := s.library.inspections.map (carried m) } } := by
  have hmap : (s.library.inspections.map fun i => if i.id = id then { i with place := .drive d } else i)
      = s.library.inspections.map (carried m) := by
    refine List.map_congr_left fun i _ => ?_
    unfold carried
    rw [hc, hd]
    simp only [CartRef.inspection.injEq, inspPlaceOf, Option.getD_some, eq_comm]
  exact congrArg (fun is => { s with library := { s.library with inspections := is } }) hmap

theorem placeFrame_of_mapped {t : State} (h : Mapped s t) (hl : t.library = { s.library with
    table := t.library.table, inspections := s.library.inspections.map (carried m) })
    (hi : t.planner.inspReq = s.planner.inspReq) : PlaceFrame m s t where
  rest := by
    rw [h.rest]
    simp only [hi]
  library := by rw [hl]
  link := h.link
  hold d := by rw [h.drive d]

theorem PlaceFrame.loaded {t : State} (h : PlaceFrame m s t) (d : DriveId) (ref : CartRef) (up : Option Side) :
    PlaceFrame m s (drivePlaced d ref up t) := by
  rw [drivePlaced_eq]
  refine ⟨?_, h.library, h.link, fun e => ?_⟩
  · unfold State.updDrive
    dsimp only
    rw [h.rest]
  · rw [State.drive_updDrive]
    split
    next he => exact he ▸ h.hold d
    next => exact h.hold e

theorem PlaceFrame.slots {t : State} (h : PlaceFrame m s t) (x : SlotState) (b : Bool) (v : BitVec 96) :
    PlaceFrame m s { t with library := { t.library with slot := x, slotSensor := b, shelfSensors := v } } where
  rest := by rw [h.rest]
  library := by rw [h.library]
  link := h.link
  hold := h.hold

theorem setLocation_library (n : Nat) (l : Location) (up : Option Side) (s : State) :
    (setLocation n l up s).library = { s.library with table := (setLocation n l up s).library.table } := by
  unfold setLocation
  rw [(withPool_noted _ s).library]
  rfl

theorem setLocation_planner (n : Nat) (l : Location) (up : Option Side) (s : State) :
    (setLocation n l up s).planner = s.planner := by
  unfold setLocation
  rw [(withPool_noted _ s).planner]
  rfl

theorem setLocation_placeFrame {n : Nat} (hc : m.order.cart = .number n) (l : Location) (up : Option Side) :
    PlaceFrame m s (setLocation n l up s) := by
  refine placeFrame_of_mapped (setLocation_mapped ..) ?_ ?_
  · rw [setLocation_library, map_carried_number hc]
  · rw [setLocation_planner]

theorem placeLocation_frame (m : Move) (s : State) : PlaceFrame m s (placeLocation m s) := by
  unfold placeLocation
  cases hc : m.order.cart with
  | inspection id =>
    dsimp only
    split
    next d hd =>
      rw [updInsp_carried hc hd]
      exact PlaceFrame.loaded (placeFrame_of_mapped (library_mapped ..) rfl rfl) ..
    next hd =>
      have hcarried : s.library.inspections.map (carried m) = s.library.inspections :=
        map_carried_elsewhere (by cases h : m.order.dest <;> simp_all [ArmPlace.isDrive]) _
      exact placeFrame_of_mapped (.refl s) (by rw [hcarried]) rfl
  | number n =>
    dsimp only
    split
    next =>
      split
      next => exact (setLocation_placeFrame hc ..).loaded ..
      next => exact setLocation_placeFrame hc ..
      next => exact setLocation_placeFrame hc ..
    next => exact ⟨rfl, by rw [map_carried_number hc]; rfl, fun _ => .refl _, fun _ => rfl⟩

/-- The cartridge put down, the sensors read, and the arm's grip empty (R49). -/
def placed (m : Move) (s : State) : State :=
  (placeDest m (placeLocation m s)).updArm fun a => { a with gripSensor := false, moving := none }

theorem placeDest_frame (m : Move) (s : State) : PlaceFrame m s (placeDest m (placeLocation m s)) := by
  have h := placeLocation_frame m s
  unfold placeDest
  split
  · exact h.slots ..
  · exact h.slots ..
  · exact h

theorem placed_frame (m : Move) (s : State) : PlaceFrame m s (placed m s) := by
  have h := placeDest_frame m s
  exact ⟨by unfold placed State.updArm; rw [h.rest], h.library, h.link, h.hold⟩

/-! ### The originator of the order (R49) -/

theorem planCompleted_none {k : Nat} (h : ∀ p ∈ s.planner.plans, p.holds [k] = false) : planCompleted k s = s := by
  unfold planCompleted
  rw [List.find?_eq_none.2 fun p hp => by simp [h p hp]]

end

/-- An inspection whose IMPORT plan is over. -/
def planOver (id : Nat) (i : Inspection) : Inspection := if i.id = id then { i with phase := .loading, order := none } else i

theorem holds_iff {p : Plan} {k : Nat} : p.holds [k] = true ↔ p.demount = some k ∨ (p.moved = false ∧ p.move = some k) := by
  unfold Plan.holds Plan.orders
  cases p.demount <;> cases p.moved <;> cases p.move <;> simp

section
variable {s : State} {k : Nat} {p : Plan}

/-- A plan has lost its DEMOUNT, or its move is done, or it is over (R87, R90, R92). -/
theorem planCompleted_first {before after : List Plan} (hl : s.planner.plans = before ++ p :: after)
    (hb : ∀ q ∈ before, q.holds [k] = false) (hp : p.holds [k] = true) :
    (p.demount = some k → planCompleted k s = putPlan { p with demount := none } s)
      ∧ (p.demount ≠ some k → p.purpose = .filing → planCompleted k s = putPlan { p with moved := true } s)
      ∧ (p.demount ≠ some k → p.purpose ≠ .filing → (∀ id, p.cart ≠ .inspection id) ∨ p.purpose ≠ .importJob →
        planCompleted k s = dropPlan p s)
      ∧ (∀ id, p.demount ≠ some k → p.purpose = .importJob → p.cart = .inspection id → planCompleted k s =
        (dropInspReq id (dropPlan p s)).updInsp id fun i => { i with phase := .loading, order := none }) := by
  have hfind : s.planner.plans.find? (fun p => p.holds [k]) = some p := by
    rw [hl, List.find?_append, List.find?_eq_none.2 fun q hq => by simp [hb q hq], List.find?_cons, hp]
    rfl
  unfold planCompleted
  rw [hfind]
  dsimp only
  refine ⟨fun h => if_pos h, fun h hpur => ?_, fun h hpur hother => ?_, fun id h hpur hc => ?_⟩
  · rw [if_neg h, hpur]
  · rw [if_neg h]
    cases hc : p.cart <;> cases hpu : p.purpose <;> simp_all
  · rw [if_neg h, hpur, hc]

end

/-! ### The inspection that waited on the order (R30, R31, R37) -/

theorem Reslotted.only {s t : State} (h : Reslotted s t) :
    t.library = { s.library with inspections := t.library.inspections } := by
  obtain ⟨g, -, -, hl⟩ := h
  rw [hl]

theorem endInspection_only (id : Nat) (s : State) : (endInspection id s).library
    = { s.library with inspections := (endInspection id s).library.inspections } := by
  obtain ⟨u, hu, h⟩ := endInspection_library id s
  rw [Reslotted.only h, hu]

/-- The RETURN of a START_UP inspection is done: the cartridge is ARRIVED, with a new inspection (R37). -/
def arrivedAgain (id : Nat) (s : State) : State :=
  let u := (endInspection id s).updLibrary fun l => { l with slot := .arrived }
  slotCheck u.library.inspectionSeq (addInspection .loadingSlot .loadingSlot .waitingSlot u)

theorem arrivedAgain_only (id : Nat) (s : State) : (arrivedAgain id s).library = { s.library with
    slot := .arrived, inspections := (arrivedAgain id s).library.inspections
    inspectionSeq := (arrivedAgain id s).library.inspectionSeq } := by
  unfold arrivedAgain
  dsimp only
  rw [Reslotted.only (slotCheck_reslotted ..)]
  unfold addInspection State.updLibrary
  dsimp only
  rw [endInspection_only]

theorem arrivedAgain_mapped (id : Nat) (s : State) : Mapped s (arrivedAgain id s) :=
  (endInspection_mapped id s).trans ((updLibrary_mapped ..).trans ((addInspection_mapped ..).trans (slotCheck_mapped ..)))

section
variable {s : State} {k : Nat} {i : Inspection}

theorem inspectionCompleted_none (h : ∀ i ∈ s.library.inspections, i.order ≠ some k) : inspectionCompleted k s = s := by
  unfold inspectionCompleted State.inspOfOrder
  rw [List.find?_eq_none.2 fun i hi => by simpa using h i hi]

theorem inspectionCompleted_first {before after : List Inspection} (hl : s.library.inspections = before ++ i :: after)
    (hb : ∀ e ∈ before, e.order ≠ some k) (hi : i.order = some k) :
    (i.phase = .flipping → inspectionCompleted k s = s.updInsp i.id fun i => { i with order := none })
      ∧ (i.phase = .shelving → inspectionCompleted k s = noticeSet nImportDone (endInspection i.id s))
      ∧ (i.phase = .rejecting → inspectionCompleted k s = endInspection i.id s)
      ∧ (i.phase = .returning → inspectionCompleted k s = arrivedAgain i.id s) := by
  have hfind : s.inspOfOrder k = some i := by
    unfold State.inspOfOrder
    rw [hl, List.find?_append, List.find?_eq_none.2 fun e he => by simpa using hb e he, List.find?_cons]
    simp [hi]
  unfold inspectionCompleted
  rw [hfind]
  dsimp only
  exact ⟨fun h => by rw [h], fun h => by rw [h], fun h => by rw [h], fun h => by rw [h]; rfl⟩

/-- What the completion of its order may do to the inspection that waited on it. -/
theorem inspectionCompleted_cases (k : Nat) (s : State) : inspectionCompleted k s = s
    ∨ (∃ id, inspectionCompleted k s = s.updInsp id fun i => { i with order := none })
    ∨ (∃ id, inspectionCompleted k s = noticeSet nImportDone (endInspection id s))
    ∨ (∃ id, inspectionCompleted k s = endInspection id s) ∨ ∃ id, inspectionCompleted k s = arrivedAgain id s := by
  unfold inspectionCompleted
  cases s.inspOfOrder k with
  | none => exact .inl rfl
  | some i =>
    dsimp only
    cases i.phase with
    | flipping => exact .inr (.inl ⟨_, rfl⟩)
    | shelving => exact .inr (.inr (.inl ⟨_, rfl⟩))
    | rejecting => exact .inr (.inr (.inr (.inl ⟨_, rfl⟩)))
    | returning => exact .inr (.inr (.inr (.inr ⟨_, rfl⟩)))
    | _ => exact .inl rfl

theorem inspectionCompleted_mapped (k : Nat) (s : State) : Mapped s (inspectionCompleted k s) := by
  obtain h | ⟨id, h⟩ | ⟨id, h⟩ | ⟨id, h⟩ | ⟨id, h⟩ := inspectionCompleted_cases k s <;> rw [h]
  · exact .refl s
  · exact updInsp_mapped ..
  · exact (endInspection_mapped ..).trans (noticeSet_mapped ..)
  · exact endInspection_mapped ..
  · exact arrivedAgain_mapped ..

theorem inspectionCompleted_only (k : Nat) (s : State) : (inspectionCompleted k s).library = { s.library with
    slot := (inspectionCompleted k s).library.slot, inspections := (inspectionCompleted k s).library.inspections
    inspectionSeq := (inspectionCompleted k s).library.inspectionSeq } := by
  obtain h | ⟨id, h⟩ | ⟨id, h⟩ | ⟨id, h⟩ | ⟨id, h⟩ := inspectionCompleted_cases k s <;> rw [h]
  · rfl
  · rw [(noticeSet_noted ..).library, endInspection_only]
  · rw [endInspection_only]
  · rw [arrivedAgain_only]

end

theorem insp?_updInsp_self {s : State} {id : Nat} {i : Inspection} {f : Inspection → Inspection} (hf : ∀ i, (f i).id = i.id)
    (h : s.insp? id = some i) : (s.updInsp id f).insp? id = some (f i) := by
  have hid := insp?_id h
  have hfun : ((fun i : Inspection => decide (i.id = id)) ∘ fun i => if i.id = id then f i else i)
      = fun i => decide (i.id = id) := by
    funext i
    dsimp only [Function.comp]
    split <;> simp_all
  unfold State.insp? at h ⊢
  change (s.library.inspections.map fun i => if i.id = id then f i else i).find? _ = _
  rw [List.find?_map, hfun, h]
  simp [hid]

/-- The new inspection of an arrived cartridge, at once with a slot and its request made, or waiting for a slot. -/
theorem arrivedAgain_begun {s : State} (id : Nat) (h : ∀ i ∈ s.library.inspections, i.id < s.library.inspectionSeq) :
    ∃ e, (arrivedAgain id s).insp? s.library.inspectionSeq = some e ∧ e.id = s.library.inspectionSeq
      ∧ e.origin = .loadingSlot ∧ e.place = .loadingSlot ∧ (e.phase = .waitingSlot ∨ e.phase = .waitingDrive ∧ e.reserved ≠ none
        ∧ (arrivedAgain id s).planner.inspReq = some e.id) := by
  obtain ⟨u, hu, hr⟩ := endInspection_library id s
  have honly := endInspection_only id s
  have hids : ∀ i ∈ (endInspection id s).library.inspections, i.id < s.library.inspectionSeq := by
    intro i hi
    have hmem : i.id ∈ u.library.inspections.map (·.id) := hr.ids ▸ List.mem_map_of_mem hi
    rw [hu] at hmem
    obtain ⟨j, hj, hji⟩ := List.mem_map.1 hmem
    exact hji ▸ h j (List.mem_filter.1 hj).1
  unfold arrivedAgain
  dsimp only
  generalize hv : (endInspection id s).updLibrary (fun l => { l with slot := .arrived }) = v
  have hseq : v.library.inspectionSeq = s.library.inspectionSeq := by
    rw [← hv]
    change (endInspection id s).library.inspectionSeq = _
    rw [honly]
  have hvids : ∀ i ∈ v.library.inspections, i.id < v.library.inspectionSeq := by
    rw [hseq, ← hv]
    exact hids
  rw [← hseq]
  cases hfree : v.lowestFree with
  | none =>
    rw [slotCheck_none hvids _ hfree]
    have hnew := insp?_begun (o := .loadingSlot) (p := .loadingSlot) (ph := .waitingSlot) (r := none) hvids
    have hsame (id : Nat) : (noticeSet 8 (begun .loadingSlot .loadingSlot .waitingSlot none v)).insp? id
        = (begun .loadingSlot .loadingSlot .waitingSlot none v).insp? id := by
      unfold State.insp?
      rw [(noticeSet_noted ..).library]
    exact ⟨_, (hsame _).trans hnew, rfl, rfl, rfl, .inl rfl⟩
  | some n =>
    rw [slotCheck_fromSlot hvids hfree]
    exact ⟨_, insp?_begun hvids, rfl, rfl, rfl, .inr ⟨rfl, by simp, rfl⟩⟩

theorem arrivedAgain_insp? {s : State} {id : Nat} (h : id < s.library.inspectionSeq) : (arrivedAgain id s).insp? id = none := by
  have hnone := insp?_eq_none.1 (endInspection_insp? id s)
  have honly := endInspection_only id s
  rw [insp?_eq_none]
  unfold arrivedAgain
  dsimp only
  rw [(slotCheck_reslotted ..).ids]
  unfold addInspection State.updLibrary
  dsimp only
  rw [List.map_append, List.mem_append, not_or]
  refine ⟨hnone, ?_⟩
  rw [honly]
  simpa using h.ne

/-! ### The EXPORT that waited on the order (R34), and the hold order (R72) -/

section
variable {s : State} {k : Nat}

/-- The EXPORT is over: off the list, announced and answered. -/
def exportDone (e : ExportEntry) (s : State) : State :=
  replyExport e .done (noticeSet nExportReady
    (s.updLibrary fun l => { l with exports := l.exports.filter fun x => x.cart ≠ e.cart }))

theorem exportCompleted_first {before after : List ExportEntry} {e : ExportEntry}
    (hl : s.library.exports = before ++ e :: after) (hb : ∀ x ∈ before, x.order ≠ some k) (he : e.order = some k) :
    exportCompleted k s = exportDone e s := by
  unfold exportCompleted
  rw [hl, List.find?_append, List.find?_eq_none.2 fun x hx => by simpa using hb x hx, List.find?_cons]
  simp only [he, decide_true, Option.none_or]
  rfl

theorem exportCompleted_cases (k : Nat) (s : State) :
    exportCompleted k s = s ∨ ∃ e, exportCompleted k s = exportDone e s := by
  unfold exportCompleted
  cases s.library.exports.find? fun e => e.order = some k with
  | none => exact .inl rfl
  | some e => exact .inr ⟨e, rfl⟩

theorem replyExport_rest (e : ExportEntry) (c : Status) (s : State) :
    replyExport e c s = { s with links := (replyExport e c s).links } := by
  unfold replyExport
  split
  next => rw [replyLong_eq]; rfl
  next => rfl

theorem exportDone_rest (e : ExportEntry) (s : State) : exportDone e s = { s with
    library := { s.library with exports := s.library.exports.filter fun x => x.cart ≠ e.cart }
    links := (exportDone e s).links, notices := (exportDone e s).notices } := by
  unfold exportDone
  rw [replyExport_rest, (noticeSet_noted ..).rest]
  rfl

theorem exportDone_source (e : ExportEntry) (s : State) : ((exportDone e s).source 11).pending = true := by
  unfold exportDone
  rw [replyExport_rest]
  exact noticeSet_pending _ (by decide) (by decide)

theorem exportDone_replies (e : ExportEntry) (s : State) :
    (e.replyDue = true → s.awaits e.station e.tag →
      ((exportDone e s).link e.station).replies = (s.link e.station).replies ++ [⟨e.tag, 0x40, .done, .none⟩])
      ∧ (e.replyDue = false → ∀ st : Station, ((exportDone e s).link st).replies = (s.link st).replies) := by
  unfold exportDone replyExport
  have hnoted := noticeSet_noted nExportReady
    (s.updLibrary fun l => { l with exports := l.exports.filter fun x => x.cart ≠ e.cart })
  generalize noticeSet nExportReady
    (s.updLibrary fun l => { l with exports := l.exports.filter fun x => x.cart ≠ e.cart }) = u at hnoted ⊢
  refine ⟨fun h haw => ?_, fun h st => ?_⟩
  · have hout : ((u.link e.station).outstanding.any fun x => x.tag = e.tag) = true := by
      obtain ⟨x, hx, hxt⟩ := haw
      rw [hnoted.outstanding]
      exact List.any_eq_true.2 ⟨x, hx, by simpa using hxt⟩
    rw [if_pos h, replyLong_eq, State.link_updLink_self, answered_replies, if_pos hout, hnoted.replies]
    rfl
  · rw [if_neg (by simp [h]), hnoted.replies]
    rfl

theorem exportCompleted_pending (k : Nat) {i : Nat} (h : (s.source i).pending = true) :
    ((exportCompleted k s).source i).pending = true := by
  obtain hc | ⟨e, hc⟩ := exportCompleted_cases k s <;> rw [hc]
  · exact h
  · unfold exportDone
    rw [replyExport_rest]
    exact (noticeSet_noted nExportReady _).pending i h

theorem holdCompleted_drive (k : Nat) (s : State) (d : DriveId) : (holdCompleted k s).drive d
    = { s.drive d with pendingHold := if (s.drive d).pendingHold = some k then none else (s.drive d).pendingHold } := by
  have hmap : (holdCompleted k s).drive d
      = if (s.drive d).pendingHold = some k then { s.drive d with pendingHold := none } else s.drive d :=
    Vector.getElem_map ..
  rw [hmap]
  split <;> rfl

theorem holdCompleted_rest (k : Nat) (s : State) : holdCompleted k s = { s with drives := (holdCompleted k s).drives } := rfl

end

/-! ### The whole of a PLACE completion -/

/-- The order has left the list. -/
def unlistedOrder (k : Nat) (s : State) : State := s.updOrders fun os => os.filter fun o => o.number ≠ k

/-- The originator of an order of the list has heard of its completion. -/
def heard (m : Move) (s : State) : State :=
  if m.inList then tellCompleted m.order.number (unlistedOrder m.order.number s) else s

/-- The record acted on by a RETRY is emptied, and a pass made due (R52, R86). -/
def stepped (c : MoveCause) (s : State) : State :=
  (if c = .retryPrimary then stepDown false s else if c = .retrySecondary then stepDown true s else s).wantPass

theorem placeDone_eq (m : Move) (s : State) : placeDone m s = stepped m.cause (heard m (placed m s)) := by
  unfold placeDone stepped heard
  cases m.cause <;> rfl

theorem stepped_rest (c : MoveCause) (s : State) : stepped c s = { s with
    arm := { s.arm with
      level := (stepped c s).arm.level, primary := (stepped c s).arm.primary, secondary := (stepped c s).arm.secondary }
    planner := { s.planner with passesDue := (stepped c s).planner.passesDue } } := by
  cases c <;> rfl

/-- Inspections have only been freed of an order or put elsewhere. -/
def OrdersKept (g : Inspection → Inspection) : Prop := ∀ i, (g i).order = i.order ∨ (g i).order = none

theorem planCompleted_rest (k : Nat) (s : State) : planCompleted k s = { s with
      library := (planCompleted k s).library, planner := (planCompleted k s).planner }
    ∧ ∃ g, OrdersKept g ∧ (planCompleted k s).library
      = { s.library with inspections := s.library.inspections.map g } := by
  have hid : OrdersKept id := fun _ => .inl rfl
  have hsame : s.library = { s.library with inspections := s.library.inspections.map id } := by rw [List.map_id]
  unfold planCompleted
  cases s.planner.plans.find? fun p => p.holds [k] with
  | none => exact ⟨rfl, id, hid, hsame⟩
  | some p =>
    dsimp only
    split
    next => exact ⟨rfl, id, hid, hsame⟩
    next =>
      cases p.purpose with
      | fetch => exact ⟨rfl, id, hid, hsame⟩
      | filing => exact ⟨rfl, id, hid, hsame⟩
      | importJob =>
        cases p.cart with
        | number n => exact ⟨rfl, id, hid, hsame⟩
        | inspection j =>
          refine ⟨rfl, planOver j, fun i => ?_, rfl⟩
          unfold planOver
          split
          · exact .inr rfl
          · exact .inl rfl

section
variable {m : Move} {s : State}

theorem exportCompleted_rest (k : Nat) (s : State) : exportCompleted k s = { s with
    library := { s.library with exports := (exportCompleted k s).library.exports }
    links := (exportCompleted k s).links, notices := (exportCompleted k s).notices } := by
  obtain h | ⟨e, h⟩ := exportCompleted_cases k s <;> rw [h]
  rw [exportDone_rest]

/-- The inspection list as the originators hear of the order: the plan's part, then the inspection's own. -/
def inspectionHeard (k : Nat) (s : State) : State := inspectionCompleted k (planCompleted k (unlistedOrder k s))

theorem tellCompleted_eq (k : Nat) (s : State) :
    tellCompleted k (unlistedOrder k s) = holdCompleted k (exportCompleted k (inspectionHeard k s)) := rfl

theorem inspectionHeard_rest (k : Nat) (s : State) : inspectionHeard k s = { s with
    library := { s.library with
      slot := (inspectionHeard k s).library.slot, inspections := (inspectionHeard k s).library.inspections
      inspectionSeq := (inspectionHeard k s).library.inspectionSeq }
    arm := { s.arm with orders := s.arm.orders.filter fun o => o.number ≠ k }
    planner := (inspectionHeard k s).planner, links := (inspectionHeard k s).links
    notices := (inspectionHeard k s).notices } := by
  have hm := inspectionCompleted_mapped k (planCompleted k (unlistedOrder k s))
  have hl := inspectionCompleted_only k (planCompleted k (unlistedOrder k s))
  obtain ⟨hp, g, -, hg⟩ := planCompleted_rest k (unlistedOrder k s)
  unfold inspectionHeard
  generalize inspectionCompleted k (planCompleted k (unlistedOrder k s)) = i at hm hl ⊢
  generalize planCompleted k (unlistedOrder k s) = p at hm hl hp hg
  rw [hg] at hl
  rw [hm.rest, hl, hp]
  rfl

theorem tellCompleted_rest (k : Nat) (s : State) : tellCompleted k (unlistedOrder k s) = { inspectionHeard k s with
    library := { (inspectionHeard k s).library with
      exports := (tellCompleted k (unlistedOrder k s)).library.exports }
    drives := (tellCompleted k (unlistedOrder k s)).drives
    links := (tellCompleted k (unlistedOrder k s)).links, notices := (tellCompleted k (unlistedOrder k s)).notices } := by
  rw [tellCompleted_eq, holdCompleted_rest, exportCompleted_rest]

end

section
variable {m : Move} {s : State}

/-- What the originators' hearing may change. -/
theorem heard_rest (m : Move) (s : State) : heard m s = { s with
    library := { s.library with
      slot := (heard m s).library.slot, inspections := (heard m s).library.inspections
      inspectionSeq := (heard m s).library.inspectionSeq, exports := (heard m s).library.exports }
    arm := { s.arm with
      orders := if m.inList then s.arm.orders.filter fun o => o.number ≠ m.order.number else s.arm.orders }
    drives := (heard m s).drives, planner := (heard m s).planner, links := (heard m s).links
    notices := (heard m s).notices } := by
  unfold heard
  split
  next => rw [tellCompleted_rest, inspectionHeard_rest]
  next => rfl

theorem heard_drive (m : Move) (s : State) (d : DriveId) :
    ∃ h, (heard m s).drive d = { s.drive d with pendingHold := h } := by
  unfold heard
  split
  next =>
    rw [tellCompleted_eq, holdCompleted_drive, exportCompleted_rest, inspectionHeard_rest]
    exact ⟨_, rfl⟩
  next => exact ⟨_, rfl⟩

/-- No inspection waited on the order: the map's slot and its inspections stay as the plan's part left them. -/
theorem heard_slot (h : ¬ (m.inList = true ∧ ∃ e ∈ s.library.inspections, e.order = some m.order.number)) :
    (heard m s).library.slot = s.library.slot := by
  unfold heard
  split
  next hin =>
    obtain ⟨hp, g, hkept, hg⟩ := planCompleted_rest m.order.number (unlistedOrder m.order.number s)
    have hnone : inspectionHeard m.order.number s = planCompleted m.order.number (unlistedOrder m.order.number s) := by
      refine inspectionCompleted_none fun e he horder => ?_
      rw [hg] at he
      obtain ⟨i, hi, rfl⟩ := List.mem_map.1 he
      obtain hsame | hgone := hkept i
      · exact h ⟨hin, i, hi, hsame.symm.trans horder⟩
      · rw [hgone] at horder; cases horder
    rw [tellCompleted_rest, hnone]
    dsimp only
    rw [hg]
    rfl
  next => rfl

theorem tracked_of_location {n : Nat} {c : Cartridge} (hc : s.cart? n = some c) (hl : c.location ≠ .exported) :
    tracked s n = true := by
  unfold tracked
  simpa [hc] using hl

section
variable {n : Nat} (hn : m.order.cart = .number n) (ht : tracked s n = true)
include hn ht

theorem placed_shelf {k : Nat} (hd : m.order.dest = .shelf k) :
    (placed m s).library = (setShelf k true (setLocation n .shelf none s)).library := by
  unfold placed placeDest placeLocation
  simp only [hn, hd, ht, if_true]
  rfl

theorem placed_slot (hd : m.order.dest = .loadingSlot) : (placed m s).library
    = { (setLocation n .loadingSlot none s).library with slotSensor := true, slot := .held } := by
  unfold placed placeDest placeLocation
  simp only [hn, hd, ht, if_true]
  rfl

theorem placed_drive {d : DriveId} (hd : m.order.dest = .drive d) :
    (placed m s).library = (setLocation n (.drive d) (some (placedSide m s)) s).library
      ∧ (placed m s).drive d = loaded s.seconds (.number n) (some (placedSide m s)) (s.drive d) := by
  have hmap := setLocation_mapped n (.drive d) (some (placedSide m s)) s
  unfold placed placeDest placeLocation
  simp only [hn, hd, ht, if_true, drivePlaced_eq]
  refine ⟨rfl, ?_⟩
  rw [← hmap.drive d, ← hmap.seconds]
  exact State.drive_updDrive_self ..

end

theorem placed_inspection {id : Nat} {d : DriveId} (hc : m.order.cart = .inspection id) (hd : m.order.dest = .drive d) :
    (placed m s).drive d = loaded s.seconds (.inspection id) (some (placedSide m s)) (s.drive d) := by
  unfold placed placeDest placeLocation
  simp only [hc, hd, drivePlaced_eq]
  exact State.drive_updDrive_self ..

theorem placed_rejected {id : Nat} (hc : m.order.cart = .inspection id) (hd : m.order.dest = .loadingSlot) :
    (placed m s).library.slot = .rejected ∧ (placed m s).library.slotSensor = true := by
  unfold placed placeDest placeLocation
  simp only [hc, hd]
  exact ⟨rfl, rfl⟩

theorem placed_insp? {id : Nat} {i : Inspection} (h : s.insp? id = some i) : (placed m s).insp? id = some (carried m i) := by
  have hfun : ((fun i : Inspection => decide (i.id = id)) ∘ carried m) = fun i => decide (i.id = id) := by
    funext i
    rw [Function.comp, carried_id]
  unfold State.insp? at h ⊢
  rw [(placed_frame m s).library]
  dsimp only
  rw [List.find?_map, hfun, h]
  rfl

theorem placed_table {n : Nat} (hn : m.order.cart = .number n) (ht : tracked s n = true) :
    ∃ l up, (placed m s).library.table = (setLocation n l up s).library.table := by
  cases hd : m.order.dest with
  | shelf k => exact ⟨_, _, congrArg (·.table) (placed_shelf hn ht hd)⟩
  | loadingSlot => exact ⟨_, _, congrArg (·.table) (placed_slot hn ht hd)⟩
  | drive d => exact ⟨_, _, congrArg (·.table) (placed_drive hn ht hd).1⟩
  | arm =>
    refine ⟨.shelf, none, ?_⟩
    unfold placed placeDest placeLocation
    simp only [hn, hd, ht, if_true]
    rfl

theorem placedSide_number {n : Nat} {c : Cartridge} {up : Side} (hn : m.order.cart = .number n) (hc : s.cart? n = some c)
    (hup : if m.order.kind = .flip then c.sideUp = some (otherSide up) else m.order.side = some up) :
    placedSide m s = up := by
  unfold placedSide
  split
  next hk =>
    rw [if_pos hk] at hup
    rw [hn]
    simp only [hc, Option.bind_some, hup, Option.getD_some]
    cases up <;> rfl
  next hk =>
    rw [if_neg hk] at hup
    rw [hup]
    rfl

/-! ### What the completion leaves -/

theorem placeDone_rest (m : Move) (s : State) : placeDone m s = { heard m (placed m s) with
    arm := { (heard m (placed m s)).arm with
      level := (placeDone m s).arm.level, primary := (placeDone m s).arm.primary
      secondary := (placeDone m s).arm.secondary }
    planner := { (heard m (placed m s)).planner with passesDue := (placeDone m s).planner.passesDue } } := by
  rw [placeDone_eq]
  exact stepped_rest ..

theorem placeDone_library (m : Move) (s : State) : (placeDone m s).library = (heard m (placed m s)).library := by
  rw [placeDone_rest]

theorem placeDone_drive (m : Move) (s : State) (d : DriveId) :
    (placeDone m s).drive d = (heard m (placed m s)).drive d := by
  rw [placeDone_rest]
  rfl

theorem placeDone_cart? (m : Move) (s : State) (j : Nat) : (placeDone m s).cart? j = (placed m s).cart? j := by
  refine cart?_of_table ?_ j
  rw [placeDone_library, heard_rest]

theorem placed_arm (m : Move) (s : State) : (placed m s).arm = { s.arm with
    mismatchCount := (placed m s).arm.mismatchCount, mismatch := (placed m s).arm.mismatch
    gripSensor := false, moving := none } := by
  unfold placed State.updArm
  dsimp only
  rw [(placeDest_frame m s).rest]

theorem heard_arm (m : Move) (s : State) : (heard m s).arm = { s.arm with
    orders := if m.inList then s.arm.orders.filter fun o => o.number ≠ m.order.number else s.arm.orders } := by
  rw [heard_rest]

/-- The arm is idle, with nothing in its grip, and the order has left the list (R49). -/
theorem placeDone_arm (m : Move) (s : State) : (placeDone m s).arm.moving = none ∧ (placeDone m s).arm.gripSensor = false
    ∧ (placeDone m s).arm.orders = if m.inList then s.arm.orders.filter fun o => o.number ≠ m.order.number else s.arm.orders := by
  rw [placeDone_rest]
  dsimp only
  rw [heard_arm, placed_arm]
  exact ⟨rfl, rfl, rfl⟩

/-- The fault records and the level after a move, by what made it (R52). -/
theorem placeDone_level (m : Move) (s : State) :
    (m.cause = .arbiter ∨ m.cause = .recover → (placeDone m s).arm.level = s.arm.level
        ∧ (placeDone m s).arm.primary = s.arm.primary ∧ (placeDone m s).arm.secondary = s.arm.secondary)
      ∧ (m.cause = .retryPrimary → (placeDone m s).arm.level = .normal ∧ (placeDone m s).arm.primary = none
        ∧ (placeDone m s).arm.secondary = s.arm.secondary)
      ∧ (m.cause = .retrySecondary → (placeDone m s).arm.level = .attention ∧ (placeDone m s).arm.secondary = none
        ∧ (placeDone m s).arm.primary = s.arm.primary) := by
  have harm : (heard m (placed m s)).arm.level = s.arm.level ∧ (heard m (placed m s)).arm.primary = s.arm.primary
      ∧ (heard m (placed m s)).arm.secondary = s.arm.secondary := by
    rw [heard_arm, placed_arm]
    exact ⟨rfl, rfl, rfl⟩
  rw [placeDone_eq]
  generalize heard m (placed m s) = u at harm
  obtain ⟨hl, hp, hs⟩ := harm
  rw [← hl, ← hp, ← hs]
  refine ⟨fun h => ?_, fun h => ?_, fun h => ?_⟩
  · obtain h | h := h <;> rw [h] <;> exact ⟨rfl, rfl, rfl⟩
  · rw [h]; exact ⟨rfl, rfl, rfl⟩
  · rw [h]; exact ⟨rfl, rfl, rfl⟩

theorem placeDone_records (m : Move) (s : State) : (placeDone m s).catalogue = s.catalogue ∧ (placeDone m s).fee = s.fee
    ∧ (placeDone m s).run = s.run ∧ (placeDone m s).fetch = s.fetch := by
  rw [placeDone_rest, heard_rest, (placed_frame m s).rest]
  exact ⟨rfl, rfl, rfl, rfl⟩

/-- A cartridge of the table is where it was to go, and no other has moved (R25). -/
theorem placeDone_cartridge {n : Nat} {c : Cartridge} (hn : m.order.cart = .number n) (hc : s.cart? n = some c)
    (hl : c.location ≠ .exported) :
    (∀ j, j ≠ n → (placeDone m s).cart? j = s.cart? j)
      ∧ (∀ h, m.order.dest = .shelf h → (placeDone m s).cart? n = some { c with location := .shelf, sideUp := none }
        ∧ (1 ≤ h → h ≤ 96 → (placeDone m s).slotReads h = true))
      ∧ (m.order.dest = .loadingSlot → (placeDone m s).cart? n = some { c with location := .loadingSlot, sideUp := none }
        ∧ (placeDone m s).library.slotSensor = true
        ∧ (¬ (m.inList = true ∧ ∃ e ∈ s.library.inspections, e.order = some m.order.number) →
          (placeDone m s).library.slot = .held))
      ∧ ∀ d up, m.order.dest = .drive d → (s.drive d).command = none →
        (if m.order.kind = .flip then c.sideUp = some (otherSide up) else m.order.side = some up) →
        (placeDone m s).cart? n = some { c with location := .drive d, sideUp := some up }
          ∧ ((placeDone m s).drive d).state = .loading ∧ ((placeDone m s).drive d).cart = some (.number n)
          ∧ ((placeDone m s).drive d).sideUp = some up
          ∧ ((placeDone m s).drive d).command = some ⟨.spinUp, .driveUnit, s.seconds⟩ := by
  have ht := tracked_of_location hc hl
  have hset (l : Location) (up : Option Side) : (setLocation n l up s).cart? n
      = some { c with location := l, sideUp := up } := by
    rw [cart?_setLocation_self, hc]
    rfl
  have hlib : (placeDone m s).library.slotSensor = (placed m s).library.slotSensor
      ∧ (placeDone m s).library.shelfSensors = (placed m s).library.shelfSensors := by
    rw [placeDone_library, heard_rest]
    exact ⟨rfl, rfl⟩
  refine ⟨fun j hj => ?_, fun h hd => ⟨?_, fun h1 h96 => ?_⟩, fun hd => ⟨?_, ?_, fun hno => ?_⟩, fun d up hd hcmd hup => ?_⟩
  · obtain ⟨l, up, htable⟩ := placed_table hn ht
    rw [placeDone_cart?, cart?_of_table htable, cart?_setLocation_ne hj]
  · rw [placeDone_cart?, cart?_of_table (congrArg (·.table) (placed_shelf hn ht hd))]
    exact hset ..
  · have hreads := slotReads_setShelf h1 h96 h1 h96 true (setLocation n .shelf none s)
    rw [if_pos rfl] at hreads
    rw [← hreads]
    unfold State.slotReads
    rw [hlib.2, placed_shelf hn ht hd]
  · rw [placeDone_cart?, cart?_of_table (congrArg (·.table) (placed_slot hn ht hd))]
    exact hset ..
  · rw [hlib.1, placed_slot hn ht hd]
  · have hinsps := (placed_frame m s).library
    rw [placeDone_library, heard_slot, placed_slot hn ht hd]
    rw [hinsps]
    dsimp only
    rwa [map_carried_number hn]
  · obtain ⟨htable, hdrive⟩ := placed_drive hn ht hd
    obtain ⟨hold, hheard⟩ := heard_drive m (placed m s) d
    have hside : placedSide m s = up := placedSide_number hn hc hup
    rw [placeDone_drive, hheard, hdrive, placeDone_cart?, cart?_of_table (congrArg (·.table) htable), hside]
    exact ⟨hset .., rfl, rfl, rfl, by simp [loaded, hcmd]⟩

/-! ### The originators, as the completion leaves them -/

theorem placed_plans (m : Move) (s : State) :
    (placed m s).planner.plans = s.planner.plans ∧ (placed m s).planner.waiters = s.planner.waiters := by
  rw [(placed_frame m s).rest]
  exact ⟨rfl, rfl⟩

/-- With no plan on the order, the inspections hear of it as they are after the placing. -/
theorem inspectionHeard_unplanned (hno : ∀ p ∈ s.planner.plans, p.holds [m.order.number] = false) :
    inspectionHeard m.order.number (placed m s)
      = inspectionCompleted m.order.number (unlistedOrder m.order.number (placed m s)) := by
  unfold inspectionHeard
  rw [planCompleted_none]
  exact fun p hp => hno p ((placed_plans m s).1 ▸ hp)

section
variable (hin : m.inList = true)
include hin

theorem heard_listed : heard m s = tellCompleted m.order.number (unlistedOrder m.order.number s) := if_pos hin

/-- The plans, waiters and inspections are those that the plan's and the inspection's own hearing have left. -/
theorem placeDone_heard : (placeDone m s).planner.plans = (inspectionHeard m.order.number (placed m s)).planner.plans
    ∧ (placeDone m s).planner.waiters = (inspectionHeard m.order.number (placed m s)).planner.waiters
    ∧ (placeDone m s).planner.inspReq = (inspectionHeard m.order.number (placed m s)).planner.inspReq
    ∧ (placeDone m s).library = { (inspectionHeard m.order.number (placed m s)).library with
        exports := (placeDone m s).library.exports } := by
  rw [placeDone_rest, heard_listed hin, tellCompleted_rest]
  exact ⟨rfl, rfl, rfl, rfl⟩

theorem placeDone_insp? (id : Nat) : (placeDone m s).insp? id = (inspectionHeard m.order.number (placed m s)).insp? id := by
  unfold State.insp?
  rw [(placeDone_heard hin).2.2.2]

theorem placeDone_plans : (placeDone m s).planner.plans
      = (planCompleted m.order.number (unlistedOrder m.order.number (placed m s))).planner.plans
    ∧ (placeDone m s).planner.waiters
      = (planCompleted m.order.number (unlistedOrder m.order.number (placed m s))).planner.waiters := by
  obtain ⟨hp, hw, -, -⟩ := placeDone_heard (s := s) hin
  have hmap := inspectionCompleted_mapped m.order.number
    (planCompleted m.order.number (unlistedOrder m.order.number (placed m s)))
  exact ⟨hp.trans hmap.plans, hw.trans hmap.waiters⟩

/-- A plan has lost its DEMOUNT, or its move is done, or it is over with its riders (R87, R90, R92). -/
theorem placeDone_plan {before after : List Plan} {p : Plan} (hl : s.planner.plans = before ++ p :: after)
    (hb : ∀ q ∈ before, q.holds [m.order.number] = false) (hp : p.holds [m.order.number] = true) :
    (p.demount = some m.order.number → (placeDone m s).planner.plans
        = (s.planner.plans.filter fun q => q.drive ≠ p.drive) ++ [{ p with demount := none }]
      ∧ (placeDone m s).planner.waiters = s.planner.waiters)
      ∧ (p.demount ≠ some m.order.number →
        (p.purpose = .filing → (placeDone m s).planner.plans
            = (s.planner.plans.filter fun q => q.drive ≠ p.drive) ++ [{ p with moved := true }]
          ∧ (placeDone m s).planner.waiters = s.planner.waiters)
        ∧ (p.purpose ≠ .filing → (placeDone m s).planner.plans = (s.planner.plans.filter fun q => q.drive ≠ p.drive)
          ∧ (placeDone m s).planner.waiters = s.planner.waiters.map fun w =>
              if w.plan = some p.drive then { w with plan := none } else w)) := by
  obtain ⟨hplans, hwaiters⟩ := placed_plans m s
  obtain ⟨hp', hw'⟩ := placeDone_plans (s := s) hin
  rw [hp', hw', ← hplans, ← hwaiters]
  rw [← hplans] at hl
  generalize placed m s = a at hl
  obtain ⟨hdem, hfil, hover, himp⟩ := planCompleted_first (s := unlistedOrder m.order.number a) hl hb hp
  refine ⟨fun h => ?_, fun h => ⟨fun hf => ?_, fun hf => ?_⟩⟩
  · rw [hdem h]; exact ⟨rfl, rfl⟩
  · rw [hfil h hf]; exact ⟨rfl, rfl⟩
  · by_cases hother : (∀ id, p.cart ≠ .inspection id) ∨ p.purpose ≠ .importJob
    · rw [hover h hf hother]; exact ⟨rfl, rfl⟩
    · push Not at hother
      obtain ⟨⟨id, hc⟩, hpur⟩ := hother
      rw [himp id h hpur hc]; exact ⟨rfl, rfl⟩

/-- The inspection of an IMPORT plan is in its drive, waiting for it to come up, its request met (R92). -/
theorem placeDone_import {before after : List Plan} {p : Plan} {id : Nat} {i : Inspection} {d : DriveId}
    (hl : s.planner.plans = before ++ p :: after) (hb : ∀ q ∈ before, q.holds [m.order.number] = false)
    (hp : p.holds [m.order.number] = true) (hdem : p.demount ≠ some m.order.number) (hpur : p.purpose = .importJob)
    (hpc : p.cart = .inspection id) (hk : m.order.kind = .inspectLoad) (hc : m.order.cart = .inspection id)
    (hd : m.order.dest = .drive d) (hi : s.insp? id = some i)
    (hids : ∀ e ∈ s.library.inspections, e.order = some m.order.number → e.id = id) :
    (placeDone m s).insp? id = some { i with place := .drive d, phase := .loading, order := none }
      ∧ (placeDone m s).planner.inspReq ≠ some id ∧ ((placeDone m s).drive d).state = .loading
      ∧ ((placeDone m s).drive d).cart = some (.inspection id)
      ∧ ((placeDone m s).drive d).sideUp = some (m.order.side.getD .a) := by
  have hinsp := placed_insp? (m := m) hi
  have hid := insp?_id hi
  have hcarried : carried m i = { i with place := .drive d } := by
    unfold carried
    rw [hid, if_pos hc, hd]
    rfl
  have hdrive := placed_inspection hc hd (s := s)
  have hside : placedSide m s = m.order.side.getD .a := by
    unfold placedSide
    rw [hk]
  have hlib := (placed_frame m s).library
  obtain ⟨hplans, -⟩ := placed_plans m s
  obtain ⟨-, -, hreq, -⟩ := placeDone_heard (s := s) hin
  obtain ⟨hold, hheard⟩ := heard_drive m (placed m s) d
  rw [hreq, placeDone_insp? hin, placeDone_drive, hheard, hdrive, hside]
  rw [hcarried] at hinsp
  rw [← hplans] at hl
  have horders : ∀ e ∈ (placed m s).library.inspections, e.order = some m.order.number → e.id = id := by
    rw [hlib]
    intro e he horder
    obtain ⟨j, hj, rfl⟩ := List.mem_map.1 he
    rw [carried_order] at horder
    rw [carried_id]
    exact hids j hj horder
  generalize placed m s = a at hl hinsp horders
  obtain ⟨-, -, -, himp⟩ := planCompleted_first (s := unlistedOrder m.order.number a) hl hb hp
  have hplan := himp id hdem hpur hpc
  have hquiet : inspectionHeard m.order.number a
      = planCompleted m.order.number (unlistedOrder m.order.number a) := by
    refine inspectionCompleted_none fun e he horder => ?_
    rw [hplan] at he
    obtain ⟨j, hj, rfl⟩ := List.mem_map.1 he
    by_cases hj' : j.id = id
    · rw [if_pos hj'] at horder; cases horder
    · rw [if_neg hj'] at horder
      exact hj' (horders j hj horder)
  rw [hquiet, hplan]
  refine ⟨?_, ?_, rfl, rfl, rfl⟩
  · exact insp?_updInsp_self (s := dropInspReq id (dropPlan p (unlistedOrder m.order.number a)))
      (f := fun i => { i with phase := .loading, order := none }) (fun _ => rfl) hinsp
  · change (if a.planner.inspReq = some id then none else a.planner.inspReq) ≠ some id
    split
    next => simp
    next h => exact h

theorem placeDone_told : (placeDone m s).notices
      = (exportCompleted m.order.number (inspectionHeard m.order.number (placed m s))).notices
    ∧ (placeDone m s).links = (exportCompleted m.order.number (inspectionHeard m.order.number (placed m s))).links
    ∧ (placeDone m s).library = (exportCompleted m.order.number (inspectionHeard m.order.number (placed m s))).library := by
  rw [placeDone_rest, heard_listed hin, tellCompleted_eq]
  exact ⟨rfl, rfl, rfl⟩

/-- The inspection that waited on the order: flipped, shelved, returned, or begun anew (R30, R31, R37). -/
theorem placeDone_inspection {before after : List Inspection} {i : Inspection}
    (hno : ∀ p ∈ s.planner.plans, p.holds [m.order.number] = false) (hl : s.library.inspections = before ++ i :: after)
    (hb : ∀ e ∈ before, e.order ≠ some m.order.number) (hi : i.order = some m.order.number) (hnamed : inspsNamed s)
    (hseq : ∀ e ∈ s.library.inspections, e.id < s.library.inspectionSeq) :
    (∀ d, i.phase = .flipping → m.order.kind = .flip → m.order.cart = .inspection i.id → m.order.dest = .drive d →
        (placeDone m s).insp? i.id = some { i with place := .drive d, order := none }
          ∧ ((placeDone m s).drive d).state = .loading ∧ ((placeDone m s).drive d).cart = some (.inspection i.id)
          ∧ ((placeDone m s).drive d).sideUp = some .b)
      ∧ (i.phase = .shelving → (placeDone m s).insp? i.id = none ∧ ((placeDone m s).source 9).pending = true)
      ∧ (i.phase = .rejecting → (placeDone m s).insp? i.id = none
        ∧ (m.order.cart = .inspection i.id → m.order.dest = .loadingSlot →
          (placeDone m s).library.slot = .rejected ∧ (placeDone m s).library.slotSensor = true))
      ∧ (i.phase = .returning → (placeDone m s).insp? i.id = none ∧ (placeDone m s).library.slot = .arrived
        ∧ ∃ e, (placeDone m s).insp? s.library.inspectionSeq = some e ∧ e.origin = .loadingSlot
          ∧ e.place = .loadingSlot ∧ (e.phase = .waitingSlot ∨ e.phase = .waitingDrive ∧ e.reserved ≠ none
            ∧ (placeDone m s).planner.inspReq = some e.id)) := by
  have hmem : i ∈ s.library.inspections := by rw [hl]; simp
  have hinsp := placed_insp? (m := m) (insp?_of_mem hnamed hmem)
  have hlib := (placed_frame m s).library
  have hlist : (placed m s).library.inspections
      = before.map (carried m) ++ carried m i :: after.map (carried m) := by
    rw [hlib]
    dsimp only
    rw [hl, List.map_append, List.map_cons]
  have hseqs : ∀ e ∈ (placed m s).library.inspections, e.id < (placed m s).library.inspectionSeq := by
    rw [hlib]
    intro e he
    obtain ⟨j, hj, rfl⟩ := List.mem_map.1 he
    rw [carried_id]
    exact hseq j hj
  have hsame : (placed m s).library.inspectionSeq = s.library.inspectionSeq := by rw [hlib]
  have hunplanned := inspectionHeard_unplanned (m := m) hno
  obtain ⟨hflip, hshelve, hreject, hreturn⟩ := inspectionCompleted_first (k := m.order.number)
    (s := unlistedOrder m.order.number (placed m s)) hlist (fun e he => by
      obtain ⟨j, hj, rfl⟩ := List.mem_map.1 he
      rw [carried_order]
      exact hb j hj) ((carried_order m i).trans hi)
  rw [carried_phase, carried_id] at hflip hshelve hreject hreturn
  obtain ⟨-, -, hreq, hlib'⟩ := placeDone_heard (s := s) hin
  have hslot : (placeDone m s).library.slot = (inspectionHeard m.order.number (placed m s)).library.slot
      ∧ (placeDone m s).library.slotSensor = (inspectionHeard m.order.number (placed m s)).library.slotSensor := by
    rw [hlib']
    exact ⟨rfl, rfl⟩
  simp only [placeDone_insp? hin, hslot, hunplanned, hreq]
  refine ⟨fun d hp hk hc hd => ⟨?_, ?_⟩, fun hp => ⟨?_, ?_⟩, fun hp => ⟨?_, fun hc hd => ?_⟩, fun hp => ⟨?_, ?_, ?_⟩⟩
  · have hcarried : carried m i = { i with place := .drive d } := by
      unfold carried
      rw [if_pos hc, hd]
      rfl
    rw [hcarried] at hinsp
    rw [hflip hp]
    exact insp?_updInsp_self (s := unlistedOrder m.order.number (placed m s))
      (f := fun i => { i with order := none }) (fun _ => rfl) hinsp
  · obtain ⟨hold, hheard⟩ := heard_drive m (placed m s) d
    rw [placeDone_drive, hheard, placed_inspection hc hd]
    refine ⟨rfl, rfl, ?_⟩
    unfold placedSide
    rw [hk, hc]
    rfl
  · rw [hshelve hp]
    unfold State.insp?
    rw [(noticeSet_noted ..).library]
    exact endInspection_insp? ..
  · have hset : ((inspectionHeard m.order.number (placed m s)).source 9).pending = true := by
      rw [hunplanned, hshelve hp]
      exact noticeSet_pending _ (by decide) (by decide)
    have htold := exportCompleted_pending m.order.number hset
    unfold State.source at htold ⊢
    rwa [(placeDone_told hin).1]
  · rw [hreject hp]
    exact endInspection_insp? ..
  · obtain ⟨h1, h2⟩ := placed_rejected hc hd (s := s)
    rw [hreject hp, endInspection_only]
    exact ⟨h1, h2⟩
  · rw [hreturn hp]
    exact arrivedAgain_insp? (hsame ▸ hseq i hmem)
  · rw [hreturn hp, arrivedAgain_only]
  · rw [hreturn hp, ← hsame]
    obtain ⟨e, he, -, horigin, hplace, hphase⟩ := arrivedAgain_begun (s := unlistedOrder m.order.number (placed m s)) i.id hseqs
    exact ⟨e, he, horigin, hplace, hphase⟩

/-- The EXPORT that waited on the order is over: off the list, announced and answered (R34). -/
theorem placeDone_export {before after : List ExportEntry} {e : ExportEntry}
    (hl : s.library.exports = before ++ e :: after) (hb : ∀ x ∈ before, x.order ≠ some m.order.number)
    (he : e.order = some m.order.number) :
    (placeDone m s).library.exports = (s.library.exports.filter fun x => x.cart ≠ e.cart)
      ∧ ((placeDone m s).source 11).pending = true
      ∧ (e.replyDue = true → s.awaits e.station e.tag → ((placeDone m s).link e.station).replies
        = (s.link e.station).replies ++ [⟨e.tag, 0x40, .done, .none⟩])
      ∧ (e.replyDue = false → ∀ st : Station, ((placeDone m s).link st).replies = (s.link st).replies) := by
  obtain ⟨hnotices, hlinks, hlibrary⟩ := placeDone_told (s := s) hin
  have hlist : (inspectionHeard m.order.number (placed m s)).library.exports = s.library.exports := by
    rw [inspectionHeard_rest]
    dsimp only
    rw [(placed_frame m s).library]
  have hlink (st : Station) : SameButAttention (s.link st) ((inspectionHeard m.order.number (placed m s)).link st) := by
    obtain ⟨hrest, -⟩ := planCompleted_rest m.order.number (unlistedOrder m.order.number (placed m s))
    have hmap := inspectionCompleted_mapped m.order.number
      (planCompleted m.order.number (unlistedOrder m.order.number (placed m s)))
    refine ((placed_frame m s).link st).trans (.trans ?_ (hmap.link st))
    rw [hrest]
    exact .refl _
  have hdone := exportCompleted_first (hlist.trans hl) hb he
  unfold State.source State.link at *
  rw [hnotices, hlinks, hlibrary, hdone]
  refine ⟨?_, exportDone_source .., fun hr haw => ?_, fun hr st => ?_⟩
  · rw [exportDone_rest, ← hlist]
  · refine ((exportDone_replies e _).1 hr ?_).trans ?_
    · obtain ⟨x, hx, hxt⟩ := haw
      exact ⟨x, (sameButAttention_outstanding (hlink e.station)).symm ▸ hx, hxt⟩
    · exact congrArg (· ++ _) (sameButAttention_replies (hlink e.station))
  · exact ((exportDone_replies e _).2 hr st).trans (sameButAttention_replies (hlink st))

/-- The drive that had asked for the order as its hold order has none pending (R72). -/
theorem placeDone_hold {d : DriveId} (h : (s.drive d).pendingHold = some m.order.number) :
    ((placeDone m s).drive d).pendingHold = none := by
  have hsame : ((exportCompleted m.order.number (inspectionHeard m.order.number (placed m s))).drive d).pendingHold
      = some m.order.number := by
    rw [exportCompleted_rest, inspectionHeard_rest]
    exact ((placed_frame m s).hold d).trans h
  rw [placeDone_drive, heard_listed hin, tellCompleted_eq, holdCompleted_drive]
  exact if_pos hsame

end

end

/-- Settles O42. -/
theorem placeCompletion : Obligations.PlaceCompletion := by
  intro s
  have hexec : exec .placeCompletion s = finished (placeCompleted s) := rfl
  unfold placeCompleted at hexec
  refine ⟨fun h => ?_, fun m hm => ?_⟩
  · rw [h] at hexec
    exact hexec
  intro k inspected holds others
  rw [hm] at hexec
  have hholds (p : Plan) : p.holds [k] = true ↔ holds p := holds_iff
  have hfree {p : Plan} (h : ¬ holds p) : p.holds [k] = false := Bool.eq_false_iff.2 (mt (hholds p).1 h)
  refine ⟨fun hp => ?_, fun d hp hd hbad => ?_, fun hp hready => ?_⟩
  · exact hexec.trans (congrArg finished (if_neg hp))
  · have htaken : placeTaken s m = false := by
      unfold placeTaken
      rw [hd]
      simp only [Bool.and_eq_false_iff, beq_eq_false_iff_ne, ne_eq]
      tauto
    exact hexec.trans (congrArg finished ((if_pos hp).trans (congrArg settle (if_neg (by simp [htaken])))))
  · have htaken : placeTaken s m = true := by
      unfold placeTaken
      split
      next d hd => simp [hready d hd]
      next => rfl
    obtain ⟨hmoving, hgrip, horders⟩ := placeDone_arm m s
    obtain ⟨harb, hret, hret2⟩ := placeDone_level m s
    obtain ⟨hcat, hfee, hrun, hfetch⟩ := placeDone_records m s
    refine ⟨placeDone m s, hexec.trans (congrArg finished ((if_pos hp).trans (congrArg settle (if_pos htaken)))),
      hmoving, hgrip, horders, harb, hret, hret2, hcat, hfee, hrun, hfetch,
      fun n c hn hc hl => placeDone_cartridge hn hc hl, fun hin before p after hl hb hh => ?_,
      fun hin hno before i after hl hb hi hn hseq => ?_, fun hin before e after hl hb he => placeDone_export hin hl hb he,
      fun hin d => placeDone_hold hin⟩
    · have hb' : ∀ q ∈ before, q.holds [k] = false := fun q hq => hfree (hb q hq)
      obtain ⟨hdem, hrest⟩ := placeDone_plan hin hl hb' ((hholds p).2 hh)
      refine ⟨hdem, fun hd => ⟨(hrest hd).1, (hrest hd).2, fun id i d hpur hpc hk hc hdest hi hids => ?_⟩⟩
      exact placeDone_import hin hl hb' ((hholds p).2 hh) hd hpur hpc hk hc hdest hi hids
    · exact placeDone_inspection hin (fun p hp => hfree (hno p hp)) hl hb hi hn hseq

end Sys2Proof.Laws.Places

/-!
PROOF. FAULT_CLEAR (R52, R53, R55): what an ABANDON declares, which orders leave, and what their originators hear; the
obligation O25.
-/

namespace Sys2Proof.Laws.FaultClearing

open Sys2Proof Sys2Proof.Machine Sys2Proof.Laws.Noting Sys2Proof.Laws.RunFrames Sys2Proof.Laws.RunEnds
open Sys2Proof.Laws.Mapping Sys2Proof.Laws.Picks Sys2Proof.Laws.DriveResetting Sys2Proof.Laws.Completion
open Sys2Proof.Laws.Bodies Sys2Proof.Laws.Places

/-! ### The plans that lose an order (R43, R53) -/

theorem replanImport_plans (p : Plan) (s : State) : (replanImport p s).planner.plans = s.planner.plans
    ∧ (replanImport p s).planner.waiters = s.planner.waiters := by
  unfold replanImport
  repeat' split
  all_goals exact ⟨rfl, rfl⟩

/-- The plans dropped are gone, and no waiter rides on one of them. -/
theorem dropPlans_gone (ps : List Plan) (s : State) :
    (∀ q ∈ (ps.foldl (fun s p => replanImport p (dropPlan p s)) s).planner.plans,
        q ∈ s.planner.plans ∧ ∀ p ∈ ps, q.drive ≠ p.drive)
      ∧ ∀ w ∈ (ps.foldl (fun s p => replanImport p (dropPlan p s)) s).planner.waiters,
        (∀ p ∈ ps, w.plan ≠ some p.drive) ∧ (w.plan = none ∨ ∃ v ∈ s.planner.waiters, v.plan = w.plan) := by
  induction ps generalizing s with
  | nil => exact ⟨fun q hq => ⟨hq, by simp⟩, fun w hw => ⟨by simp, .inr ⟨w, hw, rfl⟩⟩⟩
  | cons p ps ih =>
    obtain ⟨hplans, hwaiters⟩ := ih (replanImport p (dropPlan p s))
    rw [(replanImport_plans ..).1] at hplans
    rw [(replanImport_plans ..).2] at hwaiters
    refine ⟨fun q hq => ?_, fun w hw => ?_⟩
    · obtain ⟨hq', hps⟩ := hplans q hq
      obtain ⟨hmem, hne⟩ := List.mem_filter.1 hq'
      exact ⟨hmem, List.forall_mem_cons.2 ⟨by simpa using hne, hps⟩⟩
    · obtain ⟨hps, hfrom⟩ := hwaiters w hw
      have hhere : w.plan ≠ some p.drive ∧ (w.plan = none ∨ ∃ v ∈ s.planner.waiters, v.plan = w.plan) := by
        obtain hnone | ⟨v, hv, hvw⟩ := hfrom
        · exact ⟨by simp [hnone], .inl hnone⟩
        · obtain ⟨u, hu, rfl⟩ := List.mem_map.1 hv
          rw [← hvw]
          split
          next => exact ⟨by simp, .inl rfl⟩
          next h => exact ⟨h, .inr ⟨u, hu, rfl⟩⟩
      exact ⟨List.forall_mem_cons.2 ⟨hhere.1, hps⟩, hhere.2⟩

theorem ordersGone_plans {gone : List MoveOrder} {how : Gone} {s : State} {p : Plan} (hp : p ∈ s.planner.plans)
    (hg : p.holds (gone.map (·.number)) = true) :
    (∀ q ∈ (ordersGone gone how s).planner.plans, q.drive ≠ p.drive)
      ∧ ∀ w ∈ (ordersGone gone how s).planner.waiters, w.plan ≠ some p.drive := by
  have hmem : p ∈ s.planner.plans.filter (·.holds (gone.map (·.number))) := List.mem_filter.2 ⟨hp, hg⟩
  obtain ⟨hplans, hwaiters⟩ := dropPlans_gone (s.planner.plans.filter (·.holds (gone.map (·.number))))
    { s with drives := s.drives.map (holdGone (gone.map (·.number)) how s.holdStart) }
  exact ⟨fun q hq => (hplans q hq).2 p hmem, fun w hw => (hwaiters w hw).1 p hmem⟩

theorem holds_of_mem {p : Plan} {ns : List Nat} {n : Nat} (h : n ∈ p.orders) (hn : n ∈ ns) : p.holds ns = true :=
  List.any_eq_true.2 ⟨n, h, by simpa using hn⟩

/-! ### What an ABANDON declares (R53) -/

/-- The cartridge of the abandoned order is where it was declared, a cartridge of the table only. -/
def declareOrder (at_ : Declared) (r : FaultRec) (s : State) : State :=
  match r.order.cart with
  | .number n => declareCart at_ n s
  | .inspection _ => s

/-- The grip empty, but for a cartridge declared MISSING. -/
def ungripped (at_ : Declared) (s : State) : State :=
  if at_ = .missing then s else s.updArm fun a => { a with gripSensor := false }

/-- The drive of a pick that had not completed has been told (R62). -/
def takenFrom (r : FaultRec) (s : State) : State :=
  match r.order.source with
  | .drive d => if r.phase = .pick then driveTaken d s else s
  | _ => s

/-- The map, the grip and the drive as the declaration leaves them. -/
def declaredState (r : FaultRec) (at_ : Declared) (s : State) : State :=
  takenFrom r (declareSlot at_ r (declareOrder at_ r (ungripped at_ s)))

/-- The inspection that the order belonged to is over, if there is one. -/
def inspectionLost (i : Option Inspection) (s : State) : State :=
  match i with
  | some i => abandonInspection i.id s
  | none => s

/-- The order is off the list, and its originators have heard. -/
def orderLost (r : FaultRec) (s : State) : State :=
  if r.inList then
    inspectionLost (abandonedInspection s r.order)
      (dropOrders [r.order.number] .abandoned (exportAbandoned r.order.number s))
  else s

theorem abandon_eq (r : FaultRec) (double : Bool) (at_ : Declared) (s : State) :
    abandon r double at_ s = stepDown double (orderLost r (declaredState r at_ s)) := by
  unfold abandon orderLost
  cases r.inList <;> rfl

theorem declareOrder_mapped (at_ : Declared) (r : FaultRec) (s : State) : Mapped s (declareOrder at_ r s) := by
  unfold declareOrder declareCart
  cases r.order.cart with
  | inspection id => exact .refl s
  | number n =>
    dsimp only
    split
    · exact (setLocation_mapped ..).trans (wantPasses_mapped 1 _)
    · exact setLocation_mapped ..

theorem declareOrder_library (at_ : Declared) (r : FaultRec) (s : State) :
    (declareOrder at_ r s).library = { s.library with table := (declareOrder at_ r s).library.table }
      ∧ (declareOrder at_ r s).planner = { s.planner with passesDue := (declareOrder at_ r s).planner.passesDue } := by
  unfold declareOrder declareCart
  cases r.order.cart with
  | inspection id => exact ⟨rfl, rfl⟩
  | number n =>
    have hl := setLocation_library n at_.location none s
    have hp := setLocation_planner n at_.location none s
    dsimp only
    split
    · refine ⟨hl, ?_⟩
      unfold State.wantPass State.wantPasses State.updPlanner
      dsimp only
      rw [hp]
    · exact ⟨hl, by rw [hp]⟩

/-- The cartridge of the order, and every other one, as the declaration leaves them (R36). -/
theorem declareOrder_cart (at_ : Declared) (r : FaultRec) (s : State) :
    (∀ n c, r.order.cart = .number n → s.cart? n = some c →
        (declareOrder at_ r s).cart? n = some { c with location := at_.location, sideUp := none })
      ∧ ∀ n, r.order.cart ≠ .number n → (declareOrder at_ r s).cart? n = s.cart? n := by
  unfold declareOrder
  cases r.order.cart with
  | inspection id => exact ⟨fun n c h => (by cases h), fun _ _ => rfl⟩
  | number n =>
    have hcart (m : Nat) : (declareCart at_ n s).cart? m = (setLocation n at_.location none s).cart? m := by
      unfold declareCart
      dsimp only
      split <;> rfl
    refine ⟨fun m c h hc => ?_, fun m h => ?_⟩
    · cases h
      rw [hcart, cart?_setLocation_self, hc]
      rfl
    · rw [hcart, cart?_setLocation_ne]
      rintro rfl
      exact h rfl

theorem takenFrom_cases (r : FaultRec) (s : State) :
    takenFrom r s = s ∨ ∃ d, r.phase = .pick ∧ r.order.source = .drive d ∧ takenFrom r s = driveTaken d s := by
  unfold takenFrom
  cases r.order.source with
  | drive d =>
    dsimp only
    by_cases h : r.phase = .pick
    · exact .inr ⟨d, h, rfl, if_pos h⟩
    · exact .inl (if_neg h)
  | _ => exact .inl rfl

theorem becomeEmpty_passes (d : DriveId) (s : State) : s.planner.passesDue ≤ (becomeEmpty d s).planner.passesDue :=
  Nat.le_succ _

theorem driveTaken_passes (d : DriveId) (s : State) : s.planner.passesDue ≤ (driveTaken d s).planner.passesDue := by
  unfold driveTaken
  cases (s.drive d).state
  case empty => exact le_rfl
  case unloading | ready | standby => exact becomeEmpty_passes d s
  all_goals exact le_rfl

/-- What a drive is told of the taking of its cartridge (R62). -/
theorem driveTaken_drive (d : DriveId) (s : State) :
    let x := s.drive d
    let y := (driveTaken d s).drive d
    (x.state = .unloading ∨ x.state = .ready ∨ x.state = .standby → y.state = .empty)
      ∧ (x.state = .loading ∨ x.state = .waking ∨ x.state = .active → y.state = x.state ∧ y.vacate = true)
      ∧ (x.state = .faulted ∨ x.state = .resetting ∨ x.state = .empty → y.state = x.state)
      ∧ (x.state ≠ .empty → y.cart = none ∧ y.sideUp = none)
      ∧ (x.state = .empty → y.cart = x.cart ∧ y.sideUp = x.sideUp)
      ∧ y.pendingHold = x.pendingHold := by
  intro x y
  simp only [x, y]
  unfold driveTaken
  cases hs : (s.drive d).state
  case empty => simp [hs]
  case unloading | ready | standby => simp [becomeEmpty_drive]
  all_goals simp [State.drive_updDrive_self, hs]

/-- What the declaration leaves alone, and how it leaves the map (R27, R53). -/
structure DeclaredFrame (r : FaultRec) (at_ : Declared) (s t : State) : Prop where
  rest : t = { s with
    library := t.library, drives := t.drives, links := t.links, notices := t.notices
    arm := { s.arm with gripSensor := if at_ = .missing then s.arm.gripSensor else false }
    planner := { s.planner with passesDue := t.planner.passesDue } }
  library : t.library = { s.library with table := t.library.table, slot := t.library.slot }
  passes : s.planner.passesDue ≤ t.planner.passesDue
  link : ∀ st, SameButAttention (s.link st) (t.link st)
  cart : ∀ n c, r.order.cart = .number n → s.cart? n = some c →
    t.cart? n = some { c with location := at_.location, sideUp := none }
  others : ∀ n, r.order.cart ≠ .number n → t.cart? n = s.cart? n
  slot : t.library.slot = (declareSlot at_ r s).library.slot

theorem ungripped_arm (at_ : Declared) (s : State) : ungripped at_ s = { s with
    arm := { s.arm with gripSensor := if at_ = .missing then s.arm.gripSensor else false } } := by
  unfold ungripped
  split <;> rfl

theorem declareSlot_frame (r : FaultRec) (at_ : Declared) (s : State) :
    DeclaredFrame r at_ s (declareSlot at_ r (declareOrder at_ r (ungripped at_ s))) := by
  have hmap := declareOrder_mapped at_ r (ungripped at_ s)
  obtain ⟨hlib, hplan⟩ := declareOrder_library at_ r (ungripped at_ s)
  obtain ⟨hcart, hothers⟩ := declareOrder_cart at_ r (ungripped at_ s)
  rw [ungripped_arm] at hmap hlib hplan hcart hothers ⊢
  generalize declareOrder at_ r _ = u at hmap hlib hplan hcart hothers ⊢
  refine ⟨?_, ?_, hmap.passes, hmap.link, hcart, hothers, ?_⟩
  · unfold declareSlot State.updLibrary
    dsimp only
    rw [hmap.rest, hplan]
  · unfold declareSlot State.updLibrary
    dsimp only
    rw [hlib]
  · unfold declareSlot State.updLibrary
    dsimp only
    rw [hlib]

theorem declared_frame (r : FaultRec) (at_ : Declared) (s : State) : DeclaredFrame r at_ s (declaredState r at_ s) := by
  have h := declareSlot_frame r at_ s
  unfold declaredState
  obtain hsame | ⟨d, -, -, htaken⟩ := takenFrom_cases r (declareSlot at_ r (declareOrder at_ r (ungripped at_ s)))
  · rwa [hsame]
  · have hrest := driveTaken_rest d (declareSlot at_ r (declareOrder at_ r (ungripped at_ s)))
    have hpasses := driveTaken_passes d (declareSlot at_ r (declareOrder at_ r (ungripped at_ s)))
    rw [htaken]
    generalize declareSlot at_ r (declareOrder at_ r (ungripped at_ s)) = u at h hrest hpasses
    generalize driveTaken d u = v at hrest hpasses
    have hlib : v.library = u.library := by rw [hrest]
    refine ⟨by rw [hrest, h.rest], hlib ▸ h.library, h.passes.trans hpasses, fun st => ?_, ?_, ?_, hlib ▸ h.slot⟩
    · have hlink : v.link st = u.link st := by rw [hrest]; rfl
      exact hlink ▸ h.link st
    · have hc (n : Nat) : v.cart? n = u.cart? n := cart?_of_table (congrArg (·.table) hlib) n
      exact fun n c hn hs => (hc n).trans (h.cart n c hn hs)
    · have hc (n : Nat) : v.cart? n = u.cart? n := cart?_of_table (congrArg (·.table) hlib) n
      exact fun n hn => (hc n).trans (h.others n hn)

/-- The drives as the declaration leaves them (R62). -/
theorem declared_drive (r : FaultRec) (at_ : Declared) (s : State) (d : DriveId) :
    (r.phase = .pick → r.order.source = .drive d → ∃ u, (∀ e, u.drive e = s.drive e)
        ∧ declaredState r at_ s = driveTaken d u)
      ∧ (r.phase ≠ .pick ∨ r.order.source ≠ .drive d → (declaredState r at_ s).drive d = s.drive d) := by
  have hdrives : ∀ e, (declareSlot at_ r (declareOrder at_ r (ungripped at_ s))).drive e = s.drive e := by
    intro e
    have hmap := declareOrder_mapped at_ r (ungripped at_ s)
    refine (hmap.drive e).trans ?_
    rw [ungripped_arm]
    rfl
  unfold declaredState
  generalize declareSlot at_ r (declareOrder at_ r (ungripped at_ s)) = u at hdrives
  refine ⟨fun hp hs => ⟨u, hdrives, ?_⟩, fun hno => ?_⟩
  · unfold takenFrom
    rw [hs]
    exact if_pos hp
  · obtain h | ⟨e, hp, hs, h⟩ := takenFrom_cases r u
    · rw [h, hdrives]
    · have hne : d ≠ e := by
        rintro rfl
        exact hno.elim (fun h => h hp) fun h => h hs
      rw [h, driveTaken_drive_ne hne, hdrives]

/-! ### The EXPORT of the order (R35, R53) -/

section
variable {k : Nat} {s : State}

/-- The EXPORT is over: off the list, its mark cleared, and answered ABANDONED. -/
def exportOver (e : ExportEntry) (s : State) : State :=
  replyExport e .abandoned (withPool (fun s => s.updCart e.cart fun c => { c with exportPending := false })
    (s.updLibrary fun l => { l with exports := l.exports.filter fun x => x.cart ≠ e.cart }))

theorem exportAbandoned_none (h : ∀ e ∈ s.library.exports, e.order ≠ some k) : exportAbandoned k s = s := by
  unfold exportAbandoned
  rw [List.find?_eq_none.2 fun e he => by simpa using h e he]

theorem exportAbandoned_first {before after : List ExportEntry} {e : ExportEntry}
    (hl : s.library.exports = before ++ e :: after) (hb : ∀ x ∈ before, x.order ≠ some k) (he : e.order = some k) :
    exportAbandoned k s = exportOver e s := by
  unfold exportAbandoned
  rw [hl, List.find?_append, List.find?_eq_none.2 fun x hx => by simpa using hb x hx, List.find?_cons]
  simp only [he, decide_true, Option.none_or]
  rfl

theorem exportAbandoned_cases (k : Nat) (s : State) :
    exportAbandoned k s = s ∨ ∃ e, exportAbandoned k s = exportOver e s := by
  unfold exportAbandoned
  cases s.library.exports.find? fun e => e.order = some k with
  | none => exact .inl rfl
  | some e => exact .inr ⟨e, rfl⟩

/-- The table with the EXPORT mark of cartridge `n` cleared. -/
def unmarked (n : Nat) (s : State) : State := s.updCart n fun c => { c with exportPending := false }

theorem exportOver_rest (e : ExportEntry) (s : State) : exportOver e s = { s with
    library := { s.library with
      exports := s.library.exports.filter fun x => x.cart ≠ e.cart, table := (unmarked e.cart s).library.table }
    links := (exportOver e s).links, notices := (exportOver e s).notices } := by
  unfold exportOver
  rw [replyExport_rest, (withPool_noted _ _).rest]
  rfl

theorem exportOver_replies (e : ExportEntry) (s : State) (hr : e.replyDue = true) (haw : s.awaits e.station e.tag) :
    ((exportOver e s).link e.station).replies = (s.link e.station).replies ++ [⟨e.tag, 0x40, .abandoned, .none⟩] := by
  unfold exportOver replyExport
  have hnoted := withPool_noted (fun s => s.updCart e.cart fun c => { c with exportPending := false })
    (s.updLibrary fun l => { l with exports := l.exports.filter fun x => x.cart ≠ e.cart })
  generalize withPool (fun s => s.updCart e.cart fun c => { c with exportPending := false })
    (s.updLibrary fun l => { l with exports := l.exports.filter fun x => x.cart ≠ e.cart }) = u at hnoted ⊢
  have hout : ((u.link e.station).outstanding.any fun x => x.tag = e.tag) = true := by
    obtain ⟨x, hx, hxt⟩ := haw
    rw [hnoted.outstanding]
    exact List.any_eq_true.2 ⟨x, hx, by simpa using hxt⟩
  rw [if_pos hr, replyLong_eq, State.link_updLink_self, answered_replies, if_pos hout, hnoted.replies]
  rfl

theorem exportAbandoned_rest (k : Nat) (s : State) : exportAbandoned k s = { s with
    library := { s.library with
      exports := (exportAbandoned k s).library.exports, table := (exportAbandoned k s).library.table }
    links := (exportAbandoned k s).links, notices := (exportAbandoned k s).notices } := by
  obtain h | ⟨e, h⟩ := exportAbandoned_cases k s <;> rw [h]
  rw [exportOver_rest]

/-- Of a cartridge's record at most the EXPORT mark changes. -/
theorem exportAbandoned_cart (k : Nat) (s : State) (n : Nat) :
    ∃ f : Cartridge → Cartridge, (∀ c, f c = { c with exportPending := (f c).exportPending })
      ∧ (exportAbandoned k s).cart? n = (s.cart? n).map f := by
  obtain h | ⟨e, h⟩ := exportAbandoned_cases k s <;> rw [h]
  · exact ⟨id, fun _ => rfl, by simp⟩
  · have htable : (exportOver e s).library.table = (unmarked e.cart s).library.table := by rw [exportOver_rest]
    rw [cart?_of_table htable]
    by_cases hn : n = e.cart
    · subst hn
      exact ⟨fun c => { c with exportPending := false }, fun _ => rfl,
        cart?_updCart_self (f := fun c => { c with exportPending := false }) fun _ => rfl⟩
    · exact ⟨id, fun _ => rfl,
        (cart?_updCart_ne (f := fun c => { c with exportPending := false }) (fun _ => rfl) hn).trans (by simp)⟩

end

/-! ### The order off the list, and its originators (R43, R53) -/

theorem inspectionLost_mapped (i : Option Inspection) (s : State) : Mapped s (inspectionLost i s) := by
  cases i with
  | none => exact .refl s
  | some i => exact abandonInspection_mapped i.id s

theorem inspectionLost_library (i : Option Inspection) (s : State) : (inspectionLost i s).library = { s.library with
    inspections := (inspectionLost i s).library.inspections, lastReject := (inspectionLost i s).library.lastReject } := by
  cases i with
  | none => rfl
  | some i =>
    obtain ⟨u, hu, hr⟩ := abandonInspection_library i.id s
    change (abandonInspection i.id s).library = { s.library with
      inspections := (abandonInspection i.id s).library.inspections
      lastReject := (abandonInspection i.id s).library.lastReject }
    rw [Reslotted.only hr, hu]

/-- An inspection less what hangs on its order, found by its name. -/
theorem insp?_unordered {s t : State} (h : t.library.inspections.map unordered = s.library.inspections.map unordered)
    (id : Nat) : (t.insp? id).map unordered = (s.insp? id).map unordered := by
  have hfind (l : List Inspection) : (l.find? fun i => i.id = id).map unordered
      = (l.map unordered).find? fun i => i.id = id := by
    rw [List.find?_map]
    rfl
  unfold State.insp?
  rw [hfind, hfind, h]

theorem numberRead_unordered (i : Inspection) : (unordered i).numberRead = i.numberRead := rfl

/-- The list without the order, its originators told, before the inspection it belonged to is over. -/
def orderDropped (r : FaultRec) (s : State) : State :=
  dropOrders [r.order.number] .abandoned (exportAbandoned r.order.number s)

theorem orderDropped_insp? (r : FaultRec) (s : State) (id : Nat) :
    ((orderDropped r s).insp? id).map unordered = (s.insp? id).map unordered := by
  refine insp?_unordered ?_ id
  unfold orderDropped
  rw [(dropOrders_frame ..).inspections, exportAbandoned_rest]

section
variable {r : FaultRec} {s : State} (hin : r.inList = true)
include hin

theorem orderLost_eq : orderLost r s = inspectionLost (abandonedInspection s r.order) (orderDropped r s) := if_pos hin

theorem orderLost_arm : (orderLost r s).arm = { s.arm with orders := s.ordersWithout r.order.number } := by
  obtain ⟨harm, -, -⟩ := dropOrders_told r.order.number .abandoned (exportAbandoned r.order.number s)
  rw [orderLost_eq hin, (inspectionLost_mapped ..).arm]
  unfold orderDropped
  rw [harm]
  unfold State.ordersWithout
  rw [exportAbandoned_rest]

/-- What the leaving of the order touches nothing of (R53). -/
theorem orderLost_rest : (orderLost r s).catalogue = s.catalogue ∧ (orderLost r s).fee = s.fee
    ∧ (orderLost r s).fetch = s.fetch ∧ (orderLost r s).run = s.run
    ∧ (orderLost r s).planner.waiters.map (·.id) = s.planner.waiters.map (·.id)
    ∧ (orderLost r s).planner.filingReq = s.planner.filingReq
    ∧ s.planner.passesDue ≤ (orderLost r s).planner.passesDue
    ∧ (orderLost r s).library.slot = s.library.slot
    ∧ (orderLost r s).library.table = (exportAbandoned r.order.number s).library.table
    ∧ (orderLost r s).library.exports.map (·.cart) = (exportAbandoned r.order.number s).library.exports.map (·.cart)
    ∧ ∀ st, ((orderLost r s).link st).replies = ((exportAbandoned r.order.number s).link st).replies := by
  obtain ⟨-, htold, hpasses⟩ := dropOrders_told r.order.number .abandoned (exportAbandoned r.order.number s)
  have hrest := exportAbandoned_rest r.order.number s
  have hmap := inspectionLost_mapped (abandonedInspection s r.order) (orderDropped r s)
  have hlib := inspectionLost_library (abandonedInspection s r.order) (orderDropped r s)
  rw [orderLost_eq hin]
  generalize inspectionLost (abandonedInspection s r.order) (orderDropped r s) = t at hmap hlib
  unfold orderDropped at hmap hlib
  generalize dropOrders [r.order.number] .abandoned (exportAbandoned r.order.number s) = w at htold hpasses hmap hlib
  generalize exportAbandoned r.order.number s = e at htold hpasses hrest
  refine ⟨?_, ?_, ?_, ?_, ?_, ?_, ?_, ?_, ?_, ?_, fun st => ?_⟩
  · rw [hmap.catalogue, htold.catalogue, hrest]
  · rw [hmap.fee, htold.fee, hrest]
  · rw [hmap.fetch, htold.fetch, hrest]
  · rw [hmap.run, htold.run, hrest]
  · rw [hmap.waiters, htold.waiters, hrest]
  · rw [hmap.filingReq, htold.filingReq, hrest]
  · have hsame : e.planner.passesDue = s.planner.passesDue := by rw [hrest]
    have := hmap.passes
    omega
  · rw [hlib]
    dsimp only
    rw [htold.slot, hrest]
  · rw [hlib]
    dsimp only
    rw [htold.table]
  · rw [hlib]
    dsimp only
    rw [htold.exported]
  · rw [hmap.replies, State.link, htold.links]
    rfl

theorem orderLost_drive (d : DriveId) : (orderLost r s).drive d
    = holdGone ((s.leavingWith r.order.number).map (·.number)) .abandoned s.holdStart (s.drive d) := by
  rw [orderLost_eq hin, (inspectionLost_mapped ..).drive]
  unfold orderDropped dropOrders
  dsimp only
  rw [ordersGone_drive, exportAbandoned_rest]
  rfl

theorem orderLost_plans {p : Plan} (hp : p ∈ s.planner.plans) (hg : ∃ o ∈ s.leavingWith r.order.number, o.number ∈ p.orders) :
    (∀ q ∈ (orderLost r s).planner.plans, q.drive ≠ p.drive)
      ∧ ∀ w ∈ (orderLost r s).planner.waiters, w.plan ≠ some p.drive := by
  obtain ⟨o, ho, hop⟩ := hg
  have hmap := inspectionLost_mapped (abandonedInspection s r.order) (orderDropped r s)
  rw [orderLost_eq hin, hmap.plans, hmap.waiters]
  unfold orderDropped dropOrders
  dsimp only
  refine ordersGone_plans (p := p) ?_ ?_
  · rw [exportAbandoned_rest]
    exact hp
  · rw [exportAbandoned_rest]
    exact holds_of_mem hop (List.mem_map_of_mem ho)

/-- The inspection that the order belonged to is over, with its reason and its notice (R32, R53). -/
theorem orderLost_inspection {i : Inspection} (hi : abandonedInspection s r.order = some i) (hs : s.insp? i.id = some i) :
    (orderLost r s).insp? i.id = none ∧ (orderLost r s).library.lastReject = some (.abandoned, i.numberRead)
      ∧ ((orderLost r s).source 10).pending = true := by
  have hfound := orderDropped_insp? r s i.id
  have hnumber : ((orderDropped r s).insp? i.id).bind (·.numberRead) = i.numberRead := by
    rw [hs] at hfound
    obtain ⟨j, hj, hji⟩ := Option.map_eq_some_iff.1 hfound
    rw [hj, Option.bind_some, ← numberRead_unordered, hji, numberRead_unordered]
  obtain ⟨u, hu, hr⟩ := abandonInspection_library i.id (orderDropped r s)
  rw [orderLost_eq hin, hi]
  change (abandonInspection i.id (orderDropped r s)).insp? i.id = none
    ∧ (abandonInspection i.id (orderDropped r s)).library.lastReject = _
    ∧ ((abandonInspection i.id (orderDropped r s)).source 10).pending = true
  refine ⟨?_, ?_, noticeSet_pending _ (by decide) (by decide)⟩
  · rw [insp?_eq_none, hr.ids, hu]
    simp
  · rw [Reslotted.only hr, hu]
    dsimp only
    rw [hnumber]

theorem orderLost_none (hi : abandonedInspection s r.order = none) :
    (orderLost r s).library.lastReject = s.library.lastReject
      ∧ (orderLost r s).library.inspections.map (·.id) = s.library.inspections.map (·.id) := by
  obtain ⟨-, htold, -⟩ := dropOrders_told r.order.number .abandoned (exportAbandoned r.order.number s)
  rw [orderLost_eq hin, hi]
  change (orderDropped r s).library.lastReject = _ ∧ (orderDropped r s).library.inspections.map _ = _
  unfold orderDropped
  rw [htold.lastReject, htold.inspections, exportAbandoned_rest]
  exact ⟨rfl, rfl⟩

end

/-! ### FAULT_CLEAR as a request (R52, R53) -/

section
variable {s : State} {st : Station} {tag : Byte}

theorem retry_eq (h : s.admits st .faultClear tag) (b : Byte) :
    exec (.faultClearRetry st tag [0, b]) s = finished (retryRequest st tag s) :=
  exec_served (r := .faultClear) (b := [0, b]) h (by simp [decodes, byteAt, Req.bodyLength])

theorem abandon_exec (h : s.admits st .faultClear tag) {b : Byte} (hb : b.toNat ≤ 2) :
    exec (.faultClearAbandon st tag [1, b]) s = finished (abandonRequest st tag (declared b.toNat) s) :=
  exec_served (r := .faultClear) (b := [1, b]) h (by simp [decodes, byteAt, Req.bodyLength, hb])

theorem clearRefusal_some {c : Status} (h : clearRefusal s = some c) (at_ : Declared) :
    retryRequest st tag s = addReply st ⟨tag, 0x42, c, .none⟩ s
      ∧ abandonRequest st tag at_ s = addReply st ⟨tag, 0x42, c, .none⟩ s := by
  unfold retryRequest abandonRequest
  rw [h]
  exact ⟨rfl, rfl⟩

theorem refusals {c : Status} (hadm : s.admits st .faultClear tag) (h : clearRefusal s = some c) :
    (∀ b, exec (.faultClearRetry st tag [0, b]) s = finished (addReply st ⟨tag, 0x42, c, .none⟩ s))
      ∧ ∀ b : Byte, b.toNat ≤ 2 →
        exec (.faultClearAbandon st tag [1, b]) s = finished (addReply st ⟨tag, 0x42, c, .none⟩ s) :=
  ⟨fun b => (retry_eq hadm b).trans (congrArg finished (clearRefusal_some h .home).1),
    fun _ hb => (abandon_exec hadm hb).trans (congrArg finished (clearRefusal_some h _).2)⟩

section
variable {r : FaultRec} {double : Bool} (hno : clearRefusal s = none) (hr : actingRecord s = some (r, double))
include hno hr

theorem retryRequest_acting : retryRequest st tag s = if r.settled then clearSettled st tag s
    else settle (rerun r double (addReply st ⟨tag, 0x42, .done, .none⟩ s)) := by
  unfold retryRequest
  rw [hno, hr]

theorem abandonRequest_acting (at_ : Declared) : abandonRequest st tag at_ s = if r.settled then clearSettled st tag s
    else if at_ = .loadingSlot ∧ slotTaken s then refuse st tag 0x42 .slotOccupied s
    else settle (addReply st ⟨tag, 0x42, .done, .none⟩ (abandon r double at_ s)) := by
  unfold abandonRequest
  rw [hno, hr]

end

theorem clearRefusal_none (hl : s.arm.level = .attention ∨ s.arm.level = .double) (hm : s.arm.moving = none) :
    clearRefusal s = none := by
  unfold clearRefusal
  obtain h | h := hl <;> simp [h, hm]

/-- A re-run in TRAVEL, from a shelf slot that reports a cartridge, or into one that reports none, just goes on (R52). -/
theorem rerun_goesOn {r : FaultRec} (double : Bool) {u : State} (h : r.phase = .travel
    ∨ (r.phase = .pick ∧ ∃ n, r.order.source = .shelf n ∧ u.slotReads n = true)
    ∨ (r.phase = .place ∧ ∃ n, r.order.dest = .shelf n ∧ u.slotReads n = false)) :
    rerun r double u = { u with arm := { u.arm with
      orders := if r.inList = true then
          u.arm.orders.map fun o => if o.number = r.order.number then { o with status := .running } else o
        else u.arm.orders
      moving := some ⟨r.order, r.phase, u.seconds, if double then .retrySecondary else .retryPrimary, r.inList⟩ } } := by
  have hset : (if r.inList then setStatus r.order.number .running u else u) = { u with arm := { u.arm with
      orders := if r.inList = true then
          u.arm.orders.map fun o => if o.number = r.order.number then { o with status := .running } else o
        else u.arm.orders } } := by
    split <;> rfl
  unfold rerun
  rw [hset]
  obtain hp | ⟨hp, n, hs, hreads⟩ | ⟨hp, n, hd, hreads⟩ := h
  · rw [hp]
    rfl
  · unfold beginPick
    simp only [hp, State.updArm, hs]
    exact if_pos hreads
  · unfold beginPlace
    simp only [hp, State.updArm, hd]
    exact if_neg (by simpa [State.slotReads] using hreads)

/-- The inspection an order belonged to is found as before the declaration. -/
theorem abandonedInspection_declared (r : FaultRec) (at_ : Declared) (s : State) :
    abandonedInspection (declaredState r at_ s) r.order = abandonedInspection s r.order := by
  have h := declared_frame r at_ s
  have hplans : (declaredState r at_ s).planner.plans = s.planner.plans := by rw [h.rest]
  have hinsps : (declaredState r at_ s).library.inspections = s.library.inspections := by rw [h.library]
  unfold abandonedInspection State.inspOfOrder importOfDemount State.insp?
  rw [hplans, hinsps]

theorem abandonedInspection_mem {o : MoveOrder} {i : Inspection} (h : abandonedInspection s o = some i) :
    i ∈ s.library.inspections := by
  unfold abandonedInspection at h
  cases hc : o.cart with
  | inspection id =>
    simp only [hc] at h
    exact insp?_mem h
  | number n =>
    simp only [hc, Option.or_eq_some_iff] at h
    obtain h | ⟨-, h⟩ := h
    · exact List.mem_of_find?_eq_some h
    · unfold importOfDemount at h
      split at h
      · split at h
        · exact insp?_mem h
        · cases h
      · cases h

theorem leavingWith_self {k : Nat} (h : s.armOrder? k ≠ none) : k ∈ (s.leavingWith k).map (·.number) := by
  obtain ⟨o, ho⟩ := Option.ne_none_iff_exists'.1 h
  have hk : o.number = k := by simpa using List.find?_some ho
  refine List.mem_map.2 ⟨o, List.mem_filter.2 ⟨List.mem_of_find?_eq_some ho, ?_⟩, hk⟩
  rw [hk]
  exact List.contains_iff_mem.2 (withDependents_self 16 (List.mem_singleton_self k))

theorem stepDown_rest (double : Bool) (s : State) : stepDown double s = { s with
    arm := { s.arm with
      level := if double then .attention else .normal
      primary := if double then s.arm.primary else none
      secondary := if double then none else s.arm.secondary }
    planner := { s.planner with passesDue := s.planner.passesDue + 1 } } := by
  cases double <;> rfl

/-! ### What an ABANDON leaves (R27, R53, R62) -/

section
variable {r : FaultRec} {double : Bool} {at_ : Declared}

theorem abandon_rest (r : FaultRec) (double : Bool) (at_ : Declared) (s : State) :
    abandon r double at_ s = { orderLost r (declaredState r at_ s) with
      arm := (abandon r double at_ s).arm
      planner := { (orderLost r (declaredState r at_ s)).planner with
        passesDue := (orderLost r (declaredState r at_ s)).planner.passesDue + 1 } } := by
  rw [abandon_eq, stepDown_rest]

theorem orderLost_unlisted {s : State} (h : r.inList = false) : orderLost r s = s := if_neg (by simp [h])

/-- The arm after an ABANDON: the order and its dependents off the list, the record emptied, the level one down. -/
theorem abandon_arm (hrec : double = false → s.arm.secondary = none) : (abandon r double at_ s).arm = { s.arm with
    orders := if r.inList = true then s.ordersWithout r.order.number else s.arm.orders
    level := if double then .attention else .normal
    primary := if double then s.arm.primary else none
    secondary := none
    gripSensor := if at_ = .missing then s.arm.gripSensor else false } := by
  have hdecl := (declared_frame r at_ s).rest
  have harm : (orderLost r (declaredState r at_ s)).arm = { s.arm with
      orders := if r.inList = true then s.ordersWithout r.order.number else s.arm.orders
      gripSensor := if at_ = .missing then s.arm.gripSensor else false } := by
    cases hin : r.inList with
    | false =>
      rw [orderLost_unlisted hin, hdecl]
      rfl
    | true =>
      rw [orderLost_arm hin]
      unfold State.ordersWithout
      rw [hdecl]
      rfl
  rw [abandon_eq, stepDown_rest]
  dsimp only
  rw [harm]
  cases double with
  | true => rfl
  | false => simp [hrec rfl]

/-- What an ABANDON leaves of the records that hear nothing of it. -/
theorem abandon_records (r : FaultRec) (double : Bool) (at_ : Declared) (s : State) :
    (abandon r double at_ s).planner.waiters.map (·.id) = s.planner.waiters.map (·.id)
      ∧ (abandon r double at_ s).planner.filingReq = s.planner.filingReq
      ∧ s.planner.passesDue < (abandon r double at_ s).planner.passesDue
      ∧ (abandon r double at_ s).catalogue = s.catalogue ∧ (abandon r double at_ s).fee = s.fee
      ∧ (abandon r double at_ s).fetch = s.fetch ∧ (abandon r double at_ s).run = s.run := by
  have hdecl := declared_frame r at_ s
  have hlost : (orderLost r (declaredState r at_ s)).planner.waiters.map (·.id) = s.planner.waiters.map (·.id)
      ∧ (orderLost r (declaredState r at_ s)).planner.filingReq = s.planner.filingReq
      ∧ s.planner.passesDue ≤ (orderLost r (declaredState r at_ s)).planner.passesDue
      ∧ (orderLost r (declaredState r at_ s)).catalogue = s.catalogue
      ∧ (orderLost r (declaredState r at_ s)).fee = s.fee ∧ (orderLost r (declaredState r at_ s)).fetch = s.fetch
      ∧ (orderLost r (declaredState r at_ s)).run = s.run := by
    have hsame : (declaredState r at_ s).planner.waiters = s.planner.waiters
        ∧ (declaredState r at_ s).planner.filingReq = s.planner.filingReq
        ∧ (declaredState r at_ s).catalogue = s.catalogue ∧ (declaredState r at_ s).fee = s.fee
        ∧ (declaredState r at_ s).fetch = s.fetch ∧ (declaredState r at_ s).run = s.run := by
      rw [hdecl.rest]
      exact ⟨rfl, rfl, rfl, rfl, rfl, rfl⟩
    obtain ⟨hw, hf, hcat, hfee, hfetch, hrun⟩ := hsame
    rw [← hw, ← hf, ← hcat, ← hfee, ← hfetch, ← hrun]
    cases hin : r.inList with
    | false =>
      rw [orderLost_unlisted hin]
      exact ⟨rfl, rfl, hdecl.passes, rfl, rfl, rfl, rfl⟩
    | true =>
      obtain ⟨h1, h2, h3, h4, h5, h6, h7, -⟩ := orderLost_rest (s := declaredState r at_ s) hin
      exact ⟨h5, h6, hdecl.passes.trans h7, h1, h2, h3, h4⟩
  obtain ⟨h1, h2, h3, h4, h5, h6, h7⟩ := hlost
  rw [abandon_rest]
  exact ⟨h1, h2, Nat.lt_succ_of_le h3, h4, h5, h6, h7⟩

theorem abandon_library (r : FaultRec) (double : Bool) (at_ : Declared) (s : State) :
    (abandon r double at_ s).library = (orderLost r (declaredState r at_ s)).library := by
  rw [abandon_rest]

/-- Of a record in the table at most the EXPORT mark differs from what was declared. -/
theorem abandon_table (r : FaultRec) (double : Bool) (at_ : Declared) (s : State) (n : Nat) :
    ∃ f : Cartridge → Cartridge, (∀ c, f c = { c with exportPending := (f c).exportPending })
      ∧ (abandon r double at_ s).cart? n = ((declaredState r at_ s).cart? n).map f := by
  cases hin : r.inList with
  | false =>
    refine ⟨id, fun _ => rfl, ?_⟩
    rw [cart?_of_table (congrArg (·.table) (abandon_library ..)), orderLost_unlisted hin]
    simp
  | true =>
    obtain ⟨-, -, -, -, -, -, -, -, htable, -⟩ := orderLost_rest (s := declaredState r at_ s) hin
    obtain ⟨f, hf, hcart⟩ := exportAbandoned_cart r.order.number (declaredState r at_ s) n
    refine ⟨f, hf, ?_⟩
    rw [cart?_of_table ((congrArg (·.table) (abandon_library ..)).trans htable), hcart]

theorem abandon_cart {n : Nat} {c : Cartridge} (hn : r.order.cart = .number n) (hc : s.cart? n = some c) :
    ∃ x, (abandon r double at_ s).cart? n = some x
      ∧ x = { c with location := at_.location, sideUp := none, exportPending := x.exportPending } := by
  obtain ⟨f, hf, hcart⟩ := abandon_table r double at_ s n
  rw [(declared_frame r at_ s).cart n c hn hc] at hcart
  exact ⟨_, hcart, hf _⟩

theorem abandon_others {n : Nat} (hn : r.order.cart ≠ .number n) :
    ((abandon r double at_ s).cart? n).map (fun c => (c.location, c.sideUp))
      = (s.cart? n).map fun c => (c.location, c.sideUp) := by
  obtain ⟨f, hf, hcart⟩ := abandon_table r double at_ s n
  rw [hcart, (declared_frame r at_ s).others n hn, Option.map_map]
  congr 1
  funext c
  rw [Function.comp, hf]

theorem abandon_slot (r : FaultRec) (double : Bool) (at_ : Declared) (s : State) :
    (abandon r double at_ s).library.slot = (declareSlot at_ r s).library.slot := by
  have hdecl := (declared_frame r at_ s).slot
  rw [abandon_library, ← hdecl]
  cases hin : r.inList with
  | false => rw [orderLost_unlisted hin]
  | true =>
    obtain ⟨-, -, -, -, -, -, -, h, -⟩ := orderLost_rest (s := declaredState r at_ s) hin
    exact h

theorem abandon_drive (r : FaultRec) (double : Bool) (at_ : Declared) (s : State) (d : DriveId) :
    (abandon r double at_ s).drive d = if r.inList = true then
        holdGone ((s.leavingWith r.order.number).map (·.number)) .abandoned s.holdStart ((declaredState r at_ s).drive d)
      else (declaredState r at_ s).drive d := by
  have hdecl := (declared_frame r at_ s).rest
  have hleave : (declaredState r at_ s).leavingWith r.order.number = s.leavingWith r.order.number := by
    unfold State.leavingWith
    rw [hdecl]
  have hstart : (declaredState r at_ s).holdStart = s.holdStart := by
    unfold State.holdStart
    rw [hdecl]
  have hdrive : (abandon r double at_ s).drive d = (orderLost r (declaredState r at_ s)).drive d := by
    rw [abandon_rest]
    rfl
  rw [hdrive]
  cases hin : r.inList with
  | false => rw [orderLost_unlisted hin]; rfl
  | true => rw [orderLost_drive hin, hleave, hstart]; rfl

/-- A drive but for its hold order and hold timer is as the declaration left it. -/
theorem abandon_sameButHold (r : FaultRec) (double : Bool) (at_ : Declared) (s : State) (d : DriveId) :
    sameButHold ((declaredState r at_ s).drive d) ((abandon r double at_ s).drive d) := by
  rw [abandon_drive]
  split
  · exact holdGone_sameButHold ..
  · rfl

theorem declared_pendingHold (r : FaultRec) (at_ : Declared) (s : State) (d : DriveId) :
    ((declaredState r at_ s).drive d).pendingHold = (s.drive d).pendingHold := by
  obtain ⟨hpick, hother⟩ := declared_drive r at_ s d
  by_cases h : r.phase = .pick ∧ r.order.source = .drive d
  · obtain ⟨u, hu, hdecl⟩ := hpick h.1 h.2
    obtain ⟨-, -, -, -, -, hhold⟩ := driveTaken_drive d u
    rw [hdecl, hhold, hu]
  · rw [hother (by tauto)]

/-- A pending hold order that leaves is cleared, and the hold timer of a drive in STANDBY starts again (R72). -/
theorem abandon_hold (hin : r.inList = true) {d : DriveId} (hk : s.armOrder? r.order.number ≠ none)
    (hh : (s.drive d).pendingHold = some r.order.number) :
    ((abandon r double at_ s).drive d).pendingHold = none
      ∧ (((abandon r double at_ s).drive d).state = .standby → ((abandon r double at_ s).drive d).hold = s.holdStart) := by
  have hhold := (declared_pendingHold r at_ s d).trans hh
  have hmem := leavingWith_self hk
  rw [abandon_drive, if_pos hin]
  generalize (declaredState r at_ s).drive d = x at hhold
  unfold holdGone
  rw [hhold]
  dsimp only
  rw [if_pos (List.contains_iff_mem.2 hmem)]
  exact ⟨rfl, fun h => if_pos ⟨rfl, h⟩⟩

section
variable (hin : r.inList = true)
include hin

/-- The inspection the order belonged to is over (R32). -/
theorem abandon_inspection (hn : inspsNamed s) {i : Inspection} (hi : abandonedInspection s r.order = some i) :
    (abandon r double at_ s).insp? i.id = none ∧ (abandon r double at_ s).library.lastReject = some (.abandoned, i.numberRead)
      ∧ ((abandon r double at_ s).source 10).pending = true := by
  have hinsp : (declaredState r at_ s).insp? i.id = some i := by
    unfold State.insp?
    rw [(declared_frame r at_ s).library]
    exact insp?_of_mem hn (abandonedInspection_mem hi)
  obtain ⟨h1, h2, h3⟩ := orderLost_inspection hin ((abandonedInspection_declared r at_ s).trans hi) hinsp
  rw [abandon_rest]
  exact ⟨h1, h2, h3⟩

theorem abandon_noInspection (hi : abandonedInspection s r.order = none) :
    (abandon r double at_ s).library.lastReject = s.library.lastReject
      ∧ (abandon r double at_ s).library.inspections.map (·.id) = s.library.inspections.map (·.id) := by
  obtain ⟨h1, h2⟩ := orderLost_none hin ((abandonedInspection_declared r at_ s).trans hi)
  rw [abandon_library, h1, h2, (declared_frame r at_ s).library]
  exact ⟨rfl, rfl⟩

theorem abandon_plans {p : Plan} (hp : p ∈ s.planner.plans) (hg : ∃ o ∈ s.leavingWith r.order.number, o.number ∈ p.orders) :
    (∀ q ∈ (abandon r double at_ s).planner.plans, q.drive ≠ p.drive)
      ∧ ∀ w ∈ (abandon r double at_ s).planner.waiters, w.plan ≠ some p.drive := by
  have hdecl := (declared_frame r at_ s).rest
  have hlost := orderLost_plans (r := r) (s := declaredState r at_ s) hin (p := p)
    (by rw [hdecl]; exact hp) (by unfold State.leavingWith at hg ⊢; rw [hdecl]; exact hg)
  rw [abandon_rest]
  exact hlost

theorem abandon_exported : (abandon r double at_ s).library.exports.map (·.cart)
      = (exportAbandoned r.order.number (declaredState r at_ s)).library.exports.map (·.cart)
    ∧ (∀ n, (abandon r double at_ s).cart? n = (exportAbandoned r.order.number (declaredState r at_ s)).cart? n)
    ∧ ∀ st, ((abandon r double at_ s).link st).replies
      = ((exportAbandoned r.order.number (declaredState r at_ s)).link st).replies := by
  obtain ⟨-, -, -, -, -, -, -, -, htable, hexports, hlinks⟩ := orderLost_rest (s := declaredState r at_ s) hin
  refine ⟨?_, fun n => ?_, fun st => ?_⟩
  · rw [abandon_library, hexports]
  · exact cart?_of_table ((congrArg (·.table) (abandon_library ..)).trans htable) n
  · rw [← hlinks, abandon_rest]
    rfl

/-- The EXPORT of the order is answered ABANDONED, off the list and its mark cleared (R35). -/
theorem abandon_export {before after : List ExportEntry} {e : ExportEntry}
    (hl : s.library.exports = before ++ e :: after) (hb : ∀ x ∈ before, x.order ≠ some r.order.number)
    (he : e.order = some r.order.number) :
    (abandon r double at_ s).library.exports.map (·.cart)
        = (s.library.exports.filter fun x => x.cart ≠ e.cart).map (·.cart)
      ∧ (∀ c, (abandon r double at_ s).cart? e.cart = some c → c.exportPending = false)
      ∧ (e.replyDue = true → s.awaits e.station e.tag → ((abandon r double at_ s).link e.station).replies
        = (s.link e.station).replies ++ [⟨e.tag, 0x40, .abandoned, .none⟩]) := by
  obtain ⟨hexports, hcart, hlinks⟩ := abandon_exported (s := s) (double := double) (at_ := at_) hin
  have hdecl := declared_frame r at_ s
  have hlist : (declaredState r at_ s).library.exports = s.library.exports := by rw [hdecl.library]
  have hover := exportAbandoned_first (hlist.trans hl) hb he
  rw [hexports, hcart, hlinks, hover]
  refine ⟨by rw [exportOver_rest, hlist], fun c hc => ?_, fun hr haw => ?_⟩
  · have htable : (exportOver e (declaredState r at_ s)).library.table
        = (unmarked e.cart (declaredState r at_ s)).library.table := by rw [exportOver_rest]
    rw [cart?_of_table htable] at hc
    have hun := cart?_updCart_self (s := declaredState r at_ s) (n := e.cart)
      (f := fun c => { c with exportPending := false }) fun _ => rfl
    obtain ⟨x, -, rfl⟩ := Option.map_eq_some_iff.1 (hun.symm.trans hc)
    rfl
  · have hlink := hdecl.link e.station
    rw [exportOver_replies e _ hr, sameButAttention_replies hlink]
    obtain ⟨x, hx, hxt⟩ := haw
    exact ⟨x, (sameButAttention_outstanding hlink).symm ▸ hx, hxt⟩

theorem abandon_noExport (h : ∀ e ∈ s.library.exports, e.order ≠ some r.order.number) :
    (abandon r double at_ s).library.exports.map (·.cart) = s.library.exports.map (·.cart)
      ∧ ∀ x, ((abandon r double at_ s).link x).replies = (s.link x).replies := by
  obtain ⟨hexports, -, hlinks⟩ := abandon_exported (s := s) (double := double) (at_ := at_) hin
  have hdecl := declared_frame r at_ s
  have hlist : (declaredState r at_ s).library.exports = s.library.exports := by rw [hdecl.library]
  have hnone : exportAbandoned r.order.number (declaredState r at_ s) = declaredState r at_ s :=
    exportAbandoned_none (hlist ▸ h)
  rw [hexports, hnone, hlist]
  exact ⟨rfl, fun x => by rw [hlinks, hnone, sameButAttention_replies (hdecl.link x)]⟩

end

/-- The move of an order outside the list has no originator to tell. -/
theorem abandon_unlisted (hin : r.inList = false) : (abandon r double at_ s).library.exports = s.library.exports
    ∧ (abandon r double at_ s).planner.plans = s.planner.plans
    ∧ (abandon r double at_ s).library.inspections = s.library.inspections := by
  have hdecl := declared_frame r at_ s
  have hplans : (declaredState r at_ s).planner.plans = s.planner.plans := by rw [hdecl.rest]
  rw [abandon_rest, orderLost_unlisted hin, hdecl.library]
  exact ⟨rfl, hplans, rfl⟩

end

end

/-- Settles O25. -/
theorem faultClear : Obligations.FaultClear := by
  intro s st tag hadm retry abandonWith no refused
  refine ⟨fun h => ?_, fun h => ?_, fun hl hm => ?_, fun hm r hl hsec hp hset => ?_, fun hm r double hset hrec => ?_⟩
  · exact refusals hadm (by simp [clearRefusal, h])
  · exact refusals hadm (by simp [clearRefusal, h])
  · refine refusals hadm ?_
    obtain ⟨m, hm⟩ := Option.ne_none_iff_exists'.1 hm
    obtain h | h := hl <;> simp [clearRefusal, h, hm]
  · have hno := clearRefusal_none (.inl hl) hm
    have hr : actingRecord s = some (r, false) := by simp [actingRecord, hsec, hp]
    refine ⟨fun b => (retry_eq hadm b).trans (congrArg finished ?_), fun b hb => (abandon_exec hadm hb).trans (congrArg finished ?_)⟩
    · exact (retryRequest_acting hno hr).trans (if_pos hset)
    · exact (abandonRequest_acting hno hr _).trans (if_pos hset)
  · have hlevel : s.arm.level = .attention ∨ s.arm.level = .double := by
      cases double with
      | true => exact .inr hrec.1
      | false => exact .inl hrec.1
    have hno := clearRefusal_none hlevel hm
    have hr : actingRecord s = some (r, double) := by
      cases double with
      | true => simp [actingRecord, hrec.2]
      | false =>
        obtain ⟨-, hsec, hp⟩ := hrec
        simp [actingRecord, hsec, hp]
    have hsec : double = false → s.arm.secondary = none := by
      rintro rfl
      exact hrec.2.1
    intro k
    have hretry (b : Byte) : retry b = followed (rerun r double (addReply st ⟨tag, 0x42, .done, .none⟩ s)) :=
      (retry_eq hadm b).trans (congrArg finished ((retryRequest_acting hno hr).trans (if_neg (by simp [hset]))))
    refine ⟨hretry, fun b h => (hretry b).trans (congrArg followed (rerun_goesOn double h)), fun h => ?_, fun b hb hslot => ?_⟩
    · refine (abandon_exec hadm (by decide)).trans (congrArg finished ?_)
      refine (abandonRequest_acting hno hr _).trans ((if_neg (by simp [hset])).trans (if_pos ⟨rfl, ?_⟩))
      unfold slotTaken
      obtain h | h | h := h <;> simp [h]
    · have hat : b = 0 ∧ declared b.toNat = .home ∨ b = 1 ∧ declared b.toNat = .loadingSlot
          ∨ b = 2 ∧ declared b.toNat = .missing := by
        have hcases : b.toNat = 0 ∨ b.toNat = 1 ∨ b.toNat = 2 := by omega
        obtain h | h | h := hcases <;> rw [h]
        · exact .inl ⟨BitVec.eq_of_toNat_eq h, rfl⟩
        · exact .inr (.inl ⟨BitVec.eq_of_toNat_eq h, rfl⟩)
        · exact .inr (.inr ⟨BitVec.eq_of_toNat_eq h, rfl⟩)
      have htaken : ¬ (declared b.toNat = .loadingSlot ∧ slotTaken s = true) := by
        rintro ⟨h, ht⟩
        obtain ⟨-, h'⟩ | ⟨hb1, -⟩ | ⟨-, h'⟩ := hat
        · simp [h'] at h
        · unfold slotTaken at ht
          obtain hs | hs := hslot hb1 <;> simp [hs] at ht
        · simp [h'] at h
      obtain ⟨hw, hfil, hpass, hcat, hfee, hfetch, hrun⟩ := abandon_records r double (declared b.toNat) s
      have hgrip : (if declared b.toNat = .missing then s.arm.gripSensor else false)
          = if b = 2 then s.arm.gripSensor else false := by
        obtain ⟨h1, h2⟩ | ⟨h1, h2⟩ | ⟨h1, h2⟩ := hat <;> rw [h2, h1] <;> rfl
      have hloc : (declared b.toNat).location = if b = 0 then .shelf else if b = 1 then .loadingSlot else .missing := by
        obtain ⟨h1, h2⟩ | ⟨h1, h2⟩ | ⟨h1, h2⟩ := hat <;> rw [h2, h1] <;> rfl
      have harm := abandon_arm (r := r) (at_ := declared b.toNat) hsec
      rw [hgrip] at harm
      refine ⟨abandon r double (declared b.toNat) s, ?_, harm, fun hin o ho hk => ?_, fun n c hn hc => ?_,
        fun n => abandon_others, ?_, fun d => ?_, fun hin => ⟨fun p => abandon_plans hin, fun d => abandon_hold hin,
        fun i hn hi => abandon_inspection hin hn hi, abandon_noInspection hin, fun before e after hl hb he =>
        abandon_export hin hl hb he, abandon_noExport hin⟩, abandon_unlisted, hw, hfil, hpass, hcat, hfee, hfetch, hrun⟩
      · exact (abandon_exec hadm hb).trans (congrArg finished ((abandonRequest_acting hno hr _).trans
          ((if_neg (by simp [hset])).trans (if_neg htaken))))
      · rw [harm]
        simp only [hin, if_true]
        exact not_mem_ordersWithout ho hk
      · obtain ⟨x, hx, hxe⟩ := abandon_cart (double := double) (at_ := declared b.toNat) hn hc
        rw [hloc] at hxe
        exact ⟨x, hx, hxe⟩
      · rw [abandon_slot]
        unfold declareSlot State.updLibrary
        obtain ⟨h1, h2⟩ | ⟨h1, h2⟩ | ⟨h1, h2⟩ := hat <;> rw [h2, h1] <;> cases r.order.cart <;> rfl
      · obtain ⟨hpick, hother⟩ := declared_drive r (declared b.toNat) s d
        have hsame := abandon_sameButHold r double (declared b.toNat) s d
        unfold sameButHold at hsame
        intro x y
        refine ⟨fun hp hs => ?_, fun h => ?_⟩
        · obtain ⟨u, hu, hdecl⟩ := hpick hp hs
          have htold := driveTaken_drive d u
          rw [hdecl] at hsame
          simp only [x, y]
          rw [hsame, ← hu]
          obtain ⟨h1, h2, h3, h4, h5, -⟩ := htold
          exact ⟨h1, h2, h3, h4, h5⟩
        · simp only [x, y]
          rw [hsame, hother h]
          exact ⟨rfl, rfl, rfl, rfl⟩

end Sys2Proof.Laws.FaultClearing

/-!
PROOF. What the ends of fetches and of runs leave of every record (R114, R140): the layer that the statements about faults,
the halt and link resets rest on. `Settles s t` says what any number of them, in any order, can have changed.
-/

namespace Sys2Proof.Laws.Settling

open Sys2Proof Sys2Proof.Machine Sys2Proof.Laws.Noting Sys2Proof.Laws.Cabinets Sys2Proof.Laws.RunFrames
open Sys2Proof.Laws.RunEnds Sys2Proof.Laws.Completion

/-- The run has a pending request of this name. -/
def asks (r : Run) (id : FetchId) : Prop := id.station = r.owner ∧ (r.openTag = some id.tag ∨ r.closeTag = some id.tag)

/-- The requests that the ends of fetches and of runs answer: those of fetches, and the pending ones of the run. -/
def settleable (s : State) (id : FetchId) : Prop := asks s.run id ∨ ∃ o ∈ s.fetch.orders, o.id = id

/-- The changes of a drive that the ends of fetches and of runs can make. -/
structure DriveSettles (x y : Drive) : Prop where
  rest : y = { x with
    pin := y.pin, idle := y.idle, unit := y.unit, pendingHold := y.pendingHold, hold := y.hold, queue := y.queue }
  work : y.unit.map (·.work) = x.unit.map (·.work)
  idle : x.idle = none → y.idle = none
  hold : x.state ≠ .standby → x.hold = none → y.hold = none
  queue : y.queue.Sublist x.queue

/-- The changes of a station's context that they can make: replies at the end, and entries of the requests in `p` gone. -/
structure LinkSettles (p : Byte → Prop) (l m : Link) : Prop where
  replies : l.replies <+: m.replies
  awaits : ∀ g, (∃ e ∈ l.outstanding, e.tag = g) → ¬ p g → ∃ e ∈ m.outstanding, e.tag = g

structure Settles (s t : State) : Prop where
  rest : t = { s with
    catalogue := t.catalogue, library := t.library, arm := t.arm, drives := t.drives, planner := t.planner, run := t.run
    fetch := t.fetch, fee := t.fee, links := t.links, notices := t.notices }
  library : t.library = { s.library with
    table := t.library.table, volumes := t.library.volumes, nextVol := t.library.nextVol
    inspections := t.library.inspections, exports := t.library.exports, probeDue := t.library.probeDue }
  carts : t.library.table.map sideless = s.library.table.map sideless
  inspections : t.library.inspections.map unordered = s.library.inspections.map unordered
  listed : t.library.exports.map orderless = s.library.exports.map orderless
  arm : t.arm = { s.arm with orders := t.arm.orders }
  orders : t.arm.orders.Sublist s.arm.orders
  plans : s.planner.plans = [] → t.planner.plans = []
  drive : ∀ d, DriveSettles (s.drive d) (t.drive d)
  passes : s.planner.passesDue ≤ t.planner.passesDue
  kept : ∀ id i, s.insp? id = some i → atEase i → t.insp? id = some i
  pending : ∀ i, (s.source i).pending = true → (t.source i).pending = true
  fetches : t.fetch.orders.Sublist s.fetch.orders
  order? : ∀ id, t.order? id = none ∨ t.order? id = s.order? id
  asks : ∀ id, asks t.run id → asks s.run id
  link : ∀ st, LinkSettles (fun g => settleable s ⟨st, g⟩) (s.link st) (t.link st)

theorem DriveSettles.refl (x : Drive) : DriveSettles x x := ⟨rfl, rfl, id, fun _ => id, .refl _⟩

theorem DriveSettles.trans {x y z : Drive} (h : DriveSettles x y) (k : DriveSettles y z) : DriveSettles x z where
  rest := by rw [k.rest, h.rest]
  work := k.work.trans h.work
  idle hx := k.idle (h.idle hx)
  hold hs hx := k.hold (by rwa [h.rest]) (h.hold hs hx)
  queue := k.queue.trans h.queue

theorem LinkSettles.refl (p : Byte → Prop) (l : Link) : LinkSettles p l l := ⟨List.prefix_refl _, fun _ h _ => h⟩

theorem LinkSettles.trans {p q : Byte → Prop} {l m n : Link} (h : LinkSettles p l m) (k : LinkSettles q m n)
    (hq : ∀ g, q g → p g) : LinkSettles p l n :=
  ⟨h.replies.trans k.replies, fun g hg hp => k.awaits g (h.awaits g hg hp) fun h => hp (hq g h)⟩

theorem LinkSettles.of_same {p : Byte → Prop} {l m : Link} (h : SameButAttention l m) : LinkSettles p l m :=
  ⟨by rw [sameButAttention_replies h], fun _ hg _ => by rwa [sameButAttention_outstanding h]⟩

/-- An answer is at the end of the replies, and its own request alone is no longer outstanding (R184). -/
theorem LinkSettles.answered {p : Byte → Prop} (r : Reply) (l : Link) (hp : p r.tag) :
    LinkSettles p l (answered r l) where
  replies := by
    rw [answered_replies]
    split
    · exact List.prefix_append _ _
    · exact List.prefix_refl _
  awaits g hg hn := FileRequests.mem_outstanding_answered (fun h => hn (h ▸ hp)) hg

theorem LinkSettles.answeredIf {p : Byte → Prop} {tag : Option Byte} {r : Byte → Reply} (l : Link)
    (hp : ∀ g, tag = some g → p (r g).tag) : LinkSettles p l (answeredIf tag r l) := by
  cases tag with
  | none => exact .refl p l
  | some g => exact .answered _ l (hp g rfl)

theorem Settles.refl (s : State) : Settles s s :=
  ⟨rfl, rfl, rfl, rfl, rfl, rfl, .refl _, id, fun _ => .refl _, le_rfl, fun _ _ h _ => h, fun _ h => h, .refl _,
    fun _ => .inr rfl, fun _ h => h, fun _ => .refl _ _⟩

theorem Settles.trans {a b c : State} (h : Settles a b) (k : Settles b c) : Settles a c where
  rest := by rw [k.rest, h.rest]
  library := by rw [k.library, h.library]
  carts := k.carts.trans h.carts
  inspections := k.inspections.trans h.inspections
  listed := k.listed.trans h.listed
  arm := by rw [k.arm, h.arm]
  orders := k.orders.trans h.orders
  plans hp := k.plans (h.plans hp)
  drive d := (h.drive d).trans (k.drive d)
  passes := h.passes.trans k.passes
  kept id i hi he := k.kept id i (h.kept id i hi he) he
  pending i hi := k.pending i (h.pending i hi)
  fetches := k.fetches.trans h.fetches
  order? id := (k.order? id).elim .inl fun hk => hk ▸ h.order? id
  asks id hc := h.asks id (k.asks id hc)
  link st := (h.link st).trans (k.link st) fun _ => .imp (h.asks _) fun ⟨o, ho, hid⟩ => ⟨o, h.fetches.subset ho, hid⟩

/-- What leaves the pending requests of the run settles. -/
theorem Settles.of_runFrame {s t : State} (h : RunFrame s t) (ha : ∀ id, Settling.asks t.run id → Settling.asks s.run id) :
    Settles s t where
  rest := by rw [h.rest]
  library := h.library
  carts := h.carts
  inspections := h.inspections
  listed := h.listed
  arm := h.arm
  orders := h.orders
  plans := h.plans
  drive d := ⟨by rw [h.drive d], h.work d, h.idle d, h.hold d, by rw [h.drive d]⟩
  passes := h.passes
  kept := h.kept
  pending := h.pending
  fetches := by rw [h.fetch]
  order? id := .inr (by rw [State.order?, h.fetch]; rfl)
  asks := ha
  link st := .of_same (h.link st)

theorem Settles.noted {s t : State} (h : Noted s t) : Settles s t :=
  .of_runFrame (Noted.runFrame h) fun _ hi => by rwa [h.run] at hi

theorem noticeSet_settles (i : Nat) (s : State) : Settles s (noticeSet i s) := .noted (noticeSet_noted i s)

/-- The planner's records alone. -/
theorem planner_settles {s : State} {q : Planner} (hp : s.planner.passesDue ≤ q.passesDue)
    (hq : s.planner.plans = [] → q.plans = []) : Settles s { s with planner := q } :=
  ⟨rfl, rfl, rfl, rfl, rfl, rfl, .refl _, hq, fun _ => .refl _, hp, fun _ _ h _ => h, fun _ h => h, .refl _,
    fun _ => .inr rfl, fun _ h => h, fun _ => .refl _ _⟩

theorem wantPass_settles (s : State) : Settles s s.wantPass := planner_settles (Nat.le_add_right _ _) id

/-- A drive alone. -/
theorem updDrive_settles {s : State} {d : DriveId} {f : Drive → Drive} (h : DriveSettles (s.drive d) (f (s.drive d))) :
    Settles s (s.updDrive d f) where
  rest := rfl
  library := rfl
  carts := rfl
  inspections := rfl
  listed := rfl
  arm := rfl
  orders := .refl _
  plans := id
  drive e := by
    rw [State.drive_updDrive]
    split
    next he => rw [he]; exact h
    next => exact .refl _
  passes := le_rfl
  kept _ _ h _ := h
  pending _ h := h
  fetches := .refl _
  order? _ := .inr rfl
  asks _ h := h
  link _ := .refl _ _

theorem tryWithdraw_settles (n : Nat) (s : State) : Settles s (tryWithdraw n s) :=
  .of_runFrame (tryWithdraw_frame n s) fun _ h => by rwa [(tryWithdraw_cabinet n s).run] at h

/-! ### The completion of fetches (R140) -/

theorem removeWaiter_settles (id : FetchId) (s : State) : Settles s (removeWaiter id s) := by
  unfold removeWaiter
  split
  · exact .refl s
  · have hw : Settles s (s.updPlanner fun q => { q with waiters := q.waiters.filter fun w => w.id ≠ id }) :=
      planner_settles le_rfl fun h => h
    dsimp only
    split
    · exact hw
    · split
      · exact hw
      · split
        · exact hw.trans (tryWithdraw_settles _ _)
        · exact hw

theorem endUnitLater_settles (d : DriveId) (s : State) : Settles s (endUnitLater d s) :=
  updDrive_settles ⟨rfl, by cases (s.drive d).unit <;> rfl, id, fun _ => id, .refl _⟩

theorem takeOut_settles (o : FetchOrder) (s : State) : Settles s (takeOut o s) := by
  unfold takeOut
  split
  · exact removeWaiter_settles ..
  next d _ =>
    have hq (u : State) : Settles u (u.updDrive d fun x => { x with queue := x.queue.filter (· ≠ o.id) }) :=
      updDrive_settles ⟨rfl, rfl, id, fun _ => id, List.filter_sublist⟩
    dsimp only
    split_ifs
    · exact ((endUnitLater_settles d s).trans (hq _)).trans (wantPass_settles _)
    · exact (endUnitLater_settles d s).trans (hq _)
    · exact (hq _).trans (wantPass_settles _)
    · exact hq _

theorem freed_order? (o : FetchOrder) (s : State) (id : FetchId) :
    (freed o s.fetch).orders.find? (fun x => x.id = id) = if id = o.id then none else s.order? id := by
  unfold freed State.order?
  dsimp only
  rw [List.find?_filter]
  split
  next h => exact List.find?_eq_none.2 fun x _ => by simp [h]
  next h =>
    congr 1
    funext x
    by_cases hx : x.id = id <;> simp [hx, h]

theorem completeFetch_none {s : State} {id : FetchId} (h : s.order? id = none) (outcome : Status) :
    completeFetch id outcome s = s := by
  unfold completeFetch
  rw [h]

theorem withoutPages_settles (p : Byte → Prop) (o : FetchOrder) (l : Link) : LinkSettles p l (withoutPages o l) := by
  unfold withoutPages
  rw [orphanFrame_rest]
  exact ⟨List.prefix_refl _, fun _ h _ => h⟩

theorem order?_mem {s : State} {id : FetchId} {o : FetchOrder} (h : s.order? id = some o) : o ∈ s.fetch.orders :=
  List.mem_of_find?_eq_some h

theorem completeFetch_order? {s : State} {o : FetchOrder} (h : s.order? o.id = some o) (outcome : Status) (id : FetchId) :
    (completeFetch o.id outcome s).order? id = if id = o.id then none else s.order? id := by
  rw [State.order?, completeFetch_rest h]
  exact freed_order? o s id

theorem completeFetch_settles (id : FetchId) (outcome : Status) (s : State) : Settles s (completeFetch id outcome s) := by
  cases h : s.order? id with
  | none => rw [completeFetch_none h]; exact .refl s
  | some o =>
    obtain rfl := order?_id h
    have k := takeOut_settles o s
    have hr := completeFetch_rest h outcome
    exact
      { rest := by rw [hr, k.rest]
        library := by rw [hr]; exact k.library
        carts := by rw [hr]; exact k.carts
        inspections := by rw [hr]; exact k.inspections
        listed := by rw [hr]; exact k.listed
        arm := by rw [hr]; exact k.arm
        orders := by rw [hr]; exact k.orders
        plans := fun hp => by rw [hr]; exact k.plans hp
        drive := fun d => by rw [hr]; exact k.drive d
        passes := by rw [hr]; exact k.passes
        kept := fun id i hi he => by rw [hr]; exact k.kept id i hi he
        pending := fun i hi => completeFetch_pending h outcome hi
        fetches := by rw [hr]; exact List.filter_sublist
        order? := fun id => by
          rw [completeFetch_order? h]
          split
          · exact .inl rfl
          · exact .inr rfl
        asks := fun id hi => by rw [hr] at hi; exact k.asks id hi
        link := fun st => by
          have hl := completeFetch_link h outcome st
          split at hl
          next hst =>
            refine .trans (.trans (withoutPages_settles (fun g => settleable s ⟨st, g⟩) o (s.link st)) ?_ fun _ h => h)
              (.of_same (p := fun _ => False) hl) nofun
            exact .answered _ _ (.inr ⟨o, order?_mem h, by rw [hst]; rfl⟩)
          next => exact .of_same hl }

theorem completeAll_settles (ids : List FetchId) (outcome : Status) (s : State) : Settles s (completeAll ids outcome s) := by
  unfold completeAll
  induction ids generalizing s with
  | nil => exact .refl s
  | cons id ids ih => exact (completeFetch_settles id outcome s).trans (ih _)

/-! ### The failure of a run (R114) -/

theorem closeRun_settles (s : State) : Settles s (closeRun s) :=
  .of_runFrame (closeRun_frame s) fun _ h => by simp [asks, closeRun, State.updRun] at h

/-- An answer to a pending request of the run, after which it is no longer pending. -/
theorem answer_settles {s : State} {tag : Option Byte} {r : Byte → Reply} {f : Run → Run}
    (ht : ∀ g, tag = some g → (r g).tag = g ∧ asks s.run ⟨s.run.owner, g⟩)
    (ha : ∀ id, asks (f s.run) id → asks s.run id) :
    Settles s ((s.updLink s.run.owner (answeredIf tag r)).updRun f) where
  rest := rfl
  library := rfl
  carts := rfl
  inspections := rfl
  listed := rfl
  arm := rfl
  orders := .refl _
  plans := id
  drive _ := .refl _
  passes := le_rfl
  kept _ _ h _ := h
  pending _ h := h
  fetches := .refl _
  order? _ := .inr rfl
  asks := ha
  link st := by
    rw [State.link_updRun, State.link_updLink]
    split
    next hst =>
      rw [hst]
      exact .answeredIf _ fun g hg => by
        obtain ⟨htag, hasks⟩ := ht g hg
        rw [htag]
        exact .inl hasks
    next => exact .refl _ _

theorem replyOpen_settles (c : Status) (b : ReplyBody) (s : State) : Settles s (replyOpen c b s) := by
  rw [replyOpen_eq]
  exact answer_settles (fun g hg => ⟨rfl, rfl, .inl hg⟩) fun id h => ⟨h.1, h.2.elim nofun .inr⟩

theorem replyClose_settles (c : Status) (b : ReplyBody) (s : State) : Settles s (replyClose c b s) := by
  rw [replyClose_eq]
  exact answer_settles (fun g hg => ⟨rfl, rfl, .inr hg⟩) fun id h => ⟨h.1, h.2.elim .inl nofun⟩

theorem abortCore_settles (s : State) : Settles s (abortCore s) :=
  .of_runFrame (abortCore_frame s) fun _ h => by rwa [abortCore_run] at h

theorem updRun_settles {s : State} {f : Run → Run} (ha : ∀ id, asks (f s.run) id → asks s.run id) : Settles s (s.updRun f) :=
  .of_runFrame (updRun_frame f s) ha

theorem failedRun_settles (reason : Status) (s : State) : Settles s (failedRun reason s) :=
  (abortCore_settles s).trans (updRun_settles fun _ h => h)

theorem runFailure_idle {s : State} (h : s.run.state = .closed ∨ s.run.failure ≠ none) (reason : Status) :
    runFailure reason s = s :=
  if_pos (h.imp id Option.isSome_iff_ne_none.2)

theorem runFailure_settles (reason : Status) (s : State) : Settles s (runFailure reason s) := by
  by_cases hs : s.run.state = .closed ∨ s.run.failure ≠ none
  · rw [runFailure_idle hs]
    exact .refl s
  · obtain ⟨hs, hf⟩ := not_or.1 hs
    rw [not_not] at hf
    have k := failedRun_settles reason s
    cases ho : s.run.openTag with
    | some g =>
      rw [runFailure_open hs hf ho]
      exact (k.trans (replyOpen_settles ..)).trans (closeRun_settles _)
    | none =>
      cases hc : s.run.closeTag with
      | some g =>
        rw [runFailure_close hs hf ho hc]
        exact (k.trans (replyClose_settles ..)).trans (closeRun_settles _)
      | none =>
        rw [runFailure_unasked hs hf ho hc]
        exact k.trans (updRun_settles fun _ h => h)

end Sys2Proof.Laws.Settling

/-!
PROOF. What the Filing Writer's larger acts leave of every record (R98, R100, R101, R109, R111, R112): each of them settles.
-/

namespace Sys2Proof.Laws.FilingEnds

open Sys2Proof Sys2Proof.Machine Sys2Proof.Laws.Noting Sys2Proof.Laws.RunFrames Sys2Proof.Laws.RunEnds
open Sys2Proof.Laws.FileRequests Sys2Proof.Laws.Settling

theorem frame_settles {s t : State} (h : RunFrame s t) (hr : t.run.owner = s.run.owner)
    (ho : t.run.openTag = s.run.openTag) (hc : t.run.closeTag = s.run.closeTag) : Settles s t :=
  .of_runFrame h fun id hi => by rwa [asks, hr, ho, hc] at hi

theorem run_settles {s t : State} (h : RunFrame s t) (hr : t.run = s.run) : Settles s t :=
  frame_settles h (by rw [hr]) (by rw [hr]) (by rw [hr])

theorem disengage_settles (s : State) : Settles s (disengage s) := by
  have hr : (disengage s).run = { s.run with engaged := none } := by rw [disengage_rest]
  exact frame_settles (disengage_frame s) (by rw [hr]) (by rw [hr]) (by rw [hr])

theorem dropInstrument_settles (s : State) : Settles s (dropInstrument s) := by
  refine .of_runFrame (dropInstrument_frame s) fun id h => ?_
  cases hc : s.run.current with
  | none => rwa [dropInstrument_none hc] at h
  | some i => rw [dropInstrument_some hc] at h; exact h

theorem completeClose_settles (outcome : Status) (s : State) : Settles s (completeClose outcome s) := by
  unfold completeClose
  refine .trans ?_ (closeRun_settles _)
  refine .trans ?_ (replyClose_settles _ _ _)
  refine .trans ?_ (disengage_settles _)
  exact .trans (frame_settles (flushRing_frame s) rfl rfl rfl) (updRun_settles fun _ h => h)

/-! ### Ends of instruments (R112) -/

/-- The head page of a SEPARATOR run leaves the ring, counted discarded, where its instrument ended at it (R112). -/
def pageLost (place : EndAt) (s : State) : State := if place = .page then countDiscarded 1 (popRing s) else s

/-- What follows for the run when its instrument has ended with a code (R112). -/
def afterInstrument (c : Status) (place : EndAt) (s : State) : State :=
  if s.run.source = .given then
    if s.run.state = .closing ∧ s.run.failure = none then completeClose c s else runFailure c s
  else if c = .empty then pageLost place s
  else (pageLost place s).updRun fun r => { r with discard := true }

theorem endInstrument_eq (c : Status) (place : EndAt) (s : State) :
    endInstrument c place s = afterInstrument c place (dropInstrument s) := by
  unfold endInstrument afterInstrument
  dsimp only
  generalize dropInstrument s = u
  cases hs : u.run.source with
  | given =>
    dsimp only
    rw [if_pos rfl]
    exact if_congr (and_congr_right fun _ => Option.isNone_iff_eq_none) rfl rfl
  | separator =>
    rw [if_neg (show ¬ NumberSource.separator = .given from nofun)]
    cases place <;> rfl

theorem pageLost_settles (place : EndAt) (s : State) : Settles s (pageLost place s) := by
  unfold pageLost countDiscarded popRing updCounts
  split
  · exact .trans (updRun_settles fun _ h => h) (updRun_settles fun _ h => h)
  · exact .refl s

theorem afterInstrument_settles (c : Status) (place : EndAt) (s : State) : Settles s (afterInstrument c place s) := by
  unfold afterInstrument
  split
  · split
    · exact completeClose_settles c s
    · exact runFailure_settles c s
  · split
    · exact pageLost_settles place s
    · exact (pageLost_settles place s).trans (updRun_settles fun _ h => h)

theorem endInstrument_settles (c : Status) (place : EndAt) (s : State) : Settles s (endInstrument c place s) := by
  rw [endInstrument_eq]
  exact (dropInstrument_settles s).trans (afterInstrument_settles ..)

/-! ### Failed attempts (R109) -/

theorem countDead_settles (n : Nat) (x : Side) (k : Nat) (s : State) : Settles s (countDead n x k s) :=
  run_settles (updSide_frame ..) rfl

theorem advanceFrontier_settles (n : Nat) (x : Side) (s : State) : Settles s (advanceFrontier n x s) :=
  run_settles (updSide_frame ..) rfl

theorem updInstrument_settles (f : Instrument → Instrument) (s : State) : Settles s (updInstrument f s) :=
  updRun_settles fun _ h => h

/-- The instrument whose attempt has failed once more (R109). -/
def chargedInstrument (i : Instrument) : Instrument :=
  { i with
    dead := i.dead + i.attemptSectors, attempts := i.attempts + 1, rewrites := i.rewrites + 1, attemptSectors := 0
    verifyDue := false }

/-- The sectors of a failed attempt counted dead, and the attempt counted (R109). -/
def charged (n : Nat) (x : Side) (i : Instrument) (s : State) : State :=
  updInstrument chargedInstrument (if i.attemptSectors = 0 then s else countDead n x i.attemptSectors s)

theorem charged_settles (n : Nat) (x : Side) (i : Instrument) (s : State) : Settles s (charged n x i s) := by
  unfold charged
  split
  · exact updInstrument_settles _ s
  · exact (countDead_settles ..).trans (updInstrument_settles _ _)

theorem attemptFailed_none {s : State} (h : s.run.current = none) (kind : PassKind) (n : Nat) (x : Side) :
    attemptFailed kind n x s = s := by
  unfold attemptFailed
  rw [h]

theorem attemptFailed_some {s : State} {i : Instrument} (h : s.run.current = some i) (kind : PassKind) (n : Nat) (x : Side) :
    attemptFailed kind n x s
      = if 3 ≤ i.attempts + 1 then endInstrument .verifyFailed kind.endAt (charged n x i s)
        else if 4 ≤ (((charged n x i s).entry? i.number).map (·.extents.length)).getD 0 then
          endInstrument .extentLimit kind.endAt (charged n x i s)
        else charged n x i s := by
  unfold attemptFailed
  rw [h]
  rfl

theorem attemptFailed_settles (kind : PassKind) (n : Nat) (x : Side) (s : State) : Settles s (attemptFailed kind n x s) := by
  cases h : s.run.current with
  | none => rw [attemptFailed_none h]; exact .refl s
  | some i =>
    rw [attemptFailed_some h]
    have hc := charged_settles n x i s
    split_ifs
    · exact hc.trans (endInstrument_settles ..)
    · exact hc.trans (endInstrument_settles ..)
    · exact hc

/-! ### Volume labels (R101) -/

theorem labelFailed_settles (n : Nat) (x : Side) (s : State) : Settles s (labelFailed n x s) := by
  refine run_settles (labelFailed_frame n x s) ?_
  rw [(labelFailed_noted n x s).run]
  rfl

theorem labelCut_settles (n : Nat) (x : Side) (s : State) : Settles s (labelCut n x s) :=
  (labelFailed_settles n x s).trans (updRun_settles fun _ h => h)

/-! ### Rollover and engagement (R98, R100) -/

theorem makeFilingReq_settles (p : Nat × Side) (s : State) : Settles s (makeFilingReq p s) :=
  run_settles (makeFilingReq_frame p s) rfl

theorem makeFull_settles (n : Nat) (x : Side) (s : State) : Settles s (makeFull n x s) := by
  refine run_settles (makeFull_frame n x s) ?_
  exact (noticeSet_noted ..).run

theorem openFull_settles (s : State) : Settles s (openFull s) := by
  unfold openFull
  cases s.openSide with
  | none => exact .refl s
  | some p => exact makeFull_settles ..

theorem startRollover_settles (p : Nat × Side) (s : State) : Settles s (startRollover p s) := by
  rw [startRollover_eq]
  refine .trans ?_ (makeFilingReq_settles p _)
  exact .trans ((openFull_settles s).trans (disengage_settles _)) (updRun_settles fun _ h => h)

theorem beginRollover_settles (s : State) : Settles s (beginRollover s) := by
  unfold beginRollover
  split
  · exact runFailure_settles ..
  · exact startRollover_settles ..

/-- A new entry touches the catalogue alone (R10). -/
theorem createEntry_rest {s t : State} {v : Option Nat} {n cls : Nat} {st : Station}
    (h : createEntry s v n cls st = .ok t) : t = { s with catalogue := t.catalogue } := by
  unfold createEntry at h
  split at h
  · cases h
  · split at h
    · cases h
    · split_ifs at h
      cases h
      rfl

theorem createEntry_settles {s t : State} {v : Option Nat} {n cls : Nat} {st : Station}
    (h : createEntry s v n cls st = .ok t) : Settles s t := by
  rw [createEntry_rest h]
  exact run_settles (catalogue_frame ..) rfl

theorem leaveOpening_settles (s : State) : Settles s (leaveOpening s) := by
  unfold leaveOpening enterWaiting
  split
  · exact updRun_settles fun _ h => h
  · split
    · exact updRun_settles fun _ h => h
    · exact updRun_settles fun _ h => h

theorem replyEngaged_settles (s : State) : Settles s (replyEngaged s) := by
  unfold replyEngaged
  split
  · exact replyOpen_settles ..
  · exact .refl s

theorem separatorLost_settles (s : State) : Settles s (separatorLost s) := by
  unfold separatorLost popRing countAborted updCounts
  exact .trans (.trans (updRun_settles fun _ h => h) (updRun_settles fun _ h => h)) (updRun_settles fun _ h => h)

theorem createSeparated_settles (n : Nat) (s : State) : Settles s (createSeparated n s) := by
  unfold createSeparated
  split
  · exact separatorLost_settles s
  next u h =>
    unfold popRing
    exact .trans (.trans (createEntry_settles h) (updRun_settles fun _ h => h)) (updRun_settles fun _ h => h)

theorem engage_settles (s : State) : Settles s (engage s) := by
  unfold engage
  split
  · exact beginRollover_settles s
  · split
    · split
      · exact runFailure_settles ..
      next u h =>
        refine .trans ?_ (replyEngaged_settles _)
        refine .trans ?_ (leaveOpening_settles _)
        exact .trans (createEntry_settles h) (updRun_settles fun _ h => h)
    · split
      · exact .trans (.trans (createSeparated_settles ..) (leaveOpening_settles _)) (replyEngaged_settles _)
      · exact .trans (leaveOpening_settles _) (replyEngaged_settles _)

theorem rechoose_settles (n : Nat) (s : State) : Settles s (rechoose n s) := by
  have hw (t : State) : Settles t (withdrawFilingReq t) := run_settles (withdrawFilingReq_frame t) (withdrawFilingReq_spec t).1.run
  unfold rechoose
  dsimp only
  have h : Settles s (withdrawFilingReq (s.updRun fun r => { r with label := none, chosen := none })) :=
    .trans (updRun_settles fun _ h => h) (hw _)
  split
  · exact h.trans (runFailure_settles ..)
  · exact (h.trans (updRun_settles fun _ h => h)).trans (makeFilingReq_settles ..)

end Sys2Proof.Laws.FilingEnds

/-!
PROOF. The fault of a drive (R66, R74): what the end of its command hands on, and what the steps of the fault leave.
-/

namespace Sys2Proof.Laws.DriveFaulting

open Sys2Proof Sys2Proof.Machine Sys2Proof.Laws.Noting Sys2Proof.Laws.Cabinets Sys2Proof.Laws.RunFrames
open Sys2Proof.Laws.Mapping Sys2Proof.Laws.Settling Sys2Proof.Laws.FilingEnds

/-! ### The command cut short (R66) -/

/-- A drive's record less what units, their ends and the pin can change. -/
def hull (x : Drive) : Drive :=
  { x with
    state := .empty, unit := none, lastActive := 0, share := .fetch, queue := [], idle := none, hold := none, pin := false
    pendingHold := none, command := none }

/-- What stands apart from the drives: of the arm only its list has changed, and of the rest what hangs on orders. -/
structure Distant (s t : State) : Prop where
  arm : t.arm = { s.arm with orders := t.arm.orders }
  orders : t.arm.orders.Sublist s.arm.orders
  plans : s.planner.plans = [] → t.planner.plans = []
  exports : s.library.exports = [] → t.library.exports = []
  passes : s.planner.passesDue ≤ t.planner.passesDue
  pending : ∀ i, (s.source i).pending = true → (t.source i).pending = true

theorem Distant.refl (s : State) : Distant s s := ⟨rfl, .refl _, id, id, le_rfl, fun _ h => h⟩

theorem Distant.trans {a b c : State} (h : Distant a b) (k : Distant b c) : Distant a c where
  arm := by rw [k.arm, h.arm]
  orders := k.orders.trans h.orders
  plans hp := k.plans (h.plans hp)
  exports he := k.exports (h.exports he)
  passes := h.passes.trans k.passes
  pending i hi := k.pending i (h.pending i hi)

theorem updDrive_distant (d : DriveId) (f : Drive → Drive) (s : State) : Distant s (s.updDrive d f) :=
  ⟨rfl, .refl _, id, id, le_rfl, fun _ h => h⟩

theorem updLink_distant (st : Station) (f : Link → Link) (s : State) : Distant s (s.updLink st f) :=
  ⟨rfl, .refl _, id, id, le_rfl, fun _ h => h⟩

theorem settles_distant {s t : State} (h : Settles s t) : Distant s t :=
  ⟨h.arm, h.orders, h.plans, fun he => by simpa [he] using h.listed, h.passes, h.pending⟩

theorem mapped_distant {s t : State} (h : Mapped s t) (he : t.library.exports = s.library.exports) : Distant s t :=
  ⟨by rw [h.arm], by rw [h.arm], fun hp => by rw [h.plans, hp], fun hn => by rw [he, hn], h.passes, h.pending⟩

/-- What the end of a command, handed to its owner, leaves of the records apart and of the drives' hulls. -/
structure Handed (s t : State) : Prop extends Distant s t where
  hull : ∀ e, hull (t.drive e) = hull (s.drive e)
  table : t.library.table.map sideless = s.library.table.map sideless

theorem Handed.refl (s : State) : Handed s s := ⟨.refl s, fun _ => rfl, rfl⟩

theorem Handed.trans {a b c : State} (h : Handed a b) (k : Handed b c) : Handed a c where
  toDistant := h.toDistant.trans k.toDistant
  hull e := (k.hull e).trans (h.hull e)
  table := k.table.trans h.table

theorem settles_handed {s t : State} (h : Settles s t) : Handed s t where
  toDistant := settles_distant h
  hull e := by rw [(h.drive e).rest]; rfl
  table := h.carts

theorem updDrive_handed {s : State} {d : DriveId} {f : Drive → Drive} (h : hull (f (s.drive d)) = hull (s.drive d)) :
    Handed s (s.updDrive d f) where
  toDistant := updDrive_distant d f s
  hull e := by
    rw [State.drive_updDrive]
    split
    next he => rw [he]; exact h
    next => rfl
  table := rfl

/-- The Fetch Engine's records alone. -/
theorem fetch_handed (e : FetchEngine) (s : State) : Handed s { s with fetch := e } :=
  ⟨⟨rfl, .refl _, id, id, le_rfl, fun _ h => h⟩, fun _ => rfl, rfl⟩

theorem wantPass_handed (s : State) : Handed s s.wantPass := settles_handed (wantPass_settles s)

/-- A drive no unload of which is kept, nor an ABANDON. -/
def unasked (x : Drive) : Prop := x.vacate = false ∧ x.unloadKept = false

theorem unasked_of_hull {x y : Drive} (h : hull y = hull x) (hx : unasked x) : unasked y := by
  have hv : (hull y).vacate = (hull x).vacate := congrArg Drive.vacate h
  have hk : (hull y).unloadKept = (hull x).unloadKept := congrArg Drive.unloadKept h
  exact ⟨hv.trans hx.1, hk.trans hx.2⟩

/-- A drive at the end of its unit (R68). -/
def unitless (u : DriveUnit) (now : Nat) (x : Drive) : Drive :=
  { x with unit := none, lastActive := now, share := shareAfter u.work x.share, state := .ready }

/-- The end of a unit where nothing has been asked of the drive meanwhile (R68). -/
theorem unitEnd_eq {s : State} {d : DriveId} {u : DriveUnit} (hu : (s.drive d).unit = some u) (hx : unasked (s.drive d)) :
    unitEnd d s = if (u.work.isFetch && (s.drive d).queue.isEmpty) = true then (s.updDrive d (unitless u s.seconds)).wantPass
      else s.updDrive d (unitless u s.seconds) := by
  obtain ⟨hv, hk⟩ := hx
  unfold unitEnd
  rw [hu]
  have hd : (s.updDrive d (unitless u s.seconds)).drive d = unitless u s.seconds (s.drive d) := State.drive_updDrive_self ..
  have hq : ((s.updDrive d (unitless u s.seconds)).drive d).queue = (s.drive d).queue := by rw [hd]; rfl
  have hv' : ((s.updDrive d (unitless u s.seconds)).drive d).vacate = false := by rw [hd]; exact hv
  have hk' : ((s.updDrive d (unitless u s.seconds)).drive d).unloadKept = false := by rw [hd]; exact hk
  show (let t := if u.work.isFetch && ((s.updDrive d (unitless u s.seconds)).drive d).queue.isEmpty then
      (s.updDrive d (unitless u s.seconds)).wantPass else s.updDrive d (unitless u s.seconds)
    if (t.drive d).vacate then becomeEmpty d t else if (t.drive d).unloadKept then startUnload d t else t) = _
  rw [hq]
  dsimp only
  split
  · exact (if_neg (Bool.eq_false_iff.1 hv')).trans (if_neg (Bool.eq_false_iff.1 hk'))
  · exact (if_neg (Bool.eq_false_iff.1 hv')).trans (if_neg (Bool.eq_false_iff.1 hk'))

theorem unitEnd_none {s : State} {d : DriveId} (h : (s.drive d).unit = none) : unitEnd d s = s := by
  unfold unitEnd
  rw [h]

theorem unitEnd_handed {s : State} {d : DriveId} (hx : unasked (s.drive d)) : Handed s (unitEnd d s) := by
  cases hu : (s.drive d).unit with
  | none => rw [unitEnd_none hu]; exact .refl s
  | some u =>
    rw [unitEnd_eq hu hx]
    have h : Handed s (s.updDrive d (unitless u s.seconds)) := updDrive_handed rfl
    split
    · exact h.trans (wantPass_handed _)
    · exact h

/-! ### What each owner makes of a command cut short (R66) -/

theorem trailerFailed_handed {s : State} {d : DriveId} (hx : unasked (s.drive d)) (id : FetchId) :
    Handed s (trailerFailed d id s) :=
  (unitEnd_handed hx).trans (settles_handed (completeFetch_settles ..))

/-- A page that could not be read: its buffer free, and counted with the order (R134). -/
def pageMissed (id : FetchId) (b : Nat) (s : State) : State :=
  (s.releaseBuffer b).updOrder id fun o => { o with next := o.next + 1, unreadable := o.unreadable + 1, reading := none }

theorem pageMissed_handed (id : FetchId) (b : Nat) (s : State) : Handed s (pageMissed id b s) := fetch_handed _ s

theorem putBack_handed (d : DriveId) (id : FetchId) (s : State) : Handed s (putBack d id s) := updDrive_handed rfl

theorem pageUnreadable_eq (d : DriveId) (id : FetchId) (b : Nat) (s : State) :
    pageUnreadable d id b s = ((pageMissed id b s).order? id).elim (unitEnd d (pageMissed id b s)) fun o =>
      if o.lastPage < o.next ∧ o.staged = none ∧ o.delivery = none then
        completeFetch id .donePartial (unitEnd d (pageMissed id b s))
      else unitEnd d (putBack d id (pageMissed id b s)) := by
  unfold pageUnreadable
  show (match (pageMissed id b s).order? id with | none => _ | some o => _) = _
  cases (pageMissed id b s).order? id <;> rfl

theorem pageUnreadable_handed {s : State} {d : DriveId} (hx : unasked (s.drive d)) (id : FetchId) (b : Nat) :
    Handed s (pageUnreadable d id b s) := by
  have hm := pageMissed_handed id b s
  have hp := putBack_handed d id (pageMissed id b s)
  have hxm : unasked ((pageMissed id b s).drive d) := hx
  rw [pageUnreadable_eq]
  cases (pageMissed id b s).order? id with
  | none => exact hm.trans (unitEnd_handed hxm)
  | some o =>
    dsimp only [Option.elim_some]
    split
    · exact (hm.trans (unitEnd_handed hxm)).trans (settles_handed (completeFetch_settles ..))
    · exact (hm.trans hp).trans (unitEnd_handed (unasked_of_hull (hp.hull d) hxm))

theorem readAnswer_cut_handed {s : State} {d : DriveId} (hx : unasked (s.drive d)) (n : Nat) :
    Handed s (readAnswer d (List.replicate n .unreadable) true s) := by
  have hfirst : (List.replicate n SectorRead.unreadable).headD .unreadable = .unreadable := by cases n <;> rfl
  unfold readAnswer
  rw [hfirst]
  dsimp only
  split
  · split
    · exact unitEnd_handed hx
    · exact trailerFailed_handed hx _
  next id b ps i k ended _ =>
    split
    · exact .trans (fetch_handed _ s) (unitEnd_handed (s := s.releaseBuffer b) hx)
    · unfold pageAnswer
      dsimp only
      rw [if_pos (.inl rfl)]
      exact pageUnreadable_handed hx ..
  · exact unitEnd_handed hx
  · exact .refl s

theorem writeAnswer_cut_handed {s : State} {d : DriveId} (hx : unasked (s.drive d)) : Handed s (writeAnswer d none s) := by
  unfold writeAnswer
  split
  next kind n x left ended _ =>
    unfold writePassAnswer
    have ha := advanceFrontier_settles n x s
    split
    · have h := ha.trans (countDead_settles n x 1 _)
      exact (settles_handed h).trans (unitEnd_handed (unasked_of_hull ((settles_handed h).hull d) hx))
    · have h : Settles s (sectorPassed n x s) := ha.trans (updInstrument_settles _ _)
      refine .trans (.trans (settles_handed h) (unitEnd_handed ?_)) (settles_handed (attemptFailed_settles ..))
      exact unasked_of_hull ((settles_handed h).hull d) hx
  next n x v ended _ =>
    unfold labelWriteAnswer
    split
    · exact (unitEnd_handed hx).trans (settles_handed (labelFailed_settles ..))
    · exact (unitEnd_handed hx).trans (settles_handed (labelCut_settles ..))
  · exact unitEnd_handed hx
  · exact .refl s

theorem verifyAnswer_cut_handed {s : State} {d : DriveId} (hx : unasked (s.drive d)) :
    Handed s (verifyAnswer d false true s) := by
  unfold verifyAnswer
  split
  next kind ended _ =>
    unfold verifyPassAnswer
    dsimp only
    have hu := unitEnd_handed (s := s) hx
    generalize unitEnd d s = u at hu
    split
    · exact hu
    · split
      · exact hu
      · rw [if_neg (by decide)]
        split
        · exact hu.trans (settles_handed (attemptFailed_settles ..))
        · exact hu
  · unfold labelVerifyAnswer
    split
    · exact (unitEnd_handed hx).trans (settles_handed (labelFailed_settles ..))
    · exact (unitEnd_handed hx).trans (settles_handed (labelCut_settles ..))
  · exact unitEnd_handed hx
  · exact .refl s

theorem blankAnswer_cut_handed {s : State} {d : DriveId} (hx : unasked (s.drive d)) : Handed s (blankAnswer d .written s) := by
  unfold blankAnswer
  split
  next n x ended _ =>
    unfold probeAnswer
    dsimp only
    have hu := unitEnd_handed (s := s) hx
    generalize unitEnd d s = u at hu
    have hd : Settles u (advanceFrontier n x (countDead n x 1 u)) := (countDead_settles ..).trans (advanceFrontier_settles ..)
    split
    · exact hu
    · split
      · refine hu.trans (settles_handed (hd.trans ?_))
        exact .trans (.trans (updRun_settles fun _ h => h) (makeFull_settles ..)) (engage_settles _)
      · exact hu.trans (settles_handed (hd.trans (updRun_settles fun _ h => h)))
  · exact .refl s

theorem clearCommand_handed (d : DriveId) (s : State) : Handed s (clearCommand d s) := updDrive_handed rfl

theorem cutCommand_handed {s : State} {d : DriveId} (hx : unasked (s.drive d)) : Handed s (cutCommand d s) := by
  have hc := clearCommand_handed d s
  have hxc := unasked_of_hull (hc.hull d) hx
  unfold cutCommand
  split
  · exact .refl s
  · dsimp only
    split
    · exact hc.trans (readAnswer_cut_handed hxc _)
    · exact hc.trans (writeAnswer_cut_handed hxc)
    · exact hc.trans (verifyAnswer_cut_handed hxc)
    · exact hc.trans (blankAnswer_cut_handed hxc)
    · exact hc.trans (wantPass_handed _)
    · exact hc

/-! ### The steps of the fault (R74) -/

/-- The record of a drive as it enters FAULTED (R74). -/
def faultedDrive (code : DriveFaultCode) (x : Drive) : Drive :=
  { x with
    state := .faulted, fault := some code, idle := none, hold := none, unloadKept := false, vacate := false
    holdKept := false, unit := none, command := none }

theorem becomeFaulted_settles (d : DriveId) (code : DriveFaultCode) (s : State) :
    Settles (s.updDrive d (faultedDrive code)) (becomeFaulted d code s) := by
  unfold becomeFaulted
  show Settles _ (match ((s.updDrive d (faultedDrive code)).drive d).pendingHold with | some n => _ | none => _)
  split
  · exact tryWithdraw_settles ..
  · exact .refl _

/-- A drive whose reset command is answered (R76). -/
def unreset (x : Drive) : Drive := { x with resetBy := none }

/-- The answer RESET_FAILED to the request `who` (R76). -/
def resetFailed (who : FetchId) (code : DriveFaultCode) : Reply := ⟨who.tag, 0x41, .resetFailed, .faultCode code⟩

theorem resetRefused_none {d : DriveId} {s : State} (h : (s.drive d).resetBy = none) (code : DriveFaultCode) :
    resetRefused d code s = s := by
  unfold resetRefused
  rw [h]

theorem resetRefused_some {d : DriveId} {s : State} {who : FetchId} (h : (s.drive d).resetBy = some who)
    (code : DriveFaultCode) :
    resetRefused d code s = (s.updDrive d unreset).updLink who.station (Completion.answered (resetFailed who code)) := by
  unfold resetRefused
  rw [h, ← Completion.replyLong_eq]
  rfl

theorem resetRefused_drive (d : DriveId) (code : DriveFaultCode) (s : State) :
    (resetRefused d code s).drive d = unreset (s.drive d) := by
  cases h : (s.drive d).resetBy with
  | none => rw [resetRefused_none h, unreset, ← h]
  | some who => rw [resetRefused_some h, State.drive_updLink, State.drive_updDrive_self]

theorem resetRefused_distant (d : DriveId) (code : DriveFaultCode) (s : State) : Distant s (resetRefused d code s) := by
  cases h : (s.drive d).resetBy with
  | none => rw [resetRefused_none h]; exact .refl s
  | some who => rw [resetRefused_some h]; exact (updDrive_distant ..).trans (updLink_distant ..)

/-- A drive that an ABANDON has vacated, once its command has ended (R62). -/
def vacatedDrive (x : Drive) : Drive :=
  { x with
    fault := none, state := .empty, cart := none, sideUp := none, idle := none, hold := none, unloadKept := false
    vacate := false, holdKept := false, presence := false }

theorem vacatedEmpty_eq (d : DriveId) (s : State) : vacatedEmpty d s = (s.updDrive d vacatedDrive).wantPass := by
  unfold vacatedEmpty becomeEmpty
  rw [DriveResetting.updDrive_updDrive]
  rfl

/-- The drive EMPTY where an ABANDON had vacated it (R62). -/
def emptied (vacated : Bool) (d : DriveId) (s : State) : State := if vacated = true then vacatedEmpty d s else s

/-- The run told of a fault that concerns filing (R114). -/
def runTold (filing : Bool) (s : State) : State := if filing = true then runFailure .filingDriveFault s else s

/-- The inspection of the drive told of the fault (R32). -/
def inspectionTold (d : DriveId) (s : State) : State := (s.heldBy d).elim s fun i => inspectionFaulted i s

/-- The last steps of a fault: the fetches of the drive, the run and the inspection told of it, and the notice (R74). -/
def concluded (filing : Bool) (d : DriveId) (s : State) : State :=
  noticeSet (nDriveFault d) (inspectionTold d (runTold filing (completeAll (s.drive d).queue .driveFault s)))

/-- A fault concerns filing: the drive has the pin, or a filing unit (R74). -/
def filingDrive (x : Drive) : Bool := x.pin || x.unit.any (·.work.isFiling)

/-- A drive with what has been asked of it meanwhile dropped (R74). -/
def unaskedDrive (x : Drive) : Drive := { x with unloadKept := false, vacate := false }

/-- The drive FAULTED, with the command in flight handed on (R66, R74). -/
def faultBegun (d : DriveId) (code : DriveFaultCode) (s : State) : State :=
  becomeFaulted d code (cutCommand d (s.updDrive d unaskedDrive))

theorem driveFault_eq {s : State} {d : DriveId} (h : (s.drive d).state ≠ .faulted) (code : DriveFaultCode) :
    driveFault d code s = concluded (filingDrive (s.drive d)) d
      (emptied (s.drive d).vacated d (resetRefused d code (faultBegun d code s))) := by
  unfold driveFault
  rw [if_neg h]
  unfold concluded runTold inspectionTold emptied filingDrive faultBegun unaskedDrive
  cases (s.drive d).unit <;> simp only [Option.any, Bool.or_false] <;> cases State.heldBy _ d <;> rfl

theorem releaseSlot_reslotted (id : Nat) (s : State) :
    ∃ u : State, (∀ n, u.cart? n = s.cart? n) ∧ u.library.exports = s.library.exports ∧ Reslotted u (releaseSlot id s) := by
  unfold releaseSlot
  split
  · exact ⟨s.updInsp id _, fun _ => rfl, rfl, slotRetry_reslotted _⟩
  · exact ⟨s, fun _ => rfl, rfl, reslotted_of_library rfl⟩

theorem Reslotted_exports {s t : State} (h : Reslotted s t) : t.library.exports = s.library.exports := by
  obtain ⟨_, -, -, h⟩ := h
  rw [h]

theorem rejectInspection_exports (id : Nat) (r : RejectReason) (await : Bool) (s : State) :
    (rejectInspection id r await s).library.exports = s.library.exports := by
  unfold rejectInspection
  dsimp only
  rw [(noticeSet_noted ..).library]
  obtain ⟨u, -, hu, h⟩ := releaseSlot_reslotted id ((s.updInsp id fun i =>
    { i with phase := .rejecting, orderDue := true, awaitReady := await, order := none }).updLibrary fun l =>
      { l with lastReject := some (r, (s.insp? id).bind (·.numberRead)) })
  rw [Reslotted_exports h, hu]
  rfl

theorem inspectionFaulted_mapped (i : Inspection) (s : State) : Mapped s (inspectionFaulted i s) := by
  unfold inspectionFaulted
  split
  · exact rejectInspection_mapped ..
  · exact .refl s

theorem inspectionTold_mapped (d : DriveId) (s : State) : Mapped s (inspectionTold d s) := by
  unfold inspectionTold
  cases s.heldBy d with
  | none => exact .refl s
  | some i => exact inspectionFaulted_mapped i s

theorem inspectionTold_exports (d : DriveId) (s : State) : (inspectionTold d s).library.exports = s.library.exports := by
  unfold inspectionTold inspectionFaulted
  cases s.heldBy d with
  | none => rfl
  | some i =>
    dsimp only [Option.elim_some]
    split
    · exact rejectInspection_exports ..
    · rfl

theorem runTold_settles (filing : Bool) (s : State) : Settles s (runTold filing s) := by
  unfold runTold
  split
  · exact runFailure_settles ..
  · exact .refl s

theorem concluded_distant (filing : Bool) (d : DriveId) (s : State) : Distant s (concluded filing d s) := by
  have h := (completeAll_settles (s.drive d).queue .driveFault s).trans (runTold_settles filing _)
  exact ((settles_distant h).trans (mapped_distant (inspectionTold_mapped d _) (inspectionTold_exports d _))).trans
    (settles_distant (noticeSet_settles ..))

theorem concluded_drive (filing : Bool) (d e : DriveId) (s : State) :
    DriveSettles (s.drive e) ((concluded filing d s).drive e) := by
  have h := (completeAll_settles (s.drive d).queue .driveFault s).trans (runTold_settles filing _)
  have hd : (concluded filing d s).drive e = (runTold filing (completeAll (s.drive d).queue .driveFault s)).drive e :=
    ((noticeSet_noted ..).drive e).trans ((inspectionTold_mapped d _).drive e)
  rw [hd]
  exact h.drive e

theorem driveSettles_unit {x y : Drive} (h : DriveSettles x y) (hx : x.unit = none) : y.unit = none := by
  have := h.work
  rw [hx] at this
  simpa using this

theorem emptied_drive (vacated : Bool) (d : DriveId) (s : State) :
    (emptied vacated d s).drive d = if vacated = true then vacatedDrive (s.drive d) else s.drive d := by
  unfold emptied
  split
  · rw [vacatedEmpty_eq]
    exact State.drive_updDrive_self ..
  · rfl

theorem emptied_distant (vacated : Bool) (d : DriveId) (s : State) : Distant s (emptied vacated d s) := by
  unfold emptied
  split
  · rw [vacatedEmpty_eq]
    exact (updDrive_distant ..).trans (settles_distant (wantPass_settles _))
  · exact .refl s

theorem unasked_drive (s : State) (d : DriveId) : unasked ((s.updDrive d unaskedDrive).drive d) := by
  rw [State.drive_updDrive_self]
  exact ⟨rfl, rfl⟩

/-- The drive as the command's end has left it, before it enters FAULTED. -/
def cutDrive (d : DriveId) (s : State) : Drive := (cutCommand d (s.updDrive d unaskedDrive)).drive d

theorem cutDrive_hull (d : DriveId) (s : State) : hull (cutDrive d s) = hull (unaskedDrive (s.drive d)) := by
  have h := (cutCommand_handed (unasked_drive s d)).hull d
  rwa [State.drive_updDrive_self] at h

theorem faultBegun_drive (d : DriveId) (code : DriveFaultCode) (s : State) :
    DriveSettles (faultedDrive code (cutDrive d s)) ((faultBegun d code s).drive d) := by
  have h := (becomeFaulted_settles d code (cutCommand d (s.updDrive d unaskedDrive))).drive d
  rwa [State.drive_updDrive_self] at h

theorem faultBegun_distant (d : DriveId) (code : DriveFaultCode) (s : State) : Distant s (faultBegun d code s) := by
  have hu : Distant s (s.updDrive d unaskedDrive) := updDrive_distant ..
  have hc := (cutCommand_handed (unasked_drive s d)).toDistant
  have hf := updDrive_distant d (faultedDrive code) (cutCommand d (s.updDrive d unaskedDrive))
  exact ((hu.trans hc).trans hf).trans (settles_distant (becomeFaulted_settles ..))

/-- A fault reaches neither the arm's records nor the plans, but for the order list (R74). -/
theorem driveFault_distant (d : DriveId) (code : DriveFaultCode) (s : State) : Distant s (driveFault d code s) := by
  by_cases h : (s.drive d).state = .faulted
  · unfold driveFault
    rw [if_pos h]
    exact .refl s
  · rw [driveFault_eq h]
    exact (((faultBegun_distant ..).trans (resetRefused_distant ..)).trans (emptied_distant ..)).trans (concluded_distant ..)

/-- The drive that a fault leaves (R62, R74). -/
def faultLeft (code : DriveFaultCode) (d : DriveId) (s : State) : Drive :=
  let x := unreset ((faultBegun d code s).drive d)
  if (s.drive d).vacated = true then vacatedDrive x else x

theorem driveFault_drive {s : State} {d : DriveId} (h : (s.drive d).state ≠ .faulted) (code : DriveFaultCode) :
    DriveSettles (faultLeft code d s) ((driveFault d code s).drive d) := by
  rw [driveFault_eq h]
  have k := concluded_drive (filingDrive (s.drive d)) d d (emptied (s.drive d).vacated d (resetRefused d code (faultBegun d code s)))
  rwa [emptied_drive, resetRefused_drive] at k

theorem driveFault_notice {s : State} {d : DriveId} (h : (s.drive d).state ≠ .faulted) (code : DriveFaultCode) :
    ((driveFault d code s).source (4 + d.val)).pending = true := by
  rw [driveFault_eq h]
  have := d.isLt
  exact noticeSet_pending _ (show 1 ≤ 4 + d.val by omega) (show 4 + d.val ≤ 24 by omega)

/-- The fault leaves the drive at rest: no unit, no command, no timer (R74). -/
theorem faultLeft_rest (code : DriveFaultCode) (d : DriveId) (s : State) :
    (faultLeft code d s).unit = none ∧ (faultLeft code d s).command = none ∧ (faultLeft code d s).idle = none
      ∧ (faultLeft code d s).hold = none := by
  have k := faultBegun_drive d code s
  have hu : ((faultBegun d code s).drive d).unit = none := driveSettles_unit k rfl
  have hc : ((faultBegun d code s).drive d).command = none := by rw [k.rest]; rfl
  have hi : ((faultBegun d code s).drive d).idle = none := k.idle rfl
  have hh : ((faultBegun d code s).drive d).hold = none := k.hold nofun rfl
  unfold faultLeft
  dsimp only
  split
  · exact ⟨hu, hc, rfl, rfl⟩
  · exact ⟨hu, hc, hi, hh⟩

theorem driveFault_rest {s : State} {d : DriveId} (h : (s.drive d).state ≠ .faulted) (code : DriveFaultCode) :
    ((driveFault d code s).drive d).unit = none ∧ ((driveFault d code s).drive d).command = none
      ∧ ((driveFault d code s).drive d).idle = none ∧ ((driveFault d code s).drive d).hold = none := by
  obtain ⟨hu, hc, hi, hh⟩ := faultLeft_rest code d s
  have k := driveFault_drive h code
  have hst : (faultLeft code d s).state ≠ .standby := by
    have := (faultBegun_drive d code s).rest
    unfold faultLeft
    dsimp only
    split
    · exact nofun
    · show ((faultBegun d code s).drive d).state ≠ .standby
      rw [this]
      exact nofun
  exact ⟨driveSettles_unit k hu, by rw [k.rest]; exact hc, k.idle hi, k.hold hst hh⟩

/-- A drive that no ABANDON had vacated is FAULTED with the code (R74). -/
theorem driveFault_faulted {s : State} {d : DriveId} (h : (s.drive d).state ≠ .faulted) (hv : (s.drive d).vacated = false)
    (code : DriveFaultCode) :
    ((driveFault d code s).drive d).state = .faulted ∧ ((driveFault d code s).drive d).fault = some code := by
  have k := (driveFault_drive h code).rest
  unfold faultLeft at k
  rw [hv, if_neg (by decide), (faultBegun_drive d code s).rest] at k
  rw [k]
  exact ⟨rfl, rfl⟩

/-- A drive that an ABANDON had vacated is EMPTY (R62). -/
theorem driveFault_vacated {s : State} {d : DriveId} (h : (s.drive d).state ≠ .faulted) (hv : (s.drive d).vacated = true)
    (code : DriveFaultCode) :
    ((driveFault d code s).drive d).state = .empty ∧ ((driveFault d code s).drive d).fault = none
      ∧ ((driveFault d code s).drive d).cart = none ∧ ((driveFault d code s).drive d).sideUp = none := by
  have k := (driveFault_drive h code).rest
  unfold faultLeft at k
  rw [hv, if_pos rfl] at k
  rw [k]
  exact ⟨rfl, rfl, rfl, rfl⟩

/-- What a fault leaves of a drive's position: whether it is fitted, its identification, its presence (R60, R74). -/
theorem driveFault_position {s : State} {d : DriveId} (h : (s.drive d).state ≠ .faulted) (hv : (s.drive d).vacated = false)
    (code : DriveFaultCode) :
    ((driveFault d code s).drive d).fitted = (s.drive d).fitted
      ∧ ((driveFault d code s).drive d).identSince = (s.drive d).identSince
      ∧ ((driveFault d code s).drive d).presence = (s.drive d).presence := by
  have k := (driveFault_drive h code).rest
  have hh := cutDrive_hull d s
  unfold faultLeft at k
  rw [hv, if_neg (by decide), (faultBegun_drive d code s).rest] at k
  rw [k]
  exact ⟨(congrArg Drive.fitted hh :), (congrArg Drive.identSince hh :), (congrArg Drive.presence hh :)⟩

end Sys2Proof.Laws.DriveFaulting

/-!
PROOF. The identification of drive positions (R60). The obligation O37.
-/

namespace Sys2Proof.Laws.Identification

open Sys2Proof Sys2Proof.Machine Sys2Proof.Laws.Noting Sys2Proof.Laws.Settling Sys2Proof.Laws.DriveFaulting

/-! ### Identification (R60) -/

theorem cartIn_isSome (s : State) (d : DriveId) : (s.cartIn d).isSome = true ↔ ∃ c ∈ s.library.table, c.location = .drive d := by
  simp [State.cartIn]

/-- The drive of a position that has answered (R60). -/
def answeredDrive (presence : Bool) (x : Drive) : Drive := { x with fitted := true, identSince := none, presence := presence }

theorem identified_none {s : State} {d : DriveId} (h : (s.drive d).identSince = none) (present faulty : Bool) :
    identified d present faulty s = s := by
  unfold identified
  rw [h]
  rfl

theorem identified_faulty {s : State} {d : DriveId} {since : Nat} (h : (s.drive d).identSince = some since) (present : Bool) :
    identified d present true s
      = driveFault d .hardwareFault (s.updDrive d (answeredDrive (present || (s.cartIn d).isSome))) := by
  unfold identified
  rw [h]
  rfl

theorem identified_absent {s : State} {d : DriveId} {since : Nat} (h : (s.drive d).identSince = some since) :
    identified d false false s = s.updDrive d fun x =>
      { x with fitted := true, identSince := none, presence := false, state := .empty } := by
  unfold identified
  rw [h]
  exact DriveResetting.updDrive_updDrive s d (answeredDrive false) fun x => { x with state := .empty }

theorem identified_present {s : State} {d : DriveId} {since : Nat} (h : (s.drive d).identSince = some since)
    (hc : (s.drive d).command = none) :
    identified d true false s = s.updDrive d fun x =>
      { x with fitted := true, identSince := none, presence := true, state := .loading
               command := some ⟨.spinUp, .driveUnit, s.seconds⟩ } := by
  have hu : identified d true false s
      = spinUp d ((s.updDrive d (answeredDrive true)).updDrive d fun x => { x with state := .loading }) := by
    unfold identified
    rw [h]
    rfl
  rw [hu, DriveResetting.updDrive_updDrive, DriveResetting.spinUp_loading, DriveResetting.updDrive_updDrive]
  · rfl
  · rw [State.drive_updDrive_self]
  · rw [State.drive_updDrive_self]; exact hc

theorem notFitted_eq (d : DriveId) (s : State) :
    notFitted d s = if (s.drive d).identSince.any (fun t => 30 ≤ s.seconds - t) = true then s.updDrive d fun x =>
      { x with fitted := false, identSince := none, state := .empty } else s := by
  unfold notFitted identDue
  cases (s.drive d).identSince <;> rfl

/-- Settles O37. -/
theorem driveIdentification : Obligations.DriveIdentification := by
  intro s d present
  refine ⟨fun h => ⟨fun faulty => ?_, ?_⟩, fun since h => ⟨?_, fun hcmd => ?_, fun hempty => ?_, fun hlt => ?_, fun hle => ?_⟩⟩
  · exact congrArg finished (identified_none h present faulty)
  · refine congrArg finished ((notFitted_eq d s).trans ?_)
    rw [h]
    rfl
  · exact congrArg finished (identified_absent h)
  · exact congrArg finished (identified_present h hcmd)
  · refine ⟨_, congrArg finished (identified_faulty h present), ?_⟩
    have hd := State.drive_updDrive_self s d (answeredDrive (present || (s.cartIn d).isSome))
    generalize s.updDrive d (answeredDrive (present || (s.cartIn d).isSome)) = u at hd
    have hst : (u.drive d).state ≠ .faulted := by
      rw [hd]
      show (s.drive d).state ≠ .faulted
      rw [hempty]
      exact nofun
    have hv : (u.drive d).vacated = false := by rw [hd]; simp [Drive.vacated, answeredDrive, hempty]
    obtain ⟨hs, hf⟩ := driveFault_faulted hst hv .hardwareFault
    obtain ⟨hfit, hid, hp⟩ := driveFault_position hst hv .hardwareFault
    refine ⟨hs, hf, by rw [hfit, hd]; rfl, by rw [hid, hd]; rfl, driveFault_notice hst _, ?_⟩
    rw [hp, hd, ← cartIn_isSome]
    exact Bool.or_eq_true_iff
  · refine congrArg finished ((notFitted_eq d s).trans (if_neg ?_))
    rw [h]
    simp only [Option.any_some, decide_eq_true_eq]
    omega
  · refine congrArg finished ((notFitted_eq d s).trans (if_pos ?_))
    rw [h]
    simp only [Option.any_some, decide_eq_true_eq]
    omega

end Sys2Proof.Laws.Identification

/-!
PROOF. The parts of a halt of the arm (R56, R93): the move that stops, the orders discarded, the stranded waiters completed, and
the filing request refused.
-/

namespace Sys2Proof.Laws.Halting

open Sys2Proof Sys2Proof.Machine Sys2Proof.Laws.Noting Sys2Proof.Laws.Cabinets Sys2Proof.Laws.RunFrames
open Sys2Proof.Laws.RunEnds Sys2Proof.Laws.Completion Sys2Proof.Laws.Settling Sys2Proof.Laws.FilingEnds

/-! ### The move that stops (R50) -/

/-- The order list with the order of a move that has faulted SUSPENDED (R50). -/
def suspended (m : Move) (os : List MoveOrder) : List MoveOrder :=
  if m.inList = true then os.map fun o => if o.number = m.order.number then { o with status := .suspended } else o else os

theorem suspended_numbers (m : Move) (os : List MoveOrder) : (suspended m os).map (·.number) = os.map (·.number) := by
  unfold suspended
  split
  · rw [List.map_map]
    exact List.map_congr_left fun o _ => by dsimp only [Function.comp]; split <;> rfl
  · rfl

theorem stopMove_eq (m : Move) (s : State) : stopMove m s = { s with
    arm := { s.arm with moving := none, orders := suspended m s.arm.orders }
    planner := { s.planner with passesDue := s.planner.passesDue + 1 } } := by
  unfold stopMove suspended
  split <;> rfl

/-! ### Orders discarded (R56) -/

/-- The waiters, none of them on a plan. -/
def unplanned (ws : List Waiter) : List Waiter := ws.map fun w => { w with plan := none }

theorem unplanned_dropPlan (p : Plan) (s : State) : unplanned (dropPlan p s).planner.waiters = unplanned s.planner.waiters := by
  unfold unplanned dropPlan State.updPlanner
  dsimp only
  rw [List.map_map]
  exact List.map_congr_left fun w _ => by dsimp only [Function.comp]; split <;> rfl

theorem replanImport_waiters (p : Plan) (s : State) : (replanImport p s).planner.waiters = s.planner.waiters := by
  unfold replanImport
  repeat' split
  all_goals rfl

theorem unplanned_ordersGone (gone : List MoveOrder) (how : Gone) (s : State) :
    unplanned (ordersGone gone how s).planner.waiters = unplanned s.planner.waiters := by
  have fold (ps : List Plan) (s : State) :
      unplanned (ps.foldl (fun s p => replanImport p (dropPlan p s)) s).planner.waiters = unplanned s.planner.waiters := by
    induction ps generalizing s with
    | nil => rfl
    | cons p ps ih =>
      exact (ih _).trans ((congrArg unplanned (replanImport_waiters p _)).trans (unplanned_dropPlan p s))
  exact fold _ _

theorem ordersGone_inspections {gone : List MoveOrder} {how : Gone} {s : State} {i : Inspection} {k : Nat}
    (h : i ∈ (ordersGone gone how s).library.inspections) (hk : i.order = some k) : ∀ o ∈ gone, o.number ≠ k := by
  obtain ⟨j, -, rfl⟩ := List.mem_map.1 h
  split at hk
  · cases hk
  next hl =>
    intro o ho hok
    rw [hk] at hl
    exact hl (by simpa using ⟨o, ho, hok⟩)

theorem holdGone_pending {ns : List Nat} {how : Gone} {start : Option Nat} {x : Drive} {k : Nat} (h : x.pendingHold = some k)
    (hk : k ∈ ns) : (holdGone ns how start x).pendingHold = none := by
  unfold holdGone
  rw [h]
  dsimp only
  rw [if_pos (by simpa using hk)]

/-! ### The stranded waiters (R93) -/

theorem removeWaiter_bare {s : State} (hp : s.planner.plans = []) (id : FetchId) :
    removeWaiter id s = withoutWaiter id s := by
  cases hw : s.planner.waiters.find? fun w => w.id = id with
  | none =>
    have hall : s.planner.waiters.filter (fun w => w.id ≠ id) = s.planner.waiters :=
      List.filter_eq_self.2 fun w hm => by simpa using List.find?_eq_none.1 hw w hm
    unfold removeWaiter withoutWaiter
    rw [hw, hall]
  | some w => exact removeWaiter_noPlan hw (by cases w.plan <;> simp [hp])

/-- With no plan a completion only takes the order from the wait list. -/
theorem takeOut_bare {o : FetchOrder} {s : State} (hp : s.planner.plans = []) :
    takeOut o s = { s with
      drives := (takeOut o s).drives
      planner := { s.planner with waiters := (takeOut o s).planner.waiters, passesDue := (takeOut o s).planner.passesDue } } := by
  unfold takeOut
  split
  · rw [removeWaiter_bare hp]
    rfl
  · dsimp only
    repeat' split
    all_goals rfl

theorem takeOut_waiters {o : FetchOrder} {s : State} (hp : s.planner.plans = []) :
    (takeOut o s).planner.waiters
      = if o.place = .waitList then s.planner.waiters.filter fun w => w.id ≠ o.id else s.planner.waiters := by
  have hplace (h : o.place = .waitList) : (takeOut o s).planner.waiters = s.planner.waiters.filter fun w => w.id ≠ o.id := by
    unfold takeOut
    rw [h]
    dsimp only
    rw [removeWaiter_bare hp]
    rfl
  split
  next h => exact hplace h
  next h =>
    unfold takeOut
    split
    next hw => exact absurd hw h
    next d _ =>
      dsimp only
      split_ifs <;> rfl

theorem takeOut_hold {o : FetchOrder} {s : State} (hp : s.planner.plans = []) (d : DriveId) :
    ((takeOut o s).drive d).pendingHold = (s.drive d).pendingHold := by
  unfold takeOut
  split
  · rw [removeWaiter_bare hp]
    rfl
  next e _ =>
    by_cases he : d = e
    · subst he
      dsimp only
      split_ifs <;> simp [endUnitLater, State.wantPass, State.wantPasses]
    · dsimp only
      split_ifs <;> simp [endUnitLater, State.wantPass, State.wantPasses, State.drive_updDrive_ne _ _ he]

/-- What a completion leaves where no plan stands (R140). -/
theorem completeFetch_bare {s : State} (hp : s.planner.plans = []) (id : FetchId) (outcome : Status) :
    completeFetch id outcome s = { s with
      drives := (completeFetch id outcome s).drives
      planner := { s.planner with
        waiters := (completeFetch id outcome s).planner.waiters, passesDue := (completeFetch id outcome s).planner.passesDue }
      fetch := (completeFetch id outcome s).fetch, fee := (completeFetch id outcome s).fee
      links := (completeFetch id outcome s).links, notices := (completeFetch id outcome s).notices } := by
  cases h : s.order? id with
  | none => rw [completeFetch_none h]
  | some o =>
    obtain rfl := order?_id h
    rw [completeFetch_rest h, takeOut_bare hp]

theorem completeAll_bare {s : State} (hp : s.planner.plans = []) (ids : List FetchId) (outcome : Status) :
    completeAll ids outcome s = { s with
      drives := (completeAll ids outcome s).drives
      planner := { s.planner with
        waiters := (completeAll ids outcome s).planner.waiters, passesDue := (completeAll ids outcome s).planner.passesDue }
      fetch := (completeAll ids outcome s).fetch, fee := (completeAll ids outcome s).fee
      links := (completeAll ids outcome s).links, notices := (completeAll ids outcome s).notices } := by
  unfold completeAll
  induction ids generalizing s with
  | nil => rfl
  | cons id ids ih =>
    have h := completeFetch_bare hp id outcome
    rw [List.foldl_cons, ih (by rw [h]; exact hp), h]

theorem completeFetch_hold {s : State} (hp : s.planner.plans = []) (id : FetchId) (outcome : Status) (d : DriveId) :
    ((completeFetch id outcome s).drive d).pendingHold = (s.drive d).pendingHold := by
  cases h : s.order? id with
  | none => rw [completeFetch_none h]
  | some o =>
    obtain rfl := order?_id h
    rw [completeFetch_rest h]
    exact takeOut_hold hp d

theorem completeAll_hold {s : State} (hp : s.planner.plans = []) (ids : List FetchId) (outcome : Status) (d : DriveId) :
    ((completeAll ids outcome s).drive d).pendingHold = (s.drive d).pendingHold := by
  unfold completeAll
  induction ids generalizing s with
  | nil => rfl
  | cons id ids ih =>
    rw [List.foldl_cons, ih ((completeFetch_settles id outcome s).plans hp), completeFetch_hold hp]

/-- A completion names the orders that it ends; of the others and of their waiters it takes nothing. -/
theorem completeFetch_waiters {s : State} (hp : s.planner.plans = []) (id : FetchId) (outcome : Status) (w : Waiter) :
    (w ∈ (completeFetch id outcome s).planner.waiters → w ∈ s.planner.waiters)
      ∧ (w ∈ s.planner.waiters → w.id ≠ id → w ∈ (completeFetch id outcome s).planner.waiters)
      ∧ (∀ o, s.order? id = some o → o.place = .waitList → w ∈ (completeFetch id outcome s).planner.waiters → w.id ≠ id) := by
  cases h : s.order? id with
  | none =>
    rw [completeFetch_none h]
    exact ⟨fun hw => hw, fun hw _ => hw, fun _ ho _ _ => nomatch ho⟩
  | some o =>
    obtain rfl := order?_id h
    have hwaiters : (completeFetch o.id outcome s).planner.waiters
        = if o.place = .waitList then s.planner.waiters.filter fun w => w.id ≠ o.id else s.planner.waiters := by
      rw [completeFetch_rest h]
      exact takeOut_waiters hp
    rw [hwaiters]
    refine ⟨fun hw => ?_, fun hw hne => ?_, fun x hx hpl hw => ?_⟩
    · split at hw
      · exact (List.mem_filter.1 hw).1
      · exact hw
    · split
      · exact List.mem_filter.2 ⟨hw, by simpa using hne⟩
      · exact hw
    · cases hx
      rw [if_pos hpl] at hw
      simpa using (List.mem_filter.1 hw).2

theorem completeAll_waiters {s : State} (hp : s.planner.plans = []) (ids : List FetchId) (outcome : Status) (w : Waiter) :
    (w ∈ (completeAll ids outcome s).planner.waiters → w ∈ s.planner.waiters)
      ∧ (w ∈ s.planner.waiters → w.id ∉ ids → w ∈ (completeAll ids outcome s).planner.waiters)
      ∧ (∀ id ∈ ids, ∀ o, s.order? id = some o → o.place = .waitList →
        w ∈ (completeAll ids outcome s).planner.waiters → w.id ≠ id) := by
  unfold completeAll
  induction ids generalizing s with
  | nil => exact ⟨fun h => h, fun h _ => h, nofun⟩
  | cons id ids ih =>
    have hp' : (completeFetch id outcome s).planner.plans = [] := (completeFetch_settles id outcome s).plans hp
    obtain ⟨h1, h2, h3⟩ := completeFetch_waiters hp id outcome w
    obtain ⟨k1, k2, k3⟩ := ih hp'
    rw [List.foldl_cons]
    refine ⟨fun h => h1 (k1 h), fun h hn => k2 (h2 h (by simp_all)) (by simp_all), fun a ha o ho hpl hw => ?_⟩
    by_cases hid : a = id
    · exact hid ▸ h3 o (hid ▸ ho) hpl (k1 hw)
    · obtain hnone | hsome := (completeFetch_settles id outcome s).order? a
      · cases hx : s.order? id with
        | none =>
          rw [completeFetch_none hx] at hnone
          cases hnone.symm.trans ho
        | some x =>
          obtain rfl := order?_id hx
          rw [completeFetch_order? hx, if_neg hid] at hnone
          cases hnone.symm.trans ho
      · exact k3 a ((List.mem_cons.1 ha).resolve_left hid) o (hsome.trans ho) hpl hw

theorem completeFetch_gone (id : FetchId) (outcome : Status) (s : State) : (completeFetch id outcome s).order? id = none := by
  cases h : s.order? id with
  | none => rwa [completeFetch_none h]
  | some o =>
    obtain rfl := order?_id h
    rw [completeFetch_order? h, if_pos rfl]

theorem order?_stays_none {s t : State} (h : Settles s t) {id : FetchId} (hid : s.order? id = none) : t.order? id = none :=
  (h.order? id).elim (fun h => h) fun h => h.trans hid

theorem completeAll_gone {ids : List FetchId} {id : FetchId} (h : id ∈ ids) (outcome : Status) (s : State) :
    (completeAll ids outcome s).order? id = none := by
  unfold completeAll
  induction ids generalizing s with
  | nil => cases h
  | cons x xs ih =>
    obtain rfl | h := List.mem_cons.1 h
    · exact order?_stays_none (completeAll_settles xs outcome _) (completeFetch_gone id outcome s)
    · exact ih h _

theorem completeFetch_awaits {id : FetchId} {st : Station} {g : Byte} (hne : id ≠ ⟨st, g⟩) {s : State} (outcome : Status)
    (h : s.awaits st g) : (completeFetch id outcome s).awaits st g := by
  cases hx : s.order? id with
  | none => rwa [completeFetch_none hx]
  | some o =>
    obtain rfl := order?_id hx
    have hl := completeFetch_link hx outcome st
    unfold State.awaits
    rw [sameButAttention_outstanding hl]
    split
    next hst =>
      refine FileRequests.mem_outstanding_answered (fun hg => hne ?_) ?_
      · rw [hst, hg]; rfl
      · unfold withoutPages
        rw [orphanFrame_rest]
        exact h
    next => exact h

theorem completeAll_awaits {ids : List FetchId} {st : Station} {g : Byte} (hne : ∀ id ∈ ids, id ≠ ⟨st, g⟩) {s : State}
    (outcome : Status) (h : s.awaits st g) : (completeAll ids outcome s).awaits st g := by
  unfold completeAll
  induction ids generalizing s with
  | nil => exact h
  | cons id ids ih =>
    exact ih (fun x hx => hne x (List.mem_cons_of_mem _ hx)) (completeFetch_awaits (hne id List.mem_cons_self) outcome h)

/-! ### The filing request refused (R93, R121) -/

theorem withDead_library (i : Instrument) (s : State) :
    (withDead i s).library = { s.library with table := (withDead i s).library.table } := by
  unfold withDead
  split
  · split <;> rfl
  · rfl

theorem dropInstrument_library (s : State) :
    (dropInstrument s).library = { s.library with table := (dropInstrument s).library.table } := by
  cases h : s.run.current with
  | none => rw [dropInstrument_none h]
  | some i => rw [dropInstrument_some h]; exact withDead_library i s

theorem dropLabel_library (s : State) : (dropLabel s).library = { s.library with
    table := (dropLabel s).library.table, volumes := (dropLabel s).library.volumes
    nextVol := (dropLabel s).library.nextVol } := by
  have hfailed (n : Nat) (x : Side) : (labelFailed n x s).library = { s.library with
      table := (labelFailed n x s).library.table, volumes := (labelFailed n x s).library.volumes
      nextVol := (labelFailed n x s).library.nextVol } := by
    rw [(labelFailed_noted n x s).library]
    rfl
  obtain h | ⟨n, x, h⟩ := dropLabel_either s
  · rw [h]
    rfl
  · rw [h]
    exact hfailed n x

theorem withdrawFilingReq_none {s : State} (h : s.planner.filingReq = none) : withdrawFilingReq s = s := by
  unfold withdrawFilingReq
  rw [h]
  rfl

/-- Of the plans, orders, inspections and fetches nothing has changed; of the planner the passes due alone. -/
structure Aside (s t : State) : Prop where
  planner : t.planner = { s.planner with passesDue := t.planner.passesDue }
  inspections : t.library.inspections = s.library.inspections
  exports : t.library.exports = s.library.exports
  arm : t.arm = s.arm
  pendingHold : ∀ d, (t.drive d).pendingHold = (s.drive d).pendingHold
  fetch : t.fetch = s.fetch
  fee : t.fee = s.fee

theorem Aside.refl (s : State) : Aside s s := ⟨rfl, rfl, rfl, rfl, fun _ => rfl, rfl, rfl⟩

theorem Aside.trans {a b c : State} (h : Aside a b) (k : Aside b c) : Aside a c where
  planner := by rw [k.planner, h.planner]
  inspections := k.inspections.trans h.inspections
  exports := k.exports.trans h.exports
  arm := k.arm.trans h.arm
  pendingHold d := (k.pendingHold d).trans (h.pendingHold d)
  fetch := k.fetch.trans h.fetch
  fee := k.fee.trans h.fee

theorem updRun_aside (f : Run → Run) (s : State) : Aside s (s.updRun f) := ⟨rfl, rfl, rfl, rfl, fun _ => rfl, rfl, rfl⟩

theorem updLink_aside (st : Station) (f : Link → Link) (s : State) : Aside s (s.updLink st f) :=
  ⟨rfl, rfl, rfl, rfl, fun _ => rfl, rfl, rfl⟩

theorem flushed_aside (s : State) : Aside s (flushed s) := by
  rw [flushed_rest]
  exact ⟨rfl, by rw [dropInstrument_library], by rw [dropInstrument_library], rfl, fun _ => rfl, rfl, rfl⟩

theorem endFilingUnits_aside (s : State) : Aside s (endFilingUnits s) :=
  ⟨rfl, rfl, rfl, rfl, fun d => by rw [endFilingUnits, drive_mapped], rfl, rfl⟩

theorem dropLabel_aside (s : State) : Aside s (dropLabel s) where
  planner := by rw [dropLabel_rest]
  inspections := by rw [dropLabel_library]
  exports := by rw [dropLabel_library]
  arm := by rw [dropLabel_rest]
  pendingHold d := by rw [dropLabel_rest]; rfl
  fetch := by rw [dropLabel_rest]
  fee := by rw [dropLabel_rest]

theorem updDrive_aside {f : Drive → Drive} (hf : ∀ x, (f x).pendingHold = x.pendingHold) (d : DriveId) (s : State) :
    Aside s (s.updDrive d f) where
  planner := rfl
  inspections := rfl
  exports := rfl
  arm := rfl
  pendingHold e := by
    rw [State.drive_updDrive]
    split
    next he => rw [he, hf]
    next => rfl
  fetch := rfl
  fee := rfl

theorem wantPass_aside (s : State) : Aside s s.wantPass := ⟨rfl, rfl, rfl, rfl, fun _ => rfl, rfl, rfl⟩

theorem liftPin_aside (d : DriveId) (s : State) : Aside s (liftPin d s) := by
  unfold liftPin restartIdle
  refine .trans (.trans (updDrive_aside ?_ _ _) (updDrive_aside ?_ _ _)) (wantPass_aside _)
  · exact fun _ => rfl
  · exact fun _ => rfl

theorem disengage_aside (s : State) : Aside s (disengage s) := by
  unfold disengage
  split
  · exact .refl s
  · exact (updRun_aside _ s).trans (liftPin_aside _ _)

/-- An abort without a filing request touches no order and no plan. -/
theorem abortCore_aside {s : State} (h : s.planner.filingReq = none) : Aside s (abortCore s) := by
  have hf := flushed_aside s
  have hu : unfiled s = endFilingUnits (flushed s) := by
    rw [unfiled, withdrawFilingReq_none (by rw [hf.planner]; exact h)]
  rw [abortCore_eq, hu]
  exact (((hf.trans (endFilingUnits_aside _)).trans (dropLabel_aside _)).trans (disengage_aside _)).trans (updRun_aside _ _)

theorem replyOpen_aside (c : Status) (b : ReplyBody) (s : State) : Aside s (replyOpen c b s) := by
  rw [replyOpen_eq]
  exact (updLink_aside ..).trans (updRun_aside ..)

theorem replyClose_aside (c : Status) (b : ReplyBody) (s : State) : Aside s (replyClose c b s) := by
  rw [replyClose_eq]
  exact (updLink_aside ..).trans (updRun_aside ..)

/-- A run failure without a filing request touches no order and no plan. -/
theorem runFailure_aside {s : State} (h : s.planner.filingReq = none) (reason : Status) :
    Aside s (runFailure reason s) := by
  by_cases hs : s.run.state = .closed ∨ s.run.failure ≠ none
  · rw [runFailure_idle hs]
    exact .refl s
  · obtain ⟨hs, hf⟩ := not_or.1 hs
    rw [not_not] at hf
    have k : Aside s (failedRun reason s) := (abortCore_aside h).trans (updRun_aside ..)
    cases ho : s.run.openTag with
    | some g =>
      rw [runFailure_open hs hf ho]
      exact (k.trans (replyOpen_aside ..)).trans (updRun_aside ..)
    | none =>
      cases hc : s.run.closeTag with
      | some g =>
        rw [runFailure_close hs hf ho hc]
        exact (k.trans (replyClose_aside ..)).trans (updRun_aside ..)
      | none =>
        rw [runFailure_unasked hs hf ho hc]
        exact k.trans (updRun_aside ..)

/-- A pending request of the run answered: its station's context has the answer, and no other request of it. -/
theorem answer_link {s : State} {r : Run} (hr : s.run = r) {tag : Option Byte} (ans : Byte → Reply)
    (ht : ∀ g, tag = some g → asks r ⟨r.owner, (ans g).tag⟩) (st : Station) :
    LinkSettles (fun g => asks r ⟨st, g⟩) (s.link st) ((s.updLink s.run.owner (answeredIf tag ans)).link st) := by
  rw [State.link_updLink, hr]
  split
  next hst =>
    rw [hst]
    exact .answeredIf _ ht
  next => exact .refl _ _

/-- A run failure answers none but the run's own pending requests (R114). -/
theorem runFailure_link (reason : Status) (s : State) (st : Station) :
    LinkSettles (fun g => asks s.run ⟨st, g⟩) (s.link st) ((runFailure reason s).link st) := by
  by_cases hs : s.run.state = .closed ∨ s.run.failure ≠ none
  · rw [runFailure_idle hs]
    exact .refl _ _
  · obtain ⟨hs, hf⟩ := not_or.1 hs
    rw [not_not] at hf
    have hrun := failedRun_run reason s
    have hl : LinkSettles (fun g => asks s.run ⟨st, g⟩) (s.link st) ((failedRun reason s).link st) :=
      .of_same ((failedRun_frame reason s).link st)
    cases ho : s.run.openTag with
    | some g =>
      rw [runFailure_open hs hf ho, replyOpen_eq]
      generalize failedRun reason s = u at hrun hl ⊢
      refine hl.trans (answer_link hrun _ (fun g hg => ⟨rfl, .inl ?_⟩) st) fun _ h => h
      rw [← hg, hrun]
    | none =>
      cases hc : s.run.closeTag with
      | some g =>
        rw [runFailure_close hs hf ho hc, replyClose_eq]
        generalize failedRun reason s = u at hrun hl ⊢
        refine hl.trans (answer_link hrun _ (fun g hg => ⟨rfl, .inr ?_⟩) st) fun _ h => h
        rw [← hg, hrun]
      | none =>
        rw [runFailure_unasked hs hf ho hc]
        exact hl

end Sys2Proof.Laws.Halting

/-!
PROOF. The faults of a move by the level at the time (R50, R51, R55, R56), the halt as `armHalts` puts it together (R35,
R93), and DRIVE_REFUSED (R63). The obligation O43.
-/

namespace Sys2Proof.Laws.MoveFaults

open Sys2Proof Sys2Proof.Machine Sys2Proof.Laws.Noting Sys2Proof.Laws.Cabinets Sys2Proof.Laws.RunFrames
open Sys2Proof.Laws.RunEnds Sys2Proof.Laws.Completion Sys2Proof.Laws.Settling Sys2Proof.Laws.FilingEnds
open Sys2Proof.Laws.Halting Sys2Proof.Laws.DriveFaulting

/-! ### The exports at a halt (R35) -/

/-- The answer LIBRARY_HALTED to an EXPORT (R35). -/
def haltedReply (e : ExportEntry) : Reply := ⟨e.tag, 0x40, .libraryHalted, .none⟩

/-- One entry's mark cleared and its request answered LIBRARY_HALTED (R35). -/
def exportHalted (e : ExportEntry) (s : State) : State :=
  replyExport e .libraryHalted (withPool (fun s => s.updCart e.cart fun c => { c with exportPending := false }) s)

theorem exportsHalted_eq (s : State) :
    exportsHalted s = s.library.exports.foldl (fun s e => exportHalted e s) (s.updLibrary fun l => { l with exports := [] }) :=
  rfl

theorem exportHalted_rest (e : ExportEntry) (s : State) : exportHalted e s = { s with
    library := { s.library with table := (s.updCart e.cart fun c => { c with exportPending := false }).library.table }
    links := (exportHalted e s).links, notices := (exportHalted e s).notices } := by
  unfold exportHalted
  rw [Places.replyExport_rest, (withPool_noted _ _).rest]
  rfl

theorem exportHalted_pending (e : ExportEntry) (s : State) {i : Nat} (h : (s.source i).pending = true) :
    ((exportHalted e s).source i).pending = true := by
  unfold exportHalted
  rw [Places.replyExport_rest]
  exact (withPool_noted _ _).pending i h

/-- The mark of the cartridges in `ns` is cleared. -/
def unmarkedIn (ns : List Nat) (c : Cartridge) : Cartridge := if c.number ∈ ns then { c with exportPending := false } else c

theorem exportHalted_cart? (e : ExportEntry) (s : State) (n : Nat) :
    (exportHalted e s).cart? n = (s.cart? n).map (unmarkedIn [e.cart]) := by
  have h : (exportHalted e s).cart? n = (s.updCart e.cart fun c => { c with exportPending := false }).cart? n := by
    rw [exportHalted_rest]
    rfl
  refine h.trans ((cart?_updCart (f := fun c => { c with exportPending := false }) (fun _ => rfl) n).trans ?_)
  congr 1
  funext c
  simp [unmarkedIn]

/-- What the exports of a halt leave. -/
theorem exportsFold_rest (es : List ExportEntry) (s : State) : es.foldl (fun s e => exportHalted e s) s = { s with
    library := { s.library with table := (es.foldl (fun s e => exportHalted e s) s).library.table }
    links := (es.foldl (fun s e => exportHalted e s) s).links
    notices := (es.foldl (fun s e => exportHalted e s) s).notices } := by
  induction es generalizing s with
  | nil => rfl
  | cons e es ih =>
    rw [List.foldl_cons, ih, exportHalted_rest]

theorem exportsFold_pending (es : List ExportEntry) (s : State) {i : Nat} (h : (s.source i).pending = true) :
    ((es.foldl (fun s e => exportHalted e s) s).source i).pending = true := by
  induction es generalizing s with
  | nil => exact h
  | cons e es ih => exact ih _ (exportHalted_pending e s h)

theorem exportsFold_cart? (es : List ExportEntry) (s : State) (n : Nat) :
    (es.foldl (fun s e => exportHalted e s) s).cart? n = (s.cart? n).map (unmarkedIn (es.map (·.cart))) := by
  induction es generalizing s with
  | nil => cases h : s.cart? n <;> simp [h, unmarkedIn]
  | cons e es ih =>
    rw [List.foldl_cons, ih, exportHalted_cart?, Option.map_map]
    congr 1
    funext c
    unfold unmarkedIn
    by_cases h : c.number = e.cart <;> by_cases k : c.number ∈ es.map (·.cart) <;> simp_all

/-- A request's answer is in the queue, or the request is still awaited. -/
def heard (e : ExportEntry) (s : State) : Prop :=
  haltedReply e ∈ (s.link e.station).replies ∨ s.awaits e.station e.tag

theorem exportHalted_link (e : ExportEntry) (s : State) (st : Station) :
    SameButAttention (if st = e.station ∧ e.replyDue = true then answered (haltedReply e) (s.link st) else s.link st)
      ((exportHalted e s).link st) := by
  have hw := (withPool_noted (fun s => s.updCart e.cart fun c => { c with exportPending := false }) s).link st
  unfold exportHalted replyExport
  generalize withPool (fun s => s.updCart e.cart fun c => { c with exportPending := false }) s = u at hw ⊢
  by_cases hd : e.replyDue = true
  · rw [if_pos hd, replyLong_eq, State.link_updLink]
    by_cases hst : st = e.station
    · rw [if_pos hst, if_pos ⟨hst, hd⟩]
      subst hst
      exact sameButAttention_answered hw _
    · rw [if_neg hst, if_neg fun h => hst h.1]
      exact hw
  · rw [if_neg hd, if_neg fun h => hd h.2]
    exact hw

theorem answered_mem {r : Reply} {l : Link} (h : ∃ e ∈ l.outstanding, e.tag = r.tag) : r ∈ (answered r l).replies := by
  rw [answered_awaited h]
  simp

theorem exportHalted_heard (e x : ExportEntry) {s : State} (h : heard x s) : heard x (exportHalted e s) := by
  have hl := exportHalted_link e s x.station
  unfold heard State.awaits
  rw [sameButAttention_replies hl, sameButAttention_outstanding hl]
  split
  next hst =>
    obtain hin | haw := h
    · exact .inl ((LinkSettles.answered (p := fun _ => True) _ _ trivial).replies.subset hin)
    · by_cases ht : x.tag = e.tag
      · have hr : haltedReply x = haltedReply e := by unfold haltedReply; rw [ht]
        rw [hr]
        exact .inl (answered_mem (by rw [show (haltedReply e).tag = x.tag from ht.symm]; exact haw))
      · exact .inr (FileRequests.mem_outstanding_answered ht haw)
  next => exact h

theorem exportHalted_heard_self {e : ExportEntry} (hd : e.replyDue = true) {s : State} (h : heard e s) :
    haltedReply e ∈ ((exportHalted e s).link e.station).replies := by
  have hl := exportHalted_link e s e.station
  rw [if_pos ⟨rfl, hd⟩] at hl
  rw [sameButAttention_replies hl]
  obtain hin | haw := h
  · exact (LinkSettles.answered (p := fun _ => True) _ _ trivial).replies.subset hin
  · exact answered_mem haw

theorem exportHalted_replies (e : ExportEntry) (s : State) (st : Station) :
    (s.link st).replies <+: ((exportHalted e s).link st).replies := by
  rw [sameButAttention_replies (exportHalted_link e s st)]
  split
  · exact (LinkSettles.answered (p := fun _ => True) _ _ trivial).replies
  · exact List.prefix_refl _

theorem exportsFold_replies (es : List ExportEntry) (s : State) (st : Station) :
    (s.link st).replies <+: ((es.foldl (fun s e => exportHalted e s) s).link st).replies := by
  induction es generalizing s with
  | nil => exact List.prefix_refl _
  | cons e es ih => exact (exportHalted_replies e s st).trans (ih _)

theorem exportsFold_answers {es : List ExportEntry} {e : ExportEntry} (he : e ∈ es) (hd : e.replyDue = true) {s : State}
    (h : heard e s) : haltedReply e ∈ ((es.foldl (fun s e => exportHalted e s) s).link e.station).replies := by
  induction es generalizing s with
  | nil => cases he
  | cons x xs ih =>
    rw [List.foldl_cons]
    obtain rfl | he := List.mem_cons.1 he
    · exact (exportsFold_replies xs _ _).subset (exportHalted_heard_self hd h)
    · exact ih he (exportHalted_heard x e h)

/-! ### The halt (R56, R93) -/

/-- The arm HALTED, with its history written and no order in its list. -/
def haltedArm (r : FaultRec) (date : Nat) (a : Arm) : Arm :=
  { a with moving := none, level := .halted, history := some ⟨a.primary, a.secondary, r, date⟩, orders := [] }

/-- The orders of the list at a halt. -/
def discarded (m : Move) (s : State) : List MoveOrder := suspended m s.arm.orders

/-- The arm HALTED and the notice set, the list emptied, before the originators hear of it. -/
def haltBegun (code : MoveFault) (m : Move) (s : State) : State :=
  (noticeSet nArmHalted ((stopMove m s).updArm fun a =>
    { a with level := .halted, history := some ⟨a.primary, a.secondary, faultRecord code m (stopMove m s), s.fee.date⟩ })).updOrders
    fun _ => []

/-- The orders and plans discarded. -/
def haltTold (code : MoveFault) (m : Move) (s : State) : State :=
  (ordersGone (discarded m s) .discarded (haltBegun code m s)).updPlanner fun q =>
    { q with plans := [], waiters := unplanned q.waiters }

/-- The names of the waiters whose side is not up in a drive. -/
def strandedIds (s : State) : List FetchId := (s.planner.waiters.filter fun w => !waiterUp s w).map (·.id)

/-- The filing request, where one is outstanding, refused. -/
def filingRefused (s : State) : State := if s.planner.filingReq.isSome = true then refuseFiling s else s

/-- The stranded waiters completed. -/
def haltCompleted (code : MoveFault) (m : Move) (s : State) : State :=
  completeAll (strandedIds (haltTold code m s)) .libraryHalted (haltTold code m s)

theorem halt_eq (code : MoveFault) (m : Move) (s : State) :
    halt code m s = exportsHalted (filingRefused (haltCompleted code m s)) := by
  have h : (noticeSet nArmHalted ((stopMove m s).updArm fun a =>
    { a with level := .halted, history := some ⟨a.primary, a.secondary, faultRecord code m (stopMove m s), s.fee.date⟩ })).arm.orders
      = discarded m s := by
    rw [(noticeSet_noted ..).arm, stopMove_eq]
    rfl
  unfold haltCompleted haltTold
  rw [← h]
  have hd : (stopMove m s).fee.date = s.fee.date := by rw [stopMove_eq]
  unfold halt haltBegun
  rw [← hd]
  rfl

section
variable (code : MoveFault) (m : Move) (s : State)

theorem haltBegun_noted : Noted
    { s with
      arm := haltedArm (faultRecord code m s) s.fee.date s.arm
      planner := { s.planner with passesDue := s.planner.passesDue + 1 } }
    (haltBegun code m s) := by
  have h := noticeSet_noted nArmHalted ((stopMove m s).updArm fun a =>
    { a with level := .halted, history := some ⟨a.primary, a.secondary, faultRecord code m (stopMove m s), s.fee.date⟩ })
  rw [stopMove_eq] at h
  unfold haltBegun
  rw [stopMove_eq]
  generalize noticeSet _ _ = u at h ⊢
  exact ⟨by rw [h.rest]; rfl, h.link, h.still, h.pending⟩

theorem haltBegun_notice : ((haltBegun code m s).source 3).pending = true :=
  noticeSet_pending (i := 3) _ (by decide) (by decide)

/-- What a halt has done before the completions. -/
structure HaltTold (r : FaultRec) (s u : State) : Prop where
  arm : u.arm = haltedArm r s.fee.date s.arm
  fee : u.fee = s.fee
  fetch : u.fetch = s.fetch
  run : u.run = s.run
  catalogue : u.catalogue = s.catalogue
  table : u.library.table = s.library.table
  waiters : u.planner.waiters = unplanned s.planner.waiters
  filingReq : u.planner.filingReq = s.planner.filingReq
  plans : u.planner.plans = []
  passes : s.planner.passesDue < u.planner.passesDue
  link : ∀ st, SameButAttention (s.link st) (u.link st)
  notice : (u.source 3).pending = true
  pending : ∀ i, (s.source i).pending = true → (u.source i).pending = true
  drive : ∀ d, DriveSettles (s.drive d) (u.drive d)
  hold : ∀ d k, (s.drive d).pendingHold = some k → s.armOrder? k ≠ none → (u.drive d).pendingHold = none
  orders : ∀ i ∈ u.library.inspections, ∀ k, i.order = some k → s.armOrder? k = none
  inspections : u.library.inspections.map unordered = s.library.inspections.map unordered
  listed : u.library.exports.map orderless = s.library.exports.map orderless

theorem armOrder?_eq_none {s : State} {k : Nat} : s.armOrder? k = none ↔ k ∉ s.arm.orders.map (·.number) := by
  simp [State.armOrder?]

theorem haltTold_told : HaltTold (faultRecord code m s) s (haltTold code m s) := by
  have hb := haltBegun_noted code m s
  have hbn := haltBegun_notice code m s
  have hnum : (discarded m s).map (·.number) = s.arm.orders.map (·.number) := suspended_numbers m s.arm.orders
  unfold haltTold
  generalize haltBegun code m s = b at hb hbn
  obtain ⟨ht, -⟩ := ordersGone_told (discarded m s) .discarded b
  have hf := ordersGone_frame (discarded m s) .discarded b
  have hw := unplanned_ordersGone (discarded m s) .discarded b
  have hd := ordersGone_drive (discarded m s) .discarded b
  have hi := fun i (h : i ∈ (ordersGone (discarded m s) .discarded b).library.inspections) k hk =>
    ordersGone_inspections (k := k) h hk
  generalize ordersGone (discarded m s) .discarded b = u at ht hf hw hd hi
  exact
    { arm := by rw [State.updPlanner_arm, ht.arm, hb.arm]
      fee := ht.fee.trans hb.fee
      fetch := ht.fetch.trans hb.fetch
      run := ht.run.trans hb.run
      catalogue := ht.catalogue.trans hb.catalogue
      table := ht.table.trans (by rw [hb.library])
      waiters := hw.trans (by rw [hb.planner])
      filingReq := ht.filingReq.trans (by rw [hb.planner])
      plans := rfl
      passes := Nat.lt_of_lt_of_le (Nat.lt_succ_self _) (Nat.le_trans (by rw [hb.planner]) ht.passes)
      link := fun st => (hb.link st).trans (hf.link st)
      notice := hf.pending 3 hbn
      pending := fun i h => hf.pending i (hb.pending i h)
      drive := fun d => by
        have hs : b.drive d = s.drive d := hb.drive d
        exact ⟨by rw [← hs]; exact by rw [show (State.updPlanner u _).drive d = u.drive d from rfl, hf.drive d],
          by rw [← hs]; exact hf.work d, by rw [← hs]; exact hf.idle d, by rw [← hs]; exact hf.hold d,
          by rw [← hs, show (State.updPlanner u _).drive d = u.drive d from rfl, hf.drive d]⟩
      hold := fun d k hk hin => by
        have hs : (b.drive d).pendingHold = some k := (congrArg Drive.pendingHold (hb.drive d)).trans hk
        rw [show (State.updPlanner u _).drive d = u.drive d from rfl, hd]
        exact holdGone_pending hs (by rw [hnum]; exact not_not.1 (mt armOrder?_eq_none.2 hin))
      orders := fun i h k hk => by
        rw [armOrder?_eq_none, ← hnum]
        intro hk'
        obtain ⟨o, ho, hok⟩ := List.mem_map.1 hk'
        exact hi i h k hk o ho hok
      inspections := hf.inspections.trans (by rw [hb.library])
      listed := hf.listed.trans (by rw [hb.library]) }

end

/-- A run failure shown by one state is shown by every later one that keeps the run, the request and the replies. -/
theorem runFails_later {s t t' : State} {c : Status} (h : runFails s t c) (hr : t'.run = t.run)
    (hq : t'.planner.filingReq = t.planner.filingReq) (hl : ∀ st, (t.link st).replies <+: (t'.link st).replies) :
    runFails s t' c := by
  unfold runFails at h ⊢
  rw [hr, hq]
  obtain ⟨h1, h2, h3, h4, h5, h6, h7, h8, h9⟩ := h
  exact ⟨h1, h2, h3, h4, h5, h6, h7, fun g hg => ⟨(h8 g hg).1, fun ha => (hl _).subset ((h8 g hg).2 ha)⟩,
    fun g ho hg => ⟨(h9 g ho hg).1, fun ha => (hl _).subset ((h9 g ho hg).2 ha)⟩⟩

/-- What the refusal of the filing request leaves. -/
structure Refused (w v : State) : Prop where
  settles : Settles w v
  waiters : v.planner.waiters = w.planner.waiters
  inspections : v.library.inspections = w.library.inspections
  exports : v.library.exports = w.library.exports
  arm : v.arm = w.arm
  pendingHold : ∀ d, (v.drive d).pendingHold = (w.drive d).pendingHold
  fetch : v.fetch = w.fetch
  fee : v.fee = w.fee
  link : ∀ st, LinkSettles (fun g => asks w.run ⟨st, g⟩) (w.link st) (v.link st)
  filingReq : v.planner.filingReq = none

theorem refuseFiling_refused (w : State) : Refused w (refuseFiling w) := by
  have ha := runFailure_aside (s := w.updPlanner fun q => { q with filingReq := none }) rfl .libraryHalted
  have hs := runFailure_settles .libraryHalted (w.updPlanner fun q => { q with filingReq := none })
  have hl := runFailure_link .libraryHalted (w.updPlanner fun q => { q with filingReq := none })
  have hp : Settles w (w.updPlanner fun q => { q with filingReq := none }) := planner_settles le_rfl fun h => h
  unfold refuseFiling
  generalize runFailure _ _ = v at ha hs hl
  exact
    { settles := hp.trans hs
      waiters := by rw [ha.planner]; rfl
      inspections := ha.inspections
      exports := ha.exports
      arm := ha.arm
      pendingHold := ha.pendingHold
      fetch := ha.fetch
      fee := ha.fee
      link := hl
      filingReq := by rw [ha.planner]; rfl }

theorem refuseFiling_fails {w : State} (hs : w.run.state ≠ .closed) (hf : w.run.failure = none) :
    runFails w (refuseFiling w) .libraryHalted :=
  runFailure_fails (s := w.updPlanner fun q => { q with filingReq := none }) hs hf

theorem filingRefused_none {w : State} (h : w.planner.filingReq = none) : filingRefused w = w := by
  unfold filingRefused
  rw [h]
  rfl

theorem filingRefused_some {w : State} (h : w.planner.filingReq ≠ none) : filingRefused w = refuseFiling w :=
  if_pos (Option.isSome_iff_ne_none.2 h)

theorem filingRefused_refused (w : State) : Refused w (filingRefused w) := by
  by_cases h : w.planner.filingReq = none
  · rw [filingRefused_none h]
    exact ⟨.refl w, rfl, rfl, rfl, rfl, fun _ => rfl, rfl, rfl, fun _ => .refl _ _, h⟩
  · rw [filingRefused_some h]
    exact refuseFiling_refused w

theorem waiterUp_of_table {s t : State} (h : t.library.table = s.library.table) (w : Waiter) : waiterUp t w = waiterUp s w := by
  unfold waiterUp State.upIn
  rw [Mapping.cart?_of_table h]

/-- The names of the stranded waiters are told on the records from before the halt. -/
theorem strandedIds_told {r : FaultRec} {s u : State} (h : HaltTold r s u) :
    strandedIds u = (s.planner.waiters.filter fun w => !waiterUp s w).map (·.id) := by
  unfold strandedIds
  rw [h.waiters, unplanned, List.filter_map, List.map_map]
  congr 1
  congr 1
  funext w
  show (!waiterUp u { w with plan := none }) = _
  rw [waiterUp_of_table h.table]
  rfl

theorem cart?_of_sideless {s t : State} (h : t.library.table.map sideless = s.library.table.map sideless) (n : Nat) :
    (t.cart? n).map sideless = (s.cart? n).map sideless := by
  have hfind (l : List Cartridge) : (l.find? fun c => c.number = n).map sideless
      = (l.map sideless).find? fun c => c.number = n := by
    rw [List.find?_map]
    rfl
  unfold State.cart?
  rw [hfind, hfind, h]

/-- A halt is what `armHalts` says (R35, R56, R93). -/
theorem halt_armHalts (code : MoveFault) (m : Move) (s : State) : armHalts s (halt code m s) (faultRecord code m s) := by
  have hu := haltTold_told code m s
  have hid := strandedIds_told hu
  rw [halt_eq]
  unfold haltCompleted
  generalize haltTold code m s = u at hu hid ⊢
  generalize hids : strandedIds u = ids at hid ⊢
  have hwb := completeAll_bare hu.plans ids .libraryHalted
  have hws := completeAll_settles ids .libraryHalted u
  have hww := completeAll_waiters hu.plans ids .libraryHalted
  have hwh := completeAll_hold hu.plans ids .libraryHalted
  have hwg := fun id (h : id ∈ ids) => completeAll_gone h .libraryHalted u
  have hwa := fun st g (h : ∀ id ∈ ids, id ≠ ⟨st, g⟩) (ha : u.awaits st g) => completeAll_awaits h .libraryHalted ha
  generalize hw : completeAll ids .libraryHalted u = w at hwb hws hww hwh hwg hwa ⊢
  have hv := filingRefused_refused w
  have hvn := filingRefused_none (w := w)
  have hvf := filingRefused_some (w := w)
  have hfails := refuseFiling_fails (w := w)
  generalize filingRefused w = v at hv hvn hvf ⊢
  have htr := exportsFold_rest v.library.exports (v.updLibrary fun l => { l with exports := [] })
  have htp := fun i h => exportsFold_pending v.library.exports (v.updLibrary fun l => { l with exports := [] }) (i := i) h
  have htc := exportsFold_cart? v.library.exports (v.updLibrary fun l => { l with exports := [] })
  have htl := exportsFold_replies v.library.exports (v.updLibrary fun l => { l with exports := [] })
  have hta := fun e (he : e ∈ v.library.exports) hd h =>
    exportsFold_answers (e := e) he hd (s := v.updLibrary fun l => { l with exports := [] }) h
  rw [exportsHalted_eq]
  generalize (v.library.exports.foldl _ _) = t at htr htp htc htl hta ⊢
  have hrun : w.run = u.run := by rw [hwb]
  have hexp : v.library.exports.map orderless = s.library.exports.map orderless := by
    rw [hv.exports, hwb]
    exact hu.listed
  have hinsp : t.library.inspections = u.library.inspections := by
    rw [htr]
    refine hv.inspections.trans ?_
    rw [hwb]
  have harm : t.arm = haltedArm (faultRecord code m s) s.fee.date s.arm := by
    rw [htr]
    refine hv.arm.trans ?_
    rw [hwb]
    exact hu.arm
  have htw : t.planner.waiters = w.planner.waiters := by rw [htr]; exact hv.waiters
  have haw (st : Station) (g : Byte) (h : ∀ id ∈ ids, id ≠ ⟨st, g⟩) (ha : s.awaits st g) : w.awaits st g :=
    hwa st g h ((sameButAttention_awaits (hu.link st) g).2 ha)
  have hstranded (x : Waiter) (hx : x ∈ s.planner.waiters.filter fun x => !waiterUp s x) : x.id ∈ ids := by
    rw [hid]
    exact List.mem_map_of_mem hx
  unfold armHalts
  refine ⟨by rw [harm]; rfl, by rw [harm]; rfl, by rw [harm]; rfl, ?_, ?_, by rw [harm]; rfl, ?_, ?_, ?_, fun n => ?_,
    ⟨u, w, hu.fee, hu.fetch, hu.run, hu.catalogue, hu.table, hu.waiters, hu.filingReq,
      fun st => ⟨sameButAttention_replies (hu.link st), sameButAttention_outstanding (hu.link st)⟩, ?_, ?_, ?_, htw,
      fun hn => ?_, fun hn => ⟨?_, fun hs hf => ?_⟩⟩, fun x hx => ⟨?_, fun o ho hpl y hy => ?_⟩, fun x hx hup hne => ?_, ?_,
    fun e he => ⟨fun c hc => ?_, fun hd ha hx hrn => ?_⟩⟩
  · rw [htr]
    exact hv.settles.plans (hws.plans hu.plans)
  · exact htp 3 (hv.settles.pending 3 (hws.pending 3 hu.notice))
  · intro d k hk hin
    rw [htr]
    exact (hv.pendingHold d).trans ((hwh d).trans (hu.hold d k hk hin))
  · rw [hinsp]
    exact hu.orders
  · rw [hinsp]
    have := congrArg (List.map fun i : Inspection => (i.id, i.place, i.reserved)) hu.inspections
    rw [List.map_map, List.map_map] at this
    exact this
  · have hc := cart?_of_sideless (s := s) (t := v) (hv.settles.carts.trans (hws.carts.trans (by rw [hu.table]))) n
    rw [htc n]
    refine .trans ?_ ((congrArg (Option.map fun c : Cartridge => (c.location, c.sideUp)) hc).trans ?_)
    · rw [Option.map_map, Option.map_map]
      congr 1
      funext c
      simp only [Function.comp, unmarkedIn, sideless]
      split <;> rfl
    · rw [Option.map_map]
      rfl
  · rw [← hid]
    exact hw.symm
  · rw [htr]
    exact hv.fee
  · rw [htr]
    exact hv.fetch
  · have hwn : w.planner.filingReq = none := by rw [hwb]; exact hu.filingReq.trans hn
    rw [htr, hvn hwn, hwb]
    exact ⟨hu.run, hu.catalogue⟩
  · rw [htr]
    exact hv.filingReq
  · have hwn : w.planner.filingReq ≠ none := by rw [hwb]; exact fun h => hn (hu.filingReq.symm.trans h)
    rw [hvf hwn] at hv htr htl
    refine runFails_later (t := refuseFiling w) (hfails ?_ ?_) (by rw [htr]; rfl) (by rw [htr]; rfl) htl
    · rw [hrun, hu.run]; exact hs
    · rw [hrun, hu.run]; exact hf
  · rw [State.order?, htr]
    show State.order? v x.id = none
    rw [State.order?, hv.fetch]
    exact hwg x.id (hstranded x hx)
  · rw [htw] at hy
    refine (hww y).2.2 x.id (hstranded x hx) o ?_ hpl hy
    rw [State.order?, hu.fetch]
    exact ho
  · rw [htw]
    refine (hww _).2.1 ?_ fun hin => ?_
    · rw [hu.waiters]
      exact List.mem_map_of_mem hx
    · rw [hid] at hin
      obtain ⟨y, hy, hyx⟩ := List.mem_map.1 hin
      exact hne y hy hyx
  · rw [htr]
    rfl
  · have hin : orderless e ∈ v.library.exports.map orderless := by rw [hexp]; exact List.mem_map_of_mem he
    obtain ⟨e', he', heq⟩ := List.mem_map.1 hin
    have hcart : e'.cart = e.cart := (congrArg ExportEntry.cart heq :)
    rw [htc] at hc
    obtain ⟨b, hb, rfl⟩ := Option.map_eq_some_iff.1 hc
    have hbn : b.number = e.cart := cart?_number (s := v) hb
    have hmem : b.number ∈ v.library.exports.map (·.cart) := by rw [hbn, ← hcart]; exact List.mem_map_of_mem he'
    unfold unmarkedIn
    rw [if_pos hmem]
  · have hin : orderless e ∈ v.library.exports.map orderless := by rw [hexp]; exact List.mem_map_of_mem he
    obtain ⟨e', he', heq⟩ := List.mem_map.1 hin
    have hst : e'.station = e.station := (congrArg ExportEntry.station heq :)
    have htag : e'.tag = e.tag := (congrArg ExportEntry.tag heq :)
    have hdue : e'.replyDue = e.replyDue := (congrArg ExportEntry.replyDue heq :)
    have hids : ∀ id ∈ ids, id ≠ ⟨e.station, e.tag⟩ := by
      rw [hid]
      intro id hin
      obtain ⟨x, hxm, rfl⟩ := List.mem_map.1 hin
      exact hx x hxm
    have hva : v.awaits e.station e.tag := (hv.link e.station).awaits e.tag (haw _ _ hids ha) fun hask => by
      rw [hrun, hu.run] at hask
      obtain ⟨h1, h2⟩ := hrn hask.1.symm
      exact hask.2.elim h1 h2
    have := hta e' he' (hdue.trans hd) (.inr (by rw [hst, htag]; exact hva))
    rw [hst, haltedReply, htag] at this
    exact this

/-- What a halt leaves of the drives and the planner: they settle on what stood before the completions. -/
theorem halt_left (code : MoveFault) (m : Move) (s : State) :
    ∃ u v, HaltTold (faultRecord code m s) s u ∧ Settles u v ∧ (halt code m s).drives = v.drives
      ∧ (halt code m s).planner = v.planner
      ∧ ∀ i, (v.source i).pending = true → ((halt code m s).source i).pending = true := by
  refine ⟨haltTold code m s, filingRefused (haltCompleted code m s), haltTold_told code m s, ?_, ?_⟩
  · exact (completeAll_settles ..).trans (filingRefused_refused _).settles
  · rw [halt_eq]
    generalize filingRefused (haltCompleted code m s) = v
    have htr := exportsFold_rest v.library.exports (v.updLibrary fun l => { l with exports := [] })
    have htp := fun i h => exportsFold_pending v.library.exports (v.updLibrary fun l => { l with exports := [] }) (i := i) h
    rw [exportsHalted_eq]
    generalize (v.library.exports.foldl _ _) = t at htr htp ⊢
    exact ⟨by rw [htr]; rfl, by rw [htr]; rfl, htp⟩

/-! ### The fault by its level (R51, R55, R56) -/

/-- The state once a move has stopped with its order SUSPENDED, and the arm's records as given. -/
def faultedBy (m : Move) (f : Arm → Arm) (s : State) : State :=
  { s with
    arm := f { s.arm with moving := none, orders := suspended m s.arm.orders }
    planner := { s.planner with passesDue := s.planner.passesDue + 1 } }

/-- The arm's records at a first fault (R51). -/
def firstRecord (r : FaultRec) (a : Arm) : Arm := { a with primary := some r, level := .attention }

/-- The arm's records at a fault in ATTENTION (R55). -/
def secondRecord (r : FaultRec) (retry : Bool) (a : Arm) : Arm :=
  { a with
    secondary := some r, level := .double
    primary := if retry = true then a.primary.map fun r => { r with settled := true } else a.primary }

theorem firstFault_eq (code : MoveFault) (m : Move) (s : State) :
    firstFault code m s = noticeSet 1 (faultedBy m (firstRecord (faultRecord code m s)) s) := by
  unfold firstFault
  rw [stopMove_eq]
  rfl

theorem secondFault_eq (code : MoveFault) (m : Move) (s : State) :
    secondFault code m s = noticeSet 2 (faultedBy m (secondRecord (faultRecord code m s) (m.cause == .retryPrimary)) s) := by
  unfold secondFault
  rw [stopMove_eq]
  cases m.cause <;> rfl

section
variable {s : State} {m : Move} (h : s.arm.moving = some m) (code : MoveFault)
include h

theorem moveFault_normal (hl : s.arm.level = .normal) : moveFault code s = firstFault code m s := by
  unfold moveFault
  rw [h, hl]

theorem moveFault_attention (hl : s.arm.level = .attention) : moveFault code s = secondFault code m s := by
  unfold moveFault
  rw [h, hl]

theorem moveFault_double (hl : s.arm.level = .double) : moveFault code s = halt code m s := by
  unfold moveFault
  rw [h, hl]

theorem moveFault_halted (hl : s.arm.level = .halted) : moveFault code s = s := by
  unfold moveFault
  rw [h, hl]

/-- What a fault of a move leaves of the drives, the notices and the passes due. -/
theorem moveFault_left :
    (∀ d, DriveSettles (s.drive d) ((moveFault code s).drive d))
      ∧ (∀ i, (s.source i).pending = true → ((moveFault code s).source i).pending = true)
      ∧ (s.arm.level ≠ .halted → s.planner.passesDue < (moveFault code s).planner.passesDue) := by
  have hnoted {i : Nat} {f : Arm → Arm} (hm : moveFault code s = noticeSet i (faultedBy m f s)) :
      (∀ d, DriveSettles (s.drive d) ((moveFault code s).drive d))
        ∧ (∀ i, (s.source i).pending = true → ((moveFault code s).source i).pending = true)
        ∧ (s.arm.level ≠ .halted → s.planner.passesDue < (moveFault code s).planner.passesDue) := by
    have k := noticeSet_noted i (faultedBy m f s)
    rw [hm]
    refine ⟨fun d => ?_, k.pending, fun _ => ?_⟩
    · rw [k.drive]
      exact .refl _
    · rw [k.planner]
      exact Nat.lt_succ_self _
  cases hl : s.arm.level with
  | normal => rw [← hl]; exact hnoted ((moveFault_normal h code hl).trans (firstFault_eq ..))
  | attention => rw [← hl]; exact hnoted ((moveFault_attention h code hl).trans (secondFault_eq ..))
  | double =>
    obtain ⟨u, v, hu, hv, hd, hp, hn⟩ := halt_left code m s
    rw [moveFault_double h code hl]
    refine ⟨fun d => ?_, fun i hi => hn i (hv.pending i (hu.pending i hi)), fun _ => ?_⟩
    · rw [show (halt code m s).drive d = v.drive d from congrArg (·.get d) hd]
      exact (hu.drive d).trans (hv.drive d)
    · rw [hp]
      exact hu.passes.trans_le hv.passes
  | halted =>
    rw [moveFault_halted h code hl]
    exact ⟨fun _ => .refl _, fun _ hi => hi, fun hne => absurd rfl hne⟩

/-- The faults of a move, by the level at the time (R51, R55, R56). -/
theorem moveFault_spec :
    (s.arm.level ≠ .double → (moveFault code s).catalogue = s.catalogue)
      ∧ (s.arm.level ≠ .halted → (moveFault code s).arm.moving = none)
      ∧ (s.arm.level = .normal → (moveFault code s).arm.level = .attention
        ∧ (moveFault code s).arm.primary = some (faultRecord code m s)
        ∧ (moveFault code s).arm.secondary = s.arm.secondary ∧ ((moveFault code s).source 1).pending = true
        ∧ (m.inList = true → (moveFault code s).arm.orders = s.arm.orders.map fun o =>
            if o.number = m.order.number then { o with status := .suspended } else o))
      ∧ (s.arm.level = .attention → (moveFault code s).arm.level = .double
        ∧ (moveFault code s).arm.secondary = some (faultRecord code m s) ∧ ((moveFault code s).source 2).pending = true
        ∧ (moveFault code s).arm.primary
          = (if m.cause = .retryPrimary then s.arm.primary.map fun r => { r with settled := true } else s.arm.primary)
        ∧ (m.inList = true → (moveFault code s).arm.orders = s.arm.orders.map fun o =>
            if o.number = m.order.number then { o with status := .suspended } else o))
      ∧ (s.arm.level = .normal ∨ s.arm.level = .attention →
        (moveFault code s).planner = { s.planner with passesDue := s.planner.passesDue + 1 }
          ∧ (moveFault code s).library = s.library ∧ (moveFault code s).drives = s.drives
          ∧ (moveFault code s).fetch = s.fetch ∧ (moveFault code s).fee = s.fee ∧ (moveFault code s).run = s.run
          ∧ (m.inList = false → (moveFault code s).arm.orders = s.arm.orders))
      ∧ (s.arm.level = .double → armHalts s (moveFault code s) (faultRecord code m s)) := by
  have hin (hi : m.inList = true) : suspended m s.arm.orders = s.arm.orders.map fun o =>
      if o.number = m.order.number then { o with status := .suspended } else o := if_pos hi
  have hout (hi : m.inList = false) : suspended m s.arm.orders = s.arm.orders := if_neg (by rw [hi]; decide)
  cases hl : s.arm.level with
  | normal =>
    have hm := (moveFault_normal h code hl).trans (firstFault_eq code m s)
    have k := noticeSet_noted 1 (faultedBy m (firstRecord (faultRecord code m s)) s)
    rw [hm]
    refine ⟨fun _ => k.catalogue, fun _ => by rw [k.arm]; rfl, fun _ => ⟨by rw [k.arm]; rfl, by rw [k.arm]; rfl,
      by rw [k.arm]; rfl, noticeSet_pending _ (by decide) (by decide), fun hi => ?_⟩, nofun, fun _ => ⟨k.planner, k.library,
      k.drives, k.fetch, k.fee, k.run, fun hi => ?_⟩, nofun⟩
    · rw [k.arm]; exact hin hi
    · rw [k.arm]; exact hout hi
  | attention =>
    have hm := (moveFault_attention h code hl).trans (secondFault_eq code m s)
    have k := noticeSet_noted 2 (faultedBy m (secondRecord (faultRecord code m s) (m.cause == .retryPrimary)) s)
    rw [hm]
    refine ⟨fun _ => k.catalogue, fun _ => by rw [k.arm]; rfl, nofun, fun _ => ⟨by rw [k.arm]; rfl, by rw [k.arm]; rfl,
      noticeSet_pending _ (by decide) (by decide), ?_, fun hi => ?_⟩, fun _ => ⟨k.planner, k.library, k.drives, k.fetch,
      k.fee, k.run, fun hi => ?_⟩, nofun⟩
    · rw [k.arm]
      cases m.cause <;> rfl
    · rw [k.arm]; exact hin hi
    · rw [k.arm]; exact hout hi
  | double =>
    rw [moveFault_double h code hl]
    have k := halt_armHalts code m s
    exact ⟨fun hne => absurd rfl hne, fun _ => k.2.1, nofun, nofun, fun hne => hne.elim nofun nofun, fun _ => k⟩
  | halted =>
    rw [moveFault_halted h code hl]
    exact ⟨fun _ => rfl, fun hne => absurd rfl hne, nofun, nofun, fun hne => hne.elim nofun nofun, nofun⟩

end

/-! ### The reports (R50, R63) -/

/-- A report met is followed by the fault of its move; the grip sensor's reading goes with GRIP_LOST. -/
def faultReported (code : MoveFault) (s : State) : State :=
  moveFault code (if code = .gripLost then s.updArm fun a => { a with gripSensor := false } else s)

/-- When a fault's report is met by the move under way (R50). -/
def faultMet (code : MoveFault) (m : Move) (s : State) : Prop :=
  match code with
  | .moveTimeout => m.started + 25 ≤ s.seconds
  | .pickEmpty => m.phase = .pick
  | .driveRefused => m.phase = .pick ∧ ∃ d, m.order.source = .drive d
  | .placeBlocked => m.phase = .place
  | .gripLost => m.phase = .travel ∨ m.phase = .place

/-- The command that reports a fault. -/
def reports (c : Instr) (code : MoveFault) : Prop :=
  (c = .moveTimeout ∧ code = .moveTimeout) ∨ (c = .pickEmpty ∧ code = .pickEmpty)
    ∨ (c = .driveRefused ∧ code = .driveRefused) ∨ (c = .placeBlocked ∧ code = .placeBlocked)
    ∨ (c = .gripLost ∧ code = .gripLost)

theorem exec_report_still {c : Instr} {code : MoveFault} (hc : reports c code) {s : State} (h : s.arm.moving = none) :
    exec c s = finished s := by
  obtain ⟨rfl, -⟩ | ⟨rfl, -⟩ | ⟨rfl, -⟩ | ⟨rfl, -⟩ | ⟨rfl, -⟩ := hc
  · exact congrArg finished (if_neg (by simp [moveDue, h]))
  · exact congrArg finished (if_neg (by simp [h]))
  · refine congrArg finished (?_ : driveRefuses s = s)
    unfold driveRefuses
    rw [h]
  · exact congrArg finished (if_neg (by simp [h]))
  · exact congrArg finished (if_neg (by simp [h]))

section
variable {s : State} {m : Move} (h : s.arm.moving = some m)
include h

theorem driveRefuses_pick (hp : m.phase = .pick) {d : DriveId} (hd : m.order.source = .drive d) :
    driveRefuses s = settle (moveFault .driveRefused s) := by
  unfold driveRefuses
  rw [h]
  dsimp only
  rw [hp, hd]

theorem driveRefuses_place (hp : m.phase = .place) {d : DriveId} (hd : m.order.dest = .drive d) :
    driveRefuses s = settle (if (s.drive d).state = .empty then driveFault d .notReady (moveFault .driveRefused s)
      else moveFault .driveRefused s) := by
  unfold driveRefuses
  rw [h]
  dsimp only
  rw [hp, hd]
  cases m.order.source <;> simp only [beq_iff_eq]

theorem driveRefuses_idle (hpick : m.phase = .pick → ∀ d, m.order.source ≠ .drive d)
    (hplace : m.phase = .place → ∀ d, m.order.dest ≠ .drive d) : driveRefuses s = s := by
  unfold driveRefuses
  rw [h]
  dsimp only
  cases hp : m.phase with
  | pick =>
    cases hs : m.order.source with
    | drive d => exact absurd hs (hpick hp d)
    | _ => rfl
  | travel => rfl
  | place =>
    cases hd : m.order.dest with
    | drive d => exact absurd hd (hplace hp d)
    | _ => rfl

theorem moveDue_iff : moveDue s = true ↔ m.started + 25 ≤ s.seconds := by
  unfold moveDue State.elapsed
  rw [h]
  show decide (25 ≤ s.seconds - m.started) = true ↔ _
  rw [decide_eq_true_iff]
  omega

theorem exec_report_unmet {c : Instr} {code : MoveFault} (hc : reports c code) (hm : ¬ faultMet code m s)
    (hd : code = .driveRefused → m.phase = .place → ∀ d, m.order.dest ≠ .drive d) : exec c s = finished s := by
  obtain ⟨rfl, rfl⟩ | ⟨rfl, rfl⟩ | ⟨rfl, rfl⟩ | ⟨rfl, rfl⟩ | ⟨rfl, rfl⟩ := hc
  · exact congrArg finished (if_neg (mt (moveDue_iff h).1 hm))
  · exact congrArg finished (if_neg (by simpa [h, faultMet] using hm))
  · exact congrArg finished (driveRefuses_idle h (fun hp d hs => hm ⟨hp, d, hs⟩) (hd rfl))
  · exact congrArg finished (if_neg (by simpa [h, faultMet] using hm))
  · exact congrArg finished (if_neg (by simpa [h, faultMet] using hm))

theorem exec_report_met {c : Instr} {code : MoveFault} (hc : reports c code) (hm : faultMet code m s) :
    exec c s = followed (faultReported code s) := by
  obtain ⟨rfl, rfl⟩ | ⟨rfl, rfl⟩ | ⟨rfl, rfl⟩ | ⟨rfl, rfl⟩ | ⟨rfl, rfl⟩ := hc
  · exact congrArg finished (if_pos ((moveDue_iff h).2 hm))
  · exact congrArg finished (if_pos (by simpa [h, faultMet] using hm))
  · obtain ⟨hp, d, hs⟩ := hm
    exact congrArg finished (driveRefuses_pick h hp hs)
  · exact congrArg finished (if_pos (by simpa [h, faultMet] using hm))
  · exact congrArg finished (if_pos (by simpa [h, faultMet] using hm))

end

/-- The state after DRIVE_REFUSED in PLACE (R63). -/
def refusedAt (d : DriveId) (s : State) : State :=
  if (s.drive d).state = .empty then driveFault d .notReady (moveFault .driveRefused s) else moveFault .driveRefused s

theorem refusedAt_distant (d : DriveId) (s : State) : Distant (moveFault .driveRefused s) (refusedAt d s) := by
  unfold refusedAt
  split
  · exact driveFault_distant ..
  · exact .refl _

theorem refusedAt_drive {s : State} {m : Move} (h : s.arm.moving = some m) (d : DriveId) :
    ((s.drive d).state = .empty → ((refusedAt d s).drive d).state = .faulted
        ∧ ((refusedAt d s).drive d).fault = some .notReady ∧ ((refusedAt d s).source (4 + d.val)).pending = true)
      ∧ ((s.drive d).state ≠ .empty → ((refusedAt d s).drive d).state = (s.drive d).state) := by
  have k := (moveFault_left h .driveRefused).1 d
  have hst : ((moveFault .driveRefused s).drive d).state = (s.drive d).state := by rw [k.rest]
  refine ⟨fun he => ?_, fun hne => ?_⟩
  · have hnf : ((moveFault .driveRefused s).drive d).state ≠ .faulted := by rw [hst, he]; exact nofun
    have hv : ((moveFault .driveRefused s).drive d).vacated = false := by simp [Drive.vacated, hst, he]
    rw [refusedAt, if_pos he]
    obtain ⟨hs, hf⟩ := driveFault_faulted hnf hv .notReady
    exact ⟨hs, hf, driveFault_notice hnf .notReady⟩
  · rw [refusedAt, if_neg hne, hst]

/-- Settles O43. -/
theorem moveFaultsAndRefusal : Obligations.MoveFaultsAndRefusal := by
  refine ⟨fun s c code hc => ⟨exec_report_still hc, fun m h => ?_⟩, fun s m d h hp hd => ?_⟩
  · intro met record
    have hmet : met ↔ faultMet code m s := by cases code <;> rfl
    refine ⟨fun hm hdr => exec_report_unmet h hc (mt hmet.2 hm) hdr,
      fun hm => ⟨_, exec_report_met h hc (hmet.1 hm), ?_⟩⟩
    unfold faultReported
    split
    · exact moveFault_spec (s := s.updArm fun a => { a with gripSensor := false }) h code
    · exact moveFault_spec h code
  · intro record
    obtain ⟨-, hmoving, hnormal, hattention, -, hdouble⟩ := moveFault_spec h .driveRefused
    have hrec : faultRecord .driveRefused m s = record := by unfold faultRecord; rw [hp]
    have hpass := (moveFault_left h .driveRefused).2.2
    obtain ⟨hempty, htaken⟩ := refusedAt_drive h d
    have k := refusedAt_distant d s
    rw [hrec] at hnormal hattention hdouble
    refine ⟨refusedAt d s, congrArg finished (driveRefuses_place h hp hd), fun hl => ?_, fun hl => ?_, fun hl => ?_,
      fun hl => ?_, fun hl => (hpass hl).trans_le k.passes, hempty, htaken⟩
    · rw [k.arm]
      exact hmoving hl
    · obtain ⟨h1, h2, h3, h4, -⟩ := hnormal hl
      rw [k.arm]
      exact ⟨h1, h2, h3, k.pending 1 h4⟩
    · obtain ⟨h1, h2, h3, h4, -⟩ := hattention hl
      rw [k.arm]
      exact ⟨h1, h2, k.pending 2 h3, h4⟩
    · have hh := hdouble hl
      obtain ⟨h1, -, h3, h4, h5, h6, -, -, -, -, -, -, -, h14, -⟩ := id hh
      have ho : (refusedAt d s).arm.orders = [] := by
        have := k.orders
        rw [h3] at this
        exact List.sublist_nil.1 this
      refine ⟨by rw [k.arm]; exact h1, ho, k.plans h4, k.pending 3 h5, k.exports h14, by rw [k.arm]; exact h6,
        moveFault .driveRefused s, hh, rfl⟩

end Sys2Proof.Laws.MoveFaults

/-!
PROOF. The motions of a drive: SPIN_UP, SPIN_DOWN and EJECT completions (R61, R62, R71). The obligation O44.
-/

namespace Sys2Proof.Laws.DriveMotions

open Sys2Proof Sys2Proof.Machine Sys2Proof.Laws.Noting Sys2Proof.Laws.Settling Sys2Proof.Laws.DriveFaulting
open Sys2Proof.Laws.MoveFaults Sys2Proof.Laws.Picks

/-- The command in flight on a drive is `c`. -/
def flies (s : State) (d : DriveId) (c : DriveCmd) : Prop := ∃ f, (s.drive d).command = some f ∧ f.cmd = c

theorem flying_iff {s : State} {d : DriveId} {c : DriveCmd} : flying s d (· == c) = true ↔ flies s d c := by
  unfold flying flies
  cases (s.drive d).command <;> simp

/-! ### SPIN_UP (R61) -/

/-- A drive that has spun up (R61). -/
def spunDrive (now : Nat) (x : Drive) : Drive :=
  { x with command := none, state := .ready, lastActive := if x.state = .loading then now else x.lastActive }

theorem spunUp_eq (d : DriveId) (s : State) : spunUp d s =
    let u := (s.updDrive d (spunDrive s.seconds)).wantPass
    if (s.drive d).vacate = true then becomeEmpty d u
    else if (s.drive d).unloadKept = true then startUnload d u else u := by
  have hu : (clearCommand d s).updDrive d (fun x =>
      { x with state := .ready, lastActive := if x.state = .loading then s.seconds else x.lastActive })
      = s.updDrive d (spunDrive s.seconds) := by
    unfold clearCommand
    rw [DriveResetting.updDrive_updDrive]
    rfl
  have hd : ((s.updDrive d (spunDrive s.seconds)).wantPass).drive d = spunDrive s.seconds (s.drive d) :=
    State.drive_updDrive_self ..
  have hv : (((s.updDrive d (spunDrive s.seconds)).wantPass).drive d).vacate = (s.drive d).vacate := by rw [hd]; rfl
  have hk : (((s.updDrive d (spunDrive s.seconds)).wantPass).drive d).unloadKept = (s.drive d).unloadKept := by rw [hd]; rfl
  unfold spunUp
  dsimp only
  rw [hu, hv, hk]

theorem driveFault_passes {s : State} {d : DriveId} (h : (s.drive d).state ≠ .faulted) (hf : flies s d .spinUp)
    (code : DriveFaultCode) : s.planner.passesDue < (driveFault d code s).planner.passesDue := by
  obtain ⟨f, hc, hcmd⟩ := hf
  have hc' : ((s.updDrive d unaskedDrive).drive d).command = some f := by rw [State.drive_updDrive_self]; exact hc
  have hcut : cutCommand d (s.updDrive d unaskedDrive) = (clearCommand d (s.updDrive d unaskedDrive)).wantPass := by
    unfold cutCommand
    rw [hc']
    dsimp only
    rw [hcmd]
  have hb := (becomeFaulted_settles d code (cutCommand d (s.updDrive d unaskedDrive))).passes
  have hlt : s.planner.passesDue < (faultBegun d code s).planner.passesDue := by
    refine Nat.lt_of_lt_of_le ?_ hb
    rw [hcut]
    exact Nat.lt_succ_self _
  rw [driveFault_eq h]
  exact hlt.trans_le (((resetRefused_distant ..).trans (emptied_distant ..)).trans (concluded_distant ..)).passes

/-- What a fault leaves of the drive and its notice, by whether an ABANDON had vacated it (R62, R74). -/
theorem driveFault_leaves {s : State} {d : DriveId} (h : (s.drive d).state ≠ .faulted) (code : DriveFaultCode) :
    ((driveFault d code s).source (4 + d.val)).pending = true
      ∧ ((s.drive d).vacated = false → ((driveFault d code s).drive d).state = .faulted
        ∧ ((driveFault d code s).drive d).fault = some code)
      ∧ ((s.drive d).vacated = true → ((driveFault d code s).drive d).state = .empty
        ∧ ((driveFault d code s).drive d).fault = none ∧ ((driveFault d code s).drive d).cart = none
        ∧ ((driveFault d code s).drive d).sideUp = none ∧ ((driveFault d code s).drive d).command = none) := by
  refine ⟨driveFault_notice h code, fun hv => driveFault_faulted h hv code, fun hv => ?_⟩
  obtain ⟨h1, h2, h3, h4⟩ := driveFault_vacated h hv code
  exact ⟨h1, h2, h3, h4, (driveFault_rest h code).2.1⟩

/-! ### SPIN_DOWN and EJECT (R62, R71) -/

/-- A command issued to a drive (R64). -/
def issued (c : DriveCmd) (d : DriveId) (s : State) : State :=
  s.updDrive d fun x => { x with command := some ⟨c, .driveUnit, s.seconds⟩ }

section
variable {s : State} {d : DriveId}

theorem issue_cleared {c : DriveCmd} (h : c.issuedIn (s.drive d).state = true) :
    issue d c .driveUnit (clearCommand d s) = issued c d s := by
  unfold issue clearCommand
  rw [State.drive_updDrive_self, if_pos h, DriveResetting.updDrive_updDrive]
  rfl

theorem issueNext_vacated (h : (s.drive d).vacate = true) : issueNext d s = becomeEmpty d s := if_pos h

theorem issueNext_unloading (hv : (s.drive d).vacate = false) (h : (s.drive d).state = .unloading) :
    issueNext d s = issue d .eject .driveUnit s := by
  unfold issueNext
  rw [if_neg (by rw [hv]; decide), h]

theorem issueNext_waking (hv : (s.drive d).vacate = false) (h : (s.drive d).state = .waking) :
    issueNext d s = issue d .spinUp .driveUnit s := by
  unfold issueNext
  rw [if_neg (by rw [hv]; decide), h]

theorem issueNext_standby (hv : (s.drive d).vacate = false) (h : (s.drive d).state = .standby) : issueNext d s = s := by
  unfold issueNext
  rw [if_neg (by rw [hv]; decide), h]

end

/-- The drive that a vacated drive becomes once its command has ended (R62). -/
theorem becomeEmpty_cleared (d : DriveId) (s : State) (h : (s.drive d).command = none) :
    ((becomeEmpty d s).drive d).state = .empty ∧ ((becomeEmpty d s).drive d).cart = none
      ∧ ((becomeEmpty d s).drive d).command = none := by
  rw [becomeEmpty_drive]
  exact ⟨rfl, rfl, h⟩

/-- A drive that has ejected (R62). -/
def ejectedDrive (x : Drive) : Drive :=
  { x with command := none, presence := if x.state = .unloading then false else x.presence }

theorem ejectDone_eq (d : DriveId) (s : State) : ejectCompleted d .done s =
    if flying s d (· == .eject) = true then
      settle (if (s.drive d).state = .unloading then s.updDrive d ejectedDrive else issueNext d (s.updDrive d ejectedDrive))
    else s := by
  have hu : (clearCommand d s).updDrive d (fun x => { x with presence := if x.state = .unloading then false else x.presence })
      = s.updDrive d ejectedDrive := by
    unfold clearCommand
    rw [DriveResetting.updDrive_updDrive]
    rfl
  have hd : ((s.updDrive d ejectedDrive).drive d).state = (s.drive d).state := by rw [State.drive_updDrive_self]; rfl
  unfold ejectCompleted
  dsimp only
  rw [hu, hd]

/-- An EJECT that fails: the fault of the drive, and the arm's where it waits there in PICK (R50, R62). -/
theorem pickRefusedAt_leaves {s : State} {d : DriveId} (h : (s.drive d).state ≠ .faulted) :
    let t := pickRefusedAt d (driveFault d .ejectFailed s)
    (t.source (4 + d.val)).pending = true
      ∧ ((s.drive d).vacated = false → (t.drive d).state = .faulted ∧ (t.drive d).fault = some .ejectFailed)
      ∧ ((s.drive d).vacated = true → (t.drive d).state = .empty ∧ (t.drive d).fault = none ∧ (t.drive d).cart = none
        ∧ (t.drive d).sideUp = none ∧ (t.drive d).command = none)
      ∧ (∀ m, s.arm.moving = some m → m.phase = .pick → m.order.source = .drive d → s.arm.level = .normal →
        t.arm.level = .attention ∧ t.arm.moving = none ∧ ∃ r, t.arm.primary = some r ∧ r.code = .driveRefused)
      ∧ (s.arm.moving = none → t.arm.level = s.arm.level ∧ t.arm.primary = s.arm.primary) := by
  intro t
  obtain ⟨hn, hf, hv⟩ := driveFault_leaves h .ejectFailed
  have ha := (driveFault_distant d .ejectFailed s).arm
  generalize hu : driveFault d .ejectFailed s = u at hn hf hv ha
  have hmoving : u.arm.moving = s.arm.moving := by rw [ha]
  have hlevel : u.arm.level = s.arm.level := by rw [ha]
  have hprimary : u.arm.primary = s.arm.primary := by rw [ha]
  have ht : t = pickRefusedAt d u := congrArg (pickRefusedAt d) hu
  have hleft : (u.source (4 + d.val)).pending = true → (t.source (4 + d.val)).pending = true
      ∧ (t.drive d).state = (u.drive d).state ∧ (t.drive d).fault = (u.drive d).fault
      ∧ (t.drive d).cart = (u.drive d).cart ∧ (t.drive d).sideUp = (u.drive d).sideUp
      ∧ (t.drive d).command = (u.drive d).command := by
    intro hp
    rw [ht]
    unfold pickRefusedAt
    split
    next hm =>
      cases hmv : u.arm.moving with
      | none => rw [hmv] at hm; cases hm
      | some m =>
        obtain ⟨hd, hpend, -⟩ := moveFault_left hmv .driveRefused
        have k := (hd d).rest
        rw [k]
        exact ⟨hpend _ hp, rfl, rfl, rfl, rfl, rfl⟩
    next => exact ⟨hp, rfl, rfl, rfl, rfl, rfl⟩
  obtain ⟨hp, hst, hfault, hcart, hside, hcmd⟩ := hleft hn
  rw [hst, hfault, hcart, hside, hcmd]
  refine ⟨hp, hf, hv, fun m hm hphase hsrc hl => ?_, fun hm => ?_⟩
  · have hmu : u.arm.moving = some m := hmoving.trans hm
    have hlu : u.arm.level = .normal := hlevel.trans hl
    have hcond : (u.arm.moving.any fun m => m.phase = .pick && m.order.source = .drive d) = true := by
      rw [hmu]
      simp [hphase, hsrc]
    obtain ⟨-, hmv, hnormal, -⟩ := moveFault_spec hmu .driveRefused
    obtain ⟨h1, h2, -⟩ := hnormal hlu
    rw [ht, pickRefusedAt, if_pos hcond]
    exact ⟨h1, hmv (by rw [hlu]; exact nofun), _, h2, rfl⟩
  · rw [ht, pickRefusedAt, hmoving.trans hm, if_neg (by simp)]
    exact ⟨hlevel, hprimary⟩

/-- Settles O44. -/
theorem driveMotion : Obligations.DriveMotion := by
  intro s d x flies' issued' faulted
  have hspin (r : SpinUpResult) : exec (.spinUpCompletion d r) s = finished (spinUpCompleted d r s) := rfl
  have hdown : exec (.spinDownCompletion d) s = finished (spinDownCompleted d s) := rfl
  have heject (r : EjectResult) : exec (.ejectCompletion d r) s = finished (ejectCompleted d r s) := rfl
  have hup (hf : flies s d .spinUp) (r : SpinUpResult) : exec (.spinUpCompletion d r) s
      = followed (if r = .done then spunUp d s else driveFault d .notReady s) := by
    refine (hspin r).trans ((congrArg finished (if_pos (flying_iff.2 hf))).trans ?_)
    cases r <;> rfl
  have hdn (hf : flies s d .spinDown) : exec (.spinDownCompletion d) s = followed (issueNext d (clearCommand d s)) := by
    rw [hdown, spinDownCompleted, if_pos (flying_iff.2 hf)]
    rfl
  have hej (hf : flies s d .eject) : exec (.ejectCompletion d .done) s = followed
      (if (s.drive d).state = .unloading then s.updDrive d ejectedDrive else issueNext d (s.updDrive d ejectedDrive)) := by
    rw [heject, ejectDone_eq, if_pos (flying_iff.2 hf)]
    rfl
  have hclear := State.drive_updDrive_self s d fun x => { x with command := none }
  have hcv : ((clearCommand d s).drive d).vacate = x.vacate := by rw [clearCommand, hclear]
  have hcs : ((clearCommand d s).drive d).state = x.state := by rw [clearCommand, hclear]
  have hcc : ((clearCommand d s).drive d).command = none := by rw [clearCommand, hclear]
  refine ⟨fun hf r => ?_, fun hf hv hk => ⟨_, hup hf .done, ?_⟩, fun hf hv => ⟨_, hup hf .done, ?_⟩,
    fun hf hv hk => ⟨_, hup hf .done, ?_⟩, fun hf hst => ⟨_, hup hf .notReady, ?_⟩, fun hf => ?_,
    fun hf hv => ⟨_, hdn hf, ?_⟩, fun hf hv hst => ?_, fun hf hv hst => ?_, fun hf hv hst => ?_, fun hf r => ?_,
    fun hf hst => ?_, fun hf hst hv => ⟨_, hej hf, ?_⟩, fun hf hst => ?_⟩
  · exact (hspin r).trans (congrArg finished (if_neg (mt flying_iff.1 hf)))
  · rw [if_pos rfl, spunUp_eq, if_neg (by rw [hv]; decide), if_neg (by rw [hk]; decide)]
    refine ⟨State.drive_updDrive_self .., fun e he => ?_, rfl⟩
    exact State.drive_updDrive_ne s _ he
  · rw [if_pos rfl, spunUp_eq, if_pos hv, becomeEmpty_drive]
    exact ⟨rfl, rfl⟩
  · rw [if_pos rfl, spunUp_eq, if_neg (by rw [hv]; decide), if_pos hk, Arbiter.startUnload_eq, State.drive_updDrive_self]
    exact ⟨rfl, rfl⟩
  · rw [if_neg nofun]
    exact ⟨driveFault_leaves hst .notReady, driveFault_passes hst hf .notReady⟩
  · rw [hdown, spinDownCompleted, if_neg (mt flying_iff.1 hf)]
  · rw [issueNext_vacated (hcv.trans hv)]
    exact becomeEmpty_cleared d _ hcc
  · rw [hdn hf, issueNext_unloading (hcv.trans hv) (hcs.trans hst), issue_cleared (by rw [hst]; rfl)]
    rfl
  · rw [hdn hf, issueNext_waking (hcv.trans hv) (hcs.trans hst), issue_cleared (by rw [hst]; rfl)]
    rfl
  · rw [hdn hf, issueNext_standby (hcv.trans hv) (hcs.trans hst)]
    rfl
  · exact (heject r).trans (congrArg finished (if_neg (mt flying_iff.1 hf)))
  · rw [hej hf, if_pos hst]
    refine congrArg followed (Arbiter.updDrive_congr ?_)
    unfold ejectedDrive
    rw [if_pos hst]
  · have hd := State.drive_updDrive_self s d ejectedDrive
    rw [if_neg hst, issueNext_vacated (by rw [hd]; exact hv)]
    exact becomeEmpty_cleared d _ (by rw [hd]; rfl)
  · obtain ⟨h1, h2, h3, h4, h5⟩ := pickRefusedAt_leaves hst
    exact ⟨_, (heject .failed).trans (congrArg finished (if_pos (flying_iff.2 hf))), ⟨h1, h2, h3⟩, h4, h5⟩

end Sys2Proof.Laws.DriveMotions

/-!
PROOF. The reset of a station link by its cause, the settlement of its fetches and the way back to UP (R141, R143, R186,
R187). The obligation O33.
-/

namespace Sys2Proof.Laws.LinkResets

open Sys2Proof Sys2Proof.Machine Sys2Proof.Laws.Noting Sys2Proof.Laws.Cabinets Sys2Proof.Laws.RunFrames
open Sys2Proof.Laws.RunEnds Sys2Proof.Laws.Completion Sys2Proof.Laws.Settling Sys2Proof.Laws.FilingEnds
open Sys2Proof.Laws.Halting Sys2Proof.Laws.FileRequests

/-! ### Completions leave the run, and the orders of other names (R140) -/

theorem completeFetch_run (id : FetchId) (outcome : Status) (s : State) :
    (completeFetch id outcome s).run = s.run ∧ (completeFetch id outcome s).catalogue = s.catalogue := by
  cases h : s.order? id with
  | none => rw [completeFetch_none h]; exact ⟨rfl, rfl⟩
  | some o =>
    obtain rfl := order?_id h
    rw [completeFetch_rest h]
    exact ⟨(takeOut_cabinet o s).run, (takeOut_cabinet o s).catalogue⟩

theorem completeAll_run (ids : List FetchId) (outcome : Status) (s : State) :
    (completeAll ids outcome s).run = s.run ∧ (completeAll ids outcome s).catalogue = s.catalogue := by
  unfold completeAll
  induction ids generalizing s with
  | nil => exact ⟨rfl, rfl⟩
  | cons id ids ih =>
    obtain ⟨hr, hc⟩ := completeFetch_run id outcome s
    rw [List.foldl_cons, (ih _).1, (ih _).2]
    exact ⟨hr, hc⟩

theorem completeFetch_keeps {id : FetchId} {o : FetchOrder} (hne : o.id ≠ id) (outcome : Status) {s : State}
    (h : o ∈ s.fetch.orders) : o ∈ (completeFetch id outcome s).fetch.orders := by
  cases hx : s.order? id with
  | none => rwa [completeFetch_none hx]
  | some x =>
    obtain rfl := order?_id hx
    rw [completeFetch_rest hx]
    exact List.mem_filter.2 ⟨h, by simpa using hne⟩

theorem completeAll_keeps {ids : List FetchId} {o : FetchOrder} (hne : o.id ∉ ids) (outcome : Status) {s : State}
    (h : o ∈ s.fetch.orders) : o ∈ (completeAll ids outcome s).fetch.orders := by
  unfold completeAll
  induction ids generalizing s with
  | nil => exact h
  | cons id ids ih =>
    rw [List.mem_cons, not_or] at hne
    exact ih hne.2 (completeFetch_keeps hne.1 outcome h)

/-! ### A station in RESETTING whose context is clean -/

/-- A station's context that no completion and no notice changes but for its send list: not UP, nothing outstanding, nothing
being sent. -/
def quiet (l : Link) : Prop := l.state ≠ .up ∧ l.outstanding = [] ∧ l.sending = none

/-- The same context but for its send list. -/
def sameButList (l m : Link) : Prop := m = { l with sendList := m.sendList }

theorem sameButList.quiet {l m : Link} (h : sameButList l m) (hl : quiet l) : quiet m := by
  unfold sameButList at h
  rw [h]
  exact hl

theorem answered_quiet {l : Link} (h : l.outstanding = []) (r : Reply) : answered r l = l := by
  unfold answered
  rw [h]
  rfl

theorem withoutPages_quiet {l : Link} (h : quiet l) (o : FetchOrder) :
    withoutPages o l = { l with sendList := l.sendList.filter (· ≠ o.id) } := by
  obtain ⟨-, -, h⟩ := h
  unfold withoutPages orphanFrame
  rw [h]

theorem completeFetch_quiet {s : State} {st : Station} (h : quiet (s.link st)) (id : FetchId) (outcome : Status) :
    sameButList (s.link st) ((completeFetch id outcome s).link st) := by
  cases hx : s.order? id with
  | none => rw [completeFetch_none hx]; exact rfl
  | some o =>
    obtain rfl := order?_id hx
    have hun : (unplaced o s).link st = if st = o.id.station then withoutPages o (s.link st) else s.link st := by
      rw [unplaced, dropPages_eq, State.link_updLink]
      split
      next e => rw [e]; exact congrArg _ ((takeOut_cabinet o s).link _)
      next => exact (takeOut_cabinet o s).link st
    have hstate : (State.link { unplaced o s with fee := settledFee o outcome (unplaced o s) } st).state ≠ .up := by
      show ((unplaced o s).link st).state ≠ .up
      rw [hun]
      split
      · rw [withoutPages_quiet h]; exact h.1
      · exact h.1
    have hset := (settleFetch_noted o outcome (unplaced o s)).still st hstate
    rw [completeFetch_eq hx, State.link_updFetch, State.link_updLink]
    split
    next e =>
      rw [← e, hset]
      show sameButList _ (answered _ ((unplaced o s).link st))
      rw [hun, if_pos e, withoutPages_quiet h, answered_quiet]
      · exact rfl
      · exact h.2.1
    next e =>
      rw [hset]
      show sameButList _ ((unplaced o s).link st)
      rw [hun, if_neg e]
      exact rfl

theorem completeAll_quiet {s : State} {st : Station} (h : quiet (s.link st)) (ids : List FetchId) (outcome : Status) :
    sameButList (s.link st) ((completeAll ids outcome s).link st) := by
  unfold completeAll
  induction ids generalizing s with
  | nil => exact rfl
  | cons id ids ih =>
    have hf := completeFetch_quiet h id outcome
    have hr := ih (hf.quiet h)
    rw [List.foldl_cons]
    unfold sameButList at hf hr ⊢
    rw [hr, hf]

theorem abortRun_quiet {s : State} {st : Station} (h : quiet (s.link st)) : (abortRun s).link st = s.link st := by
  have hc := (abortCore_frame s).still st h.1
  rw [abortRun_link, hc]
  split
  · unfold abortedLink answeredIf
    cases s.run.closeTag <;> cases s.run.openTag <;> simp [answered_quiet h.2.1]
  · rfl

theorem abortRun_settles (s : State) : Settles s (abortRun s) := by
  rw [abortRun_eq]
  exact (((abortCore_settles s).trans (replyOpen_settles ..)).trans (replyClose_settles ..)).trans (closeRun_settles _)

theorem abortRun_fetches (s : State) : (abortRun s).fetch = s.fetch ∧ (abortRun s).fee = s.fee := by
  rw [abortRun_rest]
  exact ⟨(abortCore_frame s).fetch, (abortCore_frame s).fee⟩

theorem abortRun_run (s : State) : (abortRun s).run = closedRun s.run := by rw [abortRun_rest]

/-! ### The steps of a link reset (R187) -/

/-- The station's context cleaned, its exports and drive resets left without replies. -/
def cleaned (st : Station) (cause : ResetCause) (s : State) : State := dropReplies st (s.updLink st (cleanLink cause))

/-- The orders of a station in admission order. -/
def ordersOf (st : Station) (s : State) : List FetchId := (s.fetch.orders.filter fun o => o.id.station = st).map (·.id)

/-- A filing run of the station aborted (R120). -/
def runDropped (st : Station) (s : State) : State := if s.run.state ≠ .closed ∧ s.run.owner = st then abortRun s else s

/-- A link reset but for the acts that follow it. -/
def linkCleared (st : Station) (cause : ResetCause) (s : State) : State :=
  (runDropped st (completeAll (ordersOf st s) .linkReset (cleaned st cause s))).updLink st fun l => { l with sendList := [] }

theorem runDropped_settles (st : Station) (s : State) : Settles s (runDropped st s) := by
  unfold runDropped
  split
  · exact abortRun_settles s
  · exact .refl s

/-- What `LinkResetAndRecovery` says of a link reset in UP. -/
theorem linkCleared_spec (st : Station) (cause : ResetCause) (s : State) :
    let t := linkCleared st cause s
    t.link st = { Link.atReset (s.link st).profile with cause := cause, resetDue := true }
      ∧ (∀ o ∈ t.fetch.orders, o.id.station ≠ st)
      ∧ (∃ u, u.fee = s.fee ∧ u.fetch = s.fetch ∧ (u.link st).outstanding = []
        ∧ t.fee = (((s.fetch.orders.filter fun o => o.id.station = st).map fun o => o.id).foldl
            (fun v id => completeFetch id .linkReset v) u).fee)
      ∧ (∀ o ∈ s.fetch.orders, o.id.station ≠ st → o ∈ t.fetch.orders)
      ∧ (∀ e ∈ t.library.exports, e.station = st → e.replyDue = false)
      ∧ (∀ (d : DriveId) (who : FetchId), (t.drive d).resetBy = some who → who.station ≠ st)
      ∧ (s.run.owner = st → t.run.state = .closed)
      ∧ (s.run.owner ≠ st → t.run = s.run ∧ t.catalogue = s.catalogue) := by
  intro t
  have hul : (cleaned st cause s).link st = cleanLink cause (s.link st) := State.link_updLink_self ..
  have huq : quiet ((cleaned st cause s).link st) := by rw [hul]; exact ⟨nofun, rfl, rfl⟩
  have hue : ∀ e ∈ (cleaned st cause s).library.exports, e.station = st → e.replyDue = false := by
    intro e he hst
    obtain ⟨x, -, rfl⟩ := List.mem_map.1 he
    split
    next => rfl
    next hne => rw [if_neg hne] at hst; exact absurd hst hne
  have hud (d : DriveId) (who : FetchId) (h : ((cleaned st cause s).drive d).resetBy = some who) : who.station ≠ st := by
    have hd : (cleaned st cause s).drive d
        = if (s.drive d).resetBy.any (·.station = st) then { s.drive d with resetBy := none } else s.drive d :=
      drive_mapped (State.updLibrary (s.updLink st (cleanLink cause)) _) _ d
    rw [hd] at h
    split at h
    · cases h
    next hne => rw [h] at hne; simpa using hne
  have hcr := completeAll_run (ordersOf st s) .linkReset (cleaned st cause s)
  have hcs := completeAll_settles (ordersOf st s) .linkReset (cleaned st cause s)
  have hcq := completeAll_quiet huq (ordersOf st s) .linkReset
  have hcg := fun id (h : id ∈ ordersOf st s) => completeAll_gone h .linkReset (cleaned st cause s)
  have hck := fun o (h : o.id ∉ ordersOf st s) (ho : o ∈ (cleaned st cause s).fetch.orders) =>
    completeAll_keeps h .linkReset ho
  have hfee : (completeAll (ordersOf st s) .linkReset (cleaned st cause s)).fee
      = (((s.fetch.orders.filter fun o => o.id.station = st).map fun o => o.id).foldl
            (fun v id => completeFetch id .linkReset v) (cleaned st cause s)).fee := rfl
  have ht : t = (runDropped st (completeAll (ordersOf st s) .linkReset (cleaned st cause s))).updLink st
      fun l => { l with sendList := [] } := rfl
  generalize completeAll (ordersOf st s) .linkReset (cleaned st cause s) = w at hcr hcs hcq hcg hck hfee ht
  have hws := runDropped_settles st w
  have hwl : (runDropped st w).link st = w.link st := by
    unfold runDropped
    split
    · exact abortRun_quiet (hcq.quiet huq)
    · rfl
  have hwf : (runDropped st w).fetch = w.fetch ∧ (runDropped st w).fee = w.fee := by
    unfold runDropped
    split
    · exact abortRun_fetches w
    · exact ⟨rfl, rfl⟩
  have hmine (o : FetchOrder) (ho : o ∈ s.fetch.orders) : o.id.station = st ↔ o.id ∈ ordersOf st s := by
    refine ⟨fun h => List.mem_map_of_mem (List.mem_filter.2 ⟨ho, by simpa using h⟩), fun h => ?_⟩
    obtain ⟨x, hx, hid⟩ := List.mem_map.1 h
    rw [← hid]
    simpa using (List.mem_filter.1 hx).2
  have hlisted : ∀ e ∈ (runDropped st w).library.exports, e.station = st → e.replyDue = false := by
    intro e he hst
    have hin : orderless e ∈ (cleaned st cause s).library.exports.map orderless := by
      rw [← (hcs.trans hws).listed]
      exact List.mem_map_of_mem he
    obtain ⟨x, hx, heq⟩ := List.mem_map.1 hin
    have hs : x.station = e.station := (congrArg ExportEntry.station heq :)
    have hr : x.replyDue = e.replyDue := (congrArg ExportEntry.replyDue heq :)
    exact hr.symm.trans (hue x hx (hs.trans hst))
  have hrun : w.run = s.run := hcr.1
  rw [ht]
  refine ⟨?_, fun o ho hst => ?_, ⟨cleaned st cause s, rfl, rfl, huq.2.1, hwf.2.trans hfee⟩, fun o ho hne => ?_, hlisted,
    fun d who h => ?_, fun howner => ?_, fun howner => ?_⟩
  · rw [State.link_updLink_self, hwl, hcq, hul]
    rfl
  · have ho : o ∈ (runDropped st w).fetch.orders := ho
    rw [hwf.1] at ho
    have hos : o ∈ s.fetch.orders := hcs.fetches.subset ho
    have hgone : w.fetch.orders.find? (fun x => x.id = o.id) = none := hcg o.id ((hmine o hos).1 hst)
    exact List.find?_eq_none.1 hgone o ho (by simp)
  · show o ∈ (runDropped st w).fetch.orders
    rw [hwf.1]
    exact hck o (mt (hmine o ho).2 hne) ho
  · refine hud d who ?_
    have hd : ((runDropped st w).drive d).resetBy = some who := h
    rwa [(hcs.trans hws |>.drive d).rest] at hd
  · show (runDropped st w).run.state = .closed
    unfold runDropped
    split
    · rw [abortRun_run]; rfl
    next hne =>
      rw [hrun] at hne ⊢
      exact not_not.1 fun h => hne ⟨h, howner⟩
  · show (runDropped st w).run = s.run ∧ (runDropped st w).catalogue = s.catalogue
    unfold runDropped
    rw [if_neg fun h => howner (by rw [← hrun]; exact h.2)]
    exact hcr

/-! ### The frames that reset a link, or bring it UP (R186) -/

/-- Settles O33. -/
theorem linkResetAndRecovery : Obligations.LinkResetAndRecovery := by
  refine ⟨fun s st tag body c cause hc => ?_, fun s st tag body r hrec hst hbuf => ?_⟩
  · refine ⟨fun hrec => ?_, fun hrec hup => ⟨linkCleared st cause s, ?_, linkCleared_spec st cause s⟩⟩
    · have hbad (cause : ResetCause) : badFrame st cause s = s := if_pos (by rw [hrec]; rfl)
      have hover : overrunReset st s = s := if_neg fun h => by rw [hrec] at h; exact absurd h.1 nofun
      have hlose : loseCarrier st s = s := if_neg fun h => by rw [hrec] at h; exact absurd h.1 nofun
      have hreset : receiveReset st s = s := if_pos (by rw [hrec]; rfl)
      obtain ⟨rfl, -⟩ | ⟨rfl, -⟩ | ⟨rfl, -⟩ | ⟨rfl, -⟩ | ⟨rfl, -⟩ | ⟨rfl, -⟩ | ⟨rfl, -⟩ := hc
      · exact congrArg finished (hbad .crc)
      · exact congrArg finished (hbad .length)
      · exact congrArg finished (hbad .frameTimeout)
      · exact congrArg finished hover
      · exact congrArg finished hlose
      · exact congrArg finished (hbad _)
      · exact congrArg finished hreset
    · have hbad (cause : ResetCause) : badFrame st cause s = resetLink st cause s :=
        (if_neg (by rw [hrec]; exact nofun)).trans (if_pos hup)
      have hover : overrunReset st s = resetLink st .overrun s := if_pos ⟨hrec, hup⟩
      have hlose : loseCarrier st s = resetLink st .carrierLoss s := if_pos ⟨hrec, hup⟩
      have hreset (hb : (s.link st).buffer = none) : receiveReset st s = resetLink st .stationReset s :=
        (if_neg (by rw [hrec]; exact nofun)).trans ((if_neg (by rw [hb]; exact nofun)).trans (if_pos hup))
      obtain ⟨rfl, rfl⟩ | ⟨rfl, rfl⟩ | ⟨rfl, rfl⟩ | ⟨rfl, rfl⟩ | ⟨rfl, rfl⟩ | ⟨rfl, hb, rfl⟩ | ⟨rfl, hb, rfl⟩ := hc
      · exact congrArg finished (hbad .crc)
      · exact congrArg finished (hbad .length)
      · exact congrArg finished (hbad .frameTimeout)
      · exact congrArg finished hover
      · exact congrArg finished hlose
      · have hkind : receiveKind st s = resetLink st .unknownKind s := by
          unfold receiveKind
          rw [hb]
          exact hbad .unknownKind
        exact congrArg finished hkind
      · exact congrArg finished (hreset hb)
  · intro again up
    have hnup : (s.link st).state ≠ .up := by rw [hst]; exact nofun
    have hbad (cause : ResetCause) : badFrame st cause s = resetAgain st s :=
      (if_neg (by rw [hrec]; exact nofun)).trans (if_neg hnup)
    have hlose : loseCarrier st s = s := if_neg fun h => hnup h.2
    have hlinkUp : linkUp st s = up := if_pos hst
    have hnoted : Noted (s.updLink st fun l => { l with state := .up }) up := judge_noted st _
    have huplink := State.link_updLink_self s st fun l => { l with state := .up }
    have hupst : (up.link st).state = .up := by rw [(hnoted.link st).state, huplink]
    have hupbuf : (up.link st).buffer = none := by rw [hnoted.link st, huplink]; exact hbuf
    have huprec : up.reconciled = true := by rw [hnoted.reconciled]; exact hrec
    have hdeal (deal : State → State) : receiveFrame st deal s = receiveFrame st deal up := by
      rw [receiveFrame_up ⟨huprec, hupst, hupbuf⟩, ← hlinkUp]
      exact (if_neg (by rw [hrec]; exact nofun)).trans (if_neg (by rw [hbuf]; exact nofun))
    have hreset : receiveReset st s = up :=
      (if_neg (by rw [hrec]; exact nofun)).trans ((if_neg (by rw [hbuf]; exact nofun)).trans ((if_neg hnup).trans hlinkUp))
    refine ⟨congrArg finished (hbad .crc), congrArg finished (hbad .length), congrArg finished (hbad .frameTimeout),
      congrArg finished (hbad _), congrArg finished hlose, congrArg finished hreset, congrArg finished (hdeal _),
      congrArg finished (hdeal _), ?_⟩
    rw [Bodies.exec_requestOf, Bodies.exec_requestOf]
    exact congrArg finished (hdeal _)

end Sys2Proof.Laws.LinkResets

/-!
PROOF. What a READ brings a fetch unit: the trailer and the pages (R131 to R134), and the end of a unit (R68).
-/

namespace Sys2Proof.Laws.FetchReading

open Sys2Proof Sys2Proof.Machine Sys2Proof.Laws.DriveResetting Sys2Proof.Laws.Arbiter Sys2Proof.Laws.Selecting
open Sys2Proof.Laws.DriveFaulting Sys2Proof.Laws.Halting Sys2Proof.Laws.Links

/-! ### The command is over -/

/-- The READ in flight, of `n` sectors. -/
def reads (s : State) (d : DriveId) (start n : Nat) : Prop := ∃ f, (s.drive d).command = some f ∧ f.cmd = .read start n

theorem exec_read {s : State} {d : DriveId} {start n : Nat} {rs : List SectorRead} (h : reads s d start n) :
    exec (.readCompletion d rs) s
      = if rs.length = n then followed (readAnswer d rs false (clearCommand d s)) else finished s := by
  obtain ⟨f, hf, hc⟩ := h
  show finished (readCompleted d rs s) = _
  unfold readCompleted flying
  rw [hf, Option.any_some, hc]
  by_cases hl : rs.length = n
  · rw [if_pos hl]
    exact congrArg finished (if_pos (beq_iff_eq.2 hl.symm))
  · rw [if_neg hl]
    exact congrArg finished (if_neg fun he => hl (beq_iff_eq.1 he).symm)

section
variable {s : State} {d : DriveId}

theorem drive_cleared (s : State) (d : DriveId) :
    (clearCommand d s).drive d = { s.drive d with command := none } := State.drive_updDrive_self ..

theorem unit_cleared {u : DriveUnit} (h : (s.drive d).unit = some u) : ((clearCommand d s).drive d).unit = some u := by
  rw [drive_cleared]
  exact h

theorem unasked_cleared (h : unasked (s.drive d)) : unasked ((clearCommand d s).drive d) := by
  rw [drive_cleared]
  exact h

/-- The drive with its unit's work replaced and a further command in flight (R64). -/
def furthered (w : UnitWork) (cmd : DriveCmd) (owner : Owner) (now : Nat) (x : Drive) : Drive :=
  { x with command := some ⟨cmd, owner, now⟩, unit := some ⟨w, false⟩ }

theorem issue_continueUnit {w v : UnitWork} {cmd : DriveCmd} (owner : Owner) (hu : (s.drive d).unit = some ⟨v, false⟩)
    (ha : (s.drive d).state = .active) (hc : cmd.issuedIn .active = true) :
    issue d cmd owner (continueUnit d w (clearCommand d s)) = s.updDrive d (furthered w cmd owner s.seconds) := by
  have hcc : continueUnit d w (clearCommand d s)
      = s.updDrive d fun x => { x with command := none, unit := x.unit.map fun u => { u with work := w } } :=
    updDrive_updDrive ..
  rw [hcc]
  unfold issue
  rw [State.drive_updDrive_self, if_pos (by dsimp only; rw [ha]; exact hc), updDrive_updDrive]
  refine updDrive_congr ?_
  unfold furthered
  rw [hu]
  rfl

/-- Drive `d` with its fetch unit ended (R68). -/
def fetchEnded (now : Nat) (x : Drive) : Drive :=
  { x with command := none, unit := none, state := .ready, lastActive := now, share := .filing }

/-- The fetch unit of drive `d` ended (R68), with a pass where nothing waits there (R86). -/
def rested (d : DriveId) (s : State) : State :=
  { (s.updDrive d (fetchEnded s.seconds)) with
    planner := { s.planner with passesDue := s.planner.passesDue + if (s.drive d).queue = [] then 1 else 0 } }

theorem shareAfter_fetch {w : UnitWork} (h : w.isFetch = true) (x : ShareTurn) : shareAfter w x = .filing := by
  cases w
  case trailerRead => rfl
  case pageRead => rfl
  all_goals cases h

theorem unitEnd_fetch {w : UnitWork} {e : Bool} (hu : (s.drive d).unit = some ⟨w, e⟩) (hw : w.isFetch = true)
    (hx : unasked (s.drive d)) : unitEnd d (clearCommand d s) = rested d s := by
  have hq : ((clearCommand d s).drive d).queue = (s.drive d).queue := by rw [drive_cleared]
  have hdrive : (clearCommand d s).updDrive d (unitless ⟨w, e⟩ s.seconds) = s.updDrive d (fetchEnded s.seconds) := by
    unfold clearCommand
    rw [updDrive_updDrive]
    refine updDrive_congr ?_
    unfold unitless fetchEnded
    dsimp only
    rw [shareAfter_fetch hw]
  refine (unitEnd_eq (unit_cleared hu) (unasked_cleared hx)).trans ?_
  have hsec : (clearCommand d s).seconds = s.seconds := rfl
  rw [hsec, hdrive, hq, hw, Bool.true_and]
  unfold rested
  by_cases hn : (s.drive d).queue = []
  · rw [if_pos (List.isEmpty_iff.2 hn), if_pos hn]
    rfl
  · rw [if_neg (mt List.isEmpty_iff.1 hn), if_neg hn]
    rfl

end

/-! ### The trailer (R131, R132) -/

/-- Drive `d` at rest with the order put back in its queue (R68). -/
def queued (id : FetchId) (now : Nat) (x : Drive) : Drive := fetchEnded now { x with queue := x.queue ++ [id] }

/-- A unit's order put back on its drive, and the unit ended (R68). -/
theorem unitEnd_putBack {s : State} {d : DriveId} {w : UnitWork} {e : Bool} (hu : (s.drive d).unit = some ⟨w, e⟩)
    (hw : w.isFetch = true) (hx : unasked (s.drive d)) (id : FetchId) :
    unitEnd d (putBack d id (clearCommand d s)) = s.updDrive d (queued id s.seconds) := by
  have hcomm : putBack d id (clearCommand d s) = clearCommand d (putBack d id s) := by
    unfold putBack clearCommand
    rw [updDrive_updDrive, updDrive_updDrive]
  have hd : (putBack d id s).drive d = { s.drive d with queue := (s.drive d).queue ++ [id] } := State.drive_updDrive_self ..
  rw [hcomm, unitEnd_fetch (w := w) (e := e) (by rw [hd]; exact hu) hw (by rw [hd]; exact hx)]
  unfold rested
  rw [if_neg (by rw [hd]; simp)]
  unfold putBack
  rw [updDrive_updDrive]
  rfl

/-- What `queued` leaves of the drive, as the statements say it. -/
theorem queued_drive (s : State) (d : DriveId) (id : FetchId) (now : Nat) :
    let t := s.updDrive d (queued id now)
    (t.drive d).unit = none ∧ (t.drive d).command = none ∧ (t.drive d).state = .ready
      ∧ (t.drive d).queue = (s.drive d).queue ++ [id] := by
  intro t
  have h : t.drive d = queued id now (s.drive d) := State.drive_updDrive_self ..
  rw [h]
  exact ⟨rfl, rfl, rfl, rfl⟩

section
variable {s : State} {d : DriveId} {id : FetchId} {sector tries : Nat}

theorem readAnswer_trailer (hu : (s.drive d).unit = some ⟨.trailerRead id sector tries, false⟩) (r : SectorRead) :
    readAnswer d [r] false (clearCommand d s) = trailerAnswer d id sector tries r false (clearCommand d s) := by
  unfold readAnswer
  rw [unit_cleared hu]
  rfl

theorem readAnswer_trailerEnded (hu : (s.drive d).unit = some ⟨.trailerRead id sector tries, true⟩) (hx : unasked (s.drive d))
    (rs : List SectorRead) : readAnswer d rs false (clearCommand d s) = rested d s := by
  unfold readAnswer
  rw [unit_cleared hu]
  exact unitEnd_fetch hu rfl hx

theorem trailerFailed_cleared (hu : (s.drive d).unit = some ⟨.trailerRead id sector tries, false⟩) (hx : unasked (s.drive d)) :
    trailerFailed d id (clearCommand d s) = completeFetch id .unreadableIndex (rested d s) := by
  unfold trailerFailed
  rw [unitEnd_fetch hu rfl hx]

end

/-! ### The next READ of a page (R133) -/

theorem findIdx?_first {α : Type} {p : α → Bool} {l : List α} {j : Nat} {a : α} (hj : l[j]? = some a) (ha : p a = true)
    (hbefore : ∀ b ∈ l.take j, p b = false) : l.findIdx? p = some j := by
  obtain ⟨hlt, rfl⟩ := List.getElem?_eq_some_iff.1 hj
  refine List.findIdx?_eq_some_iff_getElem.2 ⟨hlt, ha, fun i hi => ?_⟩
  exact Bool.eq_false_iff.1 (hbefore _ (List.mem_take_iff_getElem.2 ⟨i, by omega, rfl⟩))

section
variable {ps : List PageSector}

theorem nextPageRead_untried {j : Nat} {q : PageSector} (hj : ps[j]? = some q) (hq : q.tries = 0)
    (hbefore : ∀ p ∈ ps.take j, p.tries ≠ 0) : nextPageRead ps = some (j, runLength q.extent (ps.drop j)) := by
  unfold nextPageRead
  rw [findIdx?_first hj (by simpa using hq) fun p hp => by simpa using hbefore p hp]
  dsimp only
  rw [hj]

theorem nextPageRead_tried (h : ∀ p ∈ ps, p.tries ≠ 0) :
    nextPageRead ps = (ps.findIdx? (·.bytes.isNone)).map fun i => (i, 1) := by
  unfold nextPageRead
  rw [List.findIdx?_eq_none_iff.2 fun p hp => by simpa using h p hp]

theorem nextPageRead_again {j : Nat} {q : PageSector} (hall : ∀ p ∈ ps, p.tries ≠ 0) (hj : ps[j]? = some q)
    (hq : q.bytes = none) (hbefore : ∀ p ∈ ps.take j, p.bytes ≠ none) : nextPageRead ps = some (j, 1) := by
  rw [nextPageRead_tried hall, findIdx?_first hj (by simp [hq]) fun p hp => ?_]
  · rfl
  · simpa [Option.isSome_iff_ne_none] using hbefore p hp

theorem nextPageRead_done (h : ∀ p ∈ ps, p.bytes.isSome = true ∧ p.tries ≠ 0) : nextPageRead ps = none := by
  rw [nextPageRead_tried fun p hp => (h p hp).2,
    List.findIdx?_eq_none_iff.2 fun p hp => by simpa [Option.isSome_iff_ne_none] using (h p hp).1]
  rfl

end

theorem runLength_le (e : Nat) (ps : List PageSector) : runLength e ps ≤ ps.length := by
  induction ps with
  | nil => exact Nat.zero_le _
  | cons p ps ih =>
    unfold runLength
    split
    · exact Nat.succ_le_succ ih
    · exact Nat.zero_le _

theorem runLength_pos {e : Nat} {p : PageSector} {ps : List PageSector} (h : p.extent = e) : 1 ≤ runLength e (p :: ps) := by
  unfold runLength
  rw [if_pos h]
  exact Nat.succ_pos _

/-- The run of one extent that begins at sector `j` of a page. -/
theorem runLength_from {ps : List PageSector} {j : Nat} {q : PageSector} (hj : ps[j]? = some q) :
    let m := runLength q.extent (ps.drop j)
    1 ≤ m ∧ (∀ p ∈ (ps.drop j).take m, p.extent = q.extent) ∧ (∀ p, ps[j + m]? = some p → p.extent ≠ q.extent)
      ∧ j + m ≤ ps.length := by
  intro m
  obtain ⟨hlt, rfl⟩ := List.getElem?_eq_some_iff.1 hj
  refine ⟨?_, runLength_take _ _, fun p hp => runLength_next _ (ps.drop j) (by rwa [List.getElem?_drop]), ?_⟩
  · have hcons := List.drop_eq_getElem_cons hlt
    change 1 ≤ runLength _ (ps.drop j)
    rw [hcons]
    exact runLength_pos rfl
  · have hle := runLength_le ps[j].extent (ps.drop j)
    rw [List.length_drop] at hle
    change m ≤ _ at hle
    omega

/-! ### The answer to a page's READ (R133, R134) -/

/-- The page cannot be read: a sector is unwritten, or one has failed three times (R134). -/
def lostPage (got : List PageSector) (rs : List SectorRead) : Prop :=
  .unwritten ∈ rs ∨ ∃ p ∈ got, p.bytes = none ∧ 3 ≤ p.tries

section
variable {s : State} {d : DriveId} {id : FetchId} {b i n : Nat} {ps : List PageSector} {rs : List SectorRead}

theorem readAnswer_page (hu : (s.drive d).unit = some ⟨.pageRead id b ps i n, false⟩) :
    readAnswer d rs false (clearCommand d s) = pageAnswer d id b ps i n rs false (clearCommand d s) := by
  unfold readAnswer
  rw [unit_cleared hu]
  rfl

theorem readAnswer_pageEnded (hu : (s.drive d).unit = some ⟨.pageRead id b ps i n, true⟩) (hx : unasked (s.drive d)) :
    readAnswer d rs false (clearCommand d s) = rested d (s.releaseBuffer b) := by
  unfold readAnswer
  rw [unit_cleared hu]
  exact unitEnd_fetch (s := s.releaseBuffer b) hu rfl hx

theorem pageAnswer_lost (hn : rs.length = n) (h : lostPage (placeAnswers ps i rs) rs) (s : State) :
    pageAnswer d id b ps i n rs false s = pageUnreadable d id b s := by
  unfold pageAnswer
  dsimp only
  rw [List.take_of_length_le hn.le, if_pos]
  obtain h | ⟨p, hp, hb, ht⟩ := h
  · exact .inr (.inl (List.any_eq_true.2 ⟨_, h, by decide⟩))
  · exact .inr (.inr (List.any_eq_true.2 ⟨p, hp, by simp [hb, ht]⟩))

/-- The first sector of the next READ of a page. -/
def firstSector (ps : List PageSector) (i : Nat) : Nat := ((ps[i]?).map (·.phys)).getD 0

theorem pageAnswer_kept (hn : rs.length = n) (h : ¬ lostPage (placeAnswers ps i rs) rs) (s : State) :
    pageAnswer d id b ps i n rs false s = (nextPageRead (placeAnswers ps i rs)).elim
      (pageStaged d id b ((placeAnswers ps i rs).flatMap fun p => p.bytes.getD []) s)
      fun next => issue d (.read (firstSector (placeAnswers ps i rs) next.1) next.2) .fetchEngine
        (continueUnit d (.pageRead id b (placeAnswers ps i rs) next.1 next.2) s) := by
  have hlost : ¬ (false = true ∨ rs.any (· == .unwritten) = true
      ∨ (placeAnswers ps i rs).any (fun p => p.bytes.isNone && p.tries ≥ 3) = true) := by
    refine fun hl => h ?_
    obtain hl | hl | hl := hl
    · cases hl
    · obtain ⟨r, hr, he⟩ := List.any_eq_true.1 hl
      cases r
      case unwritten => exact .inl hr
      all_goals cases he
    · obtain ⟨p, hp, he⟩ := List.any_eq_true.1 hl
      rw [Bool.and_eq_true, Option.isNone_iff_eq_none, decide_eq_true_iff] at he
      exact .inr ⟨p, hp, he⟩
  unfold pageAnswer
  dsimp only
  rw [List.take_of_length_le hn.le, if_neg hlost]
  cases nextPageRead (placeAnswers ps i rs) <;> rfl

end

/-- The order with its page staged in buffer `b` (R134). -/
def staging (b : Nat) (o : FetchOrder) : FetchOrder := { o with staged := some (o.next, b), next := o.next + 1, reading := none }

/-- The Fetch Engine's records with a page staged (R134). -/
def staged (id : FetchId) (b : Nat) (bytes : List Byte) (s : State) : State :=
  ((s.setBuffer b (some bytes)).updOrder id (staging b)).updFetch fun e => { e with stagedOrder := e.stagedOrder ++ [id] }

theorem pageStaged_cleared {s : State} {d : DriveId} {w : UnitWork} {e : Bool} (hu : (s.drive d).unit = some ⟨w, e⟩)
    (hw : w.isFetch = true) (hx : unasked (s.drive d)) (id : FetchId) (b : Nat) (bytes : List Byte) :
    pageStaged d id b bytes (clearCommand d s) = (staged id b bytes s).updDrive d (queued id s.seconds) :=
  unitEnd_putBack (s := staged id b bytes s) hu hw hx id

theorem bufferBytes_setBuffer {s : State} {b : Nat} (hb : b < 16) (bytes : List Byte) :
    (s.setBuffer b (some bytes)).bufferBytes b = bytes := by
  unfold State.bufferBytes State.setBuffer
  rw [State.updFetch_fetch]
  dsimp only
  rw [Vector.toList_setIfInBounds, List.getD_eq_getElem?_getD, List.getElem?_set_self (by simpa using hb)]
  rfl

theorem staged_leaves {s : State} {id : FetchId} {o : FetchOrder} (ho : s.order? id = some o) {b : Nat} (hb : b < 16)
    (bytes : List Byte) :
    (staged id b bytes s).order? id = some (staging b o) ∧ (staged id b bytes s).bufferBytes b = bytes
      ∧ (staged id b bytes s).fetch.stagedOrder = s.fetch.stagedOrder ++ [id] :=
  ⟨order?_updOrder (s := s.setBuffer b (some bytes)) ho fun _ => rfl, bufferBytes_setBuffer hb bytes, rfl⟩

theorem releaseBuffer_free {s : State} {b : Nat} (hb : b < 16) : (s.releaseBuffer b).fetch.buffers.toList[b]? = some none := by
  unfold State.releaseBuffer State.setBuffer
  rw [State.updFetch_fetch]
  dsimp only
  rw [Vector.toList_setIfInBounds, List.getElem?_set_self (by simpa using hb)]

/-- The order with a page counted unreadable (R134). -/
def missing (o : FetchOrder) : FetchOrder := { o with next := o.next + 1, unreadable := o.unreadable + 1, reading := none }

theorem pageMissed_order? {s : State} {id : FetchId} {o : FetchOrder} (ho : s.order? id = some o) (b : Nat) :
    (pageMissed id b s).order? id = some (missing o) :=
  order?_updOrder (s := s.releaseBuffer b) ho fun _ => rfl

section
variable {s : State} {d : DriveId} {id : FetchId} {o : FetchOrder} {w : UnitWork} {e : Bool}
  (ho : s.order? id = some o) (hu : (s.drive d).unit = some ⟨w, e⟩) (hw : w.isFetch = true) (hx : unasked (s.drive d))
include ho hu hw hx

/-- An unreadable page of an order of which more remains (R134). -/
theorem pageUnreadable_more (b : Nat) (h : ¬ (o.lastPage < o.next + 1 ∧ o.staged = none ∧ o.delivery = none)) :
    pageUnreadable d id b (clearCommand d s) = (pageMissed id b s).updDrive d (queued id s.seconds) := by
  have hm : (pageMissed id b (clearCommand d s)).order? id = some (missing o) := pageMissed_order? (s := clearCommand d s) ho b
  refine (pageUnreadable_eq ..).trans ?_
  rw [hm, Option.elim_some]
  refine (if_neg h).trans ?_
  exact unitEnd_putBack (s := pageMissed id b s) hu hw hx id

/-- An unreadable page that was the last of its order (R134). -/
theorem pageUnreadable_last (b : Nat) (h : o.lastPage < o.next + 1 ∧ o.staged = none ∧ o.delivery = none) :
    pageUnreadable d id b (clearCommand d s) = completeFetch id .donePartial (rested d (pageMissed id b s)) := by
  have hm : (pageMissed id b (clearCommand d s)).order? id = some (missing o) := pageMissed_order? (s := clearCommand d s) ho b
  refine (pageUnreadable_eq ..).trans ?_
  rw [hm, Option.elim_some]
  refine (if_pos h).trans ?_
  exact congrArg (completeFetch id .donePartial) (unitEnd_fetch (s := pageMissed id b s) hu hw hx)

end

end Sys2Proof.Laws.FetchReading

/-!
PROOF. What a READ of sector 0 brings an inspection: the label by its bytes and what it leads to (R29, R30, R208). The
obligation O46.
-/

namespace Sys2Proof.Laws.LabelReading

open Sys2Proof Sys2Proof.Machine Sys2Proof.Laws.DriveResetting Sys2Proof.Laws.Arbiter Sys2Proof.Laws.Noting
open Sys2Proof.Laws.RunEnds Sys2Proof.Laws.Mapping Sys2Proof.Laws.Places Sys2Proof.Laws.DriveFaulting
open Sys2Proof.Laws.FetchReading Sys2Proof.Laws.Halting

/-! ### The inspection that a slot has been found for stays as it is (R24) -/

section
variable {s : State} {id : Nat} {i : Inspection}

theorem insp?_updInsp_ne {k : Nat} {f : Inspection → Inspection} (hf : ∀ i, (f i).id = i.id) (h : id ≠ k) :
    (s.updInsp k f).insp? id = s.insp? id := by
  have hname : ((fun j : Inspection => decide (j.id = id)) ∘ fun j => if j.id = k then f j else j)
      = fun j => decide (j.id = id) := by
    funext j
    dsimp only [Function.comp]
    split <;> simp [hf]
  change (s.library.inspections.map fun j => if j.id = k then f j else j).find? _ = _
  rw [List.find?_map, hname]
  change (s.insp? id).map _ = _
  cases hj : s.insp? id with
  | none => rfl
  | some j => exact congrArg some (if_neg fun e => h ((insp?_id hj).symm.trans e))

theorem insp?_of_library {t : State} (h : t.library = s.library) : t.insp? id = s.insp? id := by
  rw [State.insp?, h]
  rfl

theorem slotCheck_insp? (h : s.insp? id = some i) (hp : i.phase ≠ .waitingSlot) (k : Nat) :
    (slotCheck k s).insp? id = some i := by
  unfold slotCheck
  cases hk : s.insp? k with
  | none => exact h
  | some j =>
    dsimp only
    split
    next hj =>
      have hne : id ≠ k := by
        rintro rfl
        rw [h] at hk
        cases hk
        exact hp hj
      have hkept (n : Nat) (p : InspPhase) :
          (s.updInsp k fun i => { i with reserved := some n, phase := p }).insp? id = some i := by
        exact (insp?_updInsp_ne (f := fun i => { i with reserved := some n, phase := p }) (fun _ => rfl) hne).trans h
      cases s.lowestFree with
      | none => exact (insp?_of_library (noticeSet_noted nSlotWaiting s).library).trans h
      | some n =>
        dsimp only
        split
        · exact hkept n .waitingDrive
        · exact hkept n .loading
    next => exact h

theorem slotRetry_insp? (h : s.insp? id = some i) (hp : i.phase ≠ .waitingSlot) : (slotRetry s).insp? id = some i := by
  unfold slotRetry
  generalize ((s.library.inspections.filter fun i => i.phase = .waitingSlot).map (·.id)) = ks
  induction ks generalizing s with
  | nil => exact h
  | cons k ks ih => exact ih (slotCheck_insp? h hp k)

theorem releaseSlot_insp? (h : s.insp? id = some i) (hp : i.phase ≠ .waitingSlot) :
    (releaseSlot id s).insp? id = some { i with reserved := none } := by
  unfold releaseSlot
  rw [h, Option.bind_some]
  split
  · exact slotRetry_insp? (insp?_updInsp_self (f := fun i => { i with reserved := none }) (fun _ => rfl) h) hp
  next hr =>
    have hnone : i.reserved = none := by simpa using hr
    rw [h, ← hnone]

theorem releaseSlot_library (id : Nat) (s : State) :
    ∃ is, (releaseSlot id s).library = { s.library with inspections := is } := by
  unfold releaseSlot
  split
  · obtain ⟨_, -, -, h⟩ := slotRetry_reslotted (s.updInsp id fun i => { i with reserved := none })
    exact ⟨_, h⟩
  · exact ⟨s.library.inspections, rfl⟩

/-! ### A cartridge rejected, or taken in (R29, R31) -/

/-- A rejected inspection, its cartridge to be carried back (R31). -/
def rejectedInsp (i : Inspection) : Inspection :=
  { i with phase := .rejecting, orderDue := true, awaitReady := false, order := none, reserved := none }

theorem rejectInspection_awaiting (h : s.insp? id = some i) (r : RejectReason) (await : Bool) :
    let t := rejectInspection id r await s
    t.library.table = s.library.table ∧ t.library.lastReject = some (r, i.numberRead) ∧ (t.source 10).pending = true
      ∧ (∀ e, t.drive e = s.drive e) ∧ t.insp? id = some { rejectedInsp i with awaitReady := await } := by
  intro t
  let f (i : Inspection) : Inspection := { i with phase := .rejecting, orderDue := true, awaitReady := await, order := none }
  let u := (s.updInsp id f).updLibrary fun l => { l with lastReject := some (r, i.numberRead) }
  have ht : t = noticeSet 10 (releaseSlot id u) := by
    show rejectInspection id r await s = _
    unfold rejectInspection
    rw [h]
    rfl
  have hu : u.insp? id = some (f i) := insp?_updInsp_self (f := f) (fun _ => rfl) h
  have hn := noticeSet_noted 10 (releaseSlot id u)
  rw [← ht] at hn
  obtain ⟨is, hl⟩ := releaseSlot_library id u
  have hlib : t.library = { u.library with inspections := is } := hn.library.trans hl
  refine ⟨by rw [hlib]; rfl, by rw [hlib]; rfl, by rw [ht]; exact noticeSet_pending _ (by decide) (by decide), fun e => ?_, ?_⟩
  · exact (hn.drive e).trans ((releaseSlot_mapped id u).drive e)
  · exact (insp?_of_library hn.library).trans (releaseSlot_insp? hu nofun)

theorem rejectInspection_leaves (h : s.insp? id = some i) (r : RejectReason) :
    let t := rejectInspection id r false s
    t.library.table = s.library.table ∧ t.library.lastReject = some (r, i.numberRead) ∧ (t.source 10).pending = true
      ∧ (∀ e, t.drive e = s.drive e) ∧ t.insp? id = some (rejectedInsp i) :=
  rejectInspection_awaiting h r false

/-- The inspection of a returning cartridge, which is to be carried to its slot (R29). -/
def shelvedInsp (i : Inspection) : Inspection :=
  { i with phase := .shelving, orderDue := true, awaitReady := false, reserved := none }

/-- The record of a returning cartridge (R29). -/
def returned (d : DriveId) (y : Side) (keepHome : Bool) (i : Inspection) (c : Cartridge) : Cartridge :=
  { c with
    location := .drive d, sideUp := some y, exportPending := false, home := if keepHome then c.home else i.reserved }

/-- The records of a returning cartridge and its inspection, before its slot is its own (R29). -/
def returning (d : DriveId) (i : Inspection) (n : Nat) (y : Side) (keepHome : Bool) (s : State) : State :=
  (wantMove i.id .shelving (nameInDrive d n y s)).updCart n (returned d y keepHome i)

theorem acceptReturning_leaves (h : s.insp? id = some i) {d : DriveId} {n : Nat} {y : Side} {c : Cartridge}
    (hc : s.cart? n = some c) (keepHome : Bool) :
    let t := acceptReturning d i n y keepHome s
    t.cart? n = some (returned d y keepHome i c) ∧ (∀ m, m ≠ n → t.cart? m = s.cart? m)
      ∧ t.insp? id = some (shelvedInsp i) ∧ t.drive d = { s.drive d with cart := some (.number n), sideUp := some y } := by
  intro t
  obtain rfl := insp?_id h
  let g (i : Inspection) : Inspection := { i with phase := .shelving, orderDue := true, awaitReady := false }
  have hw := withPool_noted (fun s => (wantMove i.id .shelving s).updCart n (returned d y keepHome i)) (nameInDrive d n y s)
  have hi : (returning d i n y keepHome s).insp? i.id = some (g i) := insp?_updInsp_self (s := s) (f := g) (fun _ => rfl) h
  have hself : (returning d i n y keepHome s).cart? n = some (returned d y keepHome i c) :=
    (cart?_updCart_self (f := returned d y keepHome i) fun _ => rfl).trans (congrArg (Option.map _) hc)
  have hne : ∀ m, m ≠ n → (returning d i n y keepHome s).cart? m = s.cart? m := fun m hm =>
    cart?_updCart_ne (f := returned d y keepHome i) (fun _ => rfl) hm
  have hd : (returning d i n y keepHome s).drive d = { s.drive d with cart := some (.number n), sideUp := some y } :=
    State.drive_updDrive_self s d fun x => { x with cart := some (.number n), sideUp := some y }
  change Noted (returning d i n y keepHome s) _ at hw
  have ht : t = if keepHome = true then (releaseSlot i.id (withPool (fun s =>
      (wantMove i.id .shelving s).updCart n (returned d y keepHome i)) (nameInDrive d n y s))).wantPass
      else (withPool (fun s => (wantMove i.id .shelving s).updCart n (returned d y keepHome i)) (nameInDrive d n y s)).updInsp
        i.id fun i => { i with reserved := none } := rfl
  generalize withPool (fun s => (wantMove i.id .shelving s).updCart n (returned d y keepHome i)) (nameInDrive d n y s) = v
    at hw ht
  generalize returning d i n y keepHome s = u at hi hself hne hd hw
  have hcart : ∀ m, v.cart? m = u.cart? m := cart?_of_table (congrArg (·.table) hw.library)
  have hinsp : v.insp? i.id = some (g i) := (insp?_of_library hw.library).trans hi
  have hdrive : v.drive d = { s.drive d with cart := some (.number n), sideUp := some y } := (hw.drive d).trans hd
  clear_value t
  subst ht
  cases keepHome with
  | true =>
    rw [if_pos rfl]
    obtain ⟨is, hl⟩ := releaseSlot_library i.id v
    have htable : (releaseSlot i.id v).wantPass.library.table = v.library.table := by
      change (releaseSlot i.id v).library.table = _
      rw [hl]
    refine ⟨?_, fun m hm => ?_, releaseSlot_insp? hinsp nofun, ?_⟩
    · rw [cart?_of_table htable, hcart, hself]
    · rw [cart?_of_table htable, hcart, hne m hm]
    · exact ((releaseSlot_mapped i.id v).drive d).trans hdrive
  | false =>
    rw [if_neg (by decide)]
    exact ⟨(hcart n).trans hself, fun m hm => (hcart m).trans (hne m hm),
      insp?_updInsp_self (f := fun i => { i with reserved := none }) (fun _ => rfl) hinsp, hdrive⟩

end

/-! ### The label by its bytes (R208) -/

/-- The number in the bytes of a label. -/
def labelNumber (bytes : List Byte) : Nat := (bytes.getD 4 0).toNat * 256 + (bytes.getD 5 0).toNat

/-- The bytes are those of a cartridge label (R208). -/
def labelled (bytes : List Byte) : Prop :=
  bytes.take 4 = [0x6B, 0x43, 0x4C, 0x42] ∧ labelNumber bytes ≠ 0 ∧ (bytes.getD 8 0 = 0x41 ∨ bytes.getD 8 0 = 0x42)

/-- The side that the letter of a label names. -/
def labelSide (bytes : List Byte) : Side := if bytes.getD 8 0 = 0x41 then .a else .b

theorem field_labelNumber {bytes : List Byte} (h : 8 < bytes.length) : field bytes 4 2 = labelNumber bytes := by
  have hcons : (bytes.drop 4).take 2 = [bytes.getD 4 0, bytes.getD 5 0] := by
    rw [List.drop_eq_getElem_cons (by omega), List.drop_eq_getElem_cons (by omega), List.getD_eq_getElem _ _ (by omega),
      List.getD_eq_getElem _ _ (by omega)]
    rfl
  unfold field
  rw [hcons]
  exact Frames.beNat_two ..

theorem length_of_letter {bytes : List Byte} (h : bytes.getD 8 0 = 0x41 ∨ bytes.getD 8 0 = 0x42) : 8 < bytes.length := by
  by_contra hlen
  rw [List.getD_eq_default _ _ (by omega)] at h
  revert h
  decide

theorem classifyLabel_labelled {bytes : List Byte} (h : labelled bytes) :
    classifyLabel bytes = .label (labelNumber bytes) (labelSide bytes) := by
  obtain ⟨hmark, hk, hletter⟩ := h
  unfold classifyLabel labelSide
  rw [field_labelNumber (length_of_letter hletter)]
  dsimp only
  rw [if_pos ⟨hmark, hk⟩]
  split
  · rfl
  next hne => exact if_pos (hletter.resolve_left hne)

theorem classifyLabel_bad {bytes : List Byte} (h : ¬ labelled bytes) : classifyLabel bytes = .badLabel := by
  unfold classifyLabel
  dsimp only
  split
  next hm =>
    have hletter : ¬ (bytes.getD 8 0 = 0x41 ∨ bytes.getD 8 0 = 0x42) := fun hl =>
      h ⟨hm.1, by rw [← field_labelNumber (length_of_letter hl)]; exact hm.2, hl⟩
    rw [not_or] at hletter
    rw [if_neg hletter.1, if_neg hletter.2]
  next => rfl

/-! ### The label classified (R29) -/

/-- Drive `x` with the label's unit ended (R68). -/
def labelEnded (now : Nat) (x : Drive) : Drive :=
  { x with command := none, unit := none, lastActive := now, state := .ready }

section
variable {s : State} {d : DriveId} {id tries : Nat} {i : Inspection}

theorem unitEnd_label (hu : (s.drive d).unit = some ⟨.labelRead id tries, false⟩) (hx : unasked (s.drive d)) :
    unitEnd d (clearCommand d s) = s.updDrive d (labelEnded s.seconds) := by
  rw [unitEnd_eq (unit_cleared hu) (unasked_cleared hx), if_neg (by simp [UnitWork.isFetch])]
  unfold clearCommand
  rw [updDrive_updDrive]
  rfl

theorem readAnswer_label (hu : (s.drive d).unit = some ⟨.labelRead id tries, false⟩) (r : SectorRead) :
    readAnswer d [r] false (clearCommand d s) = labelReadAnswer d id tries r false (clearCommand d s) := by
  unfold readAnswer
  rw [unit_cleared hu]
  rfl

/-- The state in which a label read is classified: its unit ended, and its result kept (R29). -/
def noted (d : DriveId) (id : Nat) (res : LabelResult) (s : State) : State :=
  (s.updDrive d (labelEnded s.seconds)).updInsp id fun i => { i with label := some res }

theorem noted_insp? (h : s.insp? id = some i) (res : LabelResult) :
    (noted d id res s).insp? id = some { i with label := some res } :=
  insp?_updInsp_self (f := fun i => { i with label := some res }) (fun _ => rfl) h

theorem noted_drive (res : LabelResult) : (noted d id res s).drive d = labelEnded s.seconds (s.drive d) :=
  State.drive_updDrive_self s d (labelEnded s.seconds)

/-- An inspection rejected for its label, as the statement says it (R29, R31). -/
def rejected (d : DriveId) (id : Nat) (i : Inspection) (label : LabelResult) (reason : RejectReason) (number : Option Nat)
    (s t : State) : Prop :=
  t.library.table = s.library.table ∧ t.library.lastReject = some (reason, number) ∧ (t.source 10).pending = true
    ∧ (t.drive d).state = .ready ∧ (t.drive d).unit = none
    ∧ t.insp? id = some (rejectedInsp { i with label := some label })

theorem rejected_of (h : s.insp? id = some i) {label : LabelResult} {u : State} (hi : u.insp? id = (noted d id label s).insp? id)
    (ht : u.library.table = s.library.table) (hd : (u.drive d).state = .ready ∧ (u.drive d).unit = none) (r : RejectReason) :
    rejected d id i label r ({ i with label := some label } : Inspection).numberRead s (rejectInspection id r false u) := by
  obtain ⟨htable, hlast, hpending, hdrive, hinsp⟩ := rejectInspection_leaves (hi.trans (noted_insp? h label)) r
  refine ⟨htable.trans ht, hlast, hpending, ?_, ?_, hinsp⟩
  · rw [hdrive]; exact hd.1
  · rw [hdrive]; exact hd.2

theorem noted_rejected (h : s.insp? id = some i) (label : LabelResult) (r : RejectReason) :
    rejected d id i label r ({ i with label := some label } : Inspection).numberRead s
      (rejectInspection id r false (noted d id label s)) := by
  refine rejected_of h rfl rfl ?_ r
  rw [noted_drive]
  exact ⟨rfl, rfl⟩

/-- What a label read in its place leads to, its unit ended. -/
def outcome (d : DriveId) (id : Nat) (i : Inspection) (res : LabelResult) (s : State) : State :=
  match res with
  | .blank => acceptBlank d id (noted d id .blank s)
  | .badLabel => rejectInspection id .foreign false (noted d id .badLabel s)
  | .unreadable => rejectInspection id .unreadableLabel false (noted d id .unreadable s)
  | .label n x => (s.cart? n).elim (rejectInspection id .foreign false (sideRead d i x (noted d id res s))) fun c =>
      if c.location = .exported then
        acceptReturning d { i with label := some res } n x false (sideRead d i x (noted d id res s))
      else if c.location = .missing then
        acceptReturning d { i with label := some res } n x true (sideRead d i x (noted d id res s))
      else rejectInspection id .present false (sideRead d i x (noted d id res s))

theorem classified_eq (h : s.insp? id = some i) (res : LabelResult) :
    classified d id res (s.updDrive d (labelEnded s.seconds)) = outcome d id i res s := by
  have hi := noted_insp? (d := d) h res
  unfold classified outcome
  dsimp only
  change (match (noted d id res s).insp? id with | none => _ | some i => _) = _
  rw [hi]
  cases res with
  | label n x =>
    have hc : (sideRead d { i with label := some (.label n x) } x (noted d id (.label n x) s)).cart? n = s.cart? n := by
      unfold sideRead
      split <;> rfl
    dsimp only
    change (match (sideRead d { i with label := some (.label n x) } x (noted d id (.label n x) s)).cart? n with
      | none => _ | some c => _) = _
    rw [hc]
    cases s.cart? n <;> rfl
  | blank => rfl
  | badLabel => rfl
  | unreadable => rfl

/-- The side up of a START_UP inspection's drive is the letter read (R38). -/
theorem sideRead_leaves (x : Side) (u : State) :
    (sideRead d i x u).library = u.library ∧ ((sideRead d i x u).drive d).state = (u.drive d).state
      ∧ ((sideRead d i x u).drive d).unit = (u.drive d).unit
      ∧ (i.origin = .startUp → ((sideRead d i x u).drive d).sideUp = some x) := by
  unfold sideRead
  split
  · refine ⟨rfl, ?_⟩
    rw [State.drive_updDrive_self]
    exact ⟨rfl, rfl, fun _ => rfl⟩
  next h => exact ⟨rfl, rfl, rfl, fun ho => absurd ho h⟩

theorem sideRead_rejected (h : s.insp? id = some i) (k : Nat) (y : Side) (r : RejectReason) :
    let t := rejectInspection id r false (sideRead d i y (noted d id (.label k y) s))
    rejected d id i (.label k y) r (some k) s t ∧ (i.origin = .startUp → (t.drive d).sideUp = some y) := by
  intro t
  obtain ⟨hlib, hstate, hunit, hside⟩ := sideRead_leaves (d := d) (i := i) y (noted d id (.label k y) s)
  have hi : (sideRead d i y (noted d id (.label k y) s)).insp? id = (noted d id (.label k y) s).insp? id :=
    insp?_of_library hlib
  refine ⟨rejected_of h hi ?_ ⟨?_, ?_⟩ r, fun ho => ?_⟩
  · rw [hlib]; rfl
  · rw [hstate, noted_drive]; rfl
  · rw [hunit, noted_drive]; rfl
  · rw [(rejectInspection_leaves (hi.trans (noted_insp? h _)) r).2.2.2.1 d]
    exact hside ho

theorem outcome_none (h : s.insp? id = some i) {k : Nat} {y : Side} (hc : s.cart? k = none) :
    let t := outcome d id i (.label k y) s
    rejected d id i (.label k y) .foreign (some k) s t ∧ (i.origin = .startUp → (t.drive d).sideUp = some y) := by
  have ho : outcome d id i (.label k y) s
      = rejectInspection id .foreign false (sideRead d i y (noted d id (.label k y) s)) := by
    unfold outcome
    dsimp only
    rw [hc]
    rfl
  rw [ho]
  exact sideRead_rejected h k y .foreign

theorem outcome_some {k : Nat} {y : Side} {c : Cartridge} (hc : s.cart? k = some c) :
    outcome d id i (.label k y) s =
      if c.location = .exported then
        acceptReturning d { i with label := some (.label k y) } k y false (sideRead d i y (noted d id (.label k y) s))
      else if c.location = .missing then
        acceptReturning d { i with label := some (.label k y) } k y true (sideRead d i y (noted d id (.label k y) s))
      else rejectInspection id .present false (sideRead d i y (noted d id (.label k y) s)) := by
  unfold outcome
  dsimp only
  rw [hc]
  rfl

theorem outcome_present (h : s.insp? id = some i) {k : Nat} {y : Side} {c : Cartridge} (hc : s.cart? k = some c)
    (h1 : c.location ≠ .exported) (h2 : c.location ≠ .missing) :
    let t := outcome d id i (.label k y) s
    rejected d id i (.label k y) .present (some k) s t ∧ (i.origin = .startUp → (t.drive d).sideUp = some y) := by
  rw [outcome_some hc, if_neg h1, if_neg h2]
  exact sideRead_rejected h k y .present

theorem outcome_returning (h : s.insp? id = some i) {k : Nat} {y : Side} {c : Cartridge} (hc : s.cart? k = some c)
    (hloc : c.location = .exported ∨ c.location = .missing) :
    let t := outcome d id i (.label k y) s
    t.cart? k = some { c with
        location := .drive d, sideUp := some y, exportPending := false
        home := if c.location = .missing then c.home else i.reserved }
      ∧ (∀ m, m ≠ k → t.cart? m = s.cart? m)
      ∧ t.insp? id = some (shelvedInsp { i with label := some (.label k y) })
      ∧ (t.drive d).cart = some (.number k) ∧ (t.drive d).sideUp = some y ∧ (t.drive d).state = .ready
      ∧ (t.drive d).unit = none := by
  intro t
  obtain ⟨hlib, hstate, hunit, -⟩ := sideRead_leaves (d := d) (i := i) y (noted d id (.label k y) s)
  have ht : t = acceptReturning d { i with label := some (.label k y) } k y (decide (c.location = .missing))
      (sideRead d i y (noted d id (.label k y) s)) := by
    refine (outcome_some hc).trans ?_
    obtain hl | hl := hloc
    · rw [if_pos hl, hl]
      rfl
    · rw [if_neg (by rw [hl]; decide), if_pos hl, hl]
      rfl
  have hi : (sideRead d i y (noted d id (.label k y) s)).insp? id = some { i with label := some (.label k y) } :=
    (insp?_of_library hlib).trans (noted_insp? h _)
  have hcart (m : Nat) : (sideRead d i y (noted d id (.label k y) s)).cart? m = s.cart? m :=
    cart?_of_table (s := s) (by rw [hlib]; rfl) m
  have hdrive : ((sideRead d i y (noted d id (.label k y) s)).drive d).state = .ready
      ∧ ((sideRead d i y (noted d id (.label k y) s)).drive d).unit = none := by
    rw [hstate, hunit, noted_drive]
    exact ⟨rfl, rfl⟩
  clear_value t
  subst ht
  generalize sideRead d i y (noted d id (.label k y) s) = u at hi hcart hdrive
  obtain ⟨hself, hne, hinsp, hd⟩ := acceptReturning_leaves hi (d := d) (y := y) ((hcart k).trans hc)
    (decide (c.location = .missing))
  refine ⟨hself.trans ?_, fun m hm => (hne m hm).trans (hcart m), hinsp, ?_⟩
  · unfold returned
    simp only [decide_eq_true_eq]
  · rw [hd]
    exact ⟨rfl, rfl, hdrive.1, hdrive.2⟩

theorem acceptBlank_full {u : State} (h : 512 ≤ u.library.table.length) :
    acceptBlank d id u = rejectInspection id .tableFull false u := if_pos h

theorem acceptBlank_exhausted {u : State} (h : u.library.table.length < 512) (hn : 65536 ≤ u.library.nextCart) :
    acceptBlank d id u = rejectInspection id .numbersExhausted false u :=
  (if_neg (Nat.not_le.2 h)).trans (if_pos hn)

theorem acceptBlank_taken {u : State} {i : Inspection} (h : u.library.table.length < 512) (hn : u.library.nextCart ≤ 65535)
    (hi : u.insp? id = some i) :
    let t := acceptBlank d id u
    t.library.nextCart = u.library.nextCart + 1
      ∧ t.insp? id = some { i with taken := some u.library.nextCart, phase := .labelFirst }
      ∧ t.library.table = u.library.table ∧ (t.drive d).sideUp = some .a := by
  let f (i : Inspection) : Inspection := { i with taken := some u.library.nextCart, phase := .labelFirst }
  let v := (u.updLibrary fun l => { l with nextCart := u.library.nextCart + 1 }).updInsp id f
  have ht : acceptBlank d id u = v.updDrive d fun r => { r with sideUp := some .a } :=
    (if_neg (Nat.not_le.2 h)).trans (if_neg (Nat.not_le.2 (Nat.lt_succ_of_le hn)))
  rw [ht]
  refine ⟨rfl, insp?_updInsp_self (s := u.updLibrary fun l => { l with nextCart := u.library.nextCart + 1 }) (f := f)
    (fun _ => rfl) hi, rfl, ?_⟩
  rw [State.drive_updDrive_self]

end

/-! ### The obligation O46 -/

/-- A fetch that is completed with no page staged or in delivery leaves the buffers as they are (R140). -/
theorem completeFetch_buffers {s : State} {id : FetchId} {o : FetchOrder} (h : s.order? id = some o) (hs : o.staged = none)
    (hd : o.delivery = none) (outcome : Status) : (completeFetch id outcome s).fetch.buffers = s.fetch.buffers := by
  obtain rfl := Completion.order?_id h
  have hf : (completeFetch o.id outcome s).fetch = Completion.freed o s.fetch := by
    rw [Completion.completeFetch_rest h outcome]
  rw [hf]
  unfold Completion.freed Completion.freeBuffers
  rw [hs, hd]

section
variable {s : State} {d : DriveId} {start n : Nat} {rs : List SectorRead}

/-- The answer to a READ whose sectors are as many as it names. -/
theorem exec_read_of {t : State} (h : reads s d start n) (hn : rs.length = n)
    (ht : readAnswer d rs false (clearCommand d s) = t) : exec (.readCompletion d rs) s = followed t := by
  rw [exec_read h, if_pos hn, ht]

end

/-- Settles O46. -/
theorem readCompletion : Obligations.ReadCompletion := by
  intro s d rs f start n x out back atRest hf hcmd hv hk
  have hread : reads s d start n := ⟨f, hf, hcmd⟩
  have hx : unasked (s.drive d) := ⟨hv, hk⟩
  refine ⟨fun hn => (exec_read hread).trans (if_neg hn), ?_, ?_, ?_, ?_, ?_⟩
  · intro id sector tries o hn hu ho
    subst hn
    have hone {r : SectorRead} {t : State} (hr : rs = [r])
        (ht : trailerAnswer d id sector tries r false (clearCommand d s) = t) : out = followed t := by
      subst hr
      exact exec_read_of hread rfl ((readAnswer_trailer hu r).trans ht)
    have ho' : (clearCommand d s).order? id = some o := ho
    refine ⟨fun bytes ls hr hls => ?_, fun hr ht ha => ?_, fun hr => ?_⟩
    · let f (o : FetchOrder) : FetchOrder := { o with lengths := some ls }
      refine ⟨(s.updOrder id f).updDrive d (queued id s.seconds), hone hr ?_, Links.order?_updOrder ho fun _ => rfl,
        queued_drive (s.updOrder id f) d id s.seconds⟩
      unfold trailerAnswer
      rw [ho']
      dsimp only
      rw [hls]
      exact unitEnd_putBack (s := s.updOrder id f) hu rfl hx id
    · refine hone hr ?_
      unfold trailerAnswer
      dsimp only
      rw [if_neg (by simp; omega)]
      exact issue_continueUnit .fetchEngine hu ha rfl
    · refine ⟨?_, completeFetch_gone ..⟩
      obtain hr | ⟨hr, ht⟩ | ⟨bytes, hr, hls⟩ := hr
      · exact hone hr (trailerFailed_cleared hu hx)
      · refine hone hr (.trans ?_ (trailerFailed_cleared hu hx))
        exact if_pos (.inr (by omega))
      · refine hone hr (.trans ?_ (trailerFailed_cleared hu hx))
        unfold trailerAnswer
        rw [ho']
        dsimp only
        rw [hls]
  · intro id sector tries hn hl hu
    exact exec_read_of hread (hl.trans hn.symm) (readAnswer_trailerEnded hu hx rs)
  · intro id b ps i hl hu
    exact exec_read_of hread hl (readAnswer_pageEnded hu hx)
  · intro id b ps i o hu ho hl hb got lost next
    have hpage {t : State} (ht : pageAnswer d id b ps i n rs false (clearCommand d s) = t) : out = followed t :=
      exec_read_of hread hl ((readAnswer_page hu).trans ht)
    refine ⟨fun hall hw => ?_, fun hlost ha j q hj => ?_, fun hlost => ?_⟩
    · have hlost : ¬ lostPage got rs := by
        rintro (h | ⟨p, hp, hnone, -⟩)
        · exact hw _ h rfl
        · have := (hall p hp).1
          rw [hnone] at this
          cases this
      let bytes := got.flatMap fun p => p.bytes.getD []
      obtain ⟨horder, hbytes, hstaged⟩ := staged_leaves ho hb bytes
      refine ⟨(staged id b bytes s).updDrive d (queued id s.seconds), hpage ?_,
        queued_drive (staged id b bytes s) d id s.seconds, horder, hbytes, hstaged⟩
      rw [pageAnswer_kept hl hlost, nextPageRead_done hall]
      exact pageStaged_cleared hu rfl hx id b bytes
    · have hnext {j m : Nat} {q : PageSector} (hj : got[j]? = some q) (hm : nextPageRead got = some (j, m)) :
          next j m q := by
        refine hpage ?_
        rw [pageAnswer_kept hl hlost, hm, Option.elim_some]
        refine (issue_continueUnit .fetchEngine hu ha rfl).trans ?_
        have hfirst : firstSector got j = q.phys := by
          unfold firstSector
          rw [hj]
          rfl
        rw [hfirst]
        rfl
      refine ⟨fun hq hbefore => ?_, fun hall hq hbefore => hnext hj (nextPageRead_again hall hj hq hbefore)⟩
      obtain ⟨h1, h2, h3, h4⟩ := runLength_from hj
      exact ⟨_, h1, h2, h3, h4, hnext hj (nextPageRead_untried hj hq hbefore)⟩
    · intro told
      have hlostAnswer {t : State} (ht : pageUnreadable d id b (clearCommand d s) = t) : out = followed t :=
        hpage ((pageAnswer_lost hl hlost _).trans ht)
      refine ⟨fun hmore => ?_, ?_⟩
      · refine ⟨(pageMissed id b s).updDrive d (queued id s.seconds), hlostAnswer (pageUnreadable_more ho hu rfl hx b ?_),
          queued_drive (pageMissed id b s) d id s.seconds, releaseBuffer_free hb, pageMissed_order? ho b⟩
        rintro ⟨h1, h2, h3⟩
        obtain h | h | h := hmore
        · omega
        · exact h h2
        · exact h h3
      · intro h1 h2 h3 u t
        have hu' : u.order? id = some told := pageMissed_order? ho b
        have hkeep : t.fetch.buffers = u.fetch.buffers := completeFetch_buffers hu' h2 h3 .donePartial
        refine ⟨hlostAnswer (pageUnreadable_last ho hu rfl hx b ⟨h1, h2, h3⟩), hu', completeFetch_gone .., ?_⟩
        rw [hkeep]
        exact releaseBuffer_free hb
  · intro id tries i hu hn hi rejectedSo
    subst hn
    have hone {r : SectorRead} {t : State} (hr : rs = [r])
        (ht : labelReadAnswer d id tries r false (clearCommand d s) = t) : out = followed t := by
      subst hr
      exact exec_read_of hread rfl ((readAnswer_label hu r).trans ht)
    have hclass (res : LabelResult) : classified d id res (unitEnd d (clearCommand d s)) = outcome d id i res s := by
      rw [unitEnd_label hu hx, classified_eq hi]
    have hblank : labelReadAnswer d id tries .unwritten false (clearCommand d s) = acceptBlank d id (noted d id .blank s) :=
      hclass .blank
    have hni : (noted d id .blank s).insp? id = some { i with label := some .blank } := noted_insp? hi _
    refine ⟨fun hr h1 h2 => ⟨_, hone hr hblank, acceptBlank_taken (u := noted d id .blank s) h1 h2 hni⟩,
      fun hr h1 => ⟨_, hone hr (hblank.trans (acceptBlank_full (u := noted d id .blank s) h1)), noted_rejected hi ..⟩,
      fun hr h1 h2 => ⟨_, hone hr (hblank.trans (acceptBlank_exhausted (u := noted d id .blank s) h1 h2)),
        noted_rejected hi ..⟩, fun hr ht ha => hone hr ?_, fun hr ht => ?_, ?_⟩
    · unfold labelReadAnswer
      rw [if_neg (by decide)]
      dsimp only
      rw [if_neg (by omega)]
      exact issue_continueUnit .libraryMap hu ha rfl
    · refine ⟨_, hone hr ?_, noted_rejected hi .unreadable .unreadableLabel⟩
      unfold labelReadAnswer
      rw [if_neg (by decide)]
      dsimp only
      rw [if_pos (by omega)]
      exact hclass .unreadable
    · intro bytes hr k isLabel y
      have hlabel {res : LabelResult} (h : classifyLabel bytes = res) : out = followed (outcome d id i res s) := by
        refine hone hr ?_
        rw [← h]
        exact hclass _
      refine ⟨fun h => ⟨_, hlabel (classifyLabel_bad h), noted_rejected hi .badLabel .foreign⟩, fun h hc => ?_,
        fun c h hc => ⟨fun h1 h2 => ?_, fun hloc => ⟨_, hlabel (classifyLabel_labelled h), outcome_returning hi hc hloc⟩⟩⟩
      · obtain ⟨hrej, hside⟩ := outcome_none (d := d) hi (y := y) hc
        exact ⟨_, ⟨hlabel (classifyLabel_labelled h), hrej⟩, hside⟩
      · obtain ⟨hrej, hside⟩ := outcome_present (d := d) hi (y := y) hc h1 h2
        exact ⟨_, ⟨hlabel (classifyLabel_labelled h), hrej⟩, hside⟩

end Sys2Proof.Laws.LabelReading

/-!
PROOF. The end of an instrument, whatever led to it (R112): what follows for the run, its entry and its side.
-/

namespace Sys2Proof.Laws.InstrumentEnding

open Sys2Proof Sys2Proof.Machine Sys2Proof.Laws.Noting Sys2Proof.Laws.RunFrames Sys2Proof.Laws.RunEnds
open Sys2Proof.Laws.Completion Sys2Proof.Laws.Settling Sys2Proof.Laws.FilingEnds Sys2Proof.Laws.Halting
open Sys2Proof.Laws.DriveFaulting

/-! ### The OPEN side -/

/-- A change of a side that keeps its state keeps the OPEN side. -/
theorem openSide_updSide {f : SideRec → SideRec} (hf : ∀ r, (f r).state = r.state) (n : Nat) (x : Side) (s : State) :
    (s.updCart n fun c => c.updSide x f).openSide = s.openSide := by
  unfold State.openSide
  change ((s.library.table.map fun c => if c.number = n then c.updSide x f else c).findSome? _) = _
  rw [List.findSome?_map]
  refine congrFun (congrArg List.findSome? (funext fun c => ?_)) _
  dsimp only [Function.comp]
  split
  · have ha : (c.updSide x f).sideA.state = c.sideA.state := by
      cases x
      · exact hf _
      · rfl
    have hb : (c.updSide x f).sideB.state = c.sideB.state := by
      cases x
      · rfl
      · exact hf _
    rw [ha, hb, updSide_number]
  · rfl

theorem openSide_countDead (n : Nat) (x : Side) (k : Nat) (s : State) : (countDead n x k s).openSide = s.openSide :=
  openSide_updSide (f := fun r => { r with dead := r.dead + k }) (fun _ => rfl) n x s

theorem openSide_advanceFrontier (n : Nat) (x : Side) (s : State) : (advanceFrontier n x s).openSide = s.openSide :=
  openSide_updSide (f := fun r => if r.frontier + 1 > Config.sectorsPerSide then r else { r with frontier := r.frontier + 1 })
    (fun r => by split <;> rfl) n x s

theorem openSide_of_library {s t : State} (h : t.library = s.library) : t.openSide = s.openSide := by
  unfold State.openSide
  rw [h]

theorem side?_of_library {s t : State} (h : t.library = s.library) (n : Nat) (x : Side) : t.side? n x = s.side? n x :=
  side?_of_table (by rw [h]) n x

theorem openSide_dropInstrument (s : State) : (dropInstrument s).openSide = s.openSide := by
  cases h : s.run.current with
  | none => rw [dropInstrument_none h]
  | some i =>
    have hl : (dropInstrument s).library = (withDead i s).library := by rw [dropInstrument_some h]
    rw [openSide_of_library hl]
    unfold withDead
    repeat' split
    · rfl
    · exact openSide_countDead ..
    · rfl

theorem openVolume_eq {s : State} {n : Nat} {x : Side} {r : SideRec} (h : s.openSide = some (n, x))
    (hr : s.side? n x = some r) : s.openVolume = r.volume := by
  unfold State.openVolume
  rw [h]
  exact congrArg (Option.bind · fun r => r.volume) hr

/-! ### The failure and the close of a run, by field (R111, R114) -/

section
variable {s : State} {c : Status} (hs : s.run.state ≠ .closed) (hf : s.run.failure = none)
include hs hf

/-- A run that fails keeps of its abort all but what its answers change. -/
theorem runFailure_keeps : (runFailure c s).catalogue = (dropInstrument s).catalogue
    ∧ (runFailure c s).library = (abortCore s).library ∧ (runFailure c s).run.counts = abortedCounts s.run
    ∧ (runFailure c s).drives = (abortCore s).drives := by
  have hcat : (failedRun c s).catalogue = (dropInstrument s).catalogue := abortCore_catalogue s
  have hlib : (failedRun c s).library = (abortCore s).library := rfl
  have hcounts : (failedRun c s).run.counts = abortedCounts s.run := by rw [failedRun_run]; rfl
  have hdrives : (failedRun c s).drives = (abortCore s).drives := rfl
  have hopen {g : Byte} (ho : s.run.openTag = some g) := runFailure_open (reason := c) hs hf ho
  have hclose {g : Byte} (ho : s.run.openTag = none) (hc : s.run.closeTag = some g) :=
    runFailure_close (reason := c) hs hf ho hc
  have hlater (ho : s.run.openTag = none) (hc : s.run.closeTag = none) := runFailure_unasked (reason := c) hs hf ho hc
  generalize runFailure c s = t at hopen hclose hlater ⊢
  generalize failedRun c s = w at hcat hlib hcounts hdrives hopen hclose hlater
  rw [← hcat, ← hlib, ← hcounts, ← hdrives]
  cases ho : s.run.openTag with
  | some g =>
    rw [hopen ho, replyOpen_eq]
    exact ⟨rfl, rfl, rfl, rfl⟩
  | none =>
    cases hc : s.run.closeTag with
    | some g =>
      rw [hclose ho hc, replyClose_eq]
      exact ⟨rfl, rfl, rfl, rfl⟩
    | none =>
      rw [hlater ho hc]
      exact ⟨rfl, rfl, rfl, rfl⟩

end

/-- The counts of a run whose ring is flushed (R103). -/
def flushedCounts (r : Run) : RunCounts := { r.counts with discarded := countUp r.counts.discarded r.ring.length }

/-- The frontier of the OPEN side. -/
def openFrontier (s : State) : Option Nat := s.openSide.bind fun (n, x) => (s.side? n x).map (·.frontier)

/-- The answer to a CLOSE_INSTRUMENT that completes (R111). -/
def closedReply (outcome : Status) (s : State) (g : Byte) : Reply :=
  ⟨g, 0x22, outcome, .closed (flushedCounts s.run) s.openVolume (openFrontier s)⟩

/-- A run that is closed with its ring flushed (R111). -/
def closedRun (r : Run) : Run :=
  { r with
    counts := flushedCounts r, head := r.tail, ring := [], discard := false, engaged := none, state := .closed
    openTag := none, closeTag := none, stall := none }

theorem flushRing_eq (s : State) :
    flushRing s = { s with run := { s.run with counts := flushedCounts s.run, head := s.run.tail, ring := [] } } := by
  unfold flushRing countDiscarded updCounts flushedCounts
  simp only [State.updRun, Run.tail]

/-- The close of a run with its ring flushed (R111). -/
theorem completeClose_flushed {s u : State} {outcome : Status} (hu : flushRing s = u) :
    completeClose outcome s = closeRun (replyClose outcome
      (.closed (disengage (u.updRun fun r => { r with discard := false })).run.counts u.openVolume (openFrontier u))
      (disengage (u.updRun fun r => { r with discard := false }))) := by
  subst hu
  rfl

theorem completeClose_eq (outcome : Status) (s : State) :
    ∃ ds k, completeClose outcome s = State.updLink
      { s with drives := ds, planner := { s.planner with passesDue := k }, run := closedRun s.run }
      s.run.owner (answeredIf s.run.closeTag (closedReply outcome s)) := by
  rw [completeClose_flushed (flushRing_eq s)]
  generalize hr : ({ s.run with counts := flushedCounts s.run, head := s.run.tail, ring := [] } : Run) = r
  have hw := disengage_rest (State.updRun { s with run := r } fun r => { r with discard := false })
  generalize disengage (State.updRun { s with run := r } fun r => { r with discard := false }) = w at hw ⊢
  generalize w.drives = ds, w.planner.passesDue = k at hw
  refine ⟨ds, k, ?_⟩
  have hclosed : closedRun s.run = { r with
      discard := false, engaged := none, state := .closed, openTag := none, closeTag := none, stall := none } := by
    rw [← hr]
    rfl
  have hreply : closedReply outcome s
      = fun g => ⟨g, 0x22, outcome, .closed r.counts s.openVolume (openFrontier s)⟩ := by
    rw [← hr]
    rfl
  have htag : s.run.closeTag = r.closeTag := by rw [← hr]
  have howner : s.run.owner = r.owner := by rw [← hr]
  rw [hclosed, hreply, htag, howner]
  clear hclosed hreply htag howner hr
  subst hw
  rw [replyClose_eq]
  rfl

/-! ### What follows for the run (R112) -/

section
variable {s : State} {c : Status} {place : EndAt}

theorem after_given_closing (hg : s.run.source = .given) (hc : s.run.state = .closing) (hf : s.run.failure = none) :
    afterInstrument c place s = completeClose c s := by
  unfold afterInstrument
  rw [if_pos hg, if_pos ⟨hc, hf⟩]

theorem after_given_failing (hg : s.run.source = .given) (hc : s.run.state ≠ .closing ∨ s.run.failure ≠ none) :
    afterInstrument c place s = runFailure c s := by
  unfold afterInstrument
  rw [if_pos hg, if_neg]
  exact fun h => hc.elim (absurd h.1) (absurd h.2)

/-- A SEPARATOR run that goes on when its instrument has ended (R112). -/
theorem after_separator (hg : s.run.source = .separator) :
    afterInstrument c place s = if c = .empty then pageLost place s
      else (pageLost place s).updRun fun r => { r with discard := true } := by
  unfold afterInstrument
  rw [if_neg (by rw [hg]; decide)]

theorem pageLost_page (s : State) : pageLost .page s = { s with run := { s.run with
    head := (s.run.head + 1) % 16, ring := s.run.ring.drop 1
    counts := { s.run.counts with discarded := countUp s.run.counts.discarded 1 } } } := rfl

theorem pageLost_trailer (s : State) : pageLost .trailer s = s := rfl

end

/-- A failure of the run shown from a state that has the same requests pending is shown from the one before it. -/
theorem runFails_earlier {s s' t : State} {c : Status} (h : runFails s' t c) (ho : s'.run.openTag = s.run.openTag)
    (hc : s'.run.closeTag = s.run.closeTag) (hw : s'.run.owner = s.run.owner)
    (hl : ∀ st, SameButAttention (s.link st) (s'.link st)) : runFails s t c := by
  unfold runFails at h ⊢
  have haw (g : Byte) : s'.awaits s.run.owner g ↔ s.awaits s.run.owner g := sameButAttention_awaits (hl _) g
  simp only [ho, hc, hw, haw] at h
  exact h

/-- The state in which an instrument has been dropped, for whatever reason: what it leaves of the run, its entry, its side
and the stations (R112). -/
structure Dropped (s v : State) (i : Instrument) (n : Nat) (x : Side) (r : SideRec) (frontier dead : Nat) : Prop where
  run : v.run = { s.run with current := none, counts := { s.run.counts with aborted := countUp s.run.counts.aborted 1 } }
  entry : ∀ e, s.entry? i.number = some e → e.state = .filing →
    v.catalogue = (s.catalogue.filter fun e => e.number ≠ i.number)
      ∧ (s.openSide = some (n, x) →
        v.side? n x = some { r with frontier := frontier, dead := r.dead + dead + extentSum e.extents })
  side : s.openSide = some (n, x) → v.openVolume = r.volume ∧ openFrontier v = some frontier
  link : ∀ st, SameButAttention (s.link st) (v.link st)

/-- What a run leaves alone once its instrument is gone. -/
structure LeftOver (v t : State) : Prop where
  current : t.run.current = none
  aborted : v.run.source = .separator ∨ v.run.pendingSep = none → t.run.counts.aborted = v.run.counts.aborted
  catalogue : t.catalogue = v.catalogue
  side : v.run.chosen = none → ∀ n x, t.side? n x = v.side? n x

section
variable {v : State} {c : Status} {place : EndAt} (hn : v.run.current = none)
include hn

theorem runFailure_leftOver (hg : v.run.source = .given) : LeftOver v (runFailure c v) := by
  by_cases hidle : v.run.state = .closed ∨ v.run.failure ≠ none
  · rw [runFailure_idle hidle]
    exact ⟨hn, fun _ => rfl, rfl, fun _ _ _ => rfl⟩
  · rw [not_or, not_not] at hidle
    obtain ⟨hs, hf⟩ := hidle
    obtain ⟨hcat, hlib, hcounts, -⟩ := runFailure_keeps (c := c) hs hf
    have hfails := runFailure_fails (reason := c) hs hf
    have hdrop : dropInstrument v = v := dropInstrument_none hn
    have htable (h : v.run.chosen = none) : (runFailure c v).library.table = v.library.table := by
      rw [hlib, abortCore_table (.inl h), hdrop]
    refine ⟨hfails.2.1, fun h => ?_, by rw [hcat, hdrop], fun h n x => side?_of_table (htable h) n x⟩
    have hsep : v.run.pendingSep = none := h.resolve_left (by rw [hg]; decide)
    rw [hcounts, abortedCounts, hn, hsep]
    rfl

theorem completeClose_leftOver : LeftOver v (completeClose c v) := by
  obtain ⟨ds, k, h⟩ := completeClose_eq c v
  rw [h]
  exact ⟨hn, fun _ => rfl, rfl, fun _ _ _ => rfl⟩

theorem pageLost_leftOver : LeftOver v (pageLost place v) := by
  cases place with
  | page => exact ⟨hn, fun _ => rfl, rfl, fun _ _ _ => rfl⟩
  | trailer => exact ⟨hn, fun _ => rfl, rfl, fun _ _ _ => rfl⟩

theorem after_leftOver : LeftOver v (afterInstrument c place v) := by
  cases hg : v.run.source with
  | given =>
    by_cases hc : v.run.state = .closing ∧ v.run.failure = none
    · rw [after_given_closing hg hc.1 hc.2]
      exact completeClose_leftOver hn
    · rw [after_given_failing hg (not_and_or.1 hc)]
      exact runFailure_leftOver hn hg
  | separator =>
    rw [after_separator hg]
    have h := pageLost_leftOver (place := place) hn
    split
    · exact h
    · exact ⟨h.current, h.aborted, h.catalogue, h.side⟩

end

theorem dropped_ends {s v : State} {i : Instrument} {n : Nat} {x : Side} {r : SideRec} {frontier dead : Nat}
    (h : Dropped s v i n x r frontier dead) (code : Status) (place : EndAt) :
    instrumentEnds s (afterInstrument code place v) i code place n x r frontier dead := by
  have hrun := h.run
  have hnone : v.run.current = none := by rw [hrun]
  have hsource : v.run.source = s.run.source := by rw [hrun]
  have hl := after_leftOver (c := code) (place := place) hnone
  refine ⟨hl.current, fun ha => ?_, fun e he hf => ?_, fun hs => ?_, fun hs hf hclosed => ?_⟩
  · rw [hl.aborted (by rw [hrun]; exact ha), hrun]
    rfl
  · obtain ⟨hcat, hside⟩ := h.entry e he hf
    refine ⟨hl.catalogue.trans hcat, fun ho hc => ?_⟩
    rw [hl.side (by rw [hrun]; exact hc), hside ho]
  · rw [after_separator (hsource.trans hs)]
    have hpage : (pageLost .page v).run.ring = s.run.ring.drop 1
        ∧ (pageLost .page v).run.counts.discarded = min (s.run.counts.discarded + 1) 65535
        ∧ (pageLost .page v).run.state = s.run.state ∧ (pageLost .page v).run.discard = s.run.discard := by
      rw [pageLost_page, hrun]
      exact ⟨rfl, rfl, rfl, rfl⟩
    have htrailer : (pageLost .trailer v).run.ring = s.run.ring
        ∧ (pageLost .trailer v).run.counts.discarded = s.run.counts.discarded
        ∧ (pageLost .trailer v).run.state = s.run.state ∧ (pageLost .trailer v).run.discard = s.run.discard := by
      rw [pageLost_trailer, hrun]
      exact ⟨rfl, rfl, rfl, rfl⟩
    have hboth : (pageLost place v).run.state = s.run.state ∧ (pageLost place v).run.discard = s.run.discard
        ∧ (place = .trailer → (pageLost place v).run.ring = s.run.ring
          ∧ (pageLost place v).run.counts.discarded = s.run.counts.discarded)
        ∧ (place = .page → (pageLost place v).run.ring = s.run.ring.drop 1
          ∧ (pageLost place v).run.counts.discarded = min (s.run.counts.discarded + 1) 65535) := by
      cases place with
      | page =>
        obtain ⟨h1, h2, h3, h4⟩ := hpage
        exact ⟨h3, h4, fun h => absurd h (by decide), fun _ => ⟨h1, h2⟩⟩
      | trailer =>
        obtain ⟨h1, h2, h3, h4⟩ := htrailer
        exact ⟨h3, h4, fun _ => ⟨h1, h2⟩, fun h => absurd h (by decide)⟩
    generalize pageLost place v = w at hboth
    obtain ⟨h1, h2, h3, h4⟩ := hboth
    split
    next hc => exact ⟨h1, fun hne => absurd hc hne, fun _ => h2, h3, h4⟩
    next hc => exact ⟨h1, fun _ => rfl, fun he => absurd he hc, h3, h4⟩
  · have hg : v.run.source = .given := hsource.trans hs
    have hf' : v.run.failure = none := by rw [hrun]; exact hf
    have hstate : v.run.state = s.run.state := by rw [hrun]
    by_cases hc : s.run.state = .closing
    · rw [after_given_closing hg (hstate.trans hc) hf']
      obtain ⟨ds, k, heq⟩ := completeClose_eq code v
      have howner : v.run.owner = s.run.owner := by rw [hrun]
      have htag : v.run.closeTag = s.run.closeTag := by rw [hrun]
      generalize completeClose code v = t at heq
      have htrun : t.run = closedRun v.run := by rw [heq]; rfl
      refine ⟨by rw [htrun]; rfl, by rw [htrun]; rfl, fun _ => ⟨by rw [htrun]; rfl, fun g hclose haw => ?_⟩,
        fun hne => absurd hc hne⟩
      refine ⟨v.openVolume, openFrontier v, ?_, h.side⟩
      have hlink : t.link s.run.owner = answered (closedReply code v g) (v.link s.run.owner) := by
        rw [heq, howner, htag, hclose]
        exact State.link_updLink_self ..
      have hcounts : t.run.counts = flushedCounts v.run := by rw [htrun]; rfl
      have haw' : ∃ e ∈ (v.link s.run.owner).outstanding, e.tag = (closedReply code v g).tag :=
        (sameButAttention_awaits (h.link s.run.owner) g).2 haw
      rw [hlink, answered_awaited haw', sameButAttention_replies (h.link s.run.owner), hcounts]
      rfl
    · rw [after_given_failing hg (.inl (by rw [hstate]; exact hc))]
      have hfails := runFailure_fails (s := v) (reason := code) (by rw [hstate]; exact hclosed) hf'
      refine ⟨hfails.1, hfails.2.2.1, fun h => absurd h hc, fun _ => ?_⟩
      exact runFails_earlier hfails (by rw [hrun]) (by rw [hrun]) (by rw [hrun]) h.link

/-- The state in which an instrument is to end: what its last attempt has left of the run, the OPEN side and the stations. -/
structure Ending (s u : State) (i j : Instrument) (n : Nat) (x : Side) (r : SideRec) (frontier dead : Nat) : Prop where
  run : u.run = { s.run with current := some j }
  number : j.number = i.number
  catalogue : u.catalogue = s.catalogue
  openSide : u.openSide = s.openSide
  side : u.side? n x = some { r with frontier := frontier, dead := r.dead + dead }
  link : ∀ st, SameButAttention (s.link st) (u.link st)

theorem Ending.dropped {s u : State} {i j : Instrument} {n : Nat} {x : Side} {r : SideRec} {frontier dead : Nat}
    (h : Ending s u i j n x r frontier dead) : Dropped s (dropInstrument u) i n x r frontier (dead + j.attemptSectors) := by
  have hj : u.run.current = some j := by rw [h.run]
  have hentry (k : Nat) : u.entry? k = s.entry? k := by rw [State.entry?, h.catalogue]; rfl
  have hside (ho : s.openSide = some (n, x)) := dropInstrument_side hj (h.openSide.trans ho) h.side
  refine ⟨?_, fun e he hf => ⟨?_, fun ho => ?_⟩, fun ho => ?_, fun st => ?_⟩
  · rw [dropInstrument_some hj, h.run]
  · have he' : u.entry? j.number = some e := by rw [h.number, hentry, he]
    rw [dropInstrument_catalogue hj he' hf, h.catalogue, h.number]
  · rw [hside ho]
    have hdead : deadSectors u j = extentSum e.extents + j.attemptSectors := by
      unfold deadSectors
      rw [h.number, hentry, he]
      rfl
    have hsum : r.dead + dead + deadSectors u j = r.dead + (dead + j.attemptSectors) + extentSum e.extents := by omega
    exact congrArg (fun k => some { r with frontier := frontier, dead := k }) hsum
  · have hopen : (dropInstrument u).openSide = some (n, x) := by rw [openSide_dropInstrument, h.openSide, ho]
    have hvolume := openVolume_eq hopen (hside ho)
    refine ⟨hvolume, ?_⟩
    unfold openFrontier
    rw [hopen]
    exact congrArg (Option.map (·.frontier)) (hside ho)
  · have hl : (dropInstrument u).link st = u.link st := by rw [dropInstrument_rest]; rfl
    rw [hl]
    exact h.link st

/-- The end of an instrument as the statements give it (R112). -/
theorem endInstrument_ends {s u : State} {i j : Instrument} {n : Nat} {x : Side} {r : SideRec} {frontier dead : Nat}
    (h : Ending s u i j n x r frontier dead) (code : Status) (place : EndAt) :
    instrumentEnds s (endInstrument code place u) i code place n x r frontier (dead + j.attemptSectors) := by
  rw [endInstrument_eq]
  exact dropped_ends h.dropped code place

theorem unitEnd_idle {s : State} {d : DriveId} {u : DriveUnit} (hu : (s.drive d).unit = some u)
    (hw : u.work.isFetch = false) (hx : unasked (s.drive d)) : unitEnd d s = s.updDrive d (unitless u s.seconds) := by
  rw [unitEnd_eq hu hx, hw, Bool.false_and, if_neg (by decide)]

/-! ### The state in which an attempt fails, or an instrument ends (R107 to R109) -/

section
variable {s u : State} {i j : Instrument} {n : Nat} {x : Side} {r : SideRec} {frontier dead : Nat}

theorem Ending.start (hi : s.run.current = some i) (hr : s.side? n x = some r) : Ending s s i i n x r r.frontier 0 :=
  ⟨by rw [← hi], rfl, rfl, rfl, hr, fun _ => .refl _⟩

theorem Ending.updDrive (h : Ending s u i j n x r frontier dead) (d : DriveId) (f : Drive → Drive) :
    Ending s (u.updDrive d f) i j n x r frontier dead :=
  ⟨h.run, h.number, h.catalogue, h.openSide, h.side, h.link⟩

theorem Ending.unitEnd (h : Ending s u i j n x r frontier dead) {d : DriveId} {w : DriveUnit}
    (hu : (u.drive d).unit = some w) (hw : w.work.isFetch = false) (hx : unasked (u.drive d)) :
    Ending s (unitEnd d u) i j n x r frontier dead := by
  rw [unitEnd_idle hu hw hx]
  exact h.updDrive _ _

theorem Ending.updInstrument (h : Ending s u i j n x r frontier dead) {f : Instrument → Instrument}
    (hf : (f j).number = j.number) : Ending s (updInstrument f u) i (f j) n x r frontier dead where
  run := by
    unfold Machine.updInstrument State.updRun
    dsimp only
    rw [h.run]
    rfl
  number := hf.trans h.number
  catalogue := h.catalogue
  openSide := h.openSide
  side := h.side
  link := h.link

theorem Ending.countDead (h : Ending s u i j n x r frontier dead) (k : Nat) :
    Ending s (countDead n x k u) i j n x r frontier (dead + k) where
  run := h.run
  number := h.number
  catalogue := h.catalogue
  openSide := (openSide_countDead ..).trans h.openSide
  side := by
    rw [Machine.countDead, side?_updSide, h.side, ← Nat.add_assoc]
    rfl
  link := h.link

theorem Ending.charged (h : Ending s u i j n x r frontier dead) :
    Ending s (charged n x j u) i (chargedInstrument j) n x r frontier (dead + j.attemptSectors) := by
  unfold FilingEnds.charged
  split
  next h0 =>
    rw [h0]
    exact h.updInstrument rfl
  next => exact (h.countDead j.attemptSectors).updInstrument rfl

theorem Ending.entry? (h : Ending s u i j n x r frontier dead) : u.entry? j.number = s.entry? i.number := by
  rw [State.entry?, h.catalogue, h.number]
  rfl

theorem Ending.sectorPassed (h : Ending s u i j n x r frontier dead) (hlt : frontier < 300000) :
    Ending s (sectorPassed n x u) i { j with attemptSectors := j.attemptSectors + 1 } n x r (frontier + 1) dead := by
  have ha : Ending s (advanceFrontier n x u) i j n x r (frontier + 1) dead := by
    refine ⟨h.run, h.number, h.catalogue, (openSide_advanceFrontier n x u).trans h.openSide, ?_, h.link⟩
    rw [advanceFrontier, side?_updSide, h.side, Option.map_some, if_neg (by simp only [Config.sectorsPerSide]; omega)]
  exact ha.updInstrument (f := fun i => { i with attemptSectors := i.attemptSectors + 1 }) rfl

end

end Sys2Proof.Laws.InstrumentEnding

/-!
PROOF. Engagement (R98, R99, R117): what its completion leaves of the run, the catalogue and the stations, and what it keeps.
-/

namespace Sys2Proof.Laws.Engaging

open Sys2Proof Sys2Proof.Machine Sys2Proof.Laws.Noting Sys2Proof.Laws.RunFrames Sys2Proof.Laws.RunEnds
open Sys2Proof.Laws.Completion Sys2Proof.Laws.FileRequests Sys2Proof.Laws.Settling Sys2Proof.Laws.FilingEnds
open Sys2Proof.Laws.InstrumentEnding

/-! ### A new entry (R10) -/

/-- A new entry depends on the catalogue and the registry date alone. -/
theorem createEntry_congr {s w : State} (hc : w.catalogue = s.catalogue) (hd : w.fee.date = s.fee.date) (v : Option Nat)
    (n cls : Nat) (st : Station) :
    createEntry w v n cls st = (createEntry s v n cls st).map fun u => { w with catalogue := u.catalogue } := by
  have hfiling : w.filingEntry = s.filingEntry := by rw [State.filingEntry, hc]; rfl
  have hentry : w.entry? n = s.entry? n := by rw [State.entry?, hc]; rfl
  have hroom : catalogueRoom w = catalogueRoom s := by rw [catalogueRoom, hc]; rfl
  unfold createEntry
  rw [hfiling, hentry, hroom, hc, hd]
  cases v <;> dsimp only
  · split <;> rfl
  · split_ifs <;> rfl

section
variable {s w : State} (hc : w.catalogue = s.catalogue) (hd : w.fee.date = s.fee.date) {v : Option Nat} {n cls : Nat}
  {st : Station}
include hc hd

theorem createEntry_ok {u : State} (h : createEntry s v n cls st = .ok u) :
    createEntry w v n cls st = .ok { w with catalogue := u.catalogue } := by
  rw [createEntry_congr hc hd, h]
  rfl

theorem createEntry_error {e : CatRefusal} (h : createEntry s v n cls st = .error e) : createEntry w v n cls st = .error e := by
  rw [createEntry_congr hc hd, h]
  rfl

end

/-! ### The run leaves OPENING (R96) -/

/-- The state in which a run leaves OPENING (R96). -/
def nextState (r : Run) : RunState :=
  if r.closeRequested then .closing else if r.ring.head?.any (·.complete) then .running else .waitingPage

/-- The run as it leaves OPENING (R96). -/
def left (now : Nat) (r : Run) : Run :=
  if nextState r = .waitingPage then { r with state := .waitingPage, stall := some now, stallSent := false }
  else { r with state := nextState r }

theorem leaveOpening_eq (s : State) : leaveOpening s = s.updRun (left s.seconds) := by
  have hpage : s.run.headPage.isSome = s.run.ring.head?.any (·.complete) := by
    unfold Run.headPage
    cases s.run.ring.head? with
    | none => rfl
    | some p => cases hp : p.complete <;> simp [Option.filter, hp]
  unfold leaveOpening
  rw [hpage]
  have hset {r : Run} (h : left s.seconds s.run = r) : s.updRun (left s.seconds) = { s with run := r } := by
    rw [← h]
    rfl
  by_cases hc : s.run.closeRequested = true
  · have hn : nextState s.run = .closing := if_pos hc
    rw [if_pos hc, hset (r := { s.run with state := .closing }) (by rw [left, hn]; rfl)]
    rfl
  · rw [if_neg hc]
    by_cases hp : s.run.ring.head?.any (·.complete) = true
    · have hn : nextState s.run = .running := (if_neg hc).trans (if_pos hp)
      rw [if_pos hp, hset (r := { s.run with state := .running }) (by rw [left, hn]; rfl)]
      rfl
    · have hn : nextState s.run = .waitingPage := (if_neg hc).trans (if_neg hp)
      rw [if_neg hp, hset (r := { s.run with state := .waitingPage, stall := some s.seconds, stallSent := false })
        (by rw [left, hn]; rfl)]
      rfl

theorem left_rest (now : Nat) (r : Run) : left now r = { r with
    state := nextState r, stall := (left now r).stall, stallSent := (left now r).stallSent } := by
  unfold left
  split
  next h => rw [h]
  next => rfl

theorem left_waiting {now : Nat} {r : Run} (h : nextState r = .waitingPage) :
    (left now r).stall = some now ∧ (left now r).stallSent = false := by
  unfold left
  rw [if_pos h]
  exact ⟨rfl, rfl⟩

/-- The engagement is over: the run leaves OPENING, and a pending OPEN_INSTRUMENT is answered (R98). -/
def engagedNow (s : State) : State := replyEngaged (leaveOpening s)

/-- The answer to OPEN_INSTRUMENT at the end of engagement (R98). -/
def openedReply (volume n : Nat) (x : Side) (d : DriveId) (frontier : Nat) (g : Byte) : Reply :=
  ⟨g, 0x20, .done, .opened volume n x d frontier⟩

section
variable {w : State} {n volume frontier : Nat} {x : Side} {d : DriveId}
  (ho : w.openSide = some (n, x)) (hv : w.openVolume = some volume) (hf : w.frontier = frontier)
  (hd : w.run.engaged = some d)
include ho hv hf hd

theorem engagedNow_eq : engagedNow w = ((w.updRun (left w.seconds)).updLink w.run.owner
    (answeredIf w.run.openTag (openedReply volume n x d frontier))).updRun fun r => { r with openTag := none } := by
  unfold engagedNow
  rw [leaveOpening_eq]
  have hrun : (w.updRun (left w.seconds)).run = left w.seconds w.run := rfl
  have ho' : (w.updRun (left w.seconds)).openSide = some (n, x) := ho
  have hv' : (w.updRun (left w.seconds)).openVolume = some volume := hv
  have hf' : (w.updRun (left w.seconds)).frontier = frontier := hf
  have hd' : (w.updRun (left w.seconds)).run.engaged = some d := by rw [hrun, left_rest]; exact hd
  have hown : (w.updRun (left w.seconds)).run.owner = w.run.owner := by rw [hrun, left_rest]
  have htag : (w.updRun (left w.seconds)).run.openTag = w.run.openTag := by rw [hrun, left_rest]
  generalize w.updRun (left w.seconds) = v at ho' hv' hf' hd' hown htag
  unfold replyEngaged
  rw [ho']
  dsimp only
  rw [hv', hd', hf', replyOpen_eq, hown, htag]
  rfl

/-- What the end of engagement leaves, as the statements say it. -/
theorem engagedNow_leaves :
    let t := engagedNow w
    t.catalogue = w.catalogue ∧ t.library = w.library ∧ t.drives = w.drives ∧ t.run.current = w.run.current
      ∧ t.run.pendingSep = w.run.pendingSep ∧ t.run.chosen = w.run.chosen ∧ t.run.label = w.run.label
      ∧ t.run.probing = w.run.probing
      ∧ t.run.state = nextState w.run ∧ t.run.ring = w.run.ring ∧ t.run.engaged = some d
      ∧ (nextState w.run = .waitingPage → t.run.stall = some w.seconds ∧ t.run.stallSent = false)
      ∧ t.run.openTag = none
      ∧ ∀ st, t.link st = if st = w.run.owner then
          answeredIf w.run.openTag (openedReply volume n x d frontier) (w.link st) else w.link st := by
  intro t
  have ht : t = _ := engagedNow_eq ho hv hf hd
  have hrun : t.run = { left w.seconds w.run with openTag := none } := by rw [ht]; rfl
  have hlink (st : Station) : t.link st = if st = w.run.owner then
      answeredIf w.run.openTag (openedReply volume n x d frontier) (w.link st) else w.link st := by
    rw [ht, State.link_updRun, State.link_updLink]
    split
    next h => rw [h]; rfl
    next => rfl
  refine ⟨by rw [ht]; rfl, by rw [ht]; rfl, by rw [ht]; rfl, ?_, ?_, ?_, ?_, ?_, ?_, ?_, ?_, fun h => ?_, by rw [hrun], hlink⟩
  iterate 7 rw [hrun, left_rest]
  · rw [hrun, left_rest]; exact hd
  · rw [hrun]; exact left_waiting h

end

/-! ### The engagement completes (R98, R117) -/

section
variable {w : State} (hroom : rolloverNeeded w = false)
include hroom

theorem engage_given_ok (hs : w.run.source = .given) {u : State}
    (h : createEntry w w.openVolume w.run.given w.run.feeClass w.run.owner = .ok u) :
    engage w = engagedNow (u.updRun fun r => { r with current := some (newInstrument r.given) }) := by
  unfold engage
  rw [if_neg (by rw [hroom]; decide), hs, h]
  rfl

theorem engage_given_error (hs : w.run.source = .given) {e : CatRefusal}
    (h : createEntry w w.openVolume w.run.given w.run.feeClass w.run.owner = .error e) :
    engage w = runFailure (catStatus e) w := by
  unfold engage
  rw [if_neg (by rw [hroom]; decide), hs, h]

theorem engage_separated (hs : w.run.source = .separator) {k : Nat} (h : w.run.pendingSep = some k) :
    engage w = engagedNow (createSeparated k w) := by
  unfold engage
  rw [if_neg (by rw [hroom]; decide), hs, h]
  rfl

theorem engage_plain (hs : w.run.source = .separator) (h : w.run.pendingSep = none) : engage w = engagedNow w := by
  unfold engage
  rw [if_neg (by rw [hroom]; decide), hs, h]
  rfl

end

theorem engage_rollover {w : State} (h : rolloverNeeded w = true) : engage w = beginRollover w := if_pos h

/-- The entry that a separator names, with its number out of the ring (R117). -/
theorem createSeparated_ok {w u : State} {k : Nat} (h : createEntry w w.openVolume k w.run.feeClass w.run.owner = .ok u) :
    createSeparated k w = popRing (u.updRun fun r => { r with current := some (newInstrument k), pendingSep := none }) := by
  unfold createSeparated
  rw [h]

theorem createSeparated_error {w : State} {k : Nat} {e : CatRefusal}
    (h : createEntry w w.openVolume k w.run.feeClass w.run.owner = .error e) : createSeparated k w = separatorLost w := by
  unfold createSeparated
  rw [h]

/-- The state whose run is pinned to drive `d`, with side `x` of cartridge `n` there OPEN: what it keeps of the state from
which the engagement set out. -/
structure Pinned (s w : State) (n : Nat) (x : Side) (d : DriveId) (volume frontier : Nat) : Prop where
  run : w.run = { s.run with
    engaged := some d, chosen := w.run.chosen, label := w.run.label, probing := w.run.probing }
  catalogue : w.catalogue = s.catalogue
  date : w.fee.date = s.fee.date
  seconds : w.seconds = s.seconds
  openSide : w.openSide = some (n, x)
  openVolume : w.openVolume = some volume
  frontier : w.frontier = frontier
  link : ∀ st, SameButAttention (s.link st) (w.link st)

theorem freeSectors_eq (s : State) : s.freeSectors = 300000 - s.frontier := rfl

theorem rolloverNeeded_false {w : State} (h : 4096 ≤ w.freeSectors) : rolloverNeeded w = false :=
  Bool.eq_false_iff.2 fun hr => absurd ((rolloverNeeded_iff w).1 hr) (Nat.not_lt.2 h)

/-- The run leaves OPENING with the answer to OPEN_INSTRUMENT, as `completesEngagement` states it. -/
theorem engagedNow_completes {s v : State} {n volume frontier : Nat} {x : Side} {d : DriveId} {ring : List RingSlot}
    (ho : v.openSide = some (n, x)) (hv : v.openVolume = some volume) (hf : v.frontier = frontier)
    (hd : v.run.engaged = some d) (hring : v.run.ring = ring) (hreq : v.run.closeRequested = s.run.closeRequested)
    (hown : v.run.owner = s.run.owner) (htag : v.run.openTag = s.run.openTag) (hsec : v.seconds = s.seconds)
    (hlink : ∀ st, SameButAttention (s.link st) (v.link st)) :
    let t := engagedNow v
    let next : RunState :=
      if s.run.closeRequested then .closing else if ring.head?.any (·.complete) then .running else .waitingPage
    t.run.state = next ∧ t.run.ring = ring ∧ t.run.engaged = some d
      ∧ (next = .waitingPage → t.run.stall = some s.seconds ∧ t.run.stallSent = false)
      ∧ ∀ g, s.run.openTag = some g → (∃ e ∈ (s.link s.run.owner).outstanding, e.tag = g) →
        (t.link s.run.owner).replies = (s.link s.run.owner).replies
          ++ [⟨g, 0x20, .done, .opened volume n x d frontier⟩] ∧ t.run.openTag = none := by
  intro t next
  obtain ⟨-, -, -, -, -, -, -, -, hstate, hr, he, hw, hopen, hl⟩ := engagedNow_leaves ho hv hf hd
  have hnext : nextState v.run = next := by
    unfold nextState
    rw [hreq, hring]
  rw [hsec, hnext] at hw
  refine ⟨hstate.trans hnext, hr.trans hring, he, hw, fun g hg haw => ⟨?_, hopen⟩⟩
  have haw' : ∃ e ∈ (v.link s.run.owner).outstanding, e.tag = (openedReply volume n x d frontier g).tag :=
    (sameButAttention_awaits (hlink s.run.owner) g).2 haw
  rw [hl, hown, if_pos rfl, htag, hg]
  change (answered (openedReply volume n x d frontier g) _).replies = _
  rw [answered_awaited haw', sameButAttention_replies (hlink s.run.owner)]
  rfl

theorem engage_completes {s w : State} {n volume frontier : Nat} {x : Side} {d : DriveId}
    (h : Pinned s w n x d volume frontier) (hroom : 4096 ≤ w.freeSectors) :
    completesEngagement s (engage w) n x d volume frontier := by
  have hno := rolloverNeeded_false hroom
  have hsource : w.run.source = s.run.source := by rw [h.run]
  have hgiven : w.run.given = s.run.given := by rw [h.run]
  have hclass : w.run.feeClass = s.run.feeClass := by rw [h.run]
  have hown : w.run.owner = s.run.owner := by rw [h.run]
  have hreq : w.run.closeRequested = s.run.closeRequested := by rw [h.run]
  have htag : w.run.openTag = s.run.openTag := by rw [h.run]
  have hclose : w.run.closeTag = s.run.closeTag := by rw [h.run]
  have hsep : w.run.pendingSep = s.run.pendingSep := by rw [h.run]
  have hring : w.run.ring = s.run.ring := by rw [h.run]
  have hcur : w.run.current = s.run.current := by rw [h.run]
  have hd : w.run.engaged = some d := by rw [h.run]
  have hok {k : Nat} {u : State} (hu : createEntry s (some volume) k s.run.feeClass s.run.owner = .ok u) :
      createEntry w w.openVolume k w.run.feeClass w.run.owner = .ok { w with catalogue := u.catalogue } := by
    rw [h.openVolume, hclass, hown]
    exact createEntry_ok h.catalogue h.date hu
  unfold completesEngagement
  intro ring next leaves create
  refine ⟨fun hs => ⟨fun u hu => ?_, fun e he hf hcl => ?_⟩, fun hs hn => ?_, fun k u hs hk hu => ?_⟩
  · have hplain : ring = s.run.ring := if_neg fun hsep => absurd (hs.symm.trans hsep.1) (by decide)
    have heng : engage w = _ := engage_given_ok hno (hsource.trans hs) (by rw [hgiven]; exact hok hu)
    have hfacts := engagedNow_leaves (w := State.updRun { w with catalogue := u.catalogue } fun r =>
      { r with current := some (newInstrument r.given) }) h.openSide h.openVolume h.frontier hd
    have hleaves := engagedNow_completes (s := s) (v := State.updRun { w with catalogue := u.catalogue } fun r =>
      { r with current := some (newInstrument r.given) }) h.openSide h.openVolume h.frontier hd (hring.trans hplain.symm) hreq
      hown htag h.seconds h.link
    rw [← heng] at hfacts hleaves
    obtain ⟨hcat, -, -, hc, -⟩ := hfacts
    refine ⟨hcat, hc.trans ?_, hleaves⟩
    rw [← hgiven]
    rfl
  · have herr : createEntry w w.openVolume w.run.given w.run.feeClass w.run.owner = .error e := by
      rw [h.openVolume, hclass, hown, hgiven]
      exact createEntry_error h.catalogue h.date he
    have hf' : w.run.failure = none := by rw [h.run]; exact hf
    have hcl' : w.run.state ≠ .closed := by rw [h.run]; exact hcl
    rw [engage_given_error hno (hsource.trans hs) herr]
    obtain ⟨-, hc, he, -, -, -, hfail, -⟩ := runFailure_fails (reason := catStatus e) hcl' hf'
    obtain ⟨-, -, -, hdrives⟩ := runFailure_keeps (c := catStatus e) hcl' hf'
    refine ⟨he, hc, ?_, fun h1 h2 => hfail (htag.trans h1) (hclose.trans h2)⟩
    have hdrive : (runFailure (catStatus e) w).drive d = (abortCore w).drive d := by
      unfold State.drive
      rw [hdrives]
    rw [hdrive]
    exact abortCore_pin hd
  · have hplain : ring = s.run.ring := if_neg fun hsep => hsep.2 hn
    have heng := engage_plain hno (hsource.trans hs) (hsep.trans hn)
    have hfacts := engagedNow_leaves h.openSide h.openVolume h.frontier hd
    have hleaves := engagedNow_completes (s := s) h.openSide h.openVolume h.frontier hd (hring.trans hplain.symm) hreq hown htag
      h.seconds h.link
    rw [← heng] at hfacts hleaves
    obtain ⟨hcat, -, -, hc, -⟩ := hfacts
    exact ⟨hcat.trans h.catalogue, hc.trans hcur, hleaves⟩
  · have hdrop : ring = s.run.ring.drop 1 := if_pos ⟨hs, by rw [hk]; nofun⟩
    have heng := (engage_separated hno (hsource.trans hs) (hsep.trans hk)).trans
      (congrArg engagedNow (createSeparated_ok (hok hu)))
    have hring' : w.run.ring.drop 1 = ring := by rw [hring, hdrop]
    have hfacts := engagedNow_leaves (w := popRing (State.updRun { w with catalogue := u.catalogue } fun r =>
      { r with current := some (newInstrument k), pendingSep := none })) h.openSide h.openVolume h.frontier hd
    have hleaves := engagedNow_completes (s := s) (v := popRing (State.updRun { w with catalogue := u.catalogue } fun r =>
      { r with current := some (newInstrument k), pendingSep := none })) h.openSide h.openVolume h.frontier hd hring' hreq
      hown htag h.seconds h.link
    rw [← heng] at hfacts hleaves
    obtain ⟨hcat, -, -, hc, hp, -⟩ := hfacts
    exact ⟨hcat, hc, hp, hleaves⟩

/-! ### What engagement keeps of the Library Map -/

/-- A run that fails probes no more (R114). -/
theorem runFailure_probing {s : State} {c : Status} (hs : s.run.state ≠ .closed) (hf : s.run.failure = none) :
    (runFailure c s).run.probing = none := by
  have h : (failedRun c s).run.probing = none := by rw [failedRun_run]; rfl
  cases ho : s.run.openTag with
  | some g => rw [runFailure_open hs hf ho, replyOpen_eq]; exact h
  | none =>
    cases hc : s.run.closeTag with
    | some g => rw [runFailure_close hs hf ho hc, replyClose_eq]; exact h
    | none => rw [runFailure_unasked hs hf ho hc]; exact h

/-- The Library Map of `t` is `l` but for what hangs on orders. -/
def Shelved (l : Library) (t : State) : Prop := ∃ is es, t.library = { l with inspections := is, exports := es }

theorem Shelved.side? {l : Library} {s t : State} (h : Shelved l t) (hl : s.library = l) (n : Nat) (x : Side) :
    t.side? n x = s.side? n x := by
  obtain ⟨is, es, h⟩ := h
  exact side?_of_table (by rw [h, hl]) n x

/-- Without a volume label under way a run failure changes of the shelves at most the dead sectors of its instrument. -/
theorem runFailure_shelved {s : State} (hc : s.run.chosen = none) (c : Status) :
    Shelved s.library (runFailure c s) ∨ Shelved (dropInstrument s).library (runFailure c s) := by
  by_cases hidle : s.run.state = .closed ∨ s.run.failure ≠ none
  · rw [runFailure_idle hidle]
    exact .inl ⟨_, _, rfl⟩
  · rw [not_or, not_not] at hidle
    obtain ⟨-, hlib, -⟩ := runFailure_keeps (c := c) hidle.1 hidle.2
    have hchosen : (unfiled s).run.chosen = none := by rw [unfiled_run, flushed_run]; exact hc
    have hlabel : (dropLabel (unfiled s)).library = (unfiled s).library := by
      unfold dropLabel
      rw [hchosen]
      cases (unfiled s).run.label <;> rfl
    right
    rw [Shelved, hlib, abortCore_library, hlabel]
    exact ⟨_, _, unfiled_library s⟩

/-! ### Rollover (R100) -/

/-- The run of a rollover (R100). -/
theorem startRollover_leaves (p : Nat × Side) (s : State) :
    let t := startRollover p s
    t.run = { s.run with
        engaged := none, chosen := some p, state := .opening, stall := none, label := none, probing := none }
      ∧ t.planner.filingReq = some p ∧ t.library = (openFull s).library ∧ t.notices = (openFull s).notices := by
  intro t
  have ht : t = _ := startRollover_eq p s
  have hd := disengage_rest (openFull s)
  have hrun : (openFull s).run = s.run := by
    unfold openFull
    cases s.openSide with
    | none => rfl
    | some q => exact (noticeSet_noted ..).run
  rw [hrun] at hd
  generalize disengage (openFull s) = u at ht hd
  have htrun : t.run = { u.run with chosen := some p, state := .opening, stall := none, label := none, probing := none } := by
    rw [ht]; rfl
  refine ⟨?_, by rw [ht]; rfl, ?_, ?_⟩
  · rw [htrun, hd]
  · have hl : t.library = u.library := by rw [ht]; rfl
    rw [hl, hd]
  · have hn : t.notices = u.notices := by rw [ht]; rfl
    rw [hn, hd]

/-- A side that is made FULL. -/
theorem makeFull_leaves (n : Nat) (x : Side) (s : State) :
    (makeFull n x s).side? n x = (s.side? n x).map (fun r => { r with state := .full })
      ∧ ((makeFull n x s).source 13).pending = true ∧ (makeFull n x s).library.probeDue = false
      ∧ (makeFull n x s).run = s.run ∧ (makeFull n x s).drives = s.drives ∧ (makeFull n x s).catalogue = s.catalogue := by
  have h := noticeSet_noted nVolumeFull
    ((s.updCart n fun c => c.updSide x fun r => { r with state := .full }).updLibrary fun l => { l with probeDue := false })
  change Noted _ (makeFull n x s) at h
  refine ⟨?_, noticeSet_pending _ (by decide) (by decide), by rw [h.library]; rfl, h.run, h.drives, h.catalogue⟩
  rw [side?_of_library h.library]
  exact side?_updSide s n x fun r => { r with state := .full }

/-- A change of one side keeps the frontier of every side, and FULL sides FULL, where it does so there. -/
theorem side?_updSide_kept {f : SideRec → SideRec} (hf : ∀ r, (f r).frontier = r.frontier)
    (hs : ∀ r, r.state = .full → (f r).state = .full) (m : Nat) (z : Side) {s : State} {n : Nat} {x : Side} {y : SideRec}
    (h : s.side? n x = some y) :
    ∃ y', (s.updCart m fun c => c.updSide z f).side? n x = some y' ∧ y'.frontier = y.frontier
      ∧ (y.state = .full → y'.state = .full) := by
  obtain ⟨c, hc, rfl⟩ := Option.map_eq_some_iff.1 h
  have hside : (s.updCart m fun c => c.updSide z f).side? n x
      = some ((if c.number = m then c.updSide z f else c).sideRec x) := by
    rw [State.side?, cart?_updCart (fun c => updSide_number c z f), hc]
    rfl
  refine ⟨_, hside, ?_⟩
  split
  · cases z <;> cases x
    · exact ⟨hf _, hs _⟩
    · exact ⟨rfl, id⟩
    · exact ⟨rfl, id⟩
    · exact ⟨hf _, hs _⟩
  · exact ⟨rfl, id⟩

/-- The sides that the OPEN side's fate leaves FULL. -/
theorem openFull_kept {s : State} {n : Nat} {x : Side} {y : SideRec} (h : s.side? n x = some y) :
    ∃ y', (openFull s).side? n x = some y' ∧ y'.frontier = y.frontier ∧ (y.state = .full → y'.state = .full) := by
  unfold openFull
  cases s.openSide with
  | none => exact ⟨y, h, rfl, id⟩
  | some p =>
    obtain ⟨y', h', hk⟩ := side?_updSide_kept (f := fun r => { r with state := .full }) (fun _ => rfl) (fun _ _ => rfl)
      p.1 p.2 h
    exact ⟨y', (side?_of_library (noticeSet_noted ..).library n x).trans h', hk⟩

/-- A run failure leaves the mark of the probe. -/
theorem runFailure_probeDue (c : Status) (s : State) : (runFailure c s).library.probeDue = s.library.probeDue := by
  by_cases hidle : s.run.state = .closed ∨ s.run.failure ≠ none
  · rw [runFailure_idle hidle]
  · rw [not_or, not_not] at hidle
    obtain ⟨-, hlib, -⟩ := runFailure_keeps (c := c) hidle.1 hidle.2
    rw [hlib, abortCore_library, Halting.dropLabel_library, unfiled_library, Halting.dropInstrument_library]

/-- The end of OPENING, whatever the run: its state, its stall timer and the answer to OPEN_INSTRUMENT. -/
theorem engagedNow_rest (s : State) : engagedNow s = { s with
    links := (engagedNow s).links
    run := { s.run with
      state := (engagedNow s).run.state, stall := (engagedNow s).run.stall, stallSent := (engagedNow s).run.stallSent
      openTag := (engagedNow s).run.openTag } } := by
  have hl : s.updRun (left s.seconds) = { s with run := { s.run with
      state := nextState s.run, stall := (left s.seconds s.run).stall, stallSent := (left s.seconds s.run).stallSent } } := by
    rw [← left_rest]
    rfl
  rw [engagedNow, leaveOpening_eq, hl]
  unfold replyEngaged
  split
  · rw [replyOpen_eq]; rfl
  · rfl

/-- The run that is about to leave OPENING, its instrument created: what it keeps of the run that engages. -/
def sameButInstrument (r q : Run) : Prop := q = { r with
  current := q.current, pendingSep := q.pendingSep, discard := q.discard, counts := q.counts, head := q.head, ring := q.ring }

/-- An engagement that needs no rollover is a run failure, or the end of OPENING from a state that has the map and the probe
as they were. -/
theorem engage_cases_room {s : State} (hno : rolloverNeeded s = false) : (∃ c, engage s = runFailure c s)
    ∨ ∃ u, engage s = engagedNow u ∧ u = { s with catalogue := u.catalogue, run := u.run }
      ∧ sameButInstrument s.run u.run := by
  cases hs : s.run.source with
  | given =>
    cases hcr : createEntry s s.openVolume s.run.given s.run.feeClass s.run.owner with
    | error e => exact .inl ⟨_, engage_given_error hno hs hcr⟩
    | ok u => exact .inr ⟨_, engage_given_ok hno hs hcr, by rw [createEntry_rest hcr]; exact ⟨rfl, rfl⟩⟩
  | separator =>
    cases hk : s.run.pendingSep with
    | none => exact .inr ⟨_, engage_plain hno hs hk, rfl, rfl⟩
    | some k =>
      refine .inr ⟨_, engage_separated hno hs hk, ?_⟩
      cases hcr : createEntry s s.openVolume k s.run.feeClass s.run.owner with
      | error e => rw [createSeparated_error hcr]; exact ⟨rfl, rfl⟩
      | ok u => rw [createSeparated_ok hcr, createEntry_rest hcr]; exact ⟨rfl, rfl⟩

/-- An engagement is a rollover, or as `engage_cases_room` says. -/
theorem engage_cases (s : State) : (∃ c, engage s = runFailure c s) ∨ (∃ p, engage s = startRollover p s)
    ∨ ∃ u, engage s = engagedNow u ∧ u = { s with catalogue := u.catalogue, run := u.run }
      ∧ sameButInstrument s.run u.run := by
  by_cases hroom : rolloverNeeded s = true
  · rw [engage_rollover hroom]
    cases hb : blankChoice s (s.openSide.map (·.1)) with
    | none =>
      left
      unfold beginRollover
      rw [hb]
      exact ⟨_, rfl⟩
    | some p => exact .inr (.inl ⟨p, beginRollover_some hb⟩)
  · exact (engage_cases_room (Bool.eq_false_iff.2 hroom)).imp id .inr

/-- A run without a probe engages without one. -/
theorem engage_probing {s : State} (hp : s.run.probing = none) : (engage s).run.probing = none := by
  obtain ⟨c, h⟩ | ⟨p, h⟩ | ⟨u, h, -, hu⟩ := engage_cases s
  · rw [h]
    by_cases hidle : s.run.state = .closed ∨ s.run.failure ≠ none
    · rw [runFailure_idle hidle, hp]
    · rw [not_or, not_not] at hidle
      exact runFailure_probing hidle.1 hidle.2
  · rw [h, (startRollover_leaves p s).1]
  · rw [h, engagedNow_rest]
    unfold sameButInstrument at hu
    rw [hu]
    exact hp

/-- No probe becomes due as a run engages. -/
theorem engage_probeDue {s : State} (hdue : s.library.probeDue = false) : (engage s).library.probeDue = false := by
  obtain ⟨c, h⟩ | ⟨p, h⟩ | ⟨u, h, hu, -⟩ := engage_cases s
  · rw [h, runFailure_probeDue, hdue]
  · rw [h, (startRollover_leaves p s).2.2.1]
    unfold openFull
    cases s.openSide with
    | none => exact hdue
    | some q => exact (makeFull_leaves q.1 q.2 s).2.2.1
  · rw [h, engagedNow_rest, hu]
    exact hdue

/-- Without a volume label under way an engagement that needs no rollover changes of the shelves at most the dead sectors of
an instrument that ends with it. -/
theorem engage_shelved {s : State} (hroom : rolloverNeeded s = false) (hc : s.run.chosen = none) :
    Shelved s.library (engage s) ∨ Shelved (dropInstrument s).library (engage s) := by
  obtain ⟨c, h⟩ | ⟨u, h, hu, -⟩ := engage_cases_room hroom
  · rw [h]
    exact runFailure_shelved hc c
  · left
    rw [Shelved, h, engagedNow_rest, hu]
    exact ⟨_, _, rfl⟩

/-- A FULL side stays FULL, with its frontier, while a run without an instrument or a label engages. -/
theorem engage_side {s : State} (hcur : s.run.current = none) (hc : s.run.chosen = none) {n : Nat} {x : Side} {y : SideRec}
    (h : s.side? n x = some y) :
    ∃ y', (engage s).side? n x = some y' ∧ y'.frontier = y.frontier ∧ (y.state = .full → y'.state = .full) := by
  obtain ⟨c, he⟩ | ⟨p, he⟩ | ⟨u, he, hu, -⟩ := engage_cases s
  · have ht := runFailure_shelved hc c
    rw [dropInstrument_none hcur, or_self] at ht
    rw [he]
    exact ⟨y, (ht.side? rfl n x).trans h, rfl, id⟩
  · rw [he, side?_of_library (startRollover_leaves p s).2.2.1]
    exact openFull_kept h
  · have hlib : (engage s).library = s.library := by rw [he, engagedNow_rest, hu]
    rw [side?_of_library hlib]
    exact ⟨y, h, rfl, id⟩

end Sys2Proof.Laws.Engaging

/-!
PROOF. The completions of filing units: passes, their verification, and the frontier probe (R102, R107 to R110). The
obligation O47.
-/

namespace Sys2Proof.Laws.FilingUnits

open Sys2Proof Sys2Proof.Machine Sys2Proof.Laws.Noting Sys2Proof.Laws.RunFrames Sys2Proof.Laws.RunEnds
open Sys2Proof.Laws.DriveResetting Sys2Proof.Laws.Arbiter Sys2Proof.Laws.Selecting Sys2Proof.Laws.Settling
open Sys2Proof.Laws.FilingEnds Sys2Proof.Laws.DriveFaulting Sys2Proof.Laws.FetchReading Sys2Proof.Laws.InstrumentEnding
open Sys2Proof.Laws.Engaging Sys2Proof.Laws.FileRequests

/-! ### The commands that complete (R64) -/

section
variable {s : State} {d : DriveId}

theorem exec_unflown (h : (s.drive d).command = none) :
    (∀ w, exec (.writeCompletion d w) s = finished s) ∧ (∀ v, exec (.verifyCompletion d v) s = finished s)
      ∧ ∀ b, exec (.blankCheckCompletion d b) s = finished s := by
  have hno (p : DriveCmd → Bool) : ¬ flying s d p = true := by
    unfold flying
    rw [h]
    exact Bool.false_ne_true
  exact ⟨fun _ => congrArg finished (if_neg (hno _)), fun _ => congrArg finished (if_neg (hno _)),
    fun _ => congrArg finished (if_neg (hno _))⟩

variable {f : InFlight} (hf : (s.drive d).command = some f)
include hf

theorem exec_write {k : Nat} {b : List Byte} (hc : f.cmd = .write k b) (w : WriteResult) :
    exec (.writeCompletion d w) s = followed (writeAnswer d (some w) (clearCommand d s)) := by
  refine congrArg finished (if_pos ?_)
  unfold flying
  rw [hf, Option.any_some, hc]

theorem exec_verify {k : Nat} {b : List Byte} {v : List SectorVerify} (hc : f.cmd = .verify k v.length b) :
    exec (.verifyCompletion d v) s = followed (verifyAnswer d (v.all (· == .pass)) false (clearCommand d s)) := by
  refine congrArg finished (if_pos ?_)
  unfold flying
  rw [hf, Option.any_some, hc]
  exact beq_self_eq_true _

theorem exec_blankCheck {k : Nat} (hc : f.cmd = .blankCheck k) (b : BlankResult) :
    exec (.blankCheckCompletion d b) s = followed (blankAnswer d b (clearCommand d s)) := by
  refine congrArg finished (if_pos ?_)
  unfold flying
  rw [hf, Option.any_some, hc]

end

/-! ### The end of a filing unit (R68) -/

/-- The drive is READY with no unit and no command (R68). -/
def atRest (s : State) (d : DriveId) : Prop :=
  (s.drive d).state = .ready ∧ (s.drive d).unit = none ∧ (s.drive d).command = none

/-- A unit of the drive has ended in `u`, and since then only what settles has changed. -/
theorem atRest_of_settles {s t : State} {d : DriveId} (h : atRest s d) (k : Settles s t) : atRest t d := by
  obtain ⟨hs, hu, hc⟩ := h
  have hd := k.drive d
  refine ⟨?_, driveSettles_unit hd hu, ?_⟩
  · rw [hd.rest]; exact hs
  · rw [hd.rest]; exact hc

theorem unitEnd_atRest {s : State} {d : DriveId} {u : DriveUnit} (hu : (s.drive d).unit = some u)
    (hw : u.work.isFetch = false) (hx : unasked (s.drive d)) (hc : (s.drive d).command = none) : atRest (unitEnd d s) d := by
  have hd : (unitEnd d s).drive d = unitless u s.seconds (s.drive d) := by
    rw [unitEnd_idle hu hw hx, State.drive_updDrive_self]
  unfold atRest
  rw [hd]
  exact ⟨rfl, rfl, hc⟩

/-- A failed attempt as the statement gives it (R109). -/
def Failed (s t : State) (d : DriveId) (i : Instrument) (n : Nat) (x : Side) (r : SideRec) (kind : PassKind)
    (frontier dead : Nat) : Prop :=
  (t.drive d).state = .ready ∧ (t.drive d).unit = none
    ∧ (i.attempts + 1 < 3 → (∀ e, s.entry? i.number = some e → e.extents.length < 4) → t.catalogue = s.catalogue
      ∧ t.side? n x = some { r with frontier := frontier, dead := r.dead + dead }
      ∧ t.run.current = some { i with
          attempts := i.attempts + 1, rewrites := i.rewrites + 1, attemptSectors := 0, verifyDue := false
          dead := i.dead + dead })
    ∧ (3 ≤ i.attempts + 1 → instrumentEnds s t i .verifyFailed kind.endAt n x r frontier dead)
    ∧ (i.attempts + 1 < 3 → (∃ e, s.entry? i.number = some e ∧ 4 ≤ e.extents.length) →
      instrumentEnds s t i .extentLimit kind.endAt n x r frontier dead)

theorem attemptFailed_failed {s u : State} {d : DriveId} {i : Instrument} {n k : Nat} {x : Side} {r : SideRec} {frontier : Nat}
    (h : Ending s u i { i with attemptSectors := k } n x r frontier 0) (hd : atRest u d) (kind : PassKind) :
    Failed s (attemptFailed kind n x u) d i n x r kind frontier k := by
  have hcur : u.run.current = some { i with attemptSectors := k } := by rw [h.run]
  have hch := h.charged
  rw [Nat.zero_add] at hch
  have hextents : (charged n x { i with attemptSectors := k } u).entry? i.number = s.entry? i.number := hch.entry?
  obtain ⟨hs, hu, -⟩ := atRest_of_settles hd (attemptFailed_settles kind n x u)
  have heq := attemptFailed_some hcur kind n x
  dsimp only at heq
  rw [hextents] at heq
  refine ⟨hs, hu, fun ha he => ?_, fun ha => ?_, fun ha he => ?_⟩
  · have hfew : ¬ 4 ≤ ((s.entry? i.number).map (·.extents.length)).getD 0 := by
      cases hentry : s.entry? i.number with
      | none => exact Nat.not_le.2 (by decide)
      | some e => exact Nat.not_le.2 (he e hentry)
    rw [if_neg (Nat.not_le.2 ha), if_neg hfew] at heq
    rw [heq]
    exact ⟨hch.catalogue, hch.side, by rw [hch.run]; rfl⟩
  · rw [if_pos ha] at heq
    rw [heq]
    exact endInstrument_ends hch .verifyFailed kind.endAt
  · obtain ⟨e, hentry, hmany⟩ := he
    rw [if_neg (Nat.not_le.2 ha), hentry, Option.map_some, Option.getD_some, if_pos hmany] at heq
    rw [heq]
    exact endInstrument_ends hch .extentLimit kind.endAt

/-! ### The passes (R107, R108) -/

theorem issue_continue {u : State} {d : DriveId} {w v : UnitWork} {cmd : DriveCmd} (owner : Owner)
    (hu : (u.drive d).unit = some ⟨v, false⟩) (ha : (u.drive d).state = .active) (hc : cmd.issuedIn .active = true) :
    issue d cmd owner (continueUnit d w u) = u.updDrive d (furthered w cmd owner u.seconds) := by
  unfold issue continueUnit
  rw [State.drive_updDrive_self, if_pos (by dsimp only; rw [ha]; exact hc), updDrive_updDrive]
  refine updDrive_congr ?_
  unfold furthered
  rw [hu]
  rfl

section
variable {u : State} {d : DriveId} {kind : PassKind} {n : Nat} {x : Side} {r : SideRec} {b : List Byte}
  {rest : List (List Byte)}

theorem issueWrite_next {v : UnitWork} (hu : (u.drive d).unit = some ⟨v, false⟩) (ha : (u.drive d).state = .active)
    (hr : u.side? n x = some r) (ho : r.state = .opened) (hlow : 32 ≤ r.frontier) (hhigh : r.frontier < 300000) :
    issueWrite d kind n x (b :: rest) u
      = u.updDrive d (furthered (.writePass kind n x rest) (.write r.frontier b) .filingWriter u.seconds) := by
  unfold issueWrite
  dsimp only
  rw [hr, Option.map_some, Option.getD_some, writeCheck_passes ha hr ho hlow hhigh]
  exact issue_continue .filingWriter hu ha rfl

theorem issueWrite_refused (ha : (u.drive d).state = .active) (hr : u.side? n x = some r) (hhigh : r.frontier = 300000) :
    issueWrite d kind n x (b :: rest) u = endInstrument .writeRefused kind.endAt (unitEnd d u) := by
  have hcheck : writeCheck u d n x r.frontier = some .badSector := by
    unfold writeCheck
    rw [if_neg (by simp [ha]), if_neg (by omega), if_pos (by simp only [Config.firstData, Config.sectorsPerSide]; omega)]
  unfold issueWrite
  dsimp only
  rw [hr, Option.map_some, Option.getD_some, hcheck]

end

section
variable {s : State} {d : DriveId}

theorem writeAnswer_pass {kind : PassKind} {n : Nat} {x : Side} {left : List (List Byte)} {e : Bool}
    (hu : (s.drive d).unit = some ⟨.writePass kind n x left, e⟩) (w : Option WriteResult) :
    writeAnswer d w s = writePassAnswer d kind n x left e w s := by
  unfold writeAnswer
  rw [hu]

theorem verifyAnswer_pass {kind : PassKind} {e : Bool} (hu : (s.drive d).unit = some ⟨.verifyPass kind, e⟩) (pass : Bool) :
    verifyAnswer d pass false s = verifyPassAnswer d kind e pass s := by
  unfold verifyAnswer
  rw [hu]

theorem verifyPass_some {kind : PassKind} {i : Instrument} (hi : (unitEnd d s).run.current = some i) (pass : Bool) :
    verifyPassAnswer d kind false pass s
      = if pass then
          if kind = .trailer then trailerVerified i (unitEnd d s)
          else ((unitEnd d s).run.headPage).elim (unitEnd d s) fun p => pageVerified i p (unitEnd d s)
        else (unitEnd d s).openSide.elim (unitEnd d s) fun q => attemptFailed kind q.1 q.2 (unitEnd d s) := by
  unfold verifyPassAnswer
  dsimp only
  rw [if_neg (by decide), hi]
  dsimp only
  split
  · cases kind
    · cases (unitEnd d s).run.headPage <;> rfl
    · rfl
  · cases (unitEnd d s).openSide <;> rfl

end

/-! ### What is verified joins the entry, or commits it (R13, R14) -/

section
variable {s w : State} (hc : w.catalogue = s.catalogue) {number start k : Nat}
include hc

theorem extendEntry_congr : extendEntry w number start k
    = (extendEntry s number start k).map fun u => { w with catalogue := u.catalogue } := by
  have hentry : w.entry? number = s.entry? number := by rw [State.entry?, hc]; rfl
  unfold extendEntry
  rw [hentry]
  cases s.entry? number with
  | none => rfl
  | some e =>
    dsimp only
    split_ifs
    · rfl
    · rfl
    · rfl
    · rw [State.updEntry, hc]; rfl

theorem commitEntry_congr : commitEntry w number start
    = (commitEntry s number start).map fun u => { w with catalogue := u.catalogue } := by
  have hentry : w.entry? number = s.entry? number := by rw [State.entry?, hc]; rfl
  unfold commitEntry
  rw [hentry]
  cases s.entry? number with
  | none => rfl
  | some e =>
    dsimp only
    split_ifs
    · rfl
    · rfl
    · rfl
    · rw [State.updEntry, hc]; rfl

end

/-- The instrument once a page of it has joined its entry, of `k` extents now (R108). -/
def joined (k : Nat) (p : RingSlot) (i : Instrument) : Instrument :=
  { i with
    pages := i.pages + 1, content := i.content + p.sectors, pageSectors := i.pageSectors ++ [p.sectors]
    extentCount := k, attempts := 0, attemptSectors := 0, verifyDue := false }

/-- The notice of a page written, where it was asked for (R108). -/
def pageNoted (p : RingSlot) (s : State) : State := if p.notify then noticeSet 14 s else s

theorem pageNoted_noted (p : RingSlot) (s : State) : Noted s (pageNoted p s) := by
  unfold pageNoted
  split
  · exact noticeSet_noted 14 s
  · exact .refl s

theorem pageVerified_ok {w u : State} {i : Instrument} {p : RingSlot} (hi : w.run.current = some i)
    (h : extendEntry w i.number i.start p.sectors = .ok u) :
    let t := pageVerified i p w
    t.catalogue = u.catalogue ∧ t.run.ring = w.run.ring.drop 1 ∧ t.run.lastTag = some p.tag
      ∧ (∃ j, t.run.current = some j ∧ j.pages = i.pages + 1 ∧ j.content = i.content + p.sectors
        ∧ j.pageSectors = i.pageSectors ++ [p.sectors] ∧ j.verifyDue = false ∧ j.attempts = 0 ∧ j.attemptSectors = 0)
      ∧ (p.notify = true → (t.source 14).pending = true) := by
  obtain ⟨-, -, -, -, -, -, hu⟩ := extendEntry_ok h
  have hcur : u.run.current = some i := by rw [hu]; exact hi
  have hring : u.run.ring = w.run.ring := by rw [hu]; rfl
  clear hu
  generalize hk : ((u.entry? i.number).map (·.extents.length)).getD 0 = k
  have ht : pageVerified i p w
      = popRing ((pageNoted p (updInstrument (joined k p) u)).updRun fun r => { r with lastTag := some p.tag }) := by
    unfold pageVerified
    rw [h, ← hk]
    rfl
  have hn := pageNoted_noted p (updInstrument (joined k p) u)
  have hp : p.notify = true → ((pageNoted p (updInstrument (joined k p) u)).source 14).pending = true := fun hp => by
    unfold pageNoted
    rw [if_pos hp]
    exact noticeSet_pending _ (by decide) (by decide)
  rw [ht]
  clear ht hk
  generalize pageNoted p (updInstrument (joined k p) u) = z at hn hp
  have hzrun : z.run = { u.run with current := some (joined k p i) } := by
    rw [hn.run]
    unfold updInstrument State.updRun
    dsimp only
    rw [hcur]
    rfl
  refine ⟨hn.catalogue, ?_, rfl, ⟨joined k p i, ?_, rfl, rfl, rfl, rfl, rfl, rfl⟩, hp⟩
  · show z.run.ring.drop 1 = _
    rw [hzrun, ← hring]
  · show z.run.current = _
    rw [hzrun]

theorem countInstrument_side {u : State} {number : Nat} {e : CatEntry} {v : VolumeEntry} {c : Cartridge}
    (he : u.entry? number = some e) (hv : u.volume? e.volume = some v) (hc : u.cart? v.cart = some c) :
    (countInstrument number u).side? v.cart v.side
      = some { c.sideRec v.side with instruments := (c.sideRec v.side).instruments + 1 } := by
  unfold countInstrument
  rw [he, Option.bind_some, hv]
  dsimp only
  rw [side?_updSide, State.side?, hc]
  rfl

theorem countInstrument_rest (number : Nat) (u : State) :
    countInstrument number u = { u with library := (countInstrument number u).library } := by
  unfold countInstrument
  split <;> rfl

theorem trailerVerified_ok {w u : State} {i : Instrument} {e : CatEntry} {v : VolumeEntry} {c : Cartridge}
    (h : commitEntry w i.number i.start = .ok u) (he : w.entry? i.number = some e) (hv : w.volume? e.volume = some v)
    (hc : w.cart? v.cart = some c) :
    let t := trailerVerified i w
    t.catalogue = u.catalogue ∧ t.run.current = none
      ∧ t.run.counts = { w.run.counts with committed := min (w.run.counts.committed + 1) 65535 }
      ∧ t.side? v.cart v.side = some { c.sideRec v.side with instruments := (c.sideRec v.side).instruments + 1 }
      ∧ (t.source 15).pending = true := by
  obtain ⟨e', he', -, -, -, hu⟩ := commitEntry_ok h
  obtain rfl : e = e' := Option.some.inj (he.symm.trans he')
  have hentry : u.entry? i.number = some { e with
      extents := addExtent e.extents i.start 1, trailer := some e.content, state := .committed } := by
    rw [hu]
    exact (Admissions.entry?_updEntry (f := fun e =>
      { e with extents := addExtent e.extents i.start 1, trailer := some e.content, state := .committed }) he (fun _ => rfl)
      i.number).trans (if_pos rfl)
  have hside := countInstrument_side (u := u) (v := v) (c := c) hentry (by rw [hu]; exact hv) (by rw [hu]; exact hc)
  have hrest := countInstrument_rest i.number u
  have hrun : u.run = w.run := by rw [hu]; rfl
  have ht : trailerVerified i w = (updCounts (fun c => { c with committed := countUp c.committed 1 })
      (noticeSet 15 (countInstrument i.number u))).updRun fun r => { r with current := none } := by
    unfold trailerVerified
    rw [h]
    rfl
  have hn := noticeSet_noted 15 (countInstrument i.number u)
  have hp := noticeSet_pending (countInstrument i.number u) (i := 15) (by decide) (by decide)
  intro t
  have ht' : t = _ := ht
  clear_value t
  clear ht hu h
  generalize countInstrument i.number u = y at hside hrest hn hp ht'
  generalize noticeSet 15 y = z at hn hp ht'
  subst ht'
  have hyrun : y.run = w.run := by rw [hrest, ← hrun]
  have hzrun : z.run = w.run := hn.run.trans hyrun
  refine ⟨?_, rfl, ?_, ?_, hp⟩
  · refine (show _ = z.catalogue from rfl).trans (hn.catalogue.trans ?_)
    rw [hrest]
  · rw [← hzrun]
    rfl
  · show z.side? v.cart v.side = _
    rw [side?_of_library hn.library]
    exact hside

/-! ### The completions of passes (R107 to R110) -/

section
variable {s : State} {d : DriveId} {n : Nat} {x : Side} {r : SideRec} {f : InFlight} {i : Instrument}
  (hr : s.side? n x = some r) (hlt : r.frontier < 300000) (hx : unasked (s.drive d)) (hi : s.run.current = some i)

/-- Neither the clearing of a command nor a passed sector touches the drives' units. -/
theorem clearCommand_command (s : State) (d : DriveId) : ((clearCommand d s).drive d).command = none := by
  rw [drive_cleared]

/-- The instrument with one more sector of its attempt behind the frontier (R107). -/
def passed (i : Instrument) : Instrument := { i with attemptSectors := i.attemptSectors + 1 }

include hr hlt hi in
theorem passed_ending : Ending s (sectorPassed n x (clearCommand d s)) i (passed i) n x r (r.frontier + 1) 0 :=
  ((Ending.start hi hr).updDrive d _).sectorPassed hlt

include hr hlt hx hi

/-- A WRITE that is ALREADY_WRITTEN fails the attempt (R107, R109). -/
theorem writePass_failed {kind : PassKind} {left : List (List Byte)}
    (hu : (s.drive d).unit = some ⟨.writePass kind n x left, false⟩) :
    Failed s (writePassAnswer d kind n x left false (some .alreadyWritten) (clearCommand d s)) d i n x r kind (r.frontier + 1)
      (i.attemptSectors + 1) := by
  have hu' := unit_cleared hu
  have hx' := unasked_cleared hx
  have hend := (passed_ending (d := d) hr hlt hi).unitEnd (d := d) hu' rfl hx'
  exact attemptFailed_failed hend (unitEnd_atRest (s := sectorPassed n x (clearCommand d s)) hu' rfl hx'
    (clearCommand_command s d)) kind

/-- The last WRITE of a pass done: its verify is due (R107, R108). -/
theorem writePass_last {kind : PassKind} (hu : (s.drive d).unit = some ⟨.writePass kind n x [], false⟩) :
    let t := writePassAnswer d kind n x [] false (some .done) (clearCommand d s)
    t.side? n x = some { r with frontier := r.frontier + 1 } ∧ atRest t d
      ∧ t.run.current = some { i with attemptSectors := i.attemptSectors + 1, verifyDue := true } := by
  have hu' := unit_cleared hu
  have hx' := unasked_cleared hx
  have hend := (passed_ending (d := d) hr hlt hi).updInstrument (f := fun i => { i with verifyDue := true }) rfl
  have hend' := hend.unitEnd (d := d) hu' rfl hx'
  exact ⟨hend'.side, unitEnd_atRest (s := updInstrument (fun i => { i with verifyDue := true })
    (sectorPassed n x (clearCommand d s))) hu' rfl hx' (clearCommand_command s d), (congrArg Run.current hend'.run :)⟩

omit hx in
/-- A WRITE done that is not the last of its pass: the next sector is written (R107). -/
theorem writePass_next {kind : PassKind} {b : List Byte} {rest : List (List Byte)}
    (hu : (s.drive d).unit = some ⟨.writePass kind n x (b :: rest), false⟩) (ha : (s.drive d).state = .active)
    (ho : r.state = .opened) (hlow : 32 ≤ r.frontier) (hroom : r.frontier + 1 < 300000) :
    let t := writePassAnswer d kind n x (b :: rest) false (some .done) (clearCommand d s)
    t.side? n x = some { r with frontier := r.frontier + 1 }
      ∧ t.run.current = some { i with attemptSectors := i.attemptSectors + 1 }
      ∧ (t.drive d).command = some ⟨.write (r.frontier + 1) b, .filingWriter, s.seconds⟩
      ∧ (t.drive d).unit = some ⟨.writePass kind n x rest, false⟩ := by
  have hu' := unit_cleared hu
  have hend := passed_ending (d := d) hr hlt hi
  have ha' : ((sectorPassed n x (clearCommand d s)).drive d).state = .active := by
    change ((clearCommand d s).drive d).state = _
    rw [drive_cleared]
    exact ha
  have ht : writePassAnswer d kind n x (b :: rest) false (some .done) (clearCommand d s)
      = (sectorPassed n x (clearCommand d s)).updDrive d
        (furthered (.writePass kind n x rest) (.write (r.frontier + 1) b) .filingWriter s.seconds) :=
    issueWrite_next (u := sectorPassed n x (clearCommand d s)) hu' ha' hend.side ho
      (show 32 ≤ r.frontier + 1 by omega) hroom
  intro t
  have ht' : t = _ := ht
  clear_value t
  subst ht'
  refine ⟨hend.side, by rw [State.updDrive_run, hend.run]; rfl, ?_, ?_⟩
  · rw [State.drive_updDrive_self]; rfl
  · rw [State.drive_updDrive_self]; rfl

/-- A WRITE done at the side's end with more of its pass to come: the rest is refused (R107, R112). -/
theorem writePass_refused {kind : PassKind} {b : List Byte} {rest : List (List Byte)}
    (hu : (s.drive d).unit = some ⟨.writePass kind n x (b :: rest), false⟩) (ha : (s.drive d).state = .active)
    (hend : r.frontier + 1 = 300000) :
    let t := writePassAnswer d kind n x (b :: rest) false (some .done) (clearCommand d s)
    (t.drive d).unit = none
      ∧ instrumentEnds s t i .writeRefused kind.endAt n x r 300000 (i.attemptSectors + 1) := by
  have hu' := unit_cleared hu
  have hx' := unasked_cleared hx
  have hpass := passed_ending (d := d) hr hlt hi
  have ha' : ((sectorPassed n x (clearCommand d s)).drive d).state = .active := by
    change ((clearCommand d s).drive d).state = _
    rw [drive_cleared]
    exact ha
  have ht : writePassAnswer d kind n x (b :: rest) false (some .done) (clearCommand d s)
      = endInstrument .writeRefused kind.endAt (unitEnd d (sectorPassed n x (clearCommand d s))) :=
    issueWrite_refused (u := sectorPassed n x (clearCommand d s)) ha' hpass.side hend
  intro t
  have ht' : t = _ := ht
  have hrest := unitEnd_atRest (s := sectorPassed n x (clearCommand d s)) hu' rfl hx' (clearCommand_command s d)
  have hends := endInstrument_ends (hpass.unitEnd (d := d) hu' rfl hx') .writeRefused kind.endAt
  rw [hend, Nat.zero_add] at hends
  clear_value t
  subst ht'
  exact ⟨(atRest_of_settles hrest (endInstrument_settles ..)).2.1, hends⟩

omit hlt

/-- The end of a verify's unit, in which the instrument may end or its attempt fail. -/
theorem verified_ending {kind : PassKind} (hu : (s.drive d).unit = some ⟨.verifyPass kind, false⟩) :
    Ending s (unitEnd d (clearCommand d s)) i i n x r r.frontier 0 :=
  ((Ending.start hi hr).updDrive d _).unitEnd (unit_cleared hu) rfl (unasked_cleared hx)

end

section
variable {s : State} {d : DriveId} {kind : PassKind} {i : Instrument}
  (hu : (s.drive d).unit = some ⟨.verifyPass kind, false⟩) (hx : unasked (s.drive d)) (hi : s.run.current = some i)
include hu hx

/-- The state in which a verify's answer is taken: its unit ended, nothing else changed. -/
theorem verifyPass_ended : unitEnd d (clearCommand d s)
    = (clearCommand d s).updDrive d (unitless ⟨.verifyPass kind, false⟩ s.seconds) :=
  unitEnd_idle (unit_cleared hu) rfl (unasked_cleared hx)

include hi

theorem verifyPass_fails {n : Nat} {x : Side} (ho : s.openSide = some (n, x)) :
    verifyPassAnswer d kind false false (clearCommand d s) = attemptFailed kind n x (unitEnd d (clearCommand d s)) := by
  have hend := verifyPass_ended hu hx
  have hcur : (unitEnd d (clearCommand d s)).run.current = some i := by rw [hend]; exact hi
  have hopen : (unitEnd d (clearCommand d s)).openSide = some (n, x) := by rw [hend]; exact ho
  rw [verifyPass_some hcur, hopen]
  rfl

theorem verifyPass_page {p : RingSlot} (hk : kind = .page) (hp : s.run.headPage = some p) :
    verifyPassAnswer d kind false true (clearCommand d s) = pageVerified i p (unitEnd d (clearCommand d s)) := by
  have hend := verifyPass_ended hu hx
  have hcur : (unitEnd d (clearCommand d s)).run.current = some i := by rw [hend]; exact hi
  have hhead : (unitEnd d (clearCommand d s)).run.headPage = some p := by rw [hend]; exact hp
  rw [verifyPass_some hcur, hhead, hk]
  rfl

theorem verifyPass_trailer (hk : kind = .trailer) :
    verifyPassAnswer d kind false true (clearCommand d s) = trailerVerified i (unitEnd d (clearCommand d s)) := by
  have hend := verifyPass_ended hu hx
  have hcur : (unitEnd d (clearCommand d s)).run.current = some i := by rw [hend]; exact hi
  rw [verifyPass_some hcur, hk]
  rfl

end

/-! ### The frontier probe (R102) -/

section
variable {s : State} {d : DriveId} {n : Nat} {x : Side} {r : SideRec}
  (hu : (s.drive d).unit = some ⟨.probe n x, false⟩) (hx : unasked (s.drive d)) (ho : s.openSide = some (n, x))
  (hr : s.side? n x = some r)

theorem blankAnswer_probe {e : Bool} (hu : (s.drive d).unit = some ⟨.probe n x, e⟩) (b : BlankResult) :
    blankAnswer d b s = probeAnswer d n x e b s := by
  unfold blankAnswer
  rw [hu]

/-- A WRITTEN sector is passed, as dead (R102). -/
def passedDead (d : DriveId) (n : Nat) (x : Side) (s : State) : State :=
  advanceFrontier n x (countDead n x 1 (unitEnd d (clearCommand d s)))

include hu hx in
theorem probe_ended : unitEnd d (clearCommand d s) = (clearCommand d s).updDrive d (unitless ⟨.probe n x, false⟩ s.seconds) :=
  unitEnd_idle (unit_cleared hu) rfl (unasked_cleared hx)

include hu hx hr in
theorem passedDead_side (hlt : r.frontier < 300000) :
    (passedDead d n x s).side? n x = some { r with frontier := r.frontier + 1, dead := r.dead + 1 } := by
  have hr' : (unitEnd d (clearCommand d s)).side? n x = some r := by rw [probe_ended hu hx]; exact hr
  rw [passedDead, advanceFrontier, side?_updSide, countDead, side?_updSide, hr', Option.map_some, Option.map_some,
    if_neg (by simp only [Config.sectorsPerSide]; omega)]

include hu hx ho hr

theorem passedDead_frontier (hlt : r.frontier < 300000) : (passedDead d n x s).frontier = r.frontier + 1 := by
  have hopen : (passedDead d n x s).openSide = some (n, x) := by
    rw [passedDead, openSide_advanceFrontier, openSide_countDead, probe_ended hu hx]
    exact ho
  exact frontier_of_openSide hopen (passedDead_side hu hx hr hlt)

/-- The probe that finds a WRITTEN sector and goes on (R102). -/
theorem probe_on (hlt : r.frontier + 1 < 300000) {found : Nat} (hp : s.run.probing = some found) (hf : found + 1 < 128) :
    probeAnswer d n x false .written (clearCommand d s)
      = (passedDead d n x s).updRun fun q => { q with probing := some (found + 1) } := by
  have hfrontier := passedDead_frontier hu hx ho hr (by omega)
  have hprobing : (unitEnd d (clearCommand d s)).run.probing = some found := by rw [probe_ended hu hx]; exact hp
  unfold probeAnswer
  dsimp only
  rw [if_neg (by decide), hprobing, Option.getD_some]
  refine if_neg ?_
  rw [show (advanceFrontier n x (countDead n x 1 (unitEnd d (clearCommand d s)))).frontier = r.frontier + 1 from hfrontier]
  simp only [Config.probeMax, Config.sectorsPerSide]
  omega

/-- The probe that finds its last WRITTEN sector: the side is FULL (R102). -/
theorem probe_out (hlt : r.frontier < 300000) {found : Nat} (hp : s.run.probing = some found)
    (hf : 128 ≤ found + 1 ∨ r.frontier + 1 = 300000) :
    probeAnswer d n x false .written (clearCommand d s)
      = engage (makeFull n x ((passedDead d n x s).updRun fun q => { q with probing := none })) := by
  have hfrontier := passedDead_frontier hu hx ho hr hlt
  have hprobing : (unitEnd d (clearCommand d s)).run.probing = some found := by rw [probe_ended hu hx]; exact hp
  unfold probeAnswer
  dsimp only
  rw [if_neg (by decide), hprobing, Option.getD_some]
  refine if_pos ?_
  rw [show (advanceFrontier n x (countDead n x 1 (unitEnd d (clearCommand d s)))).frontier = r.frontier + 1 from hfrontier]
  simp only [Config.probeMax, Config.sectorsPerSide]
  omega

end

/-- The run and the map once a BLANK sector has ended the probe (R102). -/
def probed (d : DriveId) (s : State) : State :=
  ((unitEnd d (clearCommand d s)).updRun fun q => { q with probing := none }).updLibrary fun l => { l with probeDue := false }

theorem probe_blank (d : DriveId) (n : Nat) (x : Side) (s : State) :
    probeAnswer d n x false .blank (clearCommand d s) = engage (probed d s) := rfl

/-- What a WRITTEN sector passed by the probe leaves, whatever the run then makes of it (R102). -/
theorem passedDead_leaves {s : State} {d : DriveId} {n : Nat} {x : Side}
    (hu : (s.drive d).unit = some ⟨.probe n x, false⟩) (hx : unasked (s.drive d)) (f : Run → Run) :
    let t := (passedDead d n x s).updRun f
    t.run = f s.run ∧ t.library.probeDue = s.library.probeDue ∧ atRest t d ∧ t.catalogue = s.catalogue := by
  have hrest : atRest (unitEnd d (clearCommand d s)) d :=
    unitEnd_atRest (unit_cleared hu) rfl (unasked_cleared hx) (clearCommand_command s d)
  have hkept : (unitEnd d (clearCommand d s)).run = s.run ∧ (unitEnd d (clearCommand d s)).library = s.library
      ∧ (unitEnd d (clearCommand d s)).catalogue = s.catalogue := by
    rw [probe_ended hu hx]
    exact ⟨rfl, rfl, rfl⟩
  unfold passedDead
  generalize unitEnd d (clearCommand d s) = w at hrest hkept
  obtain ⟨hrun, hlib, hcat⟩ := hkept
  rw [← hrun, ← hlib, ← hcat]
  exact ⟨rfl, rfl, hrest, rfl⟩

/-- The state in which a probe has found its BLANK sector, and engagement is to complete (R102). -/
structure Cleared (s w : State) (d : DriveId) (n : Nat) (x : Side) (r : SideRec) : Prop where
  rest : atRest w d
  run : w.run = { s.run with probing := none }
  side : w.side? n x = some r
  openSide : w.openSide = some (n, x)
  due : w.library.probeDue = false
  free : w.freeSectors = s.freeSectors
  choice : ∀ q, blankChoice w q = blankChoice s q
  catalogue : w.catalogue = s.catalogue
  fee : w.fee = s.fee
  seconds : w.seconds = s.seconds
  link : ∀ st, w.link st = s.link st

theorem probed_cleared {s : State} {d : DriveId} {n : Nat} {x : Side} {r : SideRec}
    (hu : (s.drive d).unit = some ⟨.probe n x, false⟩) (hx : unasked (s.drive d)) (ho : s.openSide = some (n, x))
    (hr : s.side? n x = some r) : Cleared s (probed d s) d n x r := by
  have hrest : atRest (unitEnd d (clearCommand d s)) d :=
    unitEnd_atRest (unit_cleared hu) rfl (unasked_cleared hx) (clearCommand_command s d)
  have hw : unitEnd d (clearCommand d s) = { s with drives := (unitEnd d (clearCommand d s)).drives } := by
    rw [probe_ended hu hx]
    rfl
  unfold probed
  generalize unitEnd d (clearCommand d s) = w at hrest hw
  generalize w.drives = ds at hw
  subst hw
  have hfree {t : State} (hto : t.openSide = some (n, x)) (htr : t.side? n x = some r) : t.freeSectors = s.freeSectors := by
    rw [freeSectors_eq, freeSectors_eq, frontier_of_openSide hto htr, frontier_of_openSide ho hr]
  exact ⟨hrest, rfl, hr, ho, rfl, hfree ho hr, fun _ => rfl, rfl, rfl, rfl, fun _ => rfl⟩

/-- What a rollover from a side whose probe has found too little room leaves (R100). -/
theorem startRollover_fills {s : State} {n : Nat} {x : Side} {r : SideRec} (ho : s.openSide = some (n, x))
    (hr : s.side? n x = some r) (p : Nat × Side) :
    let t := startRollover p s
    (∃ y, t.side? n x = some y ∧ y.state = .full) ∧ (t.source 13).pending = true ∧ t.library.probeDue = false := by
  obtain ⟨-, -, hlib, hnot⟩ := startRollover_leaves p s
  obtain ⟨hside, hpending, hdue, -⟩ := makeFull_leaves n x s
  have hopen : openFull s = makeFull n x s := by
    unfold openFull
    rw [ho]
    rfl
  rw [hopen] at hlib hnot
  refine ⟨⟨{ r with state := .full }, ?_, rfl⟩, ?_, by rw [hlib, hdue]⟩
  · rw [side?_of_library hlib, hside, hr]
    rfl
  · rw [← hpending]
    unfold State.source
    rw [hnot]

/-- Settles O47. -/
theorem filingCompletions : Obligations.FilingCompletions := by
  intro s d n c x r f drive idle hc hrec hopen hlt hlow hv hk
  have hx : unasked (s.drive d) := ⟨hv, hk⟩
  have hr : s.side? n x = some r := by rw [State.side?, hc, Option.map_some, hrec]
  refine ⟨exec_unflown, fun i hi => ?_, fun k hf hcmd hu ho hcur => ?_, fun hf => ⟨?_, ?_, ?_⟩⟩
  · intro entry ends failed
    refine ⟨fun k b kind left hf hcmd hu ha => ⟨fun hroom => ?_, fun hleft hfull => ?_, ?_⟩, fun k b kind v hf hcmd hu => ⟨?_, ?_⟩⟩
    · have hw (w : WriteResult) : exec (.writeCompletion d w) s
          = followed (writePassAnswer d kind n x left false (some w) (clearCommand d s)) :=
        (exec_write hf hcmd w).trans (congrArg followed (writeAnswer_pass (unit_cleared hu) _))
      refine ⟨_, hw .done, ?_⟩
      cases left with
      | nil =>
        obtain ⟨hside, hrest, hcur⟩ := writePass_last hr hlt hx hi hu
        exact ⟨hside, hcur, fun _ => hrest, fun b rest h => nomatch h⟩
      | cons b rest =>
        obtain ⟨hside, hcur, hcommand, hunit⟩ := writePass_next hr hlt hi hu ha hopen hlow (hroom.resolve_left nofun)
        refine ⟨hside, hcur.trans (by rw [if_neg nofun]), fun h => absurd h nofun, fun b' rest' h => ?_⟩
        obtain ⟨rfl, rfl⟩ := List.cons.inj h
        exact ⟨hcommand, hunit⟩
    · cases left with
      | nil => exact absurd rfl hleft
      | cons b rest =>
        exact ⟨_, (exec_write hf hcmd .done).trans (congrArg followed (writeAnswer_pass (unit_cleared hu) _)),
          writePass_refused hr hlt hx hi hu ha hfull⟩
    · exact ⟨_, (exec_write hf hcmd .alreadyWritten).trans (congrArg followed (writeAnswer_pass (unit_cleared hu) _)),
        writePass_failed hr hlt hx hi hu⟩
    · rintro ho ⟨q, hq, rfl⟩
      have hall : v.all (· == .pass) = false := List.all_eq_false.2 ⟨_, hq, by decide⟩
      refine ⟨_, (exec_verify hf hcmd).trans (congrArg followed ?_), attemptFailed_failed (verified_ending hr hx hi hu)
        (unitEnd_atRest (unit_cleared hu) rfl (unasked_cleared hx) (clearCommand_command s d)) kind⟩
      rw [hall, verifyAnswer_pass (unit_cleared hu)]
      exact verifyPass_fails hu hx hi ho
    · intro hpass e he
      have hall : v.all (· == .pass) = true := List.all_eq_true.2 fun q hq => by rw [hpass q hq]; rfl
      have hverify {t : State} (ht : verifyPassAnswer d kind false true (clearCommand d s) = t) :
          exec (.verifyCompletion d v) s = followed t := by
        rw [exec_verify hf hcmd, hall, verifyAnswer_pass (unit_cleared hu), ht]
      have hend := verifyPass_ended hu hx
      have hcat : (unitEnd d (clearCommand d s)).catalogue = s.catalogue := by rw [hend]; rfl
      have hrun : (unitEnd d (clearCommand d s)).run = s.run := by rw [hend]; rfl
      have hlib : (unitEnd d (clearCommand d s)).library = s.library := by rw [hend]; rfl
      have hentry : (unitEnd d (clearCommand d s)).entry? i.number = some e := by rw [State.entry?, hcat]; exact he
      have hending := verified_ending hr hx hi hu
      refine ⟨fun p u hkind hp hext => ?_, fun p g hkind hp hext => ?_, fun u v' c' hkind hcom hvol hcart => ?_,
        fun g hkind hcom => ?_⟩
      · refine ⟨_, hverify (verifyPass_page hu hx hi hkind hp), ?_⟩
        have h := pageVerified_ok (w := unitEnd d (clearCommand d s)) (by rw [hrun]; exact hi)
          ((extendEntry_congr hcat).trans (by rw [hext]; rfl))
        rwa [hrun] at h
      · refine ⟨_, hverify (verifyPass_page hu hx hi hkind hp), ?_⟩
        have hext' : extendEntry (unitEnd d (clearCommand d s)) i.number i.start p.sectors = .error g := by
          rw [extendEntry_congr hcat, hext]
          rfl
        have heq : pageVerified i p (unitEnd d (clearCommand d s))
            = endInstrument (catStatus g) .page (unitEnd d (clearCommand d s)) := by
          unfold pageVerified
          rw [hext']
        have h := endInstrument_ends hending (catStatus g) .page
        rw [Nat.zero_add] at h
        rw [heq]
        subst hkind
        exact h
      · refine ⟨_, hverify (verifyPass_trailer hu hx hi hkind), ?_⟩
        have hvol' : (unitEnd d (clearCommand d s)).volume? e.volume = some v' := by rw [State.volume?, hlib]; exact hvol
        have hcart' : (unitEnd d (clearCommand d s)).cart? v'.cart = some c' := by rw [State.cart?, hlib]; exact hcart
        have h := trailerVerified_ok ((commitEntry_congr hcat).trans (by rw [hcom]; rfl)) hentry hvol' hcart'
        rwa [hrun] at h
      · refine ⟨_, hverify (verifyPass_trailer hu hx hi hkind), ?_⟩
        have hcom' : commitEntry (unitEnd d (clearCommand d s)) i.number i.start = .error g := by
          rw [commitEntry_congr hcat, hcom]
          rfl
        have heq : trailerVerified i (unitEnd d (clearCommand d s))
            = endInstrument (catStatus g) .trailer (unitEnd d (clearCommand d s)) := by
          unfold trailerVerified
          rw [hcom']
        have h := endInstrument_ends hending (catStatus g) .trailer
        rw [Nat.zero_add] at h
        rw [heq]
        exact h
  · have hb {b : BlankResult} {t : State} (ht : probeAnswer d n x false b (clearCommand d s) = t) :
        exec (.blankCheckCompletion d b) s = followed t := by
      rw [exec_blankCheck hf hcmd, blankAnswer_probe (unit_cleared hu), ht]
    refine ⟨fun found hp hfew hroom => ?_, fun found hp hmany hchosen => ⟨_, hb (probe_out hu hx ho hr hlt hp hmany), ?_⟩, ?_⟩
    · obtain ⟨htrun, hdue, hrest, hcat⟩ := passedDead_leaves hu hx fun q => { q with probing := some (found + 1) }
      exact ⟨_, hb (probe_on hu hx ho hr hroom hp hfew), passedDead_side hu hx hr hlt, htrun, hdue, hrest, hcat⟩
    · obtain ⟨hside, hpending, hdue, hmrun, -⟩ := makeFull_leaves n x
        ((passedDead d n x s).updRun fun q => { q with probing := none })
      have hside' : (makeFull n x ((passedDead d n x s).updRun fun q => { q with probing := none })).side? n x
          = some { r with frontier := r.frontier + 1, dead := r.dead + 1, state := .full } := by
        rw [hside, show ((passedDead d n x s).updRun fun q => { q with probing := none }).side? n x
          = some { r with frontier := r.frontier + 1, dead := r.dead + 1 } from passedDead_side hu hx hr hlt]
        rfl
      have hmrun' : (makeFull n x ((passedDead d n x s).updRun fun q => { q with probing := none })).run
          = { s.run with probing := none } :=
        hmrun.trans (passedDead_leaves hu hx fun q => { q with probing := none }).1
      generalize makeFull n x ((passedDead d n x s).updRun fun q => { q with probing := none }) = m at hside' hpending hdue hmrun'
      obtain ⟨y, hy, hyf, hys⟩ := engage_side (s := m) (by rw [hmrun']; exact hcur) (by rw [hmrun']; exact hchosen) hside'
      exact ⟨engage_probing (by rw [hmrun']), engage_probeDue hdue, (engage_settles m).pending 13 hpending, y, hy, hys rfl, hyf⟩
    · obtain ⟨hprest, hprun, hpside, hpopen, hpdue, hfree, hblank, hpcat, hpfee, hpsec, hplink⟩ := probed_cleared hu hx ho hr
      refine ⟨_, hb (probe_blank d n x s), ?_⟩
      generalize probed d s = w at hprest hprun hpside hpopen hpdue hfree hblank hpcat hpfee hpsec hplink
      have hwcur : w.run.current = none := by rw [hprun]; exact hcur
      have hwopen : w.openSide.map (·.1) = some n := by rw [hpopen]; rfl
      obtain ⟨-, hu', hc'⟩ := atRest_of_settles hprest (engage_settles w)
      refine ⟨engage_probeDue hpdue, hu', hc', fun v hroom hd hvol => ⟨engage_probing (by rw [hprun]), ?_⟩,
        fun hroom p hp => ?_, fun hroom hp hfail hstate => ?_⟩
      · refine engage_completes ⟨?_, hpcat, by rw [hpfee], hpsec, hpopen, ?_, frontier_of_openSide hpopen hpside,
          fun st => by rw [hplink]; exact .refl _⟩ (by rw [hfree]; exact hroom)
        · rw [hprun, ← hd]
        · rw [openVolume_eq hpopen hpside, hvol]
      · have hneed : rolloverNeeded w = true := (rolloverNeeded_iff w).2 (by rw [hfree]; exact hroom)
        have heng : engage w = startRollover p w :=
          (engage_rollover hneed).trans (beginRollover_some (by rw [hwopen, hblank]; exact hp))
        obtain ⟨htrun, htreq, -⟩ := startRollover_leaves p w
        obtain ⟨hfull, hpend, -⟩ := startRollover_fills hpopen hpside p
        rw [heng]
        exact ⟨by rw [htrun], by rw [htrun], htreq, by rw [htrun], hfull, hpend⟩
      · have hneed : rolloverNeeded w = true := (rolloverNeeded_iff w).2 (by rw [hfree]; exact hroom)
        have heng : engage w = runFailure .noBlank w := by
          rw [engage_rollover hneed]
          unfold beginRollover
          rw [hwopen, hblank, hp]
        rw [heng]
        exact runFails_earlier (runFailure_fails (s := w) (by rw [hprun]; exact hstate) (by rw [hprun]; exact hfail))
          (by rw [hprun]) (by rw [hprun]) (by rw [hprun]) fun st => by rw [hplink]; exact .refl _
  · intro k b kind left w hcmd hu
    have hu' := unit_cleared hu
    have hside : (countDead n x 1 (advanceFrontier n x (clearCommand d s))).side? n x
        = some { r with frontier := r.frontier + 1, dead := r.dead + 1 } := by
      rw [countDead, side?_updSide, advanceFrontier, side?_updSide,
        show (clearCommand d s).side? n x = some r from hr, Option.map_some, Option.map_some,
        if_neg (by simp only [Config.sectorsPerSide]; omega)]
    have hend : unitEnd d (countDead n x 1 (advanceFrontier n x (clearCommand d s))) = _ :=
      unitEnd_idle (s := countDead n x 1 (advanceFrontier n x (clearCommand d s))) hu' rfl (unasked_cleared hx)
    have hrest := unitEnd_atRest (s := countDead n x 1 (advanceFrontier n x (clearCommand d s))) hu' rfl (unasked_cleared hx)
      (clearCommand_command s d)
    refine ⟨unitEnd d (countDead n x 1 (advanceFrontier n x (clearCommand d s))),
      (exec_write hf hcmd w).trans (congrArg followed (writeAnswer_pass hu' _)), hrest, ?_⟩
    rw [hend]
    exact ⟨rfl, rfl, hside⟩
  · intro k b kind v hcmd hu
    refine ⟨unitEnd d (clearCommand d s), (exec_verify hf hcmd).trans (congrArg followed (verifyAnswer_pass (unit_cleared hu) _)),
      unitEnd_atRest (unit_cleared hu) rfl (unasked_cleared hx) (clearCommand_command s d), ?_⟩
    rw [unitEnd_idle (unit_cleared hu) rfl (unasked_cleared hx)]
    exact ⟨rfl, rfl, rfl⟩
  · intro k b hcmd hu
    refine ⟨unitEnd d (clearCommand d s), (exec_blankCheck hf hcmd b).trans (congrArg followed (blankAnswer_probe (unit_cleared hu) _)),
      unitEnd_atRest (unit_cleared hu) rfl (unasked_cleared hx) (clearCommand_command s d), ?_⟩
    rw [unitEnd_idle (unit_cleared hu) rfl (unasked_cleared hx)]
    exact ⟨rfl, rfl, rfl⟩

end Sys2Proof.Laws.FilingUnits

/-!
PROOF. The completions of label units (R20, R23, R30, R101): volume labels and cartridge labels. The obligation O48.
-/

namespace Sys2Proof.Laws.LabelUnits

open Sys2Proof Sys2Proof.Machine Sys2Proof.Laws.Noting Sys2Proof.Laws.RunFrames Sys2Proof.Laws.RunEnds
open Sys2Proof.Laws.DriveResetting Sys2Proof.Laws.Arbiter Sys2Proof.Laws.Selecting Sys2Proof.Laws.Settling
open Sys2Proof.Laws.Mapping Sys2Proof.Laws.Places Sys2Proof.Laws.Halting Sys2Proof.Laws.FileRequests
open Sys2Proof.Laws.FilingEnds Sys2Proof.Laws.DriveFaulting Sys2Proof.Laws.FetchReading Sys2Proof.Laws.LabelReading
open Sys2Proof.Laws.InstrumentEnding Sys2Proof.Laws.Engaging Sys2Proof.Laws.FilingUnits

/-! ### What the choice of a blank depends on (R26) -/

/-- A change of a side that keeps its state keeps the pool. -/
theorem pool_updSide {f : SideRec → SideRec} (hf : ∀ r, (f r).state = r.state) (n : Nat) (x : Side) (s : State) :
    (s.updCart n fun c => c.updSide x f).pool = s.pool := by
  unfold State.pool
  change ((s.library.table.map fun c => if c.number = n then c.updSide x f else c).flatMap _) = _
  rw [List.flatMap_map]
  refine congrFun (congrArg List.flatMap (funext fun c => ?_)) _
  split
  · have ha : (c.updSide x f).sideA.state = c.sideA.state := by
      cases x
      · exact hf _
      · rfl
    have hb : (c.updSide x f).sideB.state = c.sideB.state := by
      cases x
      · rfl
      · exact hf _
    have hl : (c.updSide x f).location = c.location := by cases x <;> rfl
    have he : (c.updSide x f).exportPending = c.exportPending := by cases x <;> rfl
    rw [ha, hb, hl, he, updSide_number]
    rfl
  · rfl

/-- The choice of a blank depends on the pool and on the next volume number. -/
theorem blankChoice_of_pool {s t : State} (hp : t.pool = s.pool) (hn : t.library.nextVol = s.library.nextVol)
    (q : Option Nat) : blankChoice t q = blankChoice s q := by
  unfold blankChoice
  rw [hp, hn]

theorem pool_of_records {s t : State} (ht : t.library.table = s.library.table)
    (hi : t.library.inspections = s.library.inspections) : t.pool = s.pool := by
  unfold State.pool State.beingShelved
  rw [ht, hi]

theorem pool_dropInstrument (s : State) : (dropInstrument s).pool = s.pool := by
  cases h : s.run.current with
  | none => rw [dropInstrument_none h]
  | some i =>
    have hl : (dropInstrument s).library = (withDead i s).library := by rw [dropInstrument_some h]
    rw [pool_of_records (s := withDead i s) (by rw [hl]) (by rw [hl])]
    unfold withDead
    repeat' split
    · rfl
    · exact pool_updSide (f := fun r => { r with dead := r.dead + deadSectors s i }) (fun _ => rfl) _ _ s
    · rfl

/-- A failure of a run without a label or a filing request leaves the choice of a blank. -/
theorem blankChoice_runFailure {s : State} (hc : s.run.chosen = none) (hr : s.planner.filingReq = none) (c : Status)
    (q : Option Nat) : blankChoice (runFailure c s) q = blankChoice s q := by
  have hi := (runFailure_aside hr c).inspections
  obtain ⟨is, es, h⟩ | ⟨is, es, h⟩ := runFailure_shelved hc c
  · exact blankChoice_of_pool (pool_of_records (by rw [h]) hi) (by rw [h]) q
  · have hd := dropInstrument_library s
    have hpool : (runFailure c s).pool = (dropInstrument s).pool :=
      pool_of_records (by rw [h]) (by rw [hi, hd])
    exact blankChoice_of_pool (hpool.trans (pool_dropInstrument s)) (by rw [h, hd]) q

/-! ### A side that is used up stays so (R101) -/

/-- A side whose record is the same on every cartridge of that number. -/
def Settled (s : State) (n : Nat) (x : Side) (r : SideRec) : Prop :=
  s.side? n x = some r ∧ ∀ c ∈ s.library.table, c.number = n → c.sideRec x = r

theorem Settled.openSide {s : State} {n : Nat} {x : Side} {r : SideRec} (h : Settled s n x r) (hr : r.state ≠ .opened) :
    s.openSide ≠ some (n, x) := fun ho => by
  obtain ⟨c, hc, hn, hopen⟩ := openSide_mem ho
  rw [h.2 c hc hn] at hopen
  exact hr hopen

theorem side?_updSide_ne {s : State} {n m : Nat} {x z : Side} (h : (m, z) ≠ (n, x)) (f : SideRec → SideRec) :
    (s.updCart m fun c => c.updSide z f).side? n x = s.side? n x := by
  rw [State.side?, cart?_updCart (fun c => updSide_number c z f), State.side?]
  cases hc : s.cart? n with
  | none => rfl
  | some c =>
    rw [Option.map_some, Option.map_some, Option.map_some]
    split
    next hm =>
      have hn : n = m := (cart?_number hc).symm.trans hm
      subst hn
      cases x <;> cases z
      · exact absurd rfl h
      · rfl
      · rfl
      · exact absurd rfl h
    next => rfl

/-- The end of an instrument leaves the side that is not OPEN. -/
theorem dropInstrument_side_ne {s : State} {n : Nat} {x : Side} (h : s.openSide ≠ some (n, x)) :
    (dropInstrument s).side? n x = s.side? n x := by
  cases hc : s.run.current with
  | none => rw [dropInstrument_none hc]
  | some i =>
    have hl : (dropInstrument s).library = (withDead i s).library := by rw [dropInstrument_some hc]
    rw [side?_of_library hl]
    unfold withDead
    split
    next m z ho =>
      split
      · rfl
      · exact side?_updSide_ne (fun he => h (ho.trans (congrArg some he))) _
    · rfl

/-! ### The blank choice made again (R100, R101) -/

/-- The state in which the choice is made again: no label, no chosen blank, no filing request. -/
def unchosen (s : State) : State := withdrawFilingReq (s.updRun fun r => { r with label := none, chosen := none })

theorem unchosen_leaves (s : State) : (unchosen s).run = { s.run with label := none, chosen := none }
    ∧ (unchosen s).planner.filingReq = none
    ∧ (unchosen s).library = { s.library with
        inspections := (unchosen s).library.inspections, exports := (unchosen s).library.exports } := by
  obtain ⟨hcab, hshelf, hreq⟩ := withdrawFilingReq_spec (s.updRun fun r => { r with label := none, chosen := none })
  exact ⟨hcab.run, hreq, hshelf⟩

theorem rechoose_some {n : Nat} {s : State} {p : Nat × Side} (h : blankChoice (unchosen s) (some n) = some p) :
    rechoose n s = makeFilingReq p ((unchosen s).updRun fun r => { r with chosen := some p }) := by
  unfold rechoose
  change (match blankChoice (unchosen s) (some n) with | none => _ | some p => _) = _
  rw [h]
  rfl

theorem rechoose_none {n : Nat} {s : State} (h : blankChoice (unchosen s) (some n) = none) :
    rechoose n s = runFailure .noBlank (unchosen s) := by
  unfold rechoose
  change (match blankChoice (unchosen s) (some n) with | none => _ | some p => _) = _
  rw [h]
  rfl

/-- What the choice made again leaves of the run and the filing request, and of a side that is used up. -/
theorem rechoose_leaves (n : Nat) (s : State) :
    let t := rechoose n s
    t.run.label = none ∧ t.library.nextVol = s.library.nextVol ∧ t.library.volumes = s.library.volumes
      ∧ (∀ x r, Settled s n x r → r.state ≠ .opened → t.side? n x = some r)
      ∧ (∀ p, blankChoice t (some n) = some p → t.run.chosen = some p ∧ t.planner.filingReq = some p)
      ∧ (blankChoice t (some n) = none → t.run.chosen = none ∧ t.planner.filingReq = none
        ∧ (s.run.failure = none → s.run.state ≠ .closed → s.run.openTag = none → s.run.closeTag = none →
          t.run.failure = some .noBlank ∧ t.run.state = .closing)) := by
  intro t
  obtain ⟨hrun, hreq, hlib⟩ := unchosen_leaves s
  have hside (x : Side) : (unchosen s).side? n x = s.side? n x := side?_of_table (by rw [hlib]) n x
  have hopen : (unchosen s).openSide = s.openSide := openSide_of_table (by rw [hlib])
  cases hb : blankChoice (unchosen s) (some n) with
  | some p =>
    have ht : t = _ := rechoose_some hb
    have hchoice : blankChoice t (some n) = some p := by
      rw [ht]
      exact hb
    have htlib : t.library = (unchosen s).library := by rw [ht]; rfl
    have htrun : t.run = { (unchosen s).run with chosen := some p } := by rw [ht]; rfl
    have htreq : t.planner.filingReq = some p := by rw [ht]; rfl
    refine ⟨by rw [htrun, hrun], by rw [htlib, hlib], by rw [htlib, hlib], fun x r hset _ => ?_, fun q hq => ?_, fun hn => ?_⟩
    · rw [side?_of_library htlib, hside, hset.1]
    · obtain rfl : p = q := Option.some.inj (hchoice.symm.trans hq)
      exact ⟨by rw [htrun], htreq⟩
    · exact absurd (hchoice.symm.trans hn) nofun
  | none =>
    have ht : t = _ := rechoose_none hb
    have hchosen : (unchosen s).run.chosen = none := by rw [hrun]
    have hlabel : (unchosen s).run.label = none := by rw [hrun]
    have hchoice : blankChoice t (some n) = none := by rw [ht, blankChoice_runFailure hchosen hreq, hb]
    have hshelf := runFailure_shelved hchosen .noBlank
    have hdlib := dropInstrument_library (unchosen s)
    rw [← ht] at hshelf
    have hvols : t.library.nextVol = s.library.nextVol ∧ t.library.volumes = s.library.volumes := by
      obtain ⟨is, es, h⟩ | ⟨is, es, h⟩ := hshelf
      · rw [h, hlib]
        exact ⟨rfl, rfl⟩
      · rw [h, hdlib, hlib]
        exact ⟨rfl, rfl⟩
    have hfails : t.run.chosen = none ∧ t.run.label = none ∧ t.planner.filingReq = none
        ∧ (s.run.failure = none → s.run.state ≠ .closed → s.run.openTag = none → s.run.closeTag = none →
          t.run.failure = some .noBlank ∧ t.run.state = .closing) := by
      by_cases hidle : (unchosen s).run.state = .closed ∨ (unchosen s).run.failure ≠ none
      · rw [ht, runFailure_idle hidle]
        refine ⟨hchosen, hlabel, hreq, fun hf hs => absurd hidle ?_⟩
        rw [hrun]
        exact not_or.2 ⟨hs, not_not.2 hf⟩
      · obtain ⟨hs, hf⟩ := not_or.1 hidle
        obtain ⟨-, -, -, hc, hl, hq, hwhy, -⟩ := runFailure_fails (reason := .noBlank) hs (not_not.1 hf)
        rw [ht]
        exact ⟨hc, hl, hq, fun _ _ ho hcl => hwhy (by rw [hrun]; exact ho) (by rw [hrun]; exact hcl)⟩
    refine ⟨hfails.2.1, hvols.1, hvols.2, fun x r hset hr => ?_, fun q hq => absurd (hchoice.symm.trans hq) nofun,
      fun _ => ⟨hfails.1, hfails.2.2.1, hfails.2.2.2⟩⟩
    have hne : (unchosen s).openSide ≠ some (n, x) := by rw [hopen]; exact hset.openSide hr
    have hside' : t.side? n x = (unchosen s).side? n x := by
      obtain h | h := hshelf
      · exact h.side? rfl n x
      · rw [h.side? rfl, dropInstrument_side_ne hne]
    rw [hside', hside, hset.1]

/-! ### A volume label reported (R20, R23) -/

/-- The record of a side that a volume label has taken (R20, R23). -/
def takenSide (state : SideState) (s : State) : SideRec := ⟨state, some s.library.nextVol, 32, 0, 0⟩

theorem takeVolume_settled {s : State} {n : Nat} {c : Cartridge} (h : s.cart? n = some c) (x : Side) (state : SideState) :
    Settled (takeVolume n x state s) n x (takenSide state s) := by
  constructor
  · show (s.updCart n fun c => c.updSide x fun _ => takenSide state s).side? n x = _
    rw [side?_updSide, State.side?, h]
    rfl
  · intro b hb hn
    change b ∈ s.library.table.map fun c => if c.number = n then c.updSide x fun _ => takenSide state s else c at hb
    obtain ⟨y, -, rfl⟩ := List.mem_map.1 hb
    split at hn
    next hy => rw [if_pos hy, sideRec_updSide]
    next hy => exact absurd hn hy

theorem labelFailed_settled {s : State} {n : Nat} {c : Cartridge} (h : s.cart? n = some c) (x : Side) :
    Settled (labelFailed n x s) n x (takenSide .full s) := by
  have hl := (labelFailed_noted n x s).library
  obtain ⟨hside, hall⟩ := takeVolume_settled h x .full
  refine ⟨(side?_of_library hl n x).trans hside, fun b hb hn => hall b ?_ hn⟩
  rwa [hl] at hb

/-- The records that a volume label has taken its number from (R23). -/
def numberTaken (n : Nat) (x : Side) (s t : State) : Prop :=
  t.library.nextVol = s.library.nextVol + 1 ∧ t.library.volumes = s.library.volumes ++ [⟨s.library.nextVol, n, x⟩]

theorem labelFailed_taken (n : Nat) (x : Side) (s : State) : numberTaken n x s (labelFailed n x s) := by
  unfold numberTaken
  rw [(labelFailed_noted n x s).library]
  exact ⟨rfl, rfl⟩

section
variable {s : State} {d : DriveId} {u : DriveUnit} (hu : (s.drive d).unit = some u) (hw : u.work.isFetch = false)
  (hx : unasked (s.drive d))

/-- The unit of the completed command has ended: the state in which its owner acts (R68). -/
def unitOver (d : DriveId) (s : State) : State := unitEnd d (clearCommand d s)

include hu hw hx

theorem unitOver_eq : unitOver d s = (clearCommand d s).updDrive d (unitless u s.seconds) :=
  unitEnd_idle (unit_cleared hu) hw (unasked_cleared hx)

theorem unitOver_atRest : atRest (unitOver d s) d :=
  unitEnd_atRest (unit_cleared hu) hw (unasked_cleared hx) (clearCommand_command s d)

/-- A unit's end touches its drive alone. -/
theorem unitOver_rest : unitOver d s = { s with drives := (unitOver d s).drives } := by
  rw [unitOver_eq hu hw hx]
  rfl

theorem unitOver_drive : (unitOver d s).drive d
    = { s.drive d with
      command := none, unit := none, lastActive := s.seconds, share := shareAfter u.work (s.drive d).share, state := .ready } := by
  rw [unitOver_eq hu hw hx, State.drive_updDrive_self, drive_cleared]
  rfl

end

section
variable {s : State} {d : DriveId} {n v : Nat} {x : Side}

theorem writeAnswer_volume {e : Bool} (hu : (s.drive d).unit = some ⟨.volumeLabelWrite n x v, e⟩) (w : Option WriteResult) :
    writeAnswer d w s = labelWriteAnswer d n x e w s := by
  unfold writeAnswer
  rw [hu]

theorem verifyAnswer_volume {e : Bool} (hu : (s.drive d).unit = some ⟨.volumeLabelVerify n x v, e⟩) (pass : Bool) :
    verifyAnswer d pass false s = labelVerifyAnswer d n x e pass false s := by
  unfold verifyAnswer
  rw [hu]

end

/-- A volume label that has failed, and the choice made again, as the statement gives them (R101). -/
theorem labelFailedAgain_leaves {s w : State} {d : DriveId} {n : Nat} {x : Side} {c : Cartridge} (hc : s.cart? n = some c)
    (hw : w = { s with drives := w.drives }) (hrest : atRest w d) :
    let t := labelFailedAgain n x w
    (t.side? n x = some ⟨.full, some s.library.nextVol, 32, 0, 0⟩ ∧ t.library.nextVol = s.library.nextVol + 1
        ∧ t.library.volumes = s.library.volumes ++ [⟨s.library.nextVol, n, x⟩])
      ∧ t.run.label = none ∧ (t.drive d).state = .ready
      ∧ (∀ p, blankChoice t (some n) = some p → t.run.chosen = some p ∧ t.planner.filingReq = some p)
      ∧ (blankChoice t (some n) = none → t.run.chosen = none ∧ t.planner.filingReq = none
        ∧ (s.run.failure = none → s.run.state ≠ .closed → s.run.openTag = none → s.run.closeTag = none →
          t.run.failure = some .noBlank ∧ t.run.state = .closing)) := by
  have hlib : w.library = s.library := by rw [hw]
  have hrun : (labelFailed n x w).run = s.run := by
    rw [(labelFailed_noted n x w).run]
    show w.run = _
    rw [hw]
  have hcw : w.cart? n = some c := (cart?_of_table (by rw [hlib]) n).trans hc
  have hset := labelFailed_settled hcw x
  obtain ⟨hn, hv⟩ := labelFailed_taken n x w
  have hd := atRest_of_settles hrest ((labelFailed_settles n x w).trans (rechoose_settles n _))
  obtain ⟨hl, hnext, hvols, hside, hsome, hnone⟩ := rechoose_leaves n (labelFailed n x w)
  rw [hrun] at hnone
  refine ⟨⟨(hside x _ hset (show SideState.full ≠ .opened by decide)).trans ?_, hnext.trans ?_, hvols.trans ?_⟩, hl, hd.1, hsome, hnone⟩
  · rw [takenSide, hlib]
  · rw [hn, hlib]
  · rw [hv, hlib]

/-- A volume label whose run has been aborted uses up its side all the same (R113). -/
theorem labelFailed_late {s w : State} {d : DriveId} {n : Nat} {x : Side} {c : Cartridge} (hc : s.cart? n = some c)
    (hw : w = { s with drives := w.drives }) (hrest : atRest w d) :
    let t := labelFailed n x w
    t.side? n x = some ⟨.full, some s.library.nextVol, 32, 0, 0⟩ ∧ t.library.nextVol = s.library.nextVol + 1
      ∧ t.run = s.run ∧ (t.drive d).state = .ready ∧ (t.drive d).unit = none := by
  have hlib : w.library = s.library := by rw [hw]
  have hcw : w.cart? n = some c := (cart?_of_table (by rw [hlib]) n).trans hc
  obtain ⟨hs, hu, -⟩ := atRest_of_settles hrest (labelFailed_settles n x w)
  refine ⟨(labelFailed_settled hcw x).1.trans ?_, (labelFailed_taken n x w).1.trans ?_, ?_, hs, hu⟩
  · rw [takenSide, hlib]
  · rw [hlib]
  · rw [(labelFailed_noted n x w).run]
    show w.run = _
    rw [hw]

/-! ### A volume label verified (R101) -/

/-- The side is OPEN, the label and the chosen blank are done with, and no probe is due (R101). -/
def opened (n : Nat) (x : Side) (s : State) : State :=
  ((labelWritten n x s).updRun fun r => { r with chosen := none, label := none }).updLibrary fun l => { l with probeDue := false }

/-- The pin set on the drive (R99). -/
def pinned (d : DriveId) (s : State) : State :=
  (restartIdle d (s.updDrive d fun x => { x with pin := true, share := .filing })).updRun fun r => { r with engaged := some d }

theorem labelVerified_eq {d : DriveId} {n : Nat} {x : Side} {s : State} (ho : (opened n x s).openSide = some (n, x))
    (hcart : ((opened n x s).drive d).cart = some (.number n)) (hside : ((opened n x s).drive d).sideUp = some x)
    (hs : ((opened n x s).drive d).state = .ready) (hp : ∀ e, e ≠ d → ((opened n x s).drive e).pin = false) :
    labelVerified d n x s = engage (pinned d (opened n x s)) := by
  have hdef : labelVerified d n x s = pinAndEngage d (opened n x s) := rfl
  have hdue : (opened n x s).library.probeDue = false := rfl
  rw [hdef]
  generalize opened n x s = w at ho hcart hside hs hp hdue
  have hset : setPin d w = some (restartIdle d (w.updDrive d fun x => { x with pin := true, share := .filing })) := by
    unfold setPin
    rw [ho]
    refine if_pos ⟨?_, .inl hs, ?_⟩
    · rw [hcart, hside]
      simp
    · refine List.all_eq_true.2 fun e _ => ?_
      by_cases he : e = d
      · simp [he]
      · simp [hp e he]
  unfold pinAndEngage
  rw [hset]
  exact if_neg (Bool.eq_false_iff.1 hdue)

/-- The pin is set on its drive, and the run engaged there; nothing else changes but the idle timer (R73, R98). -/
theorem pinned_leaves (d : DriveId) (s : State) :
    pinned d s = { s with drives := (pinned d s).drives, run := { s.run with engaged := some d } }
      ∧ ((pinned d s).drive d).pin = true ∧ ((pinned d s).drive d).share = .filing := by
  refine ⟨rfl, ?_⟩
  have hd : (pinned d s).drive d = (restartIdle d (s.updDrive d fun x => { x with pin := true, share := .filing })).drive d := rfl
  rw [hd]
  unfold restartIdle
  rw [State.drive_updDrive_self, State.drive_updDrive_self]
  exact ⟨rfl, rfl⟩

/-- An engagement that needs no rollover leaves a run without a label so; and where the run stays engaged, the drives. -/
theorem engage_unlabelled {s : State} (hroom : rolloverNeeded s = false) (hc : s.run.chosen = none)
    (hl : s.run.label = none) : (engage s).run.chosen = none ∧ (engage s).run.label = none
      ∧ ∀ d, (engage s).run.engaged = some d → (engage s).drive d = s.drive d := by
  obtain ⟨c, h⟩ | ⟨u, h, hu, hr⟩ := engage_cases_room hroom
  · rw [h]
    by_cases hidle : s.run.state = .closed ∨ s.run.failure ≠ none
    · rw [runFailure_idle hidle]
      exact ⟨hc, hl, fun _ _ => rfl⟩
    · obtain ⟨hs, hf⟩ := not_or.1 hidle
      obtain ⟨-, -, he, hc', hl', -⟩ := runFailure_fails (reason := c) hs (not_not.1 hf)
      exact ⟨hc', hl', fun d hd => absurd (he.symm.trans hd) nofun⟩
  · unfold sameButInstrument at hr
    have hrest := engagedNow_rest u
    rw [h]
    refine ⟨?_, ?_, fun d _ => ?_⟩
    · rw [hrest, hr]; exact hc
    · rw [hrest, hr]; exact hl
    · rw [hrest, hu]; rfl

/-- A cartridge whose side a volume label opens is the OPEN one, where none was (R20). -/
theorem openSide_takeVolume {s : State} {n : Nat} {x : Side} {c : Cartridge} (h : s.cart? n = some c) (ho : s.openSide = none) :
    (takeVolume n x .opened s).openSide = some (n, x) := by
  have hshut : ∀ c ∈ s.library.table, c.sideA.state ≠ .opened ∧ c.sideB.state ≠ .opened := by
    intro c hc
    have := List.findSome?_eq_none_iff.1 ho c hc
    constructor <;> intro hs <;> simp [hs] at this
    split at this <;> cases this
  have hmem : c ∈ s.library.table := cart?_mem h
  have hcn : c.number = n := cart?_number h
  obtain ⟨p, hp⟩ : ∃ p, (takeVolume n x .opened s).openSide = some p := by
    rw [← Option.isSome_iff_exists]
    unfold State.openSide
    rw [List.findSome?_isSome_iff]
    refine ⟨c.updSide x fun _ => takenSide .opened s, ?_, ?_⟩
    · refine List.mem_map.2 ⟨c, hmem, if_pos hcn⟩
    · cases x
      · rfl
      · dsimp only [Cartridge.updSide]
        exact (congrArg Option.isSome (if_neg (hshut c hmem).1)).trans rfl
  obtain ⟨m, y⟩ := p
  obtain ⟨b, hb, hbn, hopen⟩ := openSide_mem hp
  rw [hp]
  change b ∈ s.library.table.map fun c => if c.number = n then c.updSide x fun _ => takenSide .opened s else c at hb
  obtain ⟨a, ha, rfl⟩ := List.mem_map.1 hb
  obtain ⟨h1, h2⟩ := hshut a ha
  split at hopen
  next hn =>
    rw [if_pos hn, updSide_number] at hbn
    have hy : y = x := by
      cases x <;> cases y
      · rfl
      · exact absurd hopen h2
      · exact absurd hopen h1
      · rfl
    rw [hy, ← hbn, hn]
  next =>
    cases y
    · exact absurd hopen h1
    · exact absurd hopen h2

/-- A volume label that is verified opens its side and engages the drive, as the statement gives it (R101). -/
theorem labelVerified_leaves {s w : State} {d : DriveId} {n : Nat} {x : Side} {c : Cartridge} (hc : s.cart? n = some c)
    (hw : w = { s with drives := w.drives }) (hrest : atRest w d) (ho : s.openSide = none)
    (hcart : (w.drive d).cart = some (.number n)) (hside : (w.drive d).sideUp = some x)
    (hp : ∀ e, e ≠ d → (w.drive e).pin = false) :
    let t := labelVerified d n x w
    (∃ dead, (t.side? n x = some ⟨.opened, some s.library.nextVol, 32, dead, 0⟩
        ∧ t.library.nextVol = s.library.nextVol + 1
        ∧ t.library.volumes = s.library.volumes ++ [⟨s.library.nextVol, n, x⟩]) ∧ (s.run.current = none → dead = 0))
      ∧ t.library.probeDue = false ∧ t.run.chosen = none ∧ t.run.label = none
      ∧ (t.run.engaged = some d → (t.drive d).pin = true ∧ (t.drive d).share = .filing)
      ∧ completesEngagement s t n x d s.library.nextVol 32 := by
  have hlib : w.library = s.library := by rw [hw]
  have hcw : w.cart? n = some c := (cart?_of_table (by rw [hlib]) n).trans hc
  have how : w.openSide = none := (openSide_of_library hlib).trans ho
  have hl : labelWritten n x w = withPool (takeVolume n x .opened) w := by
    unfold labelWritten
    rw [how]
    rfl
  have hn : Noted (takeVolume n x .opened w) (labelWritten n x w) := by
    rw [hl]
    exact withPool_noted ..
  have hset := takeVolume_settled hcw x .opened
  have hopen : (opened n x w).openSide = some (n, x) :=
    (openSide_of_library hn.library).trans (openSide_takeVolume hcw how)
  have hrec : (opened n x w).side? n x = some (takenSide .opened s) := by
    rw [show (opened n x w).side? n x = (labelWritten n x w).side? n x from rfl, side?_of_library hn.library, hset.1]
    unfold takenSide
    rw [hlib]
  have hdrive (e : DriveId) : (opened n x w).drive e = w.drive e := hn.drive e
  have hv := labelVerified_eq hopen ((congrArg Drive.cart (hdrive d)).trans hcart)
    ((congrArg Drive.sideUp (hdrive d)).trans hside) ((congrArg Drive.state (hdrive d)).trans hrest.1)
    fun e he => (congrArg Drive.pin (hdrive e)).trans (hp e he)
  have hrun : (opened n x w).run = { s.run with chosen := none, label := none } := by
    show { (labelWritten n x w).run with chosen := none, label := none } = _
    rw [hn.run]
    show { w.run with chosen := none, label := none } = _
    rw [hw]
  have hnext : (opened n x w).library.nextVol = s.library.nextVol + 1
      ∧ (opened n x w).library.volumes = s.library.volumes ++ [⟨s.library.nextVol, n, x⟩] := by
    show (labelWritten n x w).library.nextVol = _ ∧ (labelWritten n x w).library.volumes = _
    rw [hn.library, ← hlib]
    exact ⟨rfl, rfl⟩
  have hsame : (opened n x w).catalogue = s.catalogue ∧ (opened n x w).fee = s.fee ∧ (opened n x w).seconds = s.seconds := by
    refine ⟨hn.catalogue.trans ?_, hn.fee.trans ?_, hn.seconds.trans ?_⟩
    · show w.catalogue = _
      rw [hw]
    · show w.fee = _
      rw [hw]
    · show w.seconds = _
      rw [hw]
  have hlink (st : Station) : SameButAttention (s.link st) ((opened n x w).link st) := by
    have hwl : w.link st = s.link st := by rw [State.link, hw]; rfl
    have h := hn.link st
    rwa [show (takeVolume n x .opened w).link st = w.link st from rfl, hwl] at h
  intro t
  have ht : t = _ := hv
  obtain ⟨hpin, hpin1, hpin2⟩ := pinned_leaves d (opened n x w)
  have hdue : (opened n x w).library.probeDue = false := rfl
  clear_value t
  clear hv hl hn hset hw hdrive
  generalize opened n x w = o at ht hopen hrec hrun hnext hsame hlink hpin hpin1 hpin2 hdue
  generalize pinned d o = p at ht hpin hpin1 hpin2
  have hplib : p.library = o.library := by rw [hpin]
  have hprun : p.run = { o.run with engaged := some d } := by rw [hpin]
  have hpopen : p.openSide = some (n, x) := (openSide_of_library hplib).trans hopen
  have hprec : p.side? n x = some (takenSide .opened s) := (side?_of_library hplib n x).trans hrec
  have hpfront : p.frontier = 32 := frontier_of_openSide hpopen hprec
  have hroom : 4096 ≤ p.freeSectors := by rw [freeSectors_eq, hpfront]; decide
  have hchosen : p.run.chosen = none ∧ p.run.label = none ∧ p.run.current = s.run.current := by
    rw [hprun, hrun]
    exact ⟨rfl, rfl, rfl⟩
  have hpinned : Pinned s p n x d s.library.nextVol 32 := by
    refine ⟨?_, ?_, ?_, ?_, hpopen, openVolume_eq hpopen hprec, hpfront, fun st => ?_⟩
    · rw [hprun, hrun]
    · rw [hpin]; exact hsame.1
    · rw [hpin]; exact congrArg FeeUnit.date hsame.2.1
    · rw [hpin]; exact hsame.2.2
    · have hl : p.link st = o.link st := by rw [State.link, hpin]; rfl
      rw [hl]
      exact hlink st
  subst ht
  obtain ⟨htc, htl, htd⟩ := engage_unlabelled (rolloverNeeded_false hroom) hchosen.1 hchosen.2.1
  refine ⟨?_, engage_probeDue (by rw [hplib]; exact hdue), htc, htl, fun he => ?_, engage_completes hpinned hroom⟩
  · obtain ⟨is, es, h⟩ | ⟨is, es, h⟩ := engage_shelved (rolloverNeeded_false hroom) hchosen.1
    · refine ⟨0, ⟨?_, ?_, ?_⟩, fun _ => rfl⟩
      · rw [side?_of_table (s := p) (by rw [h]), hprec]; rfl
      · rw [h, hplib]; exact hnext.1
      · rw [h, hplib]; exact hnext.2
    · have hdlib := dropInstrument_library p
      have hnv : (engage p).library.nextVol = s.library.nextVol + 1
          ∧ (engage p).library.volumes = s.library.volumes ++ [⟨s.library.nextVol, n, x⟩] := by
        rw [h, hdlib, hplib]
        exact hnext
      have hside : (engage p).side? n x = (dropInstrument p).side? n x := side?_of_table (by rw [h]) n x
      cases hcur : s.run.current with
      | none =>
        refine ⟨0, ⟨?_, hnv.1, hnv.2⟩, fun _ => rfl⟩
        rw [hside, dropInstrument_none (hchosen.2.2.trans hcur), hprec]
        rfl
      | some i =>
        refine ⟨deadSectors p i, ⟨?_, hnv.1, hnv.2⟩, fun hn => nomatch hn⟩
        rw [hside, dropInstrument_side (hchosen.2.2.trans hcur) hpopen hprec]
        exact congrArg (fun k => some { takenSide .opened s with dead := k }) (Nat.zero_add _)
  · rw [htd d he]
    exact ⟨hpin1, hpin2⟩

/-! ### Cartridge labels (R30) -/

theorem find?_insertCart {c : Cartridge} (l : List Cartridge) (m : Nat) (h : m = c.number → l.find? (·.number = m) = none) :
    (insertCart c l).find? (·.number = m) = if m = c.number then some c else l.find? (·.number = m) := by
  induction l with
  | nil =>
    by_cases hm : m = c.number
    · simp [insertCart, hm]
    · simp [insertCart, hm, Ne.symm hm]
  | cons x xs ih =>
    unfold insertCart
    split
    · by_cases hm : m = c.number
      · simp [hm]
      · rw [List.find?_cons_of_neg (by simpa using Ne.symm hm), if_neg hm]
    · by_cases hx : x.number = m
      · rw [List.find?_cons_of_pos (by simpa using hx), List.find?_cons_of_pos (by simpa using hx), if_neg]
        intro hm
        have := h hm
        rw [List.find?_cons_of_pos (by simpa using hx)] at this
        cases this
      · rw [List.find?_cons_of_neg (by simpa using hx), List.find?_cons_of_neg (by simpa using hx)]
        refine ih fun hm => ?_
        have := h hm
        rwa [List.find?_cons_of_neg (by simpa using hx)] at this

section
variable {s : State} {d : DriveId} {id : Nat}

theorem writeAnswer_label {bytes : List Byte} {e : Bool} (hu : (s.drive d).unit = some ⟨.labelWrite id bytes, e⟩)
    (w : Option WriteResult) : writeAnswer d w s = cartLabelWriteAnswer d id bytes w s := by
  unfold writeAnswer
  rw [hu]

theorem verifyAnswer_label {e : Bool} (hu : (s.drive d).unit = some ⟨.labelVerify id, e⟩) (pass : Bool) :
    verifyAnswer d pass false s = cartLabelVerifyAnswer d id pass false s := by
  unfold verifyAnswer
  rw [hu]

theorem cartLabelVerify_eq {i : Inspection} (hi : (unitEnd d s).insp? id = some i) (pass : Bool) :
    cartLabelVerifyAnswer d id pass false s = if pass = false then rejectInspection id .labelWriteFailed false (unitEnd d s)
      else if i.phase = .labelFirst then wantMove id .flipping (unitEnd d s) else recordCreated d i (unitEnd d s) := by
  unfold cartLabelVerifyAnswer
  dsimp only
  rw [if_neg (by decide), hi]
  cases pass <;> rfl

end

/-- A cartridge label that has failed, as the statement gives it (R30). -/
theorem labelWriteFailed_leaves {s w : State} {d : DriveId} {id : Nat} {i : Inspection} (hi : s.insp? id = some i)
    (hw : w = { s with drives := w.drives }) (hrest : atRest w d) :
    let t := rejectInspection id .labelWriteFailed false w
    t.library.table = s.library.table ∧ t.insp? id = some (rejectedInsp i)
      ∧ t.library.lastReject = some (.labelWriteFailed, i.numberRead) ∧ (t.source 10).pending = true
      ∧ (t.drive d).state = .ready ∧ (t.drive d).unit = none := by
  have hlib : w.library = s.library := by rw [hw]
  obtain ⟨htable, hlast, hpending, hdrive, hinsp⟩ := rejectInspection_leaves ((insp?_of_library hlib).trans hi) .labelWriteFailed
  refine ⟨by rw [htable, hlib], hinsp, hlast, hpending, ?_, ?_⟩
  · rw [hdrive]; exact hrest.1
  · rw [hdrive]; exact hrest.2.1

/-- The new record of a cartridge whose labels are verified, and its inspection, as the statement gives them (R30). -/
theorem recordCreated_leaves {s w : State} {d : DriveId} {id k : Nat} {i : Inspection} (hi : s.insp? id = some i)
    (hw : w = { s with drives := w.drives }) (hk : i.taken = some k) (hc : s.cart? k = none) :
    let t := recordCreated d i w
    t.cart? k = some ⟨k, i.reserved, .drive d, some .b, ⟨.blank, none, 32, 0, 0⟩, ⟨.blank, none, 32, 0, 0⟩, false⟩
      ∧ (∀ m, m ≠ k → t.cart? m = s.cart? m)
      ∧ t.insp? id = some { i with phase := .shelving, orderDue := true, awaitReady := false, reserved := none }
      ∧ (t.drive d).cart = some (.number k) ∧ (t.drive d).sideUp = some .b := by
  have hlib : w.library = s.library := by rw [hw]
  obtain rfl := insp?_id hi
  let act (s : State) : State :=
    ((wantMove i.id .shelving s).updInsp i.id fun i => { i with reserved := none }).updLibrary fun l =>
      { l with table := insertCart ⟨k, i.reserved, .drive d, some .b, .unused, .unused, false⟩ l.table }
  intro t
  have ht : t = withPool act (nameInDrive d k .b w) := by
    show recordCreated d i w = _
    unfold recordCreated
    rw [hk]
  have hn : Noted (act (nameInDrive d k .b w)) t := by
    rw [ht]
    exact withPool_noted ..
  have hfind (m : Nat) : (act (nameInDrive d k .b w)).cart? m = if m = k then
      some ⟨k, i.reserved, .drive d, some .b, .unused, .unused, false⟩ else s.cart? m := by
    have h := find?_insertCart (c := ⟨k, i.reserved, .drive d, some .b, .unused, .unused, false⟩) s.library.table m
      fun hm => by subst hm; exact hc
    rw [← hlib] at h
    refine Eq.trans h ?_
    rw [hlib]
    rfl
  have hinsp : (act (nameInDrive d k .b w)).insp? i.id
      = some { i with phase := .shelving, orderDue := true, awaitReady := false, reserved := none } := by
    have h1 := insp?_updInsp_self (s := w) (f := fun i => { i with phase := .shelving, orderDue := true, awaitReady := false })
      (fun _ => rfl) ((insp?_of_library hlib).trans hi)
    exact insp?_updInsp_self (s := wantMove i.id .shelving (nameInDrive d k .b w)) (f := fun i => { i with reserved := none })
      (fun _ => rfl) h1
  have hdrive : (act (nameInDrive d k .b w)).drive d = { w.drive d with cart := some (.number k), sideUp := some .b } :=
    State.drive_updDrive_self w d fun r => { r with cart := some (.number k), sideUp := some .b }
  refine ⟨?_, fun m hm => ?_, (insp?_of_library hn.library).trans hinsp, ?_, ?_⟩
  · rw [cart?_of_table (congrArg (·.table) hn.library), hfind, if_pos rfl]
    rfl
  · rw [cart?_of_table (congrArg (·.table) hn.library), hfind, if_neg hm]
  · rw [hn.drive, hdrive]
  · rw [hn.drive, hdrive]

/-- Settles O48. -/
theorem labelCompletions : Obligations.LabelCompletions := by
  intro s d f drive hf hv hk
  have hx : unasked (s.drive d) := ⟨hv, hk⟩
  refine ⟨fun n x v c hc => ?_, fun n x v c k b hc => ?_, fun id i hi => ?_⟩
  · intro taken again
    refine ⟨fun k b hcmd hu => ⟨?_, ?_⟩, fun k b hcmd hu => ⟨?_, fun ho hcart hside hp => ?_⟩⟩
    · have hw := (exec_write hf hcmd .done).trans (congrArg followed (writeAnswer_volume (unit_cleared hu) _))
      refine ⟨_, hw, ?_⟩
      have hrest := unitOver_rest hu rfl hx
      have hat := unitOver_atRest hu rfl hx
      refine ⟨?_, ?_, hat⟩
      · show (unitOver d s).library = _
        rw [hrest]
      · have hrun : (unitOver d s).run = s.run := by rw [hrest]
        rw [← hrun]
        rfl
    · exact ⟨labelFailedAgain n x (unitOver d s),
        (exec_write hf hcmd .alreadyWritten).trans (congrArg followed (writeAnswer_volume (unit_cleared hu) _)),
        labelFailedAgain_leaves hc (unitOver_rest hu rfl hx) (unitOver_atRest hu rfl hx)⟩
    · exact ⟨labelFailedAgain n x (unitOver d s),
        (exec_verify hf hcmd).trans (congrArg followed (verifyAnswer_volume (unit_cleared hu) _)),
        labelFailedAgain_leaves hc (unitOver_rest hu rfl hx) (unitOver_atRest hu rfl hx)⟩
    · have hd := unitOver_drive hu rfl hx
      refine ⟨labelVerified d n x (unitOver d s),
        (exec_verify hf hcmd).trans (congrArg followed (verifyAnswer_volume (unit_cleared hu) _)),
        labelVerified_leaves hc (unitOver_rest hu rfl hx) (unitOver_atRest hu rfl hx) ho ?_ ?_ fun e he => ?_⟩
      · show ((unitOver d s).drive d).cart = _
        rw [hd]
        exact hcart
      · show ((unitOver d s).drive d).sideUp = _
        rw [hd]
        exact hside
      · show ((unitOver d s).drive e).pin = _
        rw [unitOver_eq hu rfl hx, State.drive_updDrive_ne _ _ he, clearCommand, State.drive_updDrive_ne _ _ he]
        exact hp e he
  · intro late
    refine ⟨fun w hcmd hu => ?_, fun q hcmd hu => ?_⟩
    · exact ⟨labelFailed n x (unitOver d s), (exec_write hf hcmd w).trans (congrArg followed (writeAnswer_volume (unit_cleared hu) _)),
        labelFailed_late hc (unitOver_rest hu rfl hx) (unitOver_atRest hu rfl hx)⟩
    · exact ⟨labelFailed n x (unitOver d s), (exec_verify (v := [q]) hf hcmd).trans (congrArg followed (verifyAnswer_volume (unit_cleared hu) _)),
        labelFailed_late hc (unitOver_rest hu rfl hx) (unitOver_atRest hu rfl hx)⟩
  · intro rejected
    refine ⟨fun k b bytes hcmd hu => ⟨fun ha => ?_, ?_⟩, fun k b hcmd hu => ?_⟩
    · exact (exec_write hf hcmd .done).trans (congrArg followed ((writeAnswer_label (unit_cleared hu) _).trans
        (issue_continueUnit .libraryMap hu ha rfl)))
    · exact ⟨_, (exec_write hf hcmd .alreadyWritten).trans (congrArg followed (writeAnswer_label (unit_cleared hu) _)),
        labelWriteFailed_leaves hi (unitOver_rest hu rfl hx) (unitOver_atRest hu rfl hx)⟩
    · have hrest := unitOver_rest hu rfl hx
      have hat := unitOver_atRest hu rfl hx
      have hi' : (unitOver d s).insp? id = some i := (insp?_of_library (by rw [hrest])).trans hi
      have hverify {v : List SectorVerify} (hl : v.length = 1) : exec (.verifyCompletion d v) s
          = followed (cartLabelVerifyAnswer d id (v.all (· == .pass)) false (clearCommand d s)) :=
        (exec_verify (k := k) (b := b) hf (by rw [hl]; exact hcmd)).trans
          (congrArg followed (verifyAnswer_label (unit_cleared hu) _))
      refine ⟨⟨_, (hverify rfl).trans (congrArg followed (cartLabelVerify_eq hi' false)),
        labelWriteFailed_leaves hi hrest hat⟩, fun hphase => ?_, fun m hphase htaken hnone => ?_⟩
      · refine ⟨_, (hverify rfl).trans (congrArg followed ((cartLabelVerify_eq hi' true).trans
          ((if_neg (by decide)).trans (if_pos hphase)))), ?_, ?_, ?_⟩
        · exact insp?_updInsp_self (s := unitOver d s) (f := fun i =>
            { i with phase := .flipping, orderDue := true, awaitReady := false }) (fun _ => rfl) hi'
        · show (unitOver d s).library.table = _
          rw [hrest]
        · exact ⟨hat.1, hat.2.1⟩
      · refine ⟨_, (hverify rfl).trans (congrArg followed ((cartLabelVerify_eq hi' true).trans
          ((if_neg (by decide)).trans (if_neg ?_)))), recordCreated_leaves hi hrest htaken hnone⟩
        rw [hphase]
        decide

end Sys2Proof.Laws.LabelUnits

/-!
PROOF. The blank choice made again (R100) is not always the choice before it: the obligation O17 is refuted.

The statement is of every state, and takes the blank that is chosen from the records as they are before the filing request
is withdrawn. With the request the orders of the FILING plan leave the list, an IMPORT plan that held one of them is
removed, and its inspection asks for a drive again (R92): `updInsp` then writes the phase WAITING_DRIVE into every inspection
of that id. In a state with two inspections of one id, of which the second is carrying a cartridge home, that cartridge
joins the pool (R26) between the choice that the statement names and the choice that the Filing Writer makes. In a state
whose inspections have distinct ids the pool stays as it is.
-/

namespace Sys2Proof.Laws.BlankAgain

open Sys2Proof Sys2Proof.Machine

/-- A cartridge on the shelf, its side A BLANK and its side B FULL. -/
def blankCart (n : Nat) : Cartridge :=
  ⟨n, some n, .shelf, none, .unused, ⟨.full, some n, 300000, 0, 0⟩, false⟩

/-- An inspection whose cartridge an IMPORT plan is to fetch from the loading slot. -/
def fetched : Inspection := ⟨0, .loadingSlot, .loadingSlot, .carrying, some 9, none, none, some 1, false, false⟩

/-- An inspection of the same id, carrying cartridge 3 home. -/
def shelvedTwin : Inspection := ⟨0, .loadingSlot, .drive 1, .shelving, some 3, some (.label 3 .a), some 3, none, false, false⟩

/-- The DEMOUNT of the FILING plan, which the IMPORT plan names as well. -/
def sharedOrder : MoveOrder := ⟨1, .demount, .number 7, .drive 0, .shelf 7, none, .filing, none, .filingRun, .waiting⟩

/-- A run in OPENING whose chosen blank, side A of cartridge 3, is out of the pool while cartridge 3 is carried home. -/
def twins : State :=
  { State.reset with
    run := { Run.atReset with state := .opening, chosen := some (3, .a) }
    library := { Library.initial with
      table := [blankCart 3, blankCart 5], nextVol := 8, nextCart := 6, inspections := [fetched, shelvedTwin] }
    arm := { Arm.initial with orders := [sharedOrder] }
    planner := { Planner.initial with
      filingReq := some (3, .a)
      plans := [⟨0, .filing, .victim, .number 3, .a, none, some 1, none, false⟩,
        ⟨1, .importJob, .mount, .inspection 0, .a, none, none, some 1, false⟩] } }

/-- The blank that the statement names: cartridge 3 is not in the pool. -/
theorem twins_choice : (3, Side.a) ∉ twins.pool ∧ blankChoice twins (some 3) = some (5, .a) := by decide +kernel

/-- The blank that the Filing Writer chooses. -/
theorem twins_act : (filingAct twins).map (fun t => t.run.chosen) = some (some (3, .a)) := by decide +kernel

/-- Refutes O17: where two inspections have one id, the blank chosen again is another than the choice made on the state
before the act. -/
theorem not_filingWriterActs : ¬ Obligations.FilingWriterActs := by
  rintro ⟨-, -, acts⟩
  obtain ⟨hgone, hchoice⟩ := twins_choice
  obtain ⟨chosen, -⟩ := acts twins
  obtain ⟨-, again⟩ := chosen (3, .a) rfl
  obtain ⟨some, -⟩ := again rfl (fun j h => nomatch h) hgone
  obtain ⟨t, ht, hrun, -⟩ := some (5, .a) hchoice
  have hact := twins_act
  rw [ht, Option.map_some, hrun] at hact
  exact absurd hact (by decide)

end Sys2Proof.Laws.BlankAgain

/-!
PROOF. Drives as the Mount Planner sees them (R79, R82, R83, R91), and the orders of a plan (R84).
-/

namespace Sys2Proof.Laws.Planning

open Sys2Proof Sys2Proof.Machine Sys2Proof.Laws.DriveResetting Sys2Proof.Laws.Asking Sys2Proof.Laws.Admissions

/-! ### The first, and the least recently active, of the drives with a property -/

theorem canTake_unspoken {s : State} {b : Bool} {d : DriveId} (h : s.canTake b d) : ¬ s.isSpokenFor d := by
  obtain ⟨-, -, hspoken, -⟩ := h
  exact hspoken

theorem canYield_unspoken {s : State} {d : DriveId} (h : s.canYield d) : ¬ s.isSpokenFor d := by
  obtain ⟨-, -, -, -, -, -, hspoken, -⟩ := h
  exact hspoken

/-- The first element with a property in a list of all drives in order. -/
theorem find?_sorted {l : List DriveId} {r : DriveId → DriveId → Prop} (hall : ∀ e, e ∈ l) (hs : l.Pairwise r)
    (hr : ∀ {a b}, r a b → ¬ r b a) {p : DriveId → Bool} {d : DriveId} :
    l.find? p = some d ↔ p d = true ∧ ∀ e, p e = true → e = d ∨ r d e := by
  have hfirst {d : DriveId} (h : l.find? p = some d) (e : DriveId) (he : p e = true) : e = d ∨ r d e := by
    obtain ⟨-, before, after, hsplit, hnot⟩ := List.find?_eq_some_iff_append.1 h
    have hmem := hall e
    rw [hsplit] at hmem hs
    rcases List.mem_append.1 hmem with hb | ha
    · have := hnot e hb
      rw [he] at this
      exact absurd this (by decide)
    · rcases List.mem_cons.1 ha with rfl | ha
      · exact .inl rfl
      · exact .inr ((List.pairwise_cons.1 (List.pairwise_append.1 hs).2.1).1 e ha)
  refine ⟨fun h => ⟨List.find?_some h, hfirst h⟩, fun ⟨hd, hmin⟩ => ?_⟩
  cases h : l.find? p with
  | none => exact absurd hd (List.find?_eq_none.1 h d (hall d))
  | some e =>
    have he : p e = true := List.find?_some h
    obtain rfl | hde := hmin e he
    · rfl
    · obtain rfl | hed := hfirst h d hd
      · rfl
      · exact absurd hed (hr hde)

/-- The first of the drives with a property is the lowest. -/
theorem find?_allDrives_some {p : DriveId → Bool} {d : DriveId} :
    allDrives.find? p = some d ↔ p d = true ∧ ∀ e, p e = true → d ≤ e := by
  rw [find?_sorted mem_allDrives (show allDrives.Pairwise (· < ·) by decide) fun h => not_lt_of_gt h]
  refine and_congr_right fun _ => forall₂_congr fun e _ => ?_
  rw [le_iff_eq_or_lt, eq_comm]

theorem find?_allDrives_none {p : DriveId → Bool} : allDrives.find? p = none ↔ ∀ d, p d = false := by
  rw [List.find?_eq_none]
  exact ⟨fun h d => Bool.eq_false_iff.2 (h d (mem_allDrives d)), fun h d _ => Bool.eq_false_iff.1 (h d)⟩

/-- Drive `d` is not more recently active than `e`, and the lower of the two on a tie (R83). -/
def yieldsBefore (s : State) (d e : DriveId) : Prop :=
  (s.drive d).lastActive < (s.drive e).lastActive ∨ (s.drive d).lastActive = (s.drive e).lastActive ∧ d ≤ e

theorem yieldsBefore_refl (s : State) (d : DriveId) : yieldsBefore s d d := .inr ⟨rfl, le_rfl⟩

theorem yieldsBefore_trans {s : State} {a b c : DriveId} (h : yieldsBefore s a b) (k : yieldsBefore s b c) : yieldsBefore s a c := by
  obtain h | ⟨h, h'⟩ := h <;> obtain k | ⟨k, k'⟩ := k
  · exact .inl (h.trans k)
  · exact .inl (k ▸ h)
  · exact .inl (h ▸ k)
  · exact .inr ⟨h.trans k, h'.trans k'⟩

theorem yieldsBefore_antisymm {s : State} {a b : DriveId} (h : yieldsBefore s a b) (k : yieldsBefore s b a) : a = b := by
  obtain h | ⟨h, h'⟩ := h <;> obtain k | ⟨k, k'⟩ := k
  · omega
  · omega
  · omega
  · exact le_antisymm h' k'

/-- Of a drive and the drives above it in order, the fold keeps the one that is least recently active. -/
theorem foldl_lessActive {s : State} (ds : List DriveId) (a : DriveId) (h : (a :: ds).Pairwise (· < ·)) :
    ds.foldl s.lessActive a ∈ a :: ds ∧ ∀ e ∈ a :: ds, yieldsBefore s (ds.foldl s.lessActive a) e := by
  induction ds generalizing a with
  | nil => exact ⟨List.mem_cons_self .., fun e he => List.mem_singleton.1 he ▸ yieldsBefore_refl s a⟩
  | cons b ds ih =>
    obtain ⟨hab, hds⟩ := List.pairwise_cons.1 h
    have hb := hab b (List.mem_cons_self ..)
    have hpick : s.lessActive a b = a ∧ yieldsBefore s a b ∨ s.lessActive a b = b ∧ yieldsBefore s b a := by
      unfold State.lessActive
      split
      next hlt => exact .inr ⟨rfl, .inl hlt⟩
      next hge =>
        refine .inl ⟨rfl, ?_⟩
        rcases Nat.lt_or_ge (s.drive a).lastActive (s.drive b).lastActive with hlt | hle
        · exact .inl hlt
        · exact .inr ⟨by omega, hb.le⟩
    rw [List.foldl_cons]
    obtain ⟨hp, hbef⟩ | ⟨hp, hbef⟩ := hpick
    · rw [hp]
      have hsorted : (a :: ds).Pairwise (· < ·) :=
        List.pairwise_cons.2 ⟨fun e he => hab e (List.mem_cons_of_mem _ he), (List.pairwise_cons.1 hds).2⟩
      obtain ⟨hmem, hall⟩ := ih a hsorted
      refine ⟨?_, fun e he => ?_⟩
      · rcases List.mem_cons.1 hmem with h | h
        · rw [h]; exact List.mem_cons_self ..
        · exact List.mem_cons_of_mem _ (List.mem_cons_of_mem _ h)
      · rcases List.mem_cons.1 he with rfl | he
        · exact hall _ (List.mem_cons_self ..)
        · rcases List.mem_cons.1 he with rfl | he
          · exact yieldsBefore_trans (hall a (List.mem_cons_self ..)) hbef
          · exact hall e (List.mem_cons_of_mem _ he)
    · rw [hp]
      obtain ⟨hmem, hall⟩ := ih b hds
      refine ⟨List.mem_cons_of_mem _ hmem, fun e he => ?_⟩
      rcases List.mem_cons.1 he with rfl | he
      · exact yieldsBefore_trans (hall b (List.mem_cons_self ..)) hbef
      · exact hall e he

/-- The least recently active of the drives with a property (R83). -/
theorem leastActive_some {s : State} {p : DriveId → Bool} {can : DriveId → Prop} (hp : ∀ d, p d = true ↔ can d)
    {d : DriveId} : s.leastActive (allDrives.filter p) = some d ↔ s.leastRecent can d := by
  have hmem (e : DriveId) : e ∈ allDrives.filter p ↔ can e := by
    rw [List.mem_filter, hp]
    exact and_iff_right (mem_allDrives e)
  have hsorted : (allDrives.filter p).Pairwise (· < ·) :=
    List.Pairwise.filter p (show allDrives.Pairwise (· < ·) by decide)
  generalize allDrives.filter p = ds at hmem hsorted
  cases ds with
  | nil =>
    refine ⟨nofun, fun h => ?_⟩
    exact absurd ((hmem d).2 h.1) List.not_mem_nil
  | cons a ds =>
    obtain ⟨hin, hall⟩ := foldl_lessActive (s := s) ds a hsorted
    have hleast : s.leastRecent can (ds.foldl s.lessActive a) :=
      ⟨(hmem _).1 hin, fun e he => hall e ((hmem e).2 he)⟩
    constructor
    · intro h
      exact Option.some.inj h ▸ hleast
    · intro h
      exact congrArg some (yieldsBefore_antisymm (hleast.2 d h.1) (h.2 _ hleast.1))

theorem leastActive_none {s : State} {p : DriveId → Bool} {can : DriveId → Prop} (hp : ∀ d, p d = true ↔ can d) :
    s.leastActive (allDrives.filter p) = none ↔ ∀ d, ¬ can d := by
  have hnil : s.leastActive (allDrives.filter p) = none ↔ allDrives.filter p = [] := by
    cases allDrives.filter p with
    | nil => exact ⟨fun _ => rfl, fun _ => rfl⟩
    | cons a ds => exact ⟨nofun, nofun⟩
  rw [hnil, List.filter_eq_nil_iff]
  exact ⟨fun h d hd => h d (mem_allDrives d) ((hp d).2 hd), fun h d _ hd => h d ((hp d).1 hd)⟩

/-! ### Drives spoken for, empty drives, victims and claims (R79, R82, R83, R91) -/

section
variable {s : State} {d : DriveId}

theorem planned_iff : s.planned d = true ↔ ∃ p ∈ s.planner.plans, p.drive = d := by
  unfold State.planned State.planFor
  rw [List.find?_isSome]
  simp only [decide_eq_true_eq]

theorem planned_false : s.planned d = false ↔ ∀ p ∈ s.planner.plans, p.drive ≠ d := by
  rw [← Bool.not_eq_true, planned_iff]
  push Not
  rfl

theorem usesDrive_iff {o : MoveOrder} : o.usesDrive d = true ↔ o.source = .drive d ∨ o.dest = .drive d := by
  unfold MoveOrder.usesDrive
  rw [Bool.or_eq_true, decide_eq_true_eq, decide_eq_true_eq]

theorem heldBy_isSome : (s.heldBy d).isSome = true ↔ ∃ i ∈ s.library.inspections, i.place = .drive d := by
  unfold State.heldBy
  rw [List.find?_isSome]
  simp only [decide_eq_true_eq]

theorem spokenFor_iff : s.spokenFor d = true ↔ s.isSpokenFor d := by
  unfold State.spokenFor State.isSpokenFor
  rw [Bool.or_eq_true, Bool.or_eq_true, planned_iff, heldBy_isSome, List.any_eq_true, or_assoc]
  simp only [usesDrive_iff]

theorem highestFitted_iff (h : (s.drive d).fitted = true) :
    s.highestFitted = some d ↔ ∀ e, (s.drive e).fitted = true → e ≤ d := by
  unfold State.highestFitted
  rw [find?_sorted (r := (· > ·)) (fun e => by revert e; decide) (by decide) fun h => not_lt_of_gt h]
  refine Iff.trans (and_iff_right h) (forall₂_congr fun e _ => ?_)
  rw [le_iff_eq_or_lt, gt_iff_lt]

/-- The test of the search for an empty drive (R82). -/
def emptyTest (s : State) (reserve : Bool) (d : DriveId) : Bool :=
  (s.drive d).fitted && (s.drive d).state == .empty && !s.spokenFor d
    && !(reserve && s.planner.reserve && s.run.state == .closed && s.highestFitted == some d)

theorem emptyTest_iff {reserve : Bool} : emptyTest s reserve d = true ↔ s.canTake reserve d := by
  unfold emptyTest State.canTake
  simp only [Bool.and_eq_true, beq_iff_eq, Bool.not_eq_true', and_assoc]
  refine and_congr_right fun hf => and_congr_right fun _ => ?_
  rw [← Bool.not_eq_true, spokenFor_iff]
  refine and_congr_right fun _ => ?_
  rw [← highestFitted_iff hf, ← Bool.not_eq_true]
  simp only [Bool.and_eq_true, beq_iff_eq, and_assoc]

theorem emptyDrive_some {reserve : Bool} : s.emptyDrive reserve = some d ↔ s.takesEmpty reserve d := by
  unfold State.takesEmpty
  rw [← emptyTest_iff]
  refine Iff.trans find?_allDrives_some (and_congr_right fun _ => forall_congr' fun e => ?_)
  rw [← emptyTest_iff]
  rfl

theorem emptyDrive_none {reserve : Bool} : s.emptyDrive reserve = none ↔ ∀ d, ¬ s.canTake reserve d := by
  refine Iff.trans find?_allDrives_none (forall_congr' fun e => ?_)
  rw [← emptyTest_iff, Bool.not_eq_true]
  rfl

theorem labelling_iff : s.labelling d = true ↔ ∃ j, s.run.label = some j ∧ j.drive = d := by
  unfold State.labelling
  rw [Option.any_eq_true]
  simp only [decide_eq_true_eq]

theorem labelling_false : s.labelling d = false ↔ ∀ j, s.run.label = some j → j.drive ≠ d := by
  rw [← Bool.not_eq_true, labelling_iff]
  push Not
  rfl

theorem queueIdle_iff {x : Drive} : x.queueIdle = true ↔ x.queue = [] ∧ x.fetchUnit = false := by
  unfold Drive.queueIdle
  rw [Bool.and_eq_true, List.isEmpty_iff, Bool.not_eq_true']

theorem wanted_false : s.wanted d = false ↔ ∀ w ∈ s.planner.waiters, (s.drive d).cart ≠ some (.number w.cart) := by
  unfold State.wanted
  split
  next n hc =>
    rw [hc, List.any_eq_false]
    refine forall₂_congr fun w _ => ?_
    rw [decide_eq_true_eq]
    exact not_congr ⟨fun h => h ▸ rfl, fun h => (CartRef.number.inj (Option.some.inj h)).symm⟩
  next hno => exact ⟨fun _ w _ h => hno _ h, fun _ => rfl⟩

theorem victimOk_iff : victimOk s d = true ↔ s.canYield d := by
  unfold victimOk State.canYield
  simp only [Bool.and_eq_true, Bool.or_eq_true, beq_iff_eq, Bool.not_eq_true', and_assoc]
  rw [labelling_false, queueIdle_iff, wanted_false, ← spokenFor_iff, Bool.not_eq_true]
  simp only [and_assoc]

theorem victim_some : s.victim = some d ↔ s.leastRecent s.canYield d := leastActive_some fun _ => victimOk_iff

theorem victim_none : s.victim = none ↔ ∀ d, ¬ s.canYield d := leastActive_none fun _ => victimOk_iff

theorem claimOk_iff : claimOk s d = true ↔ s.canClaim d := by
  unfold claimOk State.canClaim
  simp only [Bool.and_eq_true, Bool.or_eq_true, beq_iff_eq, Bool.not_eq_true', and_assoc]
  rw [← spokenFor_iff, Bool.not_eq_true]
  simp only [or_assoc]

theorem claimable_some : s.claimable = some d ↔ s.leastRecent s.canClaim d := leastActive_some fun _ => claimOk_iff

theorem claimable_none : s.claimable = none ↔ ∀ d, ¬ s.canClaim d := leastActive_none fun _ => claimOk_iff

end

/-! ### The orders of a plan (R82 to R84) -/

/-- The order that brings a cartridge with home slot `home` into drive `d` (R82, R92). -/
def bringing (w : Want) (home k : Nat) (d : DriveId) (after : Option Nat) : MoveOrder :=
  match w.cart with
  | .number _ => ⟨k, .mount, w.cart, .shelf home, .drive d, some w.side, w.group, after, w.originator, .waiting⟩
  | .inspection _ => ⟨k, .inspectLoad, w.cart, .loadingSlot, .drive d, some .a, w.group, after, w.originator, .waiting⟩

/-- The DEMOUNT of a victim (R83). -/
def yielding (w : Want) (k : Nat) (c : CartRef) (d : DriveId) (home : Nat) : MoveOrder :=
  ⟨k, .demount, c, .drive d, .shelf home, none, w.group, none, w.originator, .waiting⟩

/-- The state with orders at the end of the list and a plan in place of any for its drive. -/
def withPlan (os : List MoveOrder) (counter : Nat) (p : Plan) (s : State) : State :=
  { s with
    arm := { s.arm with orders := s.arm.orders ++ os, counter := counter }
    planner := { s.planner with plans := (s.planner.plans.filter fun q => q.drive ≠ p.drive) ++ [p] } }

/-- The order for the want can be asked for: the records give its source, and it fits its kind (R42). -/
structure Brings (s : State) (w : Want) (home : Nat) : Prop where
  order : ∀ (u : State) d after, u.library = s.library → bringOrder u w d after = some (bringing w home 0 d after)
  fits : ∀ (u : State) d after, u.library = s.library → orderFits u (bringing w home 0 d after) = true

theorem brings_number {s : State} {w : Want} {n h : Nat} (hw : w.cart = .number n) (hh : s.homeOf (.number n) = some h)
    (hg : w.group = .fetch ∨ w.group = .filing) : Brings s w h where
  order u d after hu := by
    have hhome : u.homeOf (.number n) = some h := by rw [← hh, State.homeOf, State.homeOf, State.cart?, hu]; rfl
    unfold bringOrder bringing
    rw [hw]
    dsimp only
    rw [hhome]
    rfl
  fits u d after hu := by
    have hhome : u.homeOf (.number n) = some h := by rw [← hh, State.homeOf, State.homeOf, State.cart?, hu]; rfl
    unfold orderFits bringing
    rw [hw]
    dsimp only
    rw [hhome]
    obtain hg | hg := hg <;> rw [hg] <;> simp [ArmPlace.isDrive]

theorem brings_inspection {s : State} {w : Want} {id : Nat} (hw : w.cart = .inspection id) (hg : w.group = .lib) (h : Nat) :
    Brings s w h where
  order u d after _ := by
    unfold bringOrder bringing
    rw [hw]
  fits u d after _ := by
    unfold orderFits bringing
    rw [hw, hg]
    rfl

section
variable {s : State} {w : Want} {home : Nat} {d : DriveId} (hl : s.arm.level ≠ .halted)
include hl

theorem planMount_ok (hb : Brings s w home) (hroom : s.arm.orders.length < 16) :
    planMount w d s = some (withPlan [bringing w home (nextNumber s) d none] (succNumber (nextNumber s))
      ⟨d, w.purpose, .mount, w.cart, w.side, w.volume, none, some (nextNumber s), false⟩ s) := by
  have horder : { bringing w home 0 d none with number := nextNumber s, status := OrderStatus.waiting }
      = bringing w home (nextNumber s) d none := by
    unfold bringing
    cases w.cart <;> rfl
  unfold planMount
  rw [hb.order s d none rfl, Option.bind_some, askOrder_ok hl (hb.fits s d none rfl) hroom, ← horder]
  rfl

theorem planMount_full (hb : Brings s w home) (hfull : 16 ≤ s.arm.orders.length) : planMount w d s = none := by
  unfold planMount
  rw [hb.order s d none rfl, Option.bind_some, askOrder_full hl (hb.fits s d none rfl) hfull]

theorem planFlip_ok (hg : w.group ≠ .hold) (hroom : s.arm.orders.length < 16) :
    planFlip w d s = some (withPlan
      [⟨nextNumber s, .flip, w.cart, .drive d, .drive d, none, w.group, none, w.originator, .waiting⟩]
      (succNumber (nextNumber s)) ⟨d, w.purpose, .flip, w.cart, w.side, w.volume, none, some (nextNumber s), false⟩ s) := by
  unfold planFlip
  rw [askOrder_ok hl (by simp [orderFits, ArmPlace.isDrive, hg]) hroom]
  rfl

theorem planFlip_full (hg : w.group ≠ .hold) (hfull : 16 ≤ s.arm.orders.length) : planFlip w d s = none := by
  unfold planFlip
  rw [askOrder_full hl (by simp [orderFits, ArmPlace.isDrive, hg]) hfull]

end

theorem planFlip_halted {s : State} {w : Want} {d : DriveId} (h : s.arm.level = .halted) : planFlip w d s = none := by
  unfold planFlip
  rw [askOrder_halted h]

theorem planVictim_full {s : State} {w : Want} {d : DriveId} (h : 15 ≤ s.arm.orders.length) : planVictim w d s = none :=
  if_pos (by simp only [State.listRoom, Config.orderListMax]; omega)

/-- The number that the second order of a plan takes. -/
def secondNumber (w : Want) (c : CartRef) (d : DriveId) (home : Nat) (s : State) : Nat :=
  nextNumber (asked (yielding w 0 c d home) s)

theorem planVictim_ok {s : State} {w : Want} {home hm : Nat} {d : DriveId} {c : CartRef} (hl : s.arm.level ≠ .halted)
    (hb : Brings s w home) (hc : (s.drive d).cart = some c) (hh : s.homeOf c = some hm) (hroom : s.arm.orders.length < 15) :
    planVictim w d s = some (withPlan
      [yielding w (nextNumber s) c d hm, bringing w home (secondNumber w c d hm s) d (some (nextNumber s))]
      (succNumber (secondNumber w c d hm s))
      ⟨d, w.purpose, .victim, w.cart, w.side, w.volume, some (nextNumber s), some (secondNumber w c d hm s), false⟩ s) := by
  have hfit : orderFits s (yielding w 0 c d hm) = true := by simp [orderFits, yielding, ArmPlace.isDrive, hh]
  have hroom' : (asked (yielding w 0 c d hm) s).arm.orders.length < 16 := by
    show (s.arm.orders ++ [_]).length < 16
    rw [List.length_append, List.length_singleton]
    omega
  have hsecond : askOrder (bringing w home 0 d (some (nextNumber s))) (asked (yielding w 0 c d hm) s)
      = .ok (secondNumber w c d hm s, asked (bringing w home 0 d (some (nextNumber s))) (asked (yielding w 0 c d hm) s)) :=
    askOrder_ok (s := asked (yielding w 0 c d hm) s) hl (hb.fits _ d _ rfl) hroom'
  have horder : { bringing w home 0 d (some (nextNumber s)) with
      number := secondNumber w c d hm s, status := OrderStatus.waiting }
      = bringing w home (secondNumber w c d hm s) d (some (nextNumber s)) := by
    unfold bringing
    cases w.cart <;> rfl
  unfold planVictim
  rw [if_neg (by simp only [State.listRoom, Config.orderListMax]; omega), hc]
  dsimp only
  rw [hh]
  dsimp only
  rw [show askOrder ⟨0, .demount, c, .drive d, .shelf hm, none, w.group, none, w.originator, .waiting⟩ s
    = .ok (nextNumber s, asked (yielding w 0 c d hm) s) from askOrder_ok hl hfit (by omega)]
  dsimp only
  rw [hb.order (asked (yielding w 0 c d hm) s) d _ rfl, Option.map_some, hsecond, ← horder]
  refine congrArg some ?_
  unfold withPlan putPlan asked State.updPlanner
  simp only [List.append_assoc, List.singleton_append]
  rfl

/-- The two numbers of a victim's plan (R41). -/
theorem secondNumber_unused {s : State} {w : Want} {hm : Nat} {d : DriveId} {c : CartRef} (h : s.arm.orders.length < 15) :
    nextNumber s ≠ secondNumber w c d hm s ∧ s.unused (nextNumber s) ∧ s.unused (secondNumber w c d hm s) := by
  have hlen : (asked (yielding w 0 c d hm) s).arm.orders.length ≤ 16 := by
    show (s.arm.orders ++ [_]).length ≤ 16
    rw [List.length_append, List.length_singleton]
    omega
  have hk := nextNumber_unused hlen
  have hmem (o : MoveOrder) (ho : o ∈ s.arm.orders) : o ∈ (asked (yielding w 0 c d hm) s).arm.orders :=
    List.mem_append_left _ ho
  refine ⟨?_, nextNumber_unused (by omega), fun o ho => hk o (hmem o ho)⟩
  exact (hk { yielding w 0 c d hm with number := nextNumber s, status := .waiting }
    (List.mem_append_right _ (List.mem_singleton.2 rfl))).1

/-- Where no plan names the drive the new plan joins the others. -/
theorem filter_unplanned {s : State} {d : DriveId} (h : ∀ p ∈ s.planner.plans, p.drive ≠ d) :
    (s.planner.plans.filter fun q => q.drive ≠ d) = s.planner.plans :=
  List.filter_eq_self.2 fun p hp => decide_eq_true (h p hp)

theorem withPlan_unplanned {s : State} {p : Plan} (h : ∀ q ∈ s.planner.plans, q.drive ≠ p.drive) (os : List MoveOrder)
    (counter : Nat) : withPlan os counter p s = { s with
      arm := { s.arm with orders := s.arm.orders ++ os, counter := counter }
      planner := { s.planner with plans := s.planner.plans ++ [p] } } := by
  rw [withPlan, filter_unplanned h]

theorem planBring_empty {s : State} {w : Want} {reserve : Bool} {d : DriveId} (h : s.takesEmpty reserve d) :
    planBring w reserve s = planMount w d s := by
  unfold planBring
  rw [emptyDrive_some.2 h]

theorem planBring_victim {s : State} {w : Want} {reserve : Bool} {d : DriveId} (hno : ∀ d, ¬ s.canTake reserve d)
    (h : s.leastRecent s.canYield d) : planBring w reserve s = planVictim w d s := by
  unfold planBring
  rw [emptyDrive_none.2 hno]
  dsimp only
  rw [victim_some.2 h]
  rfl

theorem planBring_none {s : State} {w : Want} {reserve : Bool} (hno : ∀ d, ¬ s.canTake reserve d) (h : ∀ d, ¬ s.canYield d) :
    planBring w reserve s = none := by
  unfold planBring
  rw [emptyDrive_none.2 hno]
  dsimp only
  rw [victim_none.2 h]
  rfl

/-- What follows a drive found for the wants `w`, as the statements give it (R82 to R84): `follow` is what the act makes of
the plan, and `planned` what the statement says of it. -/
theorem broughtBy_planBring {s t : State} {w : Want} {home : Nat} {reserve : Bool} {planned : Plan → State → State}
    {follow : State → State} (hl : s.arm.level ≠ .halted) (hb : Brings s w home)
    (ht : (∃ d, s.canTake reserve d) ∨ (∃ d, s.canYield d) → t = (planBring w reserve s).elim s follow)
    (hf : ∀ os counter p, p.purpose = w.purpose → p.volume = w.volume →
      follow (withPlan os counter p s) = planned p (withPlan os counter p s))
    (harm : ∀ p u, (planned p u).arm = u.arm) : broughtBy s t w home reserve planned := by
  have hplanned {d : DriveId} (h : ¬ s.isSpokenFor d) : ∀ p ∈ s.planner.plans, p.drive ≠ d :=
    fun p hp hd => h (.inl ⟨p, hp, hd⟩)
  have hmade {os : List MoveOrder} {counter : Nat} {p : Plan} (hp : p.purpose = w.purpose) (hv : p.volume = w.volume)
      (hfree : ∀ q ∈ s.planner.plans, q.drive ≠ p.drive) (hr : t = follow (withPlan os counter p s)) :
      t = planned p { s with
        arm := { s.arm with orders := s.arm.orders ++ os, counter := t.arm.counter }
        planner := { s.planner with plans := s.planner.plans ++ [p] } } := by
    have heq := hr.trans (hf os counter p hp hv)
    have hcounter : t.arm.counter = counter := by rw [heq, harm]; rfl
    rw [hcounter, heq, withPlan_unplanned hfree]
  refine ⟨fun d hd => ⟨fun hroom => ?_, fun hfull => ?_⟩, fun hno d c h hd hc hh => ⟨fun hroom => ?_, fun hfull => ?_⟩⟩
  · refine ⟨nextNumber s, nextNumber_unused hroom.le, ?_⟩
    refine hmade (os := [bringing w home (nextNumber s) d none]) (counter := succNumber (nextNumber s)) rfl rfl
      (hplanned (canTake_unspoken hd.1)) ?_
    rw [ht (.inl ⟨d, hd.1⟩), planBring_empty hd, planMount_ok hl hb hroom]
    rfl
  · rw [ht (.inl ⟨d, hd.1⟩), planBring_empty hd, planMount_full hl hb hfull]
    rfl
  · obtain ⟨hne, hj, hk⟩ := secondNumber_unused (w := w) (hm := h) (d := d) (c := c) hroom
    refine ⟨_, _, hne, hj, hk, ?_⟩
    refine hmade (os := [yielding w (nextNumber s) c d h,
      bringing w home (secondNumber w c d h s) d (some (nextNumber s))])
      (counter := succNumber (secondNumber w c d h s)) rfl rfl (hplanned (canYield_unspoken hd.1)) ?_
    rw [ht (.inr ⟨d, hd.1⟩), planBring_victim hno hd, planVictim_ok hl hb hc hh hroom]
    rfl
  · rw [ht (.inr ⟨d, hd.1⟩), planBring_victim hno hd, planVictim_full hfull]
    rfl

end Sys2Proof.Laws.Planning

/-!
PROOF. A planning pass and the waiters of the volume wait list (R80 to R86, R67). The obligation O52.
-/

namespace Sys2Proof.Laws.WaiterPlanning

open Sys2Proof Sys2Proof.Machine Sys2Proof.Laws.Asking Sys2Proof.Laws.Planning Sys2Proof.Laws.Settling
open Sys2Proof.Laws.DriveResetting Sys2Proof.Laws.FaultClearing Sys2Proof.Laws.LibraryActing Sys2Proof.Laws.RunFrames

/-! ### The waiters in turn (R86) -/

/-- The waiter `id`, as the list then stands, is planned where it rides on no plan. -/
def planById (u : State) (id : FetchId) : State :=
  (u.planner.waiters.find? fun x => x.id = id).elim u fun x => if x.plan = none then planWaiter x u else u

theorem planWaiters_eq (s : State) : planWaiters s = (s.planner.waiters.map (·.id)).foldl planById s := by
  unfold planWaiters
  refine congrFun (congrFun (congrArg List.foldl (funext fun u => funext fun id => ?_)) s) _
  unfold planById
  cases u.planner.waiters.find? fun x => x.id = id with
  | none => rfl
  | some x =>
    dsimp only [Option.elim_some]
    cases x.plan <;> rfl

/-- Waiters that ride on a plan are passed over. -/
theorem foldl_planById_riding {s : State} {ids : List FetchId}
    (h : ∀ id ∈ ids, ∀ x, (s.planner.waiters.find? fun x => x.id = id) = some x → x.plan ≠ none) :
    ids.foldl planById s = s := by
  induction ids with
  | nil => rfl
  | cons id ids ih =>
    have hid : planById s id = s := by
      unfold planById
      cases hx : s.planner.waiters.find? fun x => x.id = id with
      | none => rfl
      | some x => exact if_neg (h id (List.mem_cons_self ..) x hx)
    rw [List.foldl_cons, hid]
    exact ih fun j hj => h j (List.mem_cons_of_mem _ hj)

theorem planWaiters_riding {s : State} (h : ∀ w ∈ s.planner.waiters, w.plan ≠ none) : planWaiters s = s := by
  rw [planWaiters_eq]
  exact foldl_planById_riding fun id _ x hx => h x (List.mem_of_find?_eq_some hx)

/-- The waiters before the first that rides on no plan are passed over (R86). -/
theorem planWaiters_first {s : State} {before after : List Waiter} {w : Waiter} (hl : s.planner.waiters = before ++ w :: after)
    (hn : (s.planner.waiters.map (·.id)).Nodup) (hb : ∀ v ∈ before, v.plan ≠ none) (hw : w.plan = none) :
    planWaiters s = after.foldl (fun u v => planById u v.id) (planWaiter w s) := by
  have hfind {v : Waiter} (hv : v ∈ s.planner.waiters) {x : Waiter}
      (hx : (s.planner.waiters.find? fun x => x.id = v.id) = some x) : x = v :=
    List.inj_on_of_nodup_map hn (List.mem_of_find?_eq_some hx) hv (by simpa using List.find?_some hx)
  have hin {v : Waiter} (hv : v ∈ before ++ w :: after) : v ∈ s.planner.waiters := by rw [hl]; exact hv
  have hskip : (before.map (·.id)).foldl planById s = s := by
    refine foldl_planById_riding fun id hid x hx => ?_
    obtain ⟨v, hv, rfl⟩ := List.mem_map.1 hid
    rw [hfind (hin (List.mem_append_left _ hv)) hx]
    exact hb v hv
  have hfirst : planById s w.id = planWaiter w s := by
    have hmem := hin (v := w) (List.mem_append_right _ (List.mem_cons_self ..))
    unfold planById
    cases hx : s.planner.waiters.find? fun x => x.id = w.id with
    | none => exact absurd (List.find?_eq_none.1 hx w hmem) (by simp)
    | some x =>
      obtain rfl := hfind hmem hx
      exact if_pos hw
  rw [planWaiters_eq, hl, List.map_append, List.map_cons, List.foldl_append, List.foldl_cons, hskip, hfirst, List.foldl_map]

/-! ### A waiter by the place of its cartridge (R80 to R83) -/

/-- The waiter's off-line mark cleared. -/
def seen (w : Waiter) (s : State) : State := updWaiter w.id (fun w => { w with offLine := false }) s

section
variable {s : State} {w : Waiter} {c : Cartridge} (hc : s.cart? w.cart = some c)
include hc

theorem planWaiter_offLine (h : c.location = .loadingSlot ∨ c.location = .exported ∨ c.location = .missing) :
    planWaiter w s = if w.offLine = true then s
      else noticeSet 20 (updWaiter w.id (fun w => { w with offLine := true }) s) := by
  unfold planWaiter
  rw [hc]
  dsimp only
  obtain h | h | h := h <;> rw [h] <;> rfl

variable (hslot : c.location ≠ .loadingSlot) (hexp : c.location ≠ .exported) (hmiss : c.location ≠ .missing)

include hslot hexp hmiss in
/-- The waiter rides on the FETCH plan of its volume (R80). -/
theorem planWaiter_rides {before after : List Plan} {p : Plan} (hl : s.planner.plans = before ++ p :: after)
    (hp : p.purpose = .fetch) (hv : p.volume = some w.volume)
    (hb : ∀ q ∈ before, q.purpose = .fetch → q.volume ≠ some w.volume) :
    planWaiter w s = updWaiter w.id (fun w => { w with plan := some p.drive }) (seen w s) := by
  have hany : ((seen w s).planner.plans.any fun p => p.purpose = .fetch && p.volume = some w.volume) = true := by
    rw [List.any_eq_true]
    refine ⟨p, ?_, by simp [hp, hv]⟩
    show p ∈ s.planner.plans
    rw [hl]
    exact List.mem_append_right _ (List.mem_cons_self ..)
  have hfind : ((seen w s).planner.plans.find? fun p => p.purpose = .fetch && p.volume = some w.volume) = some p := by
    show (s.planner.plans.find? _) = _
    rw [hl, List.find?_append, List.find?_eq_none.2 fun q hq => by simpa using hb q hq, Option.none_or,
      List.find?_cons_of_pos (by simp [hp, hv])]
  have hride : rideNew w (seen w s) = updWaiter w.id (fun w => { w with plan := some p.drive }) (seen w s) := by
    unfold rideNew
    rw [hfind]
  rw [← hride]
  unfold planWaiter
  rw [hc]
  dsimp only
  split
  next h => exact absurd h hslot
  next h => exact absurd h hexp
  next h => exact absurd h hmiss
  next => exact if_pos hany

variable (hno : ∀ p ∈ s.planner.plans, p.purpose = .fetch → p.volume ≠ some w.volume)

omit hc in
theorem unplanned_seen (hno : ∀ p ∈ s.planner.plans, p.purpose = .fetch → p.volume ≠ some w.volume) :
    ((seen w s).planner.plans.any fun p => p.purpose = .fetch && p.volume = some w.volume) = false := by
  rw [List.any_eq_false]
  intro p hp
  simpa using hno p hp

include hno

theorem planWaiter_arm (h : c.location = .arm) : planWaiter w s = seen w s := by
  unfold planWaiter
  rw [hc]
  dsimp only
  rw [h]
  exact if_neg (Bool.eq_false_iff.1 (unplanned_seen hno))

theorem planWaiter_up {d : DriveId} (h : c.location = .drive d) (hup : c.sideUp = some w.side) :
    planWaiter w s = if (seen w s).planned d = true then seen w s else attach w d (seen w s) := by
  unfold planWaiter
  rw [hc]
  dsimp only
  rw [h]
  exact (if_neg (Bool.eq_false_iff.1 (unplanned_seen hno))).trans (if_pos hup)

theorem planWaiter_other {d : DriveId} (h : c.location = .drive d) (hup : c.sideUp ≠ some w.side) :
    planWaiter w s = if s.arm.level = .halted then seen w s else planWaiterFlip w d c.exportPending (seen w s) := by
  unfold planWaiter
  rw [hc]
  dsimp only
  rw [h]
  exact (if_neg (Bool.eq_false_iff.1 (unplanned_seen hno))).trans (if_neg hup)

theorem planWaiter_shelf (h : c.location = .shelf) :
    planWaiter w s = if c.exportPending = true ∨ s.arm.level = .halted then seen w s
      else (planBring (fetchWant w) true (seen w s)).elim (seen w s) (rideNew w) := by
  unfold planWaiter
  rw [hc]
  dsimp only
  rw [h]
  refine (if_neg (Bool.eq_false_iff.1 (unplanned_seen hno))).trans ?_
  change (if c.exportPending = true ∨ s.arm.level = .halted then seen w s
    else match planBring (fetchWant w) true (seen w s) with | some s => rideNew w s | none => seen w s) = _
  cases planBring (fetchWant w) true (seen w s) <;> rfl

end

/-! ### The side up in a drive: the attachment (R67, R80) -/

/-- The Drive Unit accepts the attachment, as the statements say it (R67). -/
def Accepts (s : State) (w : Waiter) (d : DriveId) : Prop :=
  (s.drive d).cart = some (.number w.cart) ∧ (s.drive d).sideUp = some w.side
    ∧ ((s.drive d).state = .loading ∨ (s.drive d).state = .ready ∨ (s.drive d).state = .active
      ∨ (s.drive d).state = .standby ∨ (s.drive d).state = .waking)
    ∧ (∀ i ∈ s.library.inspections, i.place ≠ .drive d)
    ∧ ∀ o ∈ s.arm.orders, o.source = .drive d → o.status = .waiting

theorem inMotionFrom_false {s : State} {d : DriveId} :
    inMotionFrom s d = false ↔ ∀ o ∈ s.arm.orders, o.source = .drive d → o.status = .waiting := by
  unfold inMotionFrom
  rw [List.any_eq_false]
  refine forall₂_congr fun o _ => ?_
  simp

theorem attachOk_iff {s : State} {w : Waiter} {d : DriveId} : attachOk s w d = true ↔ Accepts s w d := by
  unfold attachOk Accepts
  simp only [Bool.and_eq_true, Bool.or_eq_true, beq_iff_eq, Bool.not_eq_true', and_assoc, or_assoc, Option.isNone_iff_eq_none]
  rw [heldBy_eq_none, inMotionFrom_false]

/-- The orders still WAITING from the drive that an attachment withdraws (R67). -/
def flipsFrom (s : State) (d : DriveId) : List Nat :=
  (s.arm.orders.filter fun o => o.source = .drive d ∧ o.status = .waiting
    ∧ (o.kind = .demount ∨ o.kind = .flip)).map (·.number)

theorem attachWithdraws_eq (s : State) (d : DriveId) : attachWithdraws s d = flipsFrom s d := by
  unfold attachWithdraws flipsFrom
  refine congrArg (List.map MoveOrder.number) (List.filter_congr fun o _ => ?_)
  rw [Bool.decide_and, Bool.decide_and, Bool.decide_or, Bool.and_assoc]

theorem attach_accepted {s : State} {w : Waiter} {d : DriveId} (h : Accepts s w d) : attach w d s
    = withdrawAll (flipsFrom s d) (State.updDrive
        { s with
          planner := { s.planner with waiters := s.planner.waiters.filter fun v => v.id ≠ w.id }
          fetch := { s.fetch with orders := s.fetch.orders.map fun o =>
            if o.id = w.id then { o with place := .drive d } else o } }
        d fun x => { x with queue := if w.id ∈ x.queue then x.queue else x.queue ++ [w.id] }) := by
  have hqueue : (fun x : Drive => { x with queue := if x.queue.contains w.id then x.queue else x.queue ++ [w.id] })
      = fun x => { x with queue := if w.id ∈ x.queue then x.queue else x.queue ++ [w.id] } := by
    funext x
    simp only [List.contains_iff_mem]
  unfold attach
  rw [if_pos (attachOk_iff.2 h)]
  dsimp only
  rw [attachWithdraws_eq, hqueue]
  rfl

theorem attach_refused {s : State} {w : Waiter} {d : DriveId} (h : ¬ Accepts s w d) : attach w d s = s :=
  if_neg fun hok => h (attachOk_iff.1 hok)

/-! ### The other side up: the FLIP (R81) -/

/-- The order of the drive's pending hold while it is WAITING (R81). -/
def heldOrder (s : State) (d : DriveId) : Option Nat := (s.drive d).pendingHold.filter fun n => s.orderWaiting n

theorem heldOrder_some {s : State} {d : DriveId} {n : Nat} :
    heldOrder s d = some n ↔ (s.drive d).pendingHold = some n ∧ s.orderWaiting n = true :=
  Option.filter_eq_some_iff

/-- The drive is free for the FLIP, but for the orders that concern it (R81). -/
def FlipFree (s : State) (d : DriveId) (marked : Bool) : Prop :=
  (s.drive d).queue = [] ∧ (s.drive d).fetchUnit = false ∧ (s.drive d).pin = false
    ∧ ((s.drive d).state = .loading ∨ (s.drive d).state = .ready ∨ (s.drive d).state = .standby
      ∨ (s.drive d).state = .waking)
    ∧ (∀ j, s.run.label = some j → j.drive ≠ d) ∧ (∀ p ∈ s.planner.plans, p.drive ≠ d)
    ∧ (∀ i ∈ s.library.inspections, i.place ≠ .drive d) ∧ marked = false

theorem flipFree_unplanned {s : State} {d : DriveId} {marked : Bool} (h : FlipFree s d marked) :
    ∀ p ∈ s.planner.plans, p.drive ≠ d := by
  obtain ⟨-, -, -, -, -, hplans, -⟩ := h
  exact hplans

/-- Another order than the drive's hold concerns the drive (R81). -/
def Concerned (s : State) (d : DriveId) : Prop :=
  ∃ o ∈ s.arm.orders, some o.number ≠ heldOrder s d ∧ (o.source = .drive d ∨ o.dest = .drive d)

/-- The state in which the FLIP is asked for: the hold order withdrawn. -/
def unheld (s : State) (d : DriveId) : State := (heldOrder s d).elim s fun n => tryWithdraw n s

section
variable {s : State} {w : Waiter} {d : DriveId} {marked : Bool}

/-- The test of the FLIP (R81). -/
theorem flipTest_iff : ((s.drive d).queueIdle && !(s.drive d).pin && ((s.drive d).state == .loading || (s.drive d).state == .ready
      || (s.drive d).state == .standby || (s.drive d).state == .waking) && !s.labelling d && !s.planned d
      && !(s.arm.orders.any fun o => o.usesDrive d && some o.number != heldOrder s d) && (s.heldBy d).isNone && !marked
      && ((heldOrder s d).isSome || 0 < s.listRoom)) = true
    ↔ FlipFree s d marked ∧ ¬ Concerned s d ∧ (heldOrder s d ≠ none ∨ s.arm.orders.length < 16) := by
  have hothers : (s.arm.orders.any fun o => o.usesDrive d && some o.number != heldOrder s d) = false ↔ ¬ Concerned s d := by
    rw [← Bool.not_eq_true, List.any_eq_true]
    refine not_congr (exists_congr fun o => and_congr_right fun _ => ?_)
    rw [Bool.and_eq_true, usesDrive_iff, bne_iff_ne, and_comm]
  simp only [Bool.and_eq_true, Bool.or_eq_true, Bool.not_eq_true', beq_iff_eq, decide_eq_true_eq, queueIdle_iff,
    labelling_false, planned_false, hothers, Option.isNone_iff_eq_none, heldBy_eq_none, Option.isSome_iff_ne_none,
    listRoom_pos, FlipFree]
  tauto

theorem planWaiterFlip_asks (h : FlipFree s d marked ∧ ¬ Concerned s d ∧ (heldOrder s d ≠ none ∨ s.arm.orders.length < 16)) :
    planWaiterFlip w d marked s
      = (planFlip (fetchWant w) d (unheld s d)).elim (unheld s d) (updWaiter w.id fun w => { w with plan := some d }) := by
  unfold planWaiterFlip
  refine (if_pos (flipTest_iff.2 h)).trans ?_
  dsimp only
  rw [show ((s.drive d).pendingHold.filter fun n => s.orderWaiting n) = heldOrder s d from rfl]
  unfold unheld
  cases heldOrder s d with
  | none =>
    dsimp only [Option.elim_none]
    cases planFlip (fetchWant w) d s <;> rfl
  | some n =>
    dsimp only [Option.elim_some]
    cases planFlip (fetchWant w) d (tryWithdraw n s) <;> rfl

theorem planWaiterFlip_waits
    (h : ¬ (FlipFree s d marked ∧ ¬ Concerned s d ∧ (heldOrder s d ≠ none ∨ s.arm.orders.length < 16))) :
    planWaiterFlip w d marked s = s := by
  unfold planWaiterFlip
  exact if_neg fun ht => h (flipTest_iff.1 ht)

theorem planWaiterFlip_idle (h : ¬ FlipFree s d marked ∨ Concerned s d) : planWaiterFlip w d marked s = s := by
  refine planWaiterFlip_waits ?_
  rintro ⟨hf, hc, -⟩
  exact h.elim (absurd hf) hc

theorem planWaiterFlip_full (hn : heldOrder s d = none) (h : 16 ≤ s.arm.orders.length) : planWaiterFlip w d marked s = s := by
  refine planWaiterFlip_waits ?_
  rintro ⟨-, -, hr⟩
  exact hr.elim (absurd hn) (by omega)

theorem planWaiterFlip_flips (hf : FlipFree s d marked) (hc : ¬ Concerned s d)
    (hr : heldOrder s d ≠ none ∨ s.arm.orders.length < 16) (hl : (unheld s d).arm.level ≠ .halted)
    (hroom : (unheld s d).arm.orders.length < 16) :
    planWaiterFlip w d marked s = updWaiter w.id (fun w => { w with plan := some d }) (withPlan
      [⟨nextNumber (unheld s d), .flip, .number w.cart, .drive d, .drive d, none, .fetch, none, .volumeWait, .waiting⟩]
      (succNumber (nextNumber (unheld s d)))
      ⟨d, .fetch, .flip, .number w.cart, w.side, some w.volume, none, some (nextNumber (unheld s d)), false⟩
      (unheld s d)) := by
  rw [planWaiterFlip_asks ⟨hf, hc, hr⟩, planFlip_ok hl (show Group.fetch ≠ .hold by decide) hroom]
  rfl

end

/-- A withdrawal adds no plan. -/
theorem tryWithdraw_plans {n : Nat} {s : State} {p : Plan} (h : p ∈ (tryWithdraw n s).planner.plans) :
    p ∈ s.planner.plans := by
  obtain hd | hd := tryWithdraw_cases n s
  · rw [hd] at h
    exact ((dropPlans_gone _ _).1 p h).1
  · rwa [hd] at h

/-- The FLIP of a waiter as the statement gives it (R81). -/
theorem flip_leaves {u t : State} {w : Waiter} {d : DriveId} (hroom : u.arm.orders.length < 16)
    (hfree : ∀ p ∈ u.planner.plans, p.drive ≠ d)
    (ht : t = updWaiter w.id (fun w => { w with plan := some d }) (withPlan
      [⟨nextNumber u, .flip, .number w.cart, .drive d, .drive d, none, .fetch, none, .volumeWait, .waiting⟩]
      (succNumber (nextNumber u)) ⟨d, .fetch, .flip, .number w.cart, w.side, some w.volume, none, some (nextNumber u), false⟩
      u)) :
    ∃ k, u.unused k ∧ t = updWaiter w.id (fun w => { w with plan := some d }) { u with
      arm := { u.arm with
        orders := u.arm.orders ++ [⟨k, .flip, .number w.cart, .drive d, .drive d, none, .fetch, none, .volumeWait, .waiting⟩]
        counter := t.arm.counter }
      planner := { u.planner with plans := u.planner.plans
        ++ [⟨d, .fetch, .flip, .number w.cart, w.side, some w.volume, none, some k, false⟩] } } := by
  refine ⟨nextNumber u, nextNumber_unused hroom.le, ?_⟩
  have hcounter : t.arm.counter = succNumber (nextNumber u) := by rw [ht]; rfl
  rw [hcounter, ht, withPlan_unplanned hfree]

/-! ### On the shelf (R82, R83) -/

/-- A cleared mark makes no difference to the choice of a victim. -/
theorem victimOk_seen (w : Waiter) (s : State) (d : DriveId) : victimOk (seen w s) d = victimOk s d := by
  have hany (n : Nat) : ((seen w s).planner.waiters.any fun w => w.cart = n) = s.planner.waiters.any fun w => w.cart = n := by
    show (List.map _ s.planner.waiters).any _ = _
    rw [List.any_map]
    refine congrArg (List.any _) (funext fun x => ?_)
    dsimp only [Function.comp]
    split <;> rfl
  have hdrive : (seen w s).drive d = s.drive d := rfl
  have hwanted : (seen w s).wanted d = s.wanted d := by
    unfold State.wanted
    simp only [hany, hdrive]
  unfold victimOk
  rw [hwanted]
  rfl

/-- The waiter rides on the plan made for it just now. -/
theorem rideNew_made {u : State} {w : Waiter} {os : List MoveOrder} {counter : Nat} {p : Plan}
    (hno : ∀ q ∈ u.planner.plans, q.purpose = .fetch → q.volume ≠ some w.volume) (hp : p.purpose = .fetch)
    (hv : p.volume = some w.volume) : rideNew w (withPlan os counter p u)
      = updWaiter w.id (fun w => { w with plan := some p.drive }) (withPlan os counter p u) := by
  have hfind : ((withPlan os counter p u).planner.plans.find? fun p => p.purpose = .fetch && p.volume = some w.volume)
      = some p := by
    show (((u.planner.plans.filter fun q => q.drive ≠ p.drive) ++ [p]).find? _) = _
    rw [List.find?_append, List.find?_eq_none.2 fun q hq => by simpa using hno q (List.mem_of_mem_filter hq), Option.none_or,
      List.find?_cons_of_pos (by simp [hp, hv])]
  unfold rideNew
  rw [hfind]

/-- Settles O52. -/
theorem planningOfWaiters : Obligations.PlanningOfWaiters := by
  refine ⟨fun s => ⟨rfl, planWaiters_riding, fun before w after hl hn hb hw => ?_⟩, fun s w c hc => ?_⟩
  · rw [planWaiters_first hl hn hb hw]
    refine congrFun (congrFun (congrArg List.foldl (funext fun u => funext fun v => ?_)) _) _
    unfold planById
    cases u.planner.waiters.find? fun x => x.id = v.id <;> rfl
  · intro t with_ seen' riding
    refine ⟨fun hloc => ?_, fun hslot hexp hmiss => ⟨fun before p after hl hp hv hb => planWaiter_rides hc hslot hexp hmiss hl hp hv hb,
      fun hno => ⟨planWaiter_arm hc hno, fun d hd hup => ?_, fun d hd hup => ?_, fun hshelf => ?_⟩⟩⟩
    · have ht : t = _ := planWaiter_offLine hc hloc
      exact ⟨fun h => ht.trans (if_pos h), fun h => ht.trans (if_neg (by rw [h]; decide))⟩
    · intro x accepts
      have ht : t = _ := planWaiter_up hc hno hd hup
      refine ⟨fun h => ht.trans ?_, fun ⟨hfree, h⟩ => ht.trans ?_⟩
      · split
        · rfl
        next hp =>
          rw [Bool.not_eq_true, planned_false] at hp
          exact attach_refused fun ha => h ⟨hp, ha⟩
      · exact (if_neg (Bool.eq_false_iff.1 (planned_false.2 hfree))).trans (attach_accepted (s := seen w s) h)
    · intro x free held flips
      have ht : t = _ := planWaiter_other hc hno hd hup
      have hactive (hl : s.arm.level ≠ .halted) : t = planWaiterFlip w d c.exportPending (seen w s) := ht.trans (if_neg hl)
      have hheld {n : Nat} : heldOrder (seen w s) d = some n ↔ held n := heldOrder_some
      refine ⟨fun h => ?_, fun ⟨hl, h⟩ hno => ?_, fun ⟨hl, h⟩ n hn => ?_⟩
      · by_cases hl : s.arm.level = .halted
        · exact ht.trans (if_pos hl)
        · exact (hactive hl).trans (planWaiterFlip_idle (.inl fun hf => h ⟨hl, hf⟩))
      · have hnone : heldOrder (seen w s) d = none := Option.eq_none_iff_forall_not_mem.2 fun n hn => hno n (hheld.1 hn)
        have hunheld : unheld (seen w s) d = seen w s := by rw [unheld, hnone]; rfl
        refine ⟨fun hb => (hactive hl).trans ?_, fun hc' hroom => ?_⟩
        · obtain ⟨o, ho, huse⟩ | hfull := hb
          · refine planWaiterFlip_idle (.inr ⟨o, ho, ?_, huse⟩)
            rw [hnone]
            nofun
          · exact planWaiterFlip_full hnone hfull
        · refine flip_leaves (u := seen w s) hroom (flipFree_unplanned h) ?_
          rw [hactive hl, planWaiterFlip_flips (s := seen w s) h ?_ (.inr hroom) ?_ ?_, hunheld]
          · rintro ⟨o, ho, -, huse⟩
            exact huse.elim (hc' o ho).1 (hc' o ho).2
          · rw [hunheld]
            exact hl
          · rw [hunheld]
            exact hroom
      · have hsome : heldOrder (seen w s) d = some n := hheld.2 hn
        have hunheld : unheld (seen w s) d = tryWithdraw n (seen w s) := by rw [unheld, hsome]; rfl
        refine ⟨fun ⟨o, ho, hne, huse⟩ => (hactive hl).trans (planWaiterFlip_idle (.inr ⟨o, ho, ?_, huse⟩)), fun hc' hroom => ?_⟩
        · rw [hsome]
          exact fun he => hne (Option.some.inj he)
        · refine flip_leaves (u := tryWithdraw n (seen w s)) hroom
            (fun p hp => flipFree_unplanned h p (tryWithdraw_plans (s := seen w s) hp)) ?_
          rw [hactive hl, planWaiterFlip_flips (s := seen w s) h ?_ (.inl (by rw [hsome]; nofun)) ?_ ?_, hunheld]
          · rintro ⟨o, ho, hne, huse⟩
            rw [hsome] at hne
            obtain hn' | ⟨hs, hd'⟩ := hc' o ho
            · exact hne (congrArg some hn')
            · exact huse.elim hs hd'
          · rw [hunheld, (tryWithdraw_settles n (seen w s)).arm]
            exact hl
          · rw [hunheld]
            exact hroom
    · have ht : t = _ := planWaiter_shelf hc hno hshelf
      refine ⟨fun h => ht.trans (if_pos h), fun he hl h hh => ?_⟩
      have hbring : t = (planBring (fetchWant w) true (seen w s)).elim (seen w s) (rideNew w) :=
        ht.trans (if_neg (by rw [he]; exact fun h => h.elim (by decide) hl))
      have hhome : (seen w s).homeOf (.number w.cart) = some h := by
        show (s.cart? w.cart).bind (·.home) = _
        rw [hc]
        exact hh
      have hyield (d : DriveId) : (seen w s).canYield d ↔ s.canYield d := by
        rw [← victimOk_iff, ← victimOk_iff, victimOk_seen]
      refine ⟨fun h1 h2 => hbring.trans ?_, broughtBy_planBring (s := seen w s) hl (brings_number rfl hhome (.inl rfl))
        (fun _ => hbring) (fun os counter p hp hv => rideNew_made hno hp hv) fun _ _ => rfl⟩
      rw [planBring_none (s := seen w s) h1 fun d hd => h2 d ((hyield d).1 hd)]
      rfl

end Sys2Proof.Laws.WaiterPlanning

/-!
PROOF. What a planning pass does for the filing request and for the inspection request (R90 to R92). The obligation O53.
-/

namespace Sys2Proof.Laws.RequestPlanning

open Sys2Proof Sys2Proof.Machine Sys2Proof.Laws.Asking Sys2Proof.Laws.Planning Sys2Proof.Laws.Settling
open Sys2Proof.Laws.DriveResetting Sys2Proof.Laws.LibraryActing Sys2Proof.Laws.RunFrames Sys2Proof.Laws.RunEnds
open Sys2Proof.Laws.FilingEnds

/-! ### What the drive must be (R90, R91) -/

/-- The side can be reported: the drive is up, and no inspection holds it (R90). -/
def Reportable (s : State) (d : DriveId) : Prop :=
  ((s.drive d).state = .ready ∨ (s.drive d).state = .standby ∨ (s.drive d).state = .active)
    ∧ ∀ i ∈ s.library.inspections, i.place ≠ .drive d

/-- The orders of a claim of the drive can be given (R91). -/
def Drained (s : State) (d : DriveId) : Prop :=
  (s.drive d).queue = [] ∧ (s.drive d).fetchUnit = false ∧ (s.drive d).pin = false ∧ (s.drive d).state ≠ .faulted
    ∧ (s.drive d).state ≠ .resetting ∧ ∀ i ∈ s.library.inspections, i.place ≠ .drive d

theorem reportable_iff {s : State} {d : DriveId} : reportable s d = true ↔ Reportable s d := by
  unfold reportable Reportable
  rw [Bool.and_eq_true, driveUp_iff, Option.isNone_iff_eq_none, heldBy_eq_none]

theorem claimDrained_iff {s : State} {d : DriveId} : claimDrained s d = true ↔ Drained s d := by
  unfold claimDrained Drained
  simp only [Bool.and_eq_true, Bool.not_eq_true', bne_iff_ne, queueIdle_iff, Option.isNone_iff_eq_none, heldBy_eq_none,
    and_assoc]

theorem upIn_iff {s : State} {n : Nat} {c : Cartridge} (h : s.cart? n = some c) {x : Side} {d : DriveId} :
    s.upIn n x d = true ↔ c.location = .drive d ∧ c.sideUp = some x := by
  simp [State.upIn, h]

theorem upIn_false {s : State} {n : Nat} {c : Cartridge} (h : s.cart? n = some c) {x : Side} {d : DriveId}
    (hno : c.location ≠ .drive d ∨ c.sideUp ≠ some x) : s.upIn n x d = false := by
  rw [← Bool.not_eq_true, upIn_iff h]
  exact fun hup => hno.elim (absurd hup.1) (absurd hup.2)

/-! ### The withdrawal of the orders from a drive (R90, R91) -/

theorem withdrawAll_settles (ns : List Nat) (s : State) : Settles s (withdrawAll ns s) :=
  run_settles (withdrawAll_frame ns s) (withdrawAll_spec ns s).1.run

/-- The orders still WAITING from the drive withdrawn. -/
def withdrawnFrom (d : DriveId) (s : State) : State :=
  withdrawAll ((s.arm.orders.filter fun o => o.source = .drive d ∧ o.status = .waiting).map (·.number)) s

theorem withdrawnFrom_eq (d : DriveId) (s : State) : withdrawAll (waitingFrom s d) s = withdrawnFrom d s := by
  unfold withdrawnFrom waitingFrom
  refine congrArg (fun ns => withdrawAll ns s) (congrArg (List.map MoveOrder.number) (List.filter_congr fun o _ => ?_))
  rw [Bool.decide_and]

theorem places_kept {s t : State} (h : t.library.inspections.map unordered = s.library.inspections.map unordered)
    {d : DriveId} (hs : ∀ i ∈ s.library.inspections, i.place ≠ .drive d) : ∀ i ∈ t.library.inspections, i.place ≠ .drive d := by
  intro i hi hp
  have hmem : unordered i ∈ s.library.inspections.map unordered := by
    rw [← h]
    exact List.mem_map_of_mem hi
  obtain ⟨j, hj, hji⟩ := List.mem_map.1 hmem
  exact hs j hj ((congrArg Inspection.place hji :).trans hp)

section
variable {s : State} {d e : DriveId}

theorem withdrawnFrom_settles : Settles s (withdrawnFrom d s) := withdrawAll_settles ..

theorem withdrawnFrom_places : (∀ i ∈ (withdrawnFrom d s).library.inspections, i.place ≠ .drive e)
    ↔ ∀ i ∈ s.library.inspections, i.place ≠ .drive e :=
  ⟨places_kept withdrawnFrom_settles.inspections.symm, places_kept withdrawnFrom_settles.inspections⟩

theorem withdrawnFrom_drive : sameButHold (s.drive e) ((withdrawnFrom d s).drive e) := withdrawAll_drive ..

theorem withdrawnFrom_reportable : Reportable (withdrawnFrom d s) e ↔ Reportable s e := by
  unfold Reportable
  rw [withdrawnFrom_places, withdrawnFrom_drive]

theorem withdrawnFrom_drained : Drained (withdrawnFrom d s) e ↔ Drained s e := by
  unfold Drained
  rw [withdrawnFrom_places, withdrawnFrom_drive]
  rfl

theorem withdrawnFrom_cart? (n : Nat) : (withdrawnFrom d s).cart? n = s.cart? n := by
  have h : SameShelves s (withdrawnFrom d s) := (withdrawAll_spec _ s).2.1
  rw [State.cart?, h]
  rfl

theorem withdrawnFrom_level : (withdrawnFrom d s).arm.level = s.arm.level := by
  rw [withdrawnFrom_settles.arm]

end

/-! ### A claim examined (R91) -/

section
variable {s : State} {n : Nat} {x : Side} {c : Cartridge} (hc : s.cart? n = some c)
include hc

theorem examineClaim_up {d : DriveId} (h : c.location = .drive d) (hup : c.sideUp = some x) :
    (Reportable s d → examineClaim n x d s = reportFiling d s) ∧ (¬ Reportable s d → examineClaim n x d s = s) := by
  have heq : examineClaim n x d s = if reportable s d = true then reportFiling d s else s := by
    unfold examineClaim
    rw [hc, Option.map_some, h]
    exact (if_pos rfl).trans (if_pos ((upIn_iff hc).2 ⟨h, hup⟩))
  rw [heq]
  exact ⟨fun h => if_pos (reportable_iff.2 h), fun h => if_neg fun hr => h (reportable_iff.1 hr)⟩

theorem examineClaim_other {d : DriveId} (h : c.location = .drive d) (hup : c.sideUp ≠ some x) :
    (Drained s d → examineClaim n x d s = (planFlip (filingWant n x) d s).getD s)
      ∧ (¬ Drained s d → examineClaim n x d s = s) := by
  have heq : examineClaim n x d s = if claimDrained s d = true then (planFlip (filingWant n x) d s).getD s else s := by
    unfold examineClaim
    rw [hc, Option.map_some, h]
    exact (if_pos rfl).trans (if_neg (Bool.eq_false_iff.1 (upIn_false hc (.inr hup))))
  rw [heq]
  exact ⟨fun h => if_pos (claimDrained_iff.2 h), fun h => if_neg fun hr => h (claimDrained_iff.1 hr)⟩

theorem examineClaim_shelf {d : DriveId} (h : c.location = .shelf) :
    ((s.drive d).state = .empty → examineClaim n x d s = (planMount (filingWant n x) d s).getD s)
      ∧ ((s.drive d).state ≠ .empty → Drained s d → examineClaim n x d s = (planVictim (filingWant n x) d s).getD s)
      ∧ ((s.drive d).state ≠ .empty → ¬ Drained s d → examineClaim n x d s = s) := by
  have heq : examineClaim n x d s = if (s.drive d).state = .empty then (planMount (filingWant n x) d s).getD s
      else if claimDrained s d = true then (planVictim (filingWant n x) d s).getD s else s := by
    unfold examineClaim
    rw [hc, Option.map_some, h]
  rw [heq]
  exact ⟨fun h => if_pos h, fun h hd => (if_neg h).trans (if_pos (claimDrained_iff.2 hd)),
    fun h hd => (if_neg h).trans (if_neg fun hr => hd (claimDrained_iff.1 hr))⟩

theorem examineClaim_missing {d : DriveId} (h : c.location = .missing) : examineClaim n x d s = s := by
  unfold examineClaim
  rw [hc, Option.map_some, h]

theorem examineClaim_gone {d : DriveId} (h : c.location = .arm ∨ c.location = .loadingSlot ∨ c.location = .exported
    ∨ ∃ e, e ≠ d ∧ c.location = .drive e) : examineClaim n x d s = dropFilingPlan s := by
  unfold examineClaim
  rw [hc, Option.map_some]
  obtain h | h | h | ⟨e, he, h⟩ := h
  · rw [h]
  · rw [h]
  · rw [h]
  · rw [h]
    exact if_neg he

/-! ### The request with no plan (R90, R91) -/

section
variable {d : DriveId} (h : c.location = .drive d)
include h

theorem planFilingNew_planned (hp : ∃ p ∈ s.planner.plans, p.drive = d) : planFilingNew n x s = s := by
  unfold planFilingNew
  rw [hc, Option.map_some, h]
  exact if_pos (planned_iff.2 hp)

variable (hp : ∀ p ∈ s.planner.plans, p.drive ≠ d)
include hp

theorem planFilingNew_up (hup : c.sideUp = some x) :
    (s.arm.level = .halted → s.run.chosen ≠ none → planFilingNew n x s = refuseFiling s)
      ∧ (s.arm.level ≠ .halted ∨ s.run.chosen = none →
        (Reportable s d → planFilingNew n x s = reportFiling d (withdrawnFrom d s))
          ∧ (¬ Reportable s d → planFilingNew n x s = withdrawnFrom d s)) := by
  have heq : planFilingNew n x s = if s.arm.level = .halted ∧ s.run.chosen.isSome = true then refuseFiling s
      else if reportable (withdrawnFrom d s) d = true then reportFiling d (withdrawnFrom d s) else withdrawnFrom d s := by
    rw [← withdrawnFrom_eq]
    unfold planFilingNew
    rw [hc, Option.map_some, h]
    exact (if_neg (Bool.eq_false_iff.1 (planned_false.2 hp))).trans (if_pos ((upIn_iff hc).2 ⟨h, hup⟩))
  rw [heq, ← withdrawnFrom_reportable (d := d)]
  refine ⟨fun hl hch => if_pos ⟨hl, Option.isSome_iff_ne_none.2 hch⟩, fun hl => ?_⟩
  have hno : ¬ (s.arm.level = .halted ∧ s.run.chosen.isSome = true) := fun hh =>
    hl.elim (fun k => k hh.1) fun k => Option.isSome_iff_ne_none.1 hh.2 k
  rw [if_neg hno]
  exact ⟨fun hr => if_pos (reportable_iff.2 hr), fun hr => if_neg fun hk => hr (reportable_iff.1 hk)⟩

/-- An inspection holds the drive, or an order from it is under way (R91). -/
def Blocked (s : State) (d : DriveId) : Prop :=
  (∃ i ∈ s.library.inspections, i.place = .drive d) ∨ ∃ o ∈ s.arm.orders, o.source = .drive d ∧ o.status ≠ .waiting

theorem planFilingNew_other (hup : c.sideUp ≠ some x) :
    (s.arm.level = .halted → planFilingNew n x s = refuseFiling s)
      ∧ (s.arm.level ≠ .halted → Blocked s d → planFilingNew n x s = s)
      ∧ (s.arm.level ≠ .halted → ¬ Blocked s d → planFilingNew n x s = claim n x d (withdrawnFrom d s)) := by
  have hblocked : ((s.heldBy d).isSome || inMotionFrom s d) = true ↔ Blocked s d := by
    unfold inMotionFrom Blocked
    rw [Bool.or_eq_true, heldBy_isSome, List.any_eq_true]
    simp only [Bool.and_eq_true, decide_eq_true_eq, bne_iff_ne]
  have heq : planFilingNew n x s = if s.arm.level = .halted then refuseFiling s
      else if ((s.heldBy d).isSome || inMotionFrom s d) = true then s else claim n x d (withdrawnFrom d s) := by
    rw [← withdrawnFrom_eq]
    unfold planFilingNew
    rw [hc, Option.map_some, h]
    exact (if_neg (Bool.eq_false_iff.1 (planned_false.2 hp))).trans
      (if_neg (Bool.eq_false_iff.1 (upIn_false hc (.inr hup))))
  rw [heq]
  exact ⟨fun hl => if_pos hl, fun hl hb => (if_neg hl).trans (if_pos (hblocked.2 hb)),
    fun hl hb => (if_neg hl).trans (if_neg fun hk => hb (hblocked.1 hk))⟩

end

section
variable (h : c.location = .shelf)
include h

theorem planFilingNew_shelf_halted (hl : s.arm.level = .halted) : planFilingNew n x s = refuseFiling s := by
  unfold planFilingNew
  rw [hc, Option.map_some, h]
  exact if_pos hl

variable (hl : s.arm.level ≠ .halted)
include hl

theorem planFilingNew_brings (hd : (∃ d, s.canTake false d) ∨ ∃ d, s.canYield d) :
    planFilingNew n x s = (planBring (filingWant n x) false s).elim s id := by
  unfold planFilingNew planBring
  rw [hc, Option.map_some, h]
  refine (if_neg hl).trans ?_
  cases he : s.emptyDrive false with
  | some d =>
    dsimp only
    cases planMount (filingWant n x) d s <;> rfl
  | none =>
    dsimp only
    cases hv : s.victim with
    | some d =>
      dsimp only [Option.bind_some]
      cases planVictim (filingWant n x) d s <;> rfl
    | none => exact absurd hd (not_or.2 ⟨not_exists.2 (emptyDrive_none.1 he), not_exists.2 (victim_none.1 hv)⟩)

theorem planFilingNew_claims (ht : ∀ d, ¬ s.canTake false d) (hy : ∀ d, ¬ s.canYield d) :
    ((∀ d, ¬ s.canClaim d) → planFilingNew n x s = s)
      ∧ ∀ d, s.leastRecent s.canClaim d → planFilingNew n x s = claim n x d s := by
  have heq : planFilingNew n x s = s.claimable.elim s fun d => claim n x d s := by
    unfold planFilingNew
    rw [hc, Option.map_some, h]
    refine (if_neg hl).trans ?_
    rw [emptyDrive_none.2 ht]
    dsimp only
    rw [victim_none.2 hy]
    cases s.claimable <;> rfl
  rw [heq]
  exact ⟨fun hn => by rw [claimable_none.2 hn]; rfl, fun d hd => by rw [claimable_some.2 hd]; rfl⟩

end

theorem planFilingNew_elsewhere (hs : c.location ≠ .shelf) (hd : ∀ d, c.location ≠ .drive d) :
    planFilingNew n x s = if s.arm.level = .halted then refuseFiling s else s := by
  unfold planFilingNew
  rw [hc, Option.map_some]
  split
  next d h => exact absurd (Option.some.inj h) (hd d)
  next h => exact absurd (Option.some.inj h) hs
  next => rfl

end

/-! ### The orders of a claim (R91) -/

/-- A plan over a claim of its drive takes the claim's place. -/
theorem withPlan_putPlan {p q : Plan} (h : q.drive = p.drive) (os : List MoveOrder) (counter : Nat) (s : State) :
    withPlan os counter p (putPlan q s) = withPlan os counter p s := by
  have hplans : ((s.planner.plans.filter fun r => r.drive ≠ q.drive) ++ [q]).filter (fun r => r.drive ≠ p.drive)
      = s.planner.plans.filter fun r => r.drive ≠ p.drive := by
    rw [List.filter_append, List.filter_filter, h]
    simp [h]
  unfold withPlan putPlan State.updPlanner
  dsimp only
  rw [hplans]

theorem putPlan_eq (p : Plan) (s : State) : putPlan p s = withPlan [] s.arm.counter p s := by
  unfold putPlan withPlan State.updPlanner
  rw [List.append_nil]

/-- A plan with its orders, the counter read from the state that it leads to. -/
theorem withPlan_counter {t u : State} {os : List MoveOrder} {counter : Nat} {p : Plan} (h : t = withPlan os counter p u) :
    t = withPlan os t.arm.counter p u := by
  have hc : t.arm.counter = counter := by rw [h]; rfl
  rw [hc]
  exact h

section
variable {s : State} {n : Nat} {x : Side} {d : DriveId}

/-- A claim with no orders yet (R91). -/
def bareClaim (n : Nat) (x : Side) (d : DriveId) : Plan := ⟨d, .filing, .claim, .number n, x, none, none, none, false⟩

/-- The FLIP of a claim (R91). -/
def FlipPlanned (n : Nat) (x : Side) (d : DriveId) (s t : State) : Prop :=
  ∃ k, s.unused k ∧ t = withPlan [⟨k, .flip, .number n, .drive d, .drive d, none, .filing, none, .filingRun, .waiting⟩]
    t.arm.counter ⟨d, .filing, .flip, .number n, x, none, none, some k, false⟩ s

theorem planFlip_planned {u : State} (hu : ∀ os counter k, withPlan os counter
      ⟨d, .filing, .flip, .number n, x, none, none, some k, false⟩ u
      = withPlan os counter ⟨d, .filing, .flip, .number n, x, none, none, some k, false⟩ s)
    (ha : u.arm = s.arm) (hl : s.arm.level ≠ .halted) (hroom : s.arm.orders.length < 16) :
    FlipPlanned n x d s ((planFlip (filingWant n x) d u).getD u) := by
  have hnum : nextNumber u = nextNumber s := by unfold nextNumber; rw [ha]
  refine ⟨nextNumber s, nextNumber_unused hroom.le, withPlan_counter (counter := succNumber (nextNumber s)) ?_⟩
  rw [planFlip_ok (by rw [ha]; exact hl) (show Group.filing ≠ .hold by decide) (by rw [ha]; exact hroom), Option.getD_some,
    hnum]
  exact hu _ _ _

theorem planFlip_waits {u : State} (h : u.arm.level = .halted ∨ 16 ≤ u.arm.orders.length) :
    (planFlip (filingWant n x) d u).getD u = u := by
  by_cases hl : u.arm.level = .halted
  · rw [planFlip_halted hl]
    rfl
  · rw [planFlip_full hl (show Group.filing ≠ .hold by decide) (h.resolve_left hl)]
    rfl

/-- The exchange of a claim: the DEMOUNT and the MOUNT (R91). -/
def Swapped (n : Nat) (x : Side) (c : Cartridge) (d : DriveId) (s t : State) : Prop :=
  ∀ m hm h, (s.drive d).cart = some m → s.homeOf m = some hm → c.home = some h →
    ∃ j k, j ≠ k ∧ s.unused j ∧ s.unused k ∧ t = withPlan
      [⟨j, .demount, m, .drive d, .shelf hm, none, .filing, none, .filingRun, .waiting⟩,
        ⟨k, .mount, .number n, .shelf h, .drive d, some x, .filing, some j, .filingRun, .waiting⟩]
      t.arm.counter ⟨d, .filing, .victim, .number n, x, none, some j, some k, false⟩ s

theorem brings_filing {c : Cartridge} {h : Nat} (hc : s.cart? n = some c) (hh : c.home = some h) :
    Brings s (filingWant n x) h := by
  refine brings_number rfl ?_ (.inr rfl)
  rw [State.homeOf, hc]
  exact hh

theorem planVictim_swaps {u : State} {c : Cartridge} (hc : s.cart? n = some c)
    (hu : ∀ os counter j k, withPlan os counter ⟨d, .filing, .victim, .number n, x, none, some j, some k, false⟩ u
      = withPlan os counter ⟨d, .filing, .victim, .number n, x, none, some j, some k, false⟩ s)
    (ha : u.arm = s.arm) (hd : u.drives = s.drives) (hlib : u.library = s.library) (hl : s.arm.level ≠ .halted)
    (hroom : s.arm.orders.length < 15) : Swapped n x c d s ((planVictim (filingWant n x) d u).getD u) := by
  intro m hm h hcart hhome hh
  have hcu : u.cart? n = some c := by rw [State.cart?, hlib]; exact hc
  have hcartu : (u.drive d).cart = some m := by rw [State.drive, hd]; exact hcart
  have hhomeu : u.homeOf m = some hm := by
    rw [← hhome]
    unfold State.homeOf State.cart? State.insp?
    rw [hlib]
  have hsecond : nextNumber u ≠ secondNumber (filingWant n x) m d hm u ∧ u.unused (nextNumber u)
      ∧ u.unused (secondNumber (filingWant n x) m d hm u) := secondNumber_unused (by rw [ha]; exact hroom)
  have hunused (k : Nat) : u.unused k → s.unused k := fun hk o ho => hk o (by rw [ha]; exact ho)
  obtain ⟨hne, hj, hk⟩ := hsecond
  refine ⟨nextNumber u, secondNumber (filingWant n x) m d hm u, hne, hunused _ hj, hunused _ hk,
    withPlan_counter (counter := succNumber (secondNumber (filingWant n x) m d hm u)) ?_⟩
  rw [planVictim_ok (by rw [ha]; exact hl) (brings_filing hcu hh) hcartu hhomeu (by rw [ha]; exact hroom),
    Option.getD_some]
  exact hu _ _ _ _

theorem planVictim_waits {u : State} (h : 15 ≤ u.arm.orders.length) : (planVictim (filingWant n x) d u).getD u = u := by
  rw [planVictim_full h]
  rfl

end

/-! ### The request with its plan (R90, R91) -/

theorem planFiling_none {s : State} (h : s.planner.filingReq = none) : planFiling s = s := by
  unfold planFiling
  rw [h]

section
variable {s : State} {n : Nat} {x : Side} (hr : s.planner.filingReq = some (n, x))
include hr

theorem planFiling_new (h : ∀ p ∈ s.planner.plans, p.purpose ≠ .filing) : planFiling s = planFilingNew n x s := by
  have hplan : s.filingPlan = none := List.find?_eq_none.2 fun p hp => by simpa using h p hp
  unfold planFiling
  rw [hr]
  dsimp only
  rw [hplan]

variable {before after : List Plan} {p : Plan} (hl : s.planner.plans = before ++ p :: after) (hp : p.purpose = .filing)
  (hb : ∀ q ∈ before, q.purpose ≠ .filing)
include hl hp hb

theorem planFiling_plan : planFiling s = if p.kind = .claim then examineClaim n x p.drive s
    else if p.moved = false then s
    else if s.upIn n x p.drive = true then if reportable s p.drive = true then reportFiling p.drive s else s
    else if s.lost n = true then s
    else planFilingNew n x (dropFilingPlan s) := by
  have hplan : s.filingPlan = some p := by
    unfold State.filingPlan
    rw [hl, List.find?_append, List.find?_eq_none.2 fun q hq => by simpa using hb q hq, Option.none_or,
      List.find?_cons_of_pos (by simp [hp])]
  unfold planFiling
  rw [hr]
  dsimp only
  rw [hplan]
  dsimp only
  cases p.moved <;> rfl

end

/-! ### The inspection request (R92) -/

/-- The inspection goes on once its plan is made (R92). -/
def carriedBy (id : Nat) (s : State) : State :=
  (s.planner.plans.find? fun p => p.purpose = .importJob).elim s fun p =>
    s.updInsp id fun i => { i with phase := .carrying, order := p.move }

theorem planInspection_eq {s : State} {id : Nat} (hr : s.planner.inspReq = some id) : planInspection s
    = if s.arm.level = .halted ∨ ∃ p ∈ s.planner.plans, p.purpose = .importJob then s
      else (planBring ⟨.importJob, .lib, .importJob, .inspection id, .a, none⟩ true s).elim s (carriedBy id) := by
  have htest : (s.arm.level = .halted || s.planner.plans.any fun p => p.purpose = .importJob) = true
      ↔ s.arm.level = .halted ∨ ∃ p ∈ s.planner.plans, p.purpose = .importJob := by
    rw [Bool.or_eq_true, decide_eq_true_eq, List.any_eq_true]
    simp only [decide_eq_true_eq]
  unfold planInspection
  rw [hr]
  by_cases h : s.arm.level = .halted ∨ ∃ p ∈ s.planner.plans, p.purpose = .importJob
  · rw [if_pos h]
    exact if_pos (htest.2 h)
  · rw [if_neg h]
    refine (if_neg fun ht => h (htest.1 ht)).trans ?_
    cases planBring ⟨.importJob, .lib, .importJob, .inspection id, .a, none⟩ true s with
    | none => rfl
    | some u =>
      dsimp only [Option.elim_some]
      unfold carriedBy
      cases u.planner.plans.find? fun p => p.purpose = .importJob <;> rfl

theorem carriedBy_made {s : State} {id : Nat} {os : List MoveOrder} {counter : Nat} {p : Plan}
    (hno : ∀ q ∈ s.planner.plans, q.purpose ≠ .importJob) (hp : p.purpose = .importJob) :
    carriedBy id (withPlan os counter p s)
      = (withPlan os counter p s).updInsp id fun i => { i with phase := .carrying, order := p.move } := by
  have hfind : ((withPlan os counter p s).planner.plans.find? fun p => p.purpose = .importJob) = some p := by
    show (((s.planner.plans.filter fun q => q.drive ≠ p.drive) ++ [p]).find? _) = _
    rw [List.find?_append, List.find?_eq_none.2 fun q hq => by simpa using hno q (List.mem_of_mem_filter hq), Option.none_or,
      List.find?_cons_of_pos (by simp [hp])]
  unfold carriedBy
  rw [hfind]
  rfl

/-- The claim of a drive, with its orders where they can be given (R91). -/
theorem claim_flips {s : State} {n : Nat} {x : Side} {c : Cartridge} {d : DriveId} (hc : s.cart? n = some c)
    (h : c.location = .drive d) (hup : c.sideUp ≠ some x) (hl : s.arm.level ≠ .halted) :
    (¬ Drained s d ∨ 16 ≤ s.arm.orders.length → claim n x d s = putPlan (bareClaim n x d) s)
      ∧ (Drained s d → s.arm.orders.length < 16 → FlipPlanned n x d s (claim n x d s)) := by
  obtain ⟨hdrained, hnot⟩ := examineClaim_other (s := putPlan (bareClaim n x d) s) (d := d) hc h hup
  refine ⟨fun hw => ?_, fun hd hroom => ?_⟩
  · by_cases hd : Drained s d
    · exact (hdrained hd).trans (planFlip_waits (.inr (hw.resolve_left (not_not.2 hd))))
    · exact hnot hd
  · rw [show claim n x d s = _ from hdrained hd]
    exact planFlip_planned (fun os counter k => withPlan_putPlan (q := bareClaim n x d) (by rfl) os counter s) rfl hl hroom

theorem claim_swaps {s : State} {n : Nat} {x : Side} {c : Cartridge} {d : DriveId} (hc : s.cart? n = some c)
    (h : c.location = .shelf) (he : (s.drive d).state ≠ .empty) (hl : s.arm.level ≠ .halted) :
    (¬ Drained s d ∨ 15 ≤ s.arm.orders.length → claim n x d s = putPlan (bareClaim n x d) s)
      ∧ (Drained s d → s.arm.orders.length < 15 → Swapped n x c d s (claim n x d s)) := by
  obtain ⟨-, hdrained, hnot⟩ := examineClaim_shelf (s := putPlan (bareClaim n x d) s) (x := x) (d := d) hc h
  refine ⟨fun hw => ?_, fun hd hroom => ?_⟩
  · by_cases hd : Drained s d
    · exact (hdrained he hd).trans (planVictim_waits (hw.resolve_left (not_not.2 hd)))
    · exact hnot he hd
  · rw [show claim n x d s = _ from hdrained he hd]
    exact planVictim_swaps hc (fun os counter j k => withPlan_putPlan (q := bareClaim n x d) (by rfl) os counter s) rfl rfl rfl hl
      hroom

theorem planMount_waits {s : State} {n : Nat} {x : Side} {c : Cartridge} {d : DriveId} (hc : s.cart? n = some c)
    (hl : s.arm.level ≠ .halted) (h : 16 ≤ s.arm.orders.length) : (planMount (filingWant n x) d s).getD s = s := by
  cases hh : c.home with
  | none =>
    have hnone : bringOrder s (filingWant n x) d none = none := by
      show ((s.cart? n).bind (·.home)).map _ = _
      rw [hc, Option.bind_some, hh]
      rfl
    unfold planMount
    rw [hnone]
    rfl
  | some home =>
    rw [planMount_full hl (brings_filing hc hh) h]
    rfl

/-- A bare claim as the statement gives it. -/
theorem putPlan_claimed {u t : State} {p : Plan} (h : t = putPlan p u) : t = withPlan [] t.arm.counter p u :=
  withPlan_counter (h.trans (putPlan_eq p u))

/-- Settles O53. -/
theorem planningOfRequests : Obligations.PlanningOfRequests := by
  refine ⟨fun s n x c hr hc => ?_, fun s h => planFiling_none h, fun s => ?_⟩
  · intro t refused others withdrawn told up drained with_ claimed flips mount swaps
    refine ⟨fun hno => ?_, fun before p after hl hp hb => ?_⟩
    · have ht : t = planFilingNew n x s := planFiling_new hr hno
      refine ⟨fun d hd => ⟨fun hplan => ht.trans (planFilingNew_planned hc hd hplan), fun hplan hup => ?_, fun hplan hup => ?_⟩,
        fun hshelf => ⟨fun hl => ht.trans (planFilingNew_shelf_halted hc hshelf hl), fun hl => ?_⟩, fun hs hd => ?_⟩
      · obtain ⟨hhalt, hgo⟩ := planFilingNew_up hc hd hplan hup
        refine ⟨fun h1 h2 => ht.trans (hhalt h1 h2), fun h => ?_⟩
        obtain ⟨hyes, hnot⟩ := hgo h
        exact ⟨fun hu => ht.trans (hyes hu), fun hu => ht.trans (hnot hu)⟩
      · obtain ⟨hhalt, hblocked, hclaim⟩ := planFilingNew_other hc hd hplan hup
        refine ⟨fun h => ht.trans (hhalt h), fun h => ?_⟩
        intro blocked
        refine ⟨fun hb => ht.trans (hblocked h hb), fun hb hw => ?_, fun hb hdr hroom => ?_⟩
        · obtain ⟨hbare, -⟩ := claim_flips (s := withdrawnFrom d s) (x := x) ((withdrawnFrom_cart? n).trans hc) hd hup
            (by rw [withdrawnFrom_level]; exact h)
          exact putPlan_claimed (ht.trans ((hclaim h hb).trans
            (hbare (hw.imp_left fun k hk => k (withdrawnFrom_drained.1 hk)))))
        · obtain ⟨-, hflip⟩ := claim_flips (s := withdrawnFrom d s) (x := x) ((withdrawnFrom_cart? n).trans hc) hd hup
            (by rw [withdrawnFrom_level]; exact h)
          have hf := hflip (withdrawnFrom_drained.2 hdr) hroom
          rw [← hclaim h hb, ← ht] at hf
          exact hf
      · refine ⟨fun h hh => ?_, fun hnt hny => ?_⟩
        · exact broughtBy_planBring hl (brings_filing hc hh) (fun hd => ht.trans (planFilingNew_brings hc hshelf hl hd))
            (fun _ _ _ _ _ => rfl) fun _ _ => rfl
        · obtain ⟨hnone, hsome⟩ := planFilingNew_claims (x := x) hc hshelf hl hnt hny
          refine ⟨fun h => ht.trans (hnone h), fun d hd => ?_⟩
          have hempty : (s.drive d).state ≠ .empty := by
            intro he
            obtain ⟨⟨-, -, -, hstate⟩, -⟩ := hd
            rw [he] at hstate
            exact absurd hstate (by decide)
          obtain ⟨hbare, hswap⟩ := claim_swaps (x := x) hc hshelf hempty hl
          refine ⟨fun hw => putPlan_claimed (ht.trans ((hsome d hd).trans (hbare hw))), fun hdr hroom => ?_⟩
          have hs := hswap hdr hroom
          rw [← hsome d hd, ← ht] at hs
          exact hs
      · have heq := ht.trans (planFilingNew_elsewhere hc hs hd)
        exact ⟨fun h => heq.trans (if_pos h), fun h => heq.trans (if_neg h)⟩
    · have ht : t = _ := planFiling_plan hr hl hp hb
      have hreport : c.location = .drive p.drive → c.sideUp = some x → (if s.upIn n x p.drive = true then
          if reportable s p.drive = true then reportFiling p.drive s else s
          else if s.lost n = true then s else planFilingNew n x (dropFilingPlan s))
            = if reportable s p.drive = true then reportFiling p.drive s else s :=
        fun h hup => if_pos ((upIn_iff hc).2 ⟨h, hup⟩)
      have hlost : s.lost n = true ↔ c.location = .missing := by
        unfold State.lost
        rw [hc, Option.any_some, decide_eq_true_eq]
      refine ⟨fun hk hm => ht.trans ((if_neg hk).trans (if_pos hm)), fun hk hm => ?_, fun hk => ?_⟩
      · have ht' := ht.trans ((if_neg hk).trans (if_neg (by rw [hm]; decide)))
        have hdown (h : c.location ≠ .drive p.drive ∨ c.sideUp ≠ some x) :=
          ht'.trans (if_neg (Bool.eq_false_iff.1 (upIn_false hc h)))
        refine ⟨fun h hup => ?_, fun h => ?_, fun h hup => ?_⟩
        · have heq := ht'.trans (hreport h hup)
          exact ⟨fun hu => heq.trans (if_pos (reportable_iff.2 hu)),
            fun hu => heq.trans (if_neg fun hr' => hu (reportable_iff.1 hr'))⟩
        · exact (hdown (.inl (by rw [h]; nofun))).trans (if_pos (hlost.2 h))
        · refine ((hdown hup).trans (if_neg fun hm' => h (hlost.1 hm'))).trans ?_
          refine (planFiling_new (s := dropFilingPlan s) hr fun q hq => ?_).symm
          simpa using (List.mem_filter.1 hq).2
      · have hx : t = examineClaim n x p.drive s := ht.trans (if_pos hk)
        refine ⟨fun h hup => ?_, fun h hup => ?_, fun h => hx.trans (examineClaim_missing hc h),
          fun h => hx.trans (examineClaim_gone hc h), fun h hl' => ?_⟩
        · obtain ⟨hyes, hnot⟩ := examineClaim_up hc h hup
          exact ⟨fun hu => hx.trans (hyes hu), fun hu => hx.trans (hnot hu)⟩
        · obtain ⟨hyes, hnot⟩ := examineClaim_other hc h hup
          refine ⟨fun hw => ?_, fun hdr hroom hl' => ?_⟩
          · by_cases hdr : Drained s p.drive
            · refine hx.trans ((hyes hdr).trans (planFlip_waits ?_))
              exact (hw.resolve_left (not_not.2 hdr)).symm
            · exact hx.trans (hnot hdr)
          · have hf : FlipPlanned n x p.drive s _ := planFlip_planned (fun _ _ _ => rfl) rfl hl' hroom
            rw [← hyes hdr, ← hx] at hf
            exact hf
        · obtain ⟨hempty, hdrained, hnot⟩ := examineClaim_shelf (x := x) (d := p.drive) hc h
          refine ⟨fun he hw => ?_, fun he hdr hroom => ?_, fun he hfull => ?_, fun hm he hroom hh => ?_⟩
          · by_cases hdr : Drained s p.drive
            · exact hx.trans ((hdrained he hdr).trans (planVictim_waits (hw.resolve_left (not_not.2 hdr))))
            · exact hx.trans (hnot he hdr)
          · have hs := planVictim_swaps (u := s) (x := x) (d := p.drive) hc (fun _ _ _ _ => rfl) rfl rfl rfl hl' hroom
            rw [← hdrained he hdr, ← hx] at hs
            exact hs
          · exact hx.trans ((hempty he).trans (planMount_waits hc hl' hfull))
          · refine ⟨nextNumber s, nextNumber_unused hroom.le,
              withPlan_counter (counter := succNumber (nextNumber s)) (hx.trans ((hempty he).trans ?_))⟩
            rw [planMount_ok hl' (brings_filing hc hh) hroom]
            rfl
  · intro t
    refine ⟨fun h => ?_, fun id hr => ⟨fun h => (planInspection_eq hr).trans (if_pos h), fun hl hno => ?_⟩⟩
    · show planInspection s = s
      unfold planInspection
      rw [h]
    · have ht : t = _ := (planInspection_eq hr).trans (if_neg (not_or.2 ⟨hl, fun ⟨p, hp, hi⟩ => hno p hp hi⟩))
      refine ⟨fun h1 h2 => ?_, broughtBy_planBring hl (brings_inspection rfl rfl 0) (fun _ => ht)
        (fun os counter p hp _ => carriedBy_made hno hp) fun _ _ => rfl⟩
      rw [ht, planBring_none h1 h2]
      rfl

end Sys2Proof.Laws.RequestPlanning

/-!
PROOF. The correction of the map at start-up (R17, R37): the FILING entry removed, each record of the cartridge table put
right by the sensors, and an inspection begun for each cartridge the map does not record.
-/

namespace Sys2Proof.Laws.StartUp

open Sys2Proof Sys2Proof.Machine Sys2Proof.Laws.Noting Sys2Proof.Laws.RunEnds Sys2Proof.Laws.RunFrames
open Sys2Proof.Laws.Mapping Sys2Proof.Laws.SlotReports Sys2Proof.Laws.DriveResetting Sys2Proof.Laws.Asking
open Sys2Proof.Laws.InstrumentEnding

/-! ### What start-up reconciliation keeps of every record of the table -/

/-- Where the map has a cartridge: the number, the location, the home slot and the side up. -/
def placed (c : Cartridge) : Nat × Location × Option Nat × Option Side := (c.number, c.location, c.home, c.sideUp)

/-- Two tables that have every cartridge at the same place. -/
def SamePlaces (s t : State) : Prop := t.library.table.map placed = s.library.table.map placed

section
variable {s t : State} (h : SamePlaces s t)
include h

theorem SamePlaces.cart (n : Nat) : (t.cart? n).map placed = (s.cart? n).map placed := by
  have hfind (u : State) : (u.cart? n).map placed = (u.library.table.map placed).find? fun p => p.1 = n := by
    rw [List.find?_map]
    rfl
  rw [hfind, hfind, h]

theorem SamePlaces.cart_some {n : Nat} {c : Cartridge} (hc : s.cart? n = some c) :
    ∃ y, t.cart? n = some y ∧ y.location = c.location ∧ y.home = c.home ∧ y.sideUp = c.sideUp := by
  have hy := h.cart n
  rw [hc] at hy
  obtain ⟨y, hy, heq⟩ := Option.map_eq_some_iff.1 hy
  simp only [placed, Prod.mk.injEq] at heq
  obtain ⟨-, hl, hh, hu⟩ := heq
  exact ⟨y, hy, hl, hh, hu⟩

theorem SamePlaces.numbers : t.library.table.map (·.number) = s.library.table.map (·.number) := by
  have := congrArg (List.map Prod.fst) h
  simpa [placed, Function.comp_def] using this

theorem SamePlaces.count (p : Location → Bool) :
    t.library.table.countP (fun c => p c.location) = s.library.table.countP fun c => p c.location := by
  have hcount (u : State) : (u.library.table.countP fun c => p c.location)
      = (u.library.table.map placed).countP fun q => p q.2.1 := by
    rw [List.countP_map]
    rfl
  rw [hcount, hcount, h]

theorem SamePlaces.elsewhere {l : Location} (hs : ∀ c ∈ s.library.table, c.location ≠ l) :
    ∀ c ∈ t.library.table, c.location ≠ l := by
  intro c hc hl
  have := List.mem_map_of_mem (f := placed) hc
  rw [h] at this
  obtain ⟨y, hy, heq⟩ := List.mem_map.1 this
  simp only [placed, Prod.mk.injEq] at heq
  exact hs y hy (heq.2.1.trans hl)

end

/-! ### The FILING entry removed (R17, R21) -/

/-- The side of the removed entry has its sectors counted dead (R17). -/
def deadCounted (e : CatEntry) (v : VolumeEntry) (s : State) : State :=
  s.updCart v.cart fun c => c.updSide v.side fun r => { r with dead := r.frontier - Config.firstData - committedOn s e.volume }

/-- The catalogue without the entries of `e`'s number. -/
def withoutEntry (e : CatEntry) (s : State) : State :=
  { s with catalogue := s.catalogue.filter fun x => x.number ≠ e.number }

theorem removeFiling_eq (s : State) : removeFiling s = s.filingEntry.elim s fun e =>
    (s.volume? e.volume).elim (withoutEntry e s) fun v => deadCounted e v (withoutEntry e s) := by
  unfold removeFiling
  cases s.filingEntry with
  | none => rfl
  | some e =>
    dsimp only [Option.elim]
    have hv : (withoutEntry e s).volume? e.volume = s.volume? e.volume := rfl
    change (match (withoutEntry e s).volume? e.volume with
      | none => withoutEntry e s
      | some v => deadCounted e v (withoutEntry e s)) = _
    rw [hv]
    cases s.volume? e.volume <;> rfl

theorem removeFiling_rest (s : State) : removeFiling s = { s with
    catalogue := (removeFiling s).catalogue
    library := { s.library with table := (removeFiling s).library.table } } := by
  rw [removeFiling_eq]
  cases s.filingEntry with
  | none => rfl
  | some e =>
    dsimp only [Option.elim]
    cases s.volume? e.volume <;> rfl

theorem removeFiling_places (s : State) : SamePlaces s (removeFiling s) := by
  rw [removeFiling_eq]
  cases s.filingEntry with
  | none => rfl
  | some e =>
    dsimp only [Option.elim]
    cases s.volume? e.volume with
    | none => rfl
    | some v =>
      refine (List.map_map ..).trans (List.map_congr_left fun c _ => ?_)
      dsimp only [Function.comp]
      split
      · cases v.side <;> rfl
      · rfl

theorem removeFiling_openSide (s : State) : (removeFiling s).openSide = s.openSide := by
  rw [removeFiling_eq]
  cases s.filingEntry with
  | none => rfl
  | some e =>
    dsimp only [Option.elim]
    cases s.volume? e.volume with
    | none => rfl
    | some v => exact openSide_updSide (f := fun r => { r with
        dead := r.frontier - Config.firstData - committedOn (withoutEntry e s) e.volume }) (fun _ => rfl) _ _ (withoutEntry e s)

theorem removeFiling_catalogue {s : State} (h : CatalogueOk s.catalogue) :
    (removeFiling s).catalogue = s.catalogue.filter fun e => e.state = .committed := by
  have hcat : (removeFiling s).catalogue
      = s.filingEntry.elim s.catalogue fun e => s.catalogue.filter fun x => x.number ≠ e.number := by
    rw [removeFiling_eq]
    cases s.filingEntry with
    | none => rfl
    | some e =>
      dsimp only [Option.elim]
      cases s.volume? e.volume <;> rfl
  rw [hcat]
  cases hf : s.filingEntry with
  | none =>
    refine (List.filter_eq_self.2 fun x hx => ?_).symm
    have := List.find?_eq_none.1 hf x hx
    cases hst : x.state <;> simp_all
  | some e =>
    have he := List.mem_of_find?_eq_some hf
    have hst : e.state = .filing := by simpa using List.find?_some hf
    refine List.filter_congr fun x hx => ?_
    by_cases hn : x.number = e.number
    · cases h.same hx he hn
      simp [hst]
    · have hx' : x.state ≠ .filing := fun hs => hn (by rw [h.oneFiling x hx e he hs hst])
      cases hs : x.state <;> simp_all

/-- The dead sectors of the removed entry's side (R17). -/
theorem removeFiling_dead {s : State} {e : CatEntry} {v : VolumeEntry} {c : Cartridge} (he : s.filingEntry = some e)
    (hv : s.volume? e.volume = some v) (hc : s.cart? v.cart = some c) :
    ∃ y, (removeFiling s).cart? v.cart = some y ∧ (y.sideRec v.side).dead = (c.sideRec v.side).frontier - 32
      - ((s.catalogue.filter fun y => y.number ≠ e.number ∧ y.state = .committed ∧ y.volume = e.volume).map
          fun y => extentSum y.extents).sum := by
  have hcount : committedOn (withoutEntry e s) e.volume
      = ((s.catalogue.filter fun y => y.number ≠ e.number ∧ y.state = .committed ∧ y.volume = e.volume).map
          fun y => extentSum y.extents).sum := by
    unfold committedOn withoutEntry
    rw [List.filter_filter]
    congr 3
    funext y
    grind
  rw [removeFiling_eq, he]
  dsimp only [Option.elim]
  rw [hv]
  refine ⟨_, (cart?_updCart_self fun c => updSide_number ..).trans (congrArg _ hc), ?_⟩
  rw [sideRec_updSide]
  exact congrArg (_ - ·) hcount

/-! ### The correction of one record (R37) -/

/-- Where the sensors have the cartridge of a record (R37). -/
def located (s : State) (c : Cartridge) : Location :=
  match c.location with
  | .arm => if s.arm.gripSensor then .arm else .missing
  | .drive d => if reportsCart s d then .drive d else .missing
  | .shelf => if c.home.any s.slotReads then .shelf else .missing
  | .loadingSlot => if s.library.slotSensor then .loadingSlot else .exported
  | l => l

/-- The cartridge, recorded in the loading slot, is not there: it has left the cabinet. -/
def Leaves (s : State) (c : Cartridge) : Prop := c.location = .loadingSlot ∧ s.library.slotSensor = false

/-- The carrying home of a cartridge found on the arm or in a drive, if the map has its home slot (R37). -/
def carriedHome (kind : MoveKind) (source : ArmPlace) (c : Cartridge) (s : State) : State :=
  c.home.elim s fun h => askStartUp (startUpOrder kind c.number source h) s

/-- The drive told the cartridge that is in it (R37). -/
def informed (d : DriveId) (c : Cartridge) (s : State) : State :=
  s.updDrive d fun x => { x with cart := some (.number c.number), sideUp := c.sideUp }

section
variable {s : State} {c : Cartridge}

theorem correctCart_arm (h : c.location = .arm) :
    correctCart c s = if s.arm.gripSensor then carriedHome .returnMove .arm c s else lose c.number s := by
  unfold correctCart carriedHome
  rw [h]
  cases c.home <;> rfl

theorem correctCart_drive {d : DriveId} (h : c.location = .drive d) : correctCart c s
    = if reportsCart s d then carriedHome .demount (.drive d) c (informed d c s) else lose c.number s := by
  unfold correctCart carriedHome
  rw [h]
  cases c.home <;> rfl

theorem correctCart_shelf (h : c.location = .shelf) :
    correctCart c s = if c.home.any s.slotReads then s else lose c.number s := by
  unfold correctCart
  rw [h]
  cases c.home <;> rfl

theorem correctCart_loadingSlot (h : c.location = .loadingSlot) : correctCart c s
    = if s.library.slotSensor then s.updLibrary fun l => { l with slot := .held } else leaveCabinet c.number s := by
  unfold correctCart
  rw [h]

theorem correctCart_away (h : c.location = .exported ∨ c.location = .missing) : correctCart c s = s := by
  unfold correctCart
  rcases h with h | h <;> rw [h]

end

/-- What the correction of a record leaves of everything else. -/
structure Corrected (s t : State) : Prop where
  catalogue : t.catalogue = s.catalogue
  grip : t.arm.gripSensor = s.arm.gripSensor
  level : t.arm.level = s.arm.level
  orders : s.arm.orders <+: t.arm.orders
  library : t.library = { s.library with
    table := t.library.table, inspections := t.library.inspections, slot := t.library.slot, probeDue := t.library.probeDue }
  quiet : s.library.inspections = [] → t.library.inspections = []
  reports : ∀ d, reportsCart t d = reportsCart s d
  numbers : (t.library.table.map (·.number)).Sublist (s.library.table.map (·.number))

theorem Corrected.refl (s : State) : Corrected s s := ⟨rfl, rfl, rfl, List.prefix_refl _, rfl, id, fun _ => rfl, .refl _⟩

theorem Corrected.trans {a b c : State} (h : Corrected a b) (k : Corrected b c) : Corrected a c where
  catalogue := k.catalogue.trans h.catalogue
  grip := k.grip.trans h.grip
  level := k.level.trans h.level
  orders := h.orders.trans k.orders
  library := by rw [k.library, h.library]
  quiet hq := k.quiet (h.quiet hq)
  reports d := (k.reports d).trans (h.reports d)
  numbers := k.numbers.trans h.numbers

section
variable {s t : State} (h : Corrected s t)
include h

theorem Corrected.slotSensor : t.library.slotSensor = s.library.slotSensor := by rw [h.library]
theorem Corrected.slotReads (n : Nat) : t.slotReads n = s.slotReads n := by
  unfold State.slotReads
  rw [h.library]
theorem Corrected.lowMark : t.library.lowMark = s.library.lowMark := by rw [h.library]

theorem Corrected.located (c : Cartridge) : located t c = located s c := by
  have hs : (t.slotReads : Nat → Bool) = s.slotReads := funext h.slotReads
  unfold StartUp.located
  simp only [h.grip, h.reports, h.slotSensor, hs]

theorem Corrected.cartsNumbered (hn : cartsNumbered s) : cartsNumbered t := h.numbers.nodup hn

end

/-- An order asked for at start-up is at the end of the list, or the list is as it was. -/
theorem askStartUp_cases (o : MoveOrder) (s : State) : askStartUp o s = s ∨ askStartUp o s = asked o s := by
  unfold askStartUp
  by_cases hl : s.arm.level = .halted
  · exact .inl (by rw [askOrder_halted hl])
  · by_cases hf : orderFits s o = true
    · by_cases hr : s.arm.orders.length < 16
      · exact .inr (by rw [askOrder_ok hl hf hr])
      · exact .inl (by rw [askOrder_full hl hf (Nat.not_lt.1 hr)])
    · exact .inl (by rw [askOrder_bad hl (by simpa using hf)])

theorem asked_corrected (o : MoveOrder) (s : State) : Corrected s (asked o s) :=
  ⟨rfl, rfl, rfl, List.prefix_append .., rfl, id, fun _ => rfl, .refl _⟩

theorem carriedHome_cases (k : MoveKind) (p : ArmPlace) (c : Cartridge) (s : State) :
    carriedHome k p c s = s ∨ ∃ h, c.home = some h ∧ carriedHome k p c s = asked (startUpOrder k c.number p h) s := by
  unfold carriedHome
  cases c.home with
  | none => exact .inl rfl
  | some h => exact (askStartUp_cases (startUpOrder k c.number p h) s).imp id fun heq => ⟨h, rfl, heq⟩

theorem carriedHome_corrected (k : MoveKind) (p : ArmPlace) (c : Cartridge) (s : State) :
    Corrected s (carriedHome k p c s) := by
  rcases carriedHome_cases k p c s with h | ⟨_, -, h⟩ <;> rw [h]
  · exact .refl s
  · exact asked_corrected ..

/-- Only the order list has changed. -/
theorem carriedHome_rest (k : MoveKind) (p : ArmPlace) (c : Cartridge) (s : State) :
    carriedHome k p c s = { s with arm := (carriedHome k p c s).arm } := by
  rcases carriedHome_cases k p c s with h | ⟨_, -, h⟩
  · rw [h]
  · rw [h]
    rfl

theorem carriedHome_length (k : MoveKind) (p : ArmPlace) (c : Cartridge) (s : State) :
    (carriedHome k p c s).arm.orders.length ≤ s.arm.orders.length + 1 := by
  rcases carriedHome_cases k p c s with h | ⟨_, -, h⟩ <;> rw [h]
  · exact Nat.le_succ _
  · simp [asked]

theorem informed_corrected (d : DriveId) (c : Cartridge) (s : State) : Corrected s (informed d c s) := by
  refine ⟨rfl, rfl, rfl, List.prefix_refl _, rfl, id, fun e => ?_, .refl _⟩
  unfold reportsCart informed
  by_cases he : e = d
  · rw [he, State.drive_updDrive_self]
  · rw [State.drive_updDrive_ne _ _ he]

theorem updCart_numbers {f : Cartridge → Cartridge} (hf : ∀ c, (f c).number = c.number) (n : Nat) (s : State) :
    (s.updCart n f).library.table.map (·.number) = s.library.table.map (·.number) := by
  refine (List.map_map ..).trans (List.map_congr_left fun c _ => ?_)
  dsimp only [Function.comp]
  split
  · exact hf c
  · rfl

theorem lose_corrected (n : Nat) (s : State) : Corrected s (lose n s) := by
  refine ⟨rfl, rfl, rfl, List.prefix_refl _, rfl, id, fun _ => rfl, ?_⟩
  exact (updCart_numbers (f := fun c => { c with location := .missing, sideUp := none }) (fun _ => rfl) n s).symm ▸ .refl _

theorem leaveCabinet_numbers (n : Nat) (s : State) :
    ((leaveCabinet n s).library.table.map (·.number)).Sublist (s.library.table.map (·.number)) := by
  have hfilled (s : State) : (filled n s).library.table.map (·.number) = s.library.table.map (·.number) := by
    unfold filled
    cases s.openSide with
    | none => rfl
    | some p =>
      dsimp only [Option.elim]
      split
      · rw [makeFull_library]
        exact updCart_numbers (fun c => updSide_number ..) n s
      · rfl
  have hunlisted (s : State) :
      ((unlisted n s).library.table.map (·.number)).Sublist (s.library.table.map (·.number)) := by
    unfold unlisted
    cases s.cart? n with
    | none => exact .refl _
    | some c =>
      dsimp only [Option.elim]
      split
      · exact List.filter_sublist.map _
      · exact .refl _
  rw [leaveCabinet_eq, (slotRetry_reslotted _).table]
  refine (hunlisted _).trans ?_
  rw [hfilled, exported_table, updCart_numbers (f := fun c => { c with
    location := .exported, home := none, sideUp := none, exportPending := false }) (fun _ => rfl)]

theorem exported_inspections (n : Nat) (s : State) : (exported n s).library.inspections = s.library.inspections :=
  congrArg (·.inspections) (withPool_noted (fun s => s.updCart n fun c =>
    { c with location := .exported, home := none, sideUp := none, exportPending := false }) s).library

theorem filled_inspections (n : Nat) (s : State) : (filled n s).library.inspections = s.library.inspections := by
  unfold filled
  cases s.openSide with
  | none => rfl
  | some p =>
    dsimp only [Option.elim]
    split
    · rw [makeFull_library]
      rfl
    · rfl

theorem unlisted_inspections (n : Nat) (s : State) : (unlisted n s).library.inspections = s.library.inspections := by
  unfold unlisted
  cases s.cart? n with
  | none => rfl
  | some c =>
    dsimp only [Option.elim]
    split <;> rfl

theorem leaveCabinet_corrected (n : Nat) (s : State) : Corrected s (leaveCabinet n s) := by
  have hm := leaveCabinet_mapped n s
  refine ⟨hm.catalogue, by rw [hm.arm], by rw [hm.arm], by rw [hm.arm], ?_, fun hq => ?_, fun d => ?_, leaveCabinet_numbers n s⟩
  · rw [leaveCabinet_library]
  · have hids := (slotRetry_reslotted (unlisted n (filled n (exported n s)))).ids
    rw [← leaveCabinet_eq, unlisted_inspections, filled_inspections, exported_inspections, hq] at hids
    exact List.map_eq_nil_iff.1 hids
  · unfold reportsCart
    rw [hm.drive]

theorem correctCart_corrected (c : Cartridge) (s : State) : Corrected s (correctCart c s) := by
  cases hl : c.location with
  | arm =>
    rw [correctCart_arm hl]
    split
    · exact carriedHome_corrected ..
    · exact lose_corrected ..
  | drive d =>
    rw [correctCart_drive hl]
    split
    · exact (informed_corrected d c s).trans (carriedHome_corrected ..)
    · exact lose_corrected ..
  | shelf =>
    rw [correctCart_shelf hl]
    split
    · exact .refl s
    · exact lose_corrected ..
  | loadingSlot =>
    rw [correctCart_loadingSlot hl]
    split
    · exact ⟨rfl, rfl, rfl, List.prefix_refl _, rfl, id, fun _ => rfl, .refl _⟩
    · exact leaveCabinet_corrected ..
  | exported =>
    rw [correctCart_away (.inl hl)]
    exact .refl s
  | missing =>
    rw [correctCart_away (.inr hl)]
    exact .refl s

theorem carriedHome_library (k : MoveKind) (p : ArmPlace) (c : Cartridge) (s : State) :
    (carriedHome k p c s).library = s.library := by
  rw [carriedHome_rest]

/-- The correction of a record touches the table only by the cartridge's loss or its leaving. -/
theorem correctCart_table (c : Cartridge) (s : State) :
    ((correctCart c s).library.table = s.library.table ∧ located s c = c.location ∧ ¬ Leaves s c)
      ∨ (correctCart c s = lose c.number s ∧ located s c = .missing ∧ ¬ Leaves s c)
      ∨ (correctCart c s = leaveCabinet c.number s ∧ located s c = .exported ∧ Leaves s c) := by
  have hstay {l : Location} (h : c.location = l) (hne : l ≠ .loadingSlot) : ¬ Leaves s c := fun hL => hne (h.symm.trans hL.1)
  unfold located
  cases hl : c.location with
  | arm =>
    rw [correctCart_arm hl]
    by_cases hg : s.arm.gripSensor = true
    · exact .inl ⟨by rw [if_pos hg, carriedHome_library], if_pos hg, hstay hl (by simp)⟩
    · exact .inr (.inl ⟨if_neg hg, if_neg hg, hstay hl (by simp)⟩)
  | drive d =>
    rw [correctCart_drive hl]
    by_cases hg : reportsCart s d = true
    · exact .inl ⟨by rw [if_pos hg, carriedHome_library]; rfl, if_pos hg, hstay hl (by simp)⟩
    · exact .inr (.inl ⟨if_neg hg, if_neg hg, hstay hl (by simp)⟩)
  | shelf =>
    rw [correctCart_shelf hl]
    by_cases hg : c.home.any s.slotReads = true
    · exact .inl ⟨by rw [if_pos hg], if_pos hg, hstay hl (by simp)⟩
    · exact .inr (.inl ⟨if_neg hg, if_neg hg, hstay hl (by simp)⟩)
  | loadingSlot =>
    rw [correctCart_loadingSlot hl]
    by_cases hg : s.library.slotSensor = true
    · exact .inl ⟨by rw [if_pos hg]; rfl, if_pos hg, fun hL => by simp [hL.2] at hg⟩
    · exact .inr (.inr ⟨if_neg hg, if_neg hg, hl, by simpa using hg⟩)
  | exported => exact .inl ⟨by rw [correctCart_away (.inl hl)], rfl, hstay hl (by simp)⟩
  | missing => exact .inl ⟨by rw [correctCart_away (.inr hl)], rfl, hstay hl (by simp)⟩

theorem correctCart_cart_ne {c : Cartridge} {n : Nat} (h : n ≠ c.number) (s : State) :
    (correctCart c s).cart? n = s.cart? n := by
  rcases correctCart_table c s with ⟨ht, -⟩ | ⟨ht, -⟩ | ⟨ht, -⟩
  · exact cart?_of_table ht n
  · rw [ht]
    exact cart?_updCart_ne (f := fun c => { c with location := .missing, sideUp := none }) (fun _ => rfl) h
  · rw [ht]
    exact leaveCabinet_cart_ne h s

/-- The record of `c` as the correction leaves it: at the place the sensors give, its dead sectors as counted. -/
structure PutRight (s : State) (c y : Cartridge) : Prop where
  location : y.location = located s c
  dead : ∀ x, (y.sideRec x).dead = (c.sideRec x).dead
  home : Leaves s c → y.home = none

theorem correctCart_cart {s : State} {c : Cartridge} (hn : cartsNumbered s) (hc : s.cart? c.number = some c) :
    (¬ Leaves s c → ((correctCart c s).cart? c.number).isSome)
      ∧ ∀ y, (correctCart c s).cart? c.number = some y → PutRight s c y := by
  rcases correctCart_table c s with ⟨ht, hloc, hL⟩ | ⟨ht, hloc, hL⟩ | ⟨ht, hloc, hL⟩
  · rw [cart?_of_table ht, hc]
    refine ⟨fun _ => rfl, fun y hy => ?_⟩
    cases hy
    exact ⟨hloc.symm, fun _ => rfl, fun h => absurd h hL⟩
  · have hlost : (lose c.number s).cart? c.number = some { c with location := .missing, sideUp := none } :=
      (cart?_updCart_self (f := fun c => { c with location := .missing, sideUp := none }) fun _ => rfl).trans
        (congrArg _ hc)
    rw [ht, hlost]
    refine ⟨fun _ => rfl, fun y hy => ?_⟩
    cases hy
    exact ⟨hloc.symm, fun x => by cases x <;> rfl, fun h => absurd h hL⟩
  · rw [ht, leaveCabinet_cart hc hn]
    refine ⟨fun h => absurd hL h, fun y hy => ?_⟩
    split at hy
    · cases hy
    · cases hy
      refine ⟨hloc.symm, fun x => ?_, fun _ => rfl⟩
      cases x <;> dsimp only [away, Cartridge.sideRec] <;> split <;> rfl

/-! ### The OPEN side under the correction (R20, R34) -/

theorem findSome?_filter {α β : Type} {f : α → Option β} {p : α → Bool} {l : List α}
    (h : ∀ a ∈ l, p a = false → f a = none) : (l.filter p).findSome? f = l.findSome? f := by
  induction l with
  | nil => rfl
  | cons a l ih =>
    have ih := ih fun b hb => h b (List.mem_cons_of_mem _ hb)
    cases hp : p a with
    | true => rw [List.filter_cons_of_pos hp, List.findSome?_cons, List.findSome?_cons, ih]
    | false => simp [hp, ih, h a List.mem_cons_self hp]

theorem unlisted_openSide {n : Nat} {s : State} (hn : cartsNumbered s) : (unlisted n s).openSide = s.openSide := by
  unfold unlisted
  cases hc : s.cart? n with
  | none => rfl
  | some c =>
    dsimp only [Option.elim]
    split
    next hb =>
      refine findSome?_filter fun y hy hyn => ?_
      have hyc : s.cart? n = some y := by
        have := cart?_of_mem hn hy
        rwa [show y.number = n by simpa using hyn] at this
      rw [hc] at hyc
      cases hyc
      simp [hb]
    next => rfl

theorem leaveCabinet_openSide {n : Nat} {s : State} (hn : cartsNumbered s) (h : ∀ x, s.openSide ≠ some (n, x)) :
    (leaveCabinet n s).openSide = s.openSide := by
  have hexp := exported_openSide n s
  have hfilled : filled n (exported n s) = exported n s := by
    unfold filled
    rw [hexp]
    cases ho : s.openSide with
    | none => rfl
    | some p => exact if_neg fun hp => h p.2 (by rw [ho, ← hp])
  have hnum : cartsNumbered (exported n s) := by
    unfold cartsNumbered
    rwa [exported_table, updCart_numbers (f := fun c => { c with
      location := .exported, home := none, sideUp := none, exportPending := false }) (fun _ => rfl)]
  rw [leaveCabinet_eq, openSide_of_table (slotRetry_reslotted _).table, hfilled, unlisted_openSide hnum, hexp]

theorem correctCart_openSide {s : State} {c : Cartridge} (hn : cartsNumbered s)
    (h : Leaves s c → ∀ x, s.openSide ≠ some (c.number, x)) : (correctCart c s).openSide = s.openSide := by
  rcases correctCart_table c s with ⟨ht, -⟩ | ⟨ht, -⟩ | ⟨ht, -, hL⟩
  · exact openSide_of_table ht
  · rw [ht]
    exact openSide_updCart (f := fun c => { c with location := .missing, sideUp := none }) fun _ => ⟨rfl, rfl, rfl⟩
  · rw [ht]
    exact leaveCabinet_openSide hn (h hL)

/-! ### The orders of start-up, the drives and the loading slot (R37, R38) -/

theorem correctCart_drive_ne {c : Cartridge} {d : DriveId} (h : c.location ≠ .drive d) (s : State) :
    (correctCart c s).drive d = s.drive d := by
  have hcarried (k : MoveKind) (p : ArmPlace) (s : State) : (carriedHome k p c s).drive d = s.drive d := by
    rw [carriedHome_rest]
    rfl
  cases hl : c.location with
  | arm =>
    rw [correctCart_arm hl]
    split
    · exact hcarried ..
    · rfl
  | drive e =>
    have hde : d ≠ e := fun hde => h (hde ▸ hl)
    rw [correctCart_drive hl]
    split
    · exact (hcarried ..).trans (State.drive_updDrive_ne _ _ hde)
    · rfl
  | shelf =>
    rw [correctCart_shelf hl]
    split <;> rfl
  | loadingSlot =>
    rw [correctCart_loadingSlot hl]
    split
    · rfl
    · exact (leaveCabinet_mapped ..).drive d
  | exported => rw [correctCart_away (.inl hl)]
  | missing => rw [correctCart_away (.inr hl)]

theorem correctCart_slot_ne {c : Cartridge} (h : c.location ≠ .loadingSlot) (s : State) :
    (correctCart c s).library.slot = s.library.slot := by
  cases hl : c.location with
  | arm =>
    rw [correctCart_arm hl]
    split
    · rw [carriedHome_library]
    · rfl
  | drive e =>
    rw [correctCart_drive hl]
    split
    · rw [carriedHome_library]
      rfl
    · rfl
  | shelf =>
    rw [correctCart_shelf hl]
    split <;> rfl
  | loadingSlot => exact absurd hl h
  | exported => rw [correctCart_away (.inl hl)]
  | missing => rw [correctCart_away (.inr hl)]

/-- A record for which start-up can ask an order: the cartridge on the arm or in a drive. -/
def carriable (l : Location) : Bool := l = .arm || l matches .drive _

theorem correctCart_length (c : Cartridge) (s : State) : (correctCart c s).arm.orders.length
    ≤ s.arm.orders.length + if carriable c.location then 1 else 0 := by
  cases hl : c.location with
  | arm =>
    rw [correctCart_arm hl]
    split
    · exact carriedHome_length ..
    · exact Nat.le_succ _
  | drive d =>
    rw [correctCart_drive hl]
    split
    · exact carriedHome_length .demount (.drive d) c (informed d c s)
    · exact Nat.le_succ _
  | shelf =>
    rw [correctCart_shelf hl]
    split <;> exact le_rfl
  | loadingSlot =>
    rw [correctCart_loadingSlot hl]
    split
    · exact le_rfl
    · rw [(leaveCabinet_mapped ..).arm]
      exact le_rfl
  | exported =>
    rw [correctCart_away (.inl hl)]
    exact le_rfl
  | missing =>
    rw [correctCart_away (.inr hl)]
    exact le_rfl

/-- The order that carries a cartridge home from where it was found (R37). -/
def homeOrder (k : MoveKind) (n : Nat) (p : ArmPlace) (h number : Nat) : MoveOrder :=
  ⟨number, k, .number n, p, .shelf h, none, .lib, none, .startUp, .waiting⟩

section
variable {s : State} {c : Cartridge} {h : Nat} (hc : s.cart? c.number = some c) (hh : c.home = some h)
  (hl : s.arm.level = .normal) (hr : s.arm.orders.length < 16)
include hc hh hl hr

omit hc in
theorem carriedHome_order {k : MoveKind} {p : ArmPlace}
    (hfit : orderFits s (startUpOrder k c.number p h) = true) :
    homeOrder k c.number p h (nextNumber s) ∈ (carriedHome k p c s).arm.orders := by
  have hasked : carriedHome k p c s = asked (startUpOrder k c.number p h) s := by
    unfold carriedHome
    rw [hh]
    dsimp only [Option.elim]
    unfold askStartUp
    rw [askOrder_ok (by simp [hl]) hfit hr]
  rw [hasked]
  exact List.mem_append_right _ (List.mem_singleton.2 rfl)

theorem correctCart_returned (ha : c.location = .arm) (hg : s.arm.gripSensor = true) :
    homeOrder .returnMove c.number .arm h (nextNumber s) ∈ (correctCart c s).arm.orders := by
  rw [correctCart_arm ha, if_pos hg]
  exact carriedHome_order hh hl hr (by simp [orderFits, startUpOrder, State.homeOf, hc, hh])

theorem correctCart_demounted {d : DriveId} (hd : c.location = .drive d) (hg : reportsCart s d = true) :
    homeOrder .demount c.number (.drive d) h (nextNumber s) ∈ (correctCart c s).arm.orders := by
  rw [correctCart_drive hd, if_pos hg]
  have hc' : (informed d c s).cart? c.number = some c := hc
  have hfit : orderFits (informed d c s) (startUpOrder .demount c.number (.drive d) h) = true := by
    simp [orderFits, startUpOrder, State.homeOf, hc', hh, ArmPlace.isDrive]
  exact carriedHome_order (s := informed d c s) hh hl hr hfit

end

theorem correctCart_informed {s : State} {c : Cartridge} {d : DriveId} (hd : c.location = .drive d)
    (hg : reportsCart s d = true) :
    ((correctCart c s).drive d).cart = some (.number c.number) ∧ ((correctCart c s).drive d).sideUp = c.sideUp := by
  have hdrive : (correctCart c s).drive d = (informed d c s).drive d := by
    rw [correctCart_drive hd, if_pos hg, carriedHome_rest]
    rfl
  rw [hdrive, informed, State.drive_updDrive_self]
  exact ⟨rfl, rfl⟩

/-! ### The correction of the whole table (R37) -/

/-- The records `l` corrected in turn. -/
def corrected (l : List Cartridge) (s : State) : State := l.foldl (fun s c => correctCart c s) s

theorem corrected_append (l m : List Cartridge) (s : State) : corrected (l ++ m) s = corrected m (corrected l s) :=
  List.foldl_append ..

theorem corrected_frame (l : List Cartridge) (s : State) : Corrected s (corrected l s) := by
  induction l generalizing s with
  | nil => exact .refl s
  | cons c l ih => exact (correctCart_corrected c s).trans (ih _)

theorem corrected_cart_ne {l : List Cartridge} {n : Nat} (h : ∀ c ∈ l, c.number ≠ n) (s : State) :
    (corrected l s).cart? n = s.cart? n := by
  induction l generalizing s with
  | nil => rfl
  | cons c l ih =>
    exact (ih (fun y hy => h y (List.mem_cons_of_mem _ hy)) _).trans (correctCart_cart_ne (h c List.mem_cons_self).symm s)

theorem corrected_drive_ne {l : List Cartridge} {d : DriveId} (h : ∀ c ∈ l, c.location ≠ .drive d) (s : State) :
    (corrected l s).drive d = s.drive d := by
  induction l generalizing s with
  | nil => rfl
  | cons c l ih =>
    exact (ih (fun y hy => h y (List.mem_cons_of_mem _ hy)) _).trans (correctCart_drive_ne (h c List.mem_cons_self) s)

theorem corrected_slot_ne {l : List Cartridge} (h : ∀ c ∈ l, c.location ≠ .loadingSlot) (s : State) :
    (corrected l s).library.slot = s.library.slot := by
  induction l generalizing s with
  | nil => rfl
  | cons c l ih =>
    exact (ih (fun y hy => h y (List.mem_cons_of_mem _ hy)) _).trans (correctCart_slot_ne (h c List.mem_cons_self) s)

theorem corrected_length (l : List Cartridge) (s : State) : (corrected l s).arm.orders.length
    ≤ s.arm.orders.length + l.countP fun c => carriable c.location := by
  induction l generalizing s with
  | nil => exact le_rfl
  | cons c l ih =>
    have h1 := ih (correctCart c s)
    have h2 := correctCart_length c s
    rw [List.countP_cons]
    exact h1.trans (by omega)

theorem corrected_openSide {l : List Cartridge} {s : State} (hn : cartsNumbered s)
    (h : ∀ c ∈ l, Leaves s c → ∀ x, s.openSide ≠ some (c.number, x)) : (corrected l s).openSide = s.openSide := by
  induction l generalizing s with
  | nil => rfl
  | cons c l ih =>
    have hc := correctCart_corrected c s
    have hopen := correctCart_openSide hn (h c List.mem_cons_self)
    refine (ih (hc.cartsNumbered hn) fun y hy hL x => ?_).trans hopen
    rw [hopen]
    exact h y (List.mem_cons_of_mem _ hy) ⟨hL.1, hc.slotSensor ▸ hL.2⟩ x

/-- The correction seen at one record: what came before and what comes after are of other cartridges. -/
theorem corrected_split {s : State} (hn : cartsNumbered s) {c : Cartridge} (hc : c ∈ s.library.table) :
    ∃ before after, s.library.table = before ++ c :: after
      ∧ (∀ y ∈ before, y.number ≠ c.number) ∧ ∀ y ∈ after, y.number ≠ c.number := by
  obtain ⟨before, after, heq⟩ := List.append_of_mem hc
  refine ⟨before, after, heq, ?_⟩
  have hnum : ((before ++ c :: after).map (·.number)).Nodup := heq ▸ hn
  rw [List.map_append, List.map_cons, List.nodup_append, List.nodup_cons] at hnum
  obtain ⟨-, ⟨hafter, -⟩, hbefore⟩ := hnum
  refine ⟨fun y hy => hbefore _ (List.mem_map_of_mem hy) _ List.mem_cons_self, fun y hy heq => ?_⟩
  exact hafter (heq ▸ List.mem_map_of_mem hy)

theorem corrected_cart {s : State} (hn : cartsNumbered s) {c : Cartridge} (hc : c ∈ s.library.table) :
    (¬ Leaves s c → ((corrected s.library.table s).cart? c.number).isSome)
      ∧ ∀ y, (corrected s.library.table s).cart? c.number = some y → PutRight s c y := by
  obtain ⟨before, after, heq, hb, ha⟩ := corrected_split hn hc
  have hframe := corrected_frame before s
  have hcart : (corrected before s).cart? c.number = some c := (corrected_cart_ne hb s).trans (cart?_of_mem hn hc)
  have hsplit : corrected s.library.table s = corrected after (correctCart c (corrected before s)) := by
    rw [heq]
    exact corrected_append ..
  have hleaves : Leaves (corrected before s) c ↔ Leaves s c := by
    unfold Leaves
    rw [hframe.slotSensor]
  obtain ⟨hsome, hright⟩ := correctCart_cart (hframe.cartsNumbered hn) hcart
  rw [hsplit, corrected_cart_ne ha]
  refine ⟨fun h => hsome (h ∘ hleaves.1), fun y hy => ?_⟩
  obtain ⟨hloc, hdead, hhome⟩ := hright y hy
  exact ⟨hloc.trans (hframe.located c), hdead, hhome ∘ hleaves.2⟩

/-- No cartridge comes to a place at which the map has none, but to be MISSING or EXPORTED. -/
theorem corrected_elsewhere {s : State} (hn : cartsNumbered s) {l : Location} (hl : l ≠ .missing) (hx : l ≠ .exported)
    (h : ∀ c ∈ s.library.table, c.location ≠ l) : ∀ c ∈ (corrected s.library.table s).library.table, c.location ≠ l := by
  intro y hy hyl
  have hframe := corrected_frame s.library.table s
  have hmem := hframe.numbers.subset (List.mem_map_of_mem (f := (·.number)) hy)
  obtain ⟨c, hc, hnum⟩ := List.mem_map.1 hmem
  have hcart := cart?_of_mem (hframe.cartsNumbered hn) hy
  rw [← hnum] at hcart
  have hloc := ((corrected_cart hn hc).2 y hcart).location
  rw [hyl] at hloc
  rcases correctCart_table c s with ⟨-, hat, -⟩ | ⟨-, hat, -⟩ | ⟨-, hat, -⟩
  · exact h c hc (hloc.trans hat).symm
  · exact hl (hloc.trans hat)
  · exact hx (hloc.trans hat)

/-- Before cartridge `c` is corrected the order list has room for its order, if the orders of all have room. -/
theorem corrected_room {s : State} {before after : List Cartridge} {c : Cartridge} (heq : s.library.table = before ++ c :: after)
    (ho : s.arm.orders = []) (hr : (s.library.table.countP fun c => carriable c.location) ≤ 16)
    (hc : carriable c.location = true) : (corrected before s).arm.orders.length < 16 := by
  have hlen := corrected_length before s
  rw [heq, List.countP_append, List.countP_cons, if_pos hc] at hr
  rw [ho] at hlen
  simp only [List.length_nil] at hlen
  omega

section
variable {s : State} (hn : cartsNumbered s) (hl : s.arm.level = .normal) (ho : s.arm.orders = [])
  (hr : (s.library.table.countP fun c => carriable c.location) ≤ 16) {c : Cartridge} (hc : c ∈ s.library.table) {h : Nat}
  (hh : c.home = some h)
include hn hl ho hr hc hh

theorem corrected_returned (ha : c.location = .arm) (hg : s.arm.gripSensor = true) :
    ∃ k, homeOrder .returnMove c.number .arm h k ∈ (corrected s.library.table s).arm.orders := by
  obtain ⟨before, after, heq, hb, -⟩ := corrected_split hn hc
  have hframe := corrected_frame before s
  have hcart : (corrected before s).cart? c.number = some c := (corrected_cart_ne hb s).trans (cart?_of_mem hn hc)
  have hmem := correctCart_returned hcart hh (hframe.level.trans hl)
    (corrected_room heq ho hr (by simp [carriable, ha])) ha (hframe.grip.trans hg)
  rw [heq, corrected_append]
  exact ⟨_, (corrected_frame after _).orders.subset hmem⟩

theorem corrected_demounted {d : DriveId} (hd : c.location = .drive d) (hg : reportsCart s d = true) :
    ∃ k, homeOrder .demount c.number (.drive d) h k ∈ (corrected s.library.table s).arm.orders := by
  obtain ⟨before, after, heq, hb, -⟩ := corrected_split hn hc
  have hframe := corrected_frame before s
  have hcart : (corrected before s).cart? c.number = some c := (corrected_cart_ne hb s).trans (cart?_of_mem hn hc)
  have hmem := correctCart_demounted hcart hh (hframe.level.trans hl)
    (corrected_room heq ho hr (by simp [carriable, hd])) hd ((hframe.reports d).trans hg)
  rw [heq, corrected_append]
  exact ⟨_, (corrected_frame after _).orders.subset hmem⟩

end

/-- The drive of the only cartridge recorded in it is told of it (R37). -/
theorem corrected_informed {s : State} (hn : cartsNumbered s) {c : Cartridge} (hc : c ∈ s.library.table) {d : DriveId}
    (hd : c.location = .drive d) (hg : reportsCart s d = true)
    (only : ∀ y ∈ s.library.table, y.location = .drive d → y.number = c.number) :
    ((corrected s.library.table s).drive d).cart = some (.number c.number)
      ∧ ((corrected s.library.table s).drive d).sideUp = c.sideUp := by
  obtain ⟨before, after, heq, hb, ha⟩ := corrected_split hn hc
  have hinf := correctCart_informed hd (((corrected_frame before s).reports d).trans hg)
  have hrest : ∀ y ∈ after, y.location ≠ .drive d := fun y hy hyd =>
    ha y hy (only y (heq ▸ List.mem_append_right _ (List.mem_cons_of_mem _ hy)) hyd)
  rw [heq, corrected_append]
  exact (corrected_drive_ne hrest (correctCart c (corrected before s))).symm ▸ hinf

end Sys2Proof.Laws.StartUp

/-!
PROOF. START_UP_RECONCILIATION (R17, R37, R191). The obligation O38.
-/

namespace Sys2Proof.Laws.Reconciliation

open Sys2Proof Sys2Proof.Machine Sys2Proof.Laws.Noting Sys2Proof.Laws.RunEnds Sys2Proof.Laws.RunFrames
open Sys2Proof.Laws.Mapping Sys2Proof.Laws.SlotReports Sys2Proof.Laws.DriveResetting Sys2Proof.Laws.StartUp

/-! ### The inspections of cartridges that the map does not record (R37, R38) -/

/-- The model's name of the next inspection is one that no inspection of the list has. -/
def nameFree (s : State) : Prop := ∀ i ∈ s.library.inspections, i.id < s.library.inspectionSeq

/-- What the begin of inspections at start-up leaves of everything else. -/
structure Joined (s t : State) : Prop where
  catalogue : t.catalogue = s.catalogue
  arm : t.arm = s.arm
  library : t.library = { s.library with
    inspections := t.library.inspections, inspectionSeq := t.library.inspectionSeq, slot := t.library.slot }
  reports : ∀ d, reportsCart t d = reportsCart s d
  fresh : nameFree s → nameFree t ∧ ∀ i ∈ s.library.inspections, i ∈ t.library.inspections

theorem Joined.refl (s : State) : Joined s s := ⟨rfl, rfl, rfl, fun _ => rfl, fun h => ⟨h, fun _ => id⟩⟩

theorem Joined.trans {a b c : State} (h : Joined a b) (k : Joined b c) : Joined a c where
  catalogue := k.catalogue.trans h.catalogue
  arm := k.arm.trans h.arm
  library := by rw [k.library, h.library]
  reports d := (k.reports d).trans (h.reports d)
  fresh hf :=
    have ⟨hb, hab⟩ := h.fresh hf
    have ⟨hc, hbc⟩ := k.fresh hb
    ⟨hc, fun i hi => hbc i (hab i hi)⟩

section
variable {s t : State} (h : Joined s t)
include h

theorem Joined.table : t.library.table = s.library.table := by rw [h.library]
theorem Joined.slotSensor : t.library.slotSensor = s.library.slotSensor := by rw [h.library]
theorem Joined.lowMark : t.library.lowMark = s.library.lowMark := by rw [h.library]

theorem Joined.cartIn (d : DriveId) : t.cartIn d = s.cartIn d := by
  unfold State.cartIn
  rw [h.table]

end

/-- An inspection of the next name at the end of the list. -/
theorem nameFree_snoc {s t : State} {i : Inspection} (h : t.library.inspections = s.library.inspections ++ [i])
    (hi : i.id = s.library.inspectionSeq) (hs : t.library.inspectionSeq = s.library.inspectionSeq + 1) (hf : nameFree s) :
    nameFree t ∧ ∀ j ∈ s.library.inspections, j ∈ t.library.inspections := by
  unfold nameFree
  rw [h, hs]
  refine ⟨fun j hj => ?_, fun j hj => List.mem_append_left _ hj⟩
  rcases List.mem_append.1 hj with hj | hj
  · exact Nat.lt_succ_of_lt (hf j hj)
  · rw [List.mem_singleton.1 hj, hi]
    exact Nat.lt_succ_self _

/-- The new inspection as its slot check leaves it (R28, R38). -/
theorem slotCheck_begun {s : State} (hf : nameFree s) (o : Origin) (p : InspPlace) :
    ∃ i, (slotCheck s.library.inspectionSeq (addInspection o p .waitingSlot s)).library.inspections
        = s.library.inspections ++ [i]
      ∧ i.id = s.library.inspectionSeq ∧ i.origin = o ∧ i.place = p
      ∧ (o = .startUp → i.phase = .waitingSlot ∨ i.phase = .loading) := by
  cases hl : s.lowestFree with
  | none =>
    rw [slotCheck_none hf o hl, (noticeSet_noted ..).library]
    exact ⟨_, rfl, rfl, rfl, rfl, fun _ => .inl rfl⟩
  | some n =>
    cases o with
    | loadingSlot =>
      rw [slotCheck_fromSlot hf hl]
      exact ⟨_, rfl, rfl, rfl, rfl, nofun⟩
    | startUp =>
      rw [slotCheck_startUp hf hl]
      exact ⟨_, rfl, rfl, rfl, rfl, fun _ => .inr rfl⟩

theorem slotCheck_library (id : Nat) (s : State) : (slotCheck id s).library =
    { s.library with inspections := (slotCheck id s).library.inspections } := by
  obtain ⟨g, -, -, h⟩ := slotCheck_reslotted id s
  rw [h]

/-! #### On the arm (R37) -/

/-- The inspection of the cartridge on the arm, its RETURN due. -/
def onArm (s : State) : Inspection :=
  ⟨s.library.inspectionSeq, .startUp, .arm, .returning, none, none, none, none, true, false⟩

theorem correctGrip_library (s : State) : ((addInspection .startUp .arm .returning s).updInsp s.library.inspectionSeq
    fun i => { i with orderDue := true }).library = { s.library with
      inspections := s.library.inspections.map (fun i => if i.id = s.library.inspectionSeq then { i with orderDue := true } else i)
        ++ [onArm s]
      inspectionSeq := s.library.inspectionSeq + 1 } := by
  unfold State.updInsp State.updLibrary addInspection onArm
  simp only [State.updLibrary, List.map_append, List.map_cons, List.map_nil, ↓reduceIte]

theorem correctGrip_fresh {s : State} (hf : nameFree s) : ((addInspection .startUp .arm .returning s).updInsp
    s.library.inspectionSeq fun i => { i with orderDue := true }).library.inspections
      = s.library.inspections ++ [onArm s] := by
  rw [correctGrip_library]
  dsimp only
  congr 1
  exact (List.map_congr_left fun i hi => if_neg (hf i hi).ne).trans (List.map_id' _)

theorem correctGrip_joined (s : State) : Joined s (correctGrip s) := by
  unfold correctGrip
  split
  · refine ⟨rfl, rfl, ?_, fun _ => rfl, fun hf => ?_⟩
    · dsimp only
      rw [correctGrip_library]
    · exact nameFree_snoc (i := onArm s) (correctGrip_fresh hf) rfl rfl hf
  · exact .refl s

theorem correctGrip_drive (s : State) (d : DriveId) : (correctGrip s).drive d = s.drive d := by
  unfold correctGrip
  split <;> rfl

theorem correctGrip_slot (s : State) : (correctGrip s).library.slot = s.library.slot := by
  unfold correctGrip
  split <;> rfl

theorem correctGrip_inspects {s : State} (hf : nameFree s) (hg : s.arm.gripSensor = true)
    (h : ∀ c ∈ s.library.table, c.location ≠ .arm) : onArm s ∈ (correctGrip s).library.inspections := by
  have hcond : s.arm.gripSensor ∧ !(s.library.table.any fun c => c.location = .arm) := ⟨hg, by simpa using h⟩
  unfold correctGrip
  rw [if_pos hcond]
  dsimp only
  rw [correctGrip_fresh hf]
  exact List.mem_append_right _ (List.mem_singleton.2 rfl)

/-! #### In drives (R37, R38) -/

section
variable {s : State} {d : DriveId}

theorem correctDrive_known (h : s.cartIn d ≠ none) : correctDrive d s = s :=
  if_neg fun hn => h (Option.isNone_iff_eq_none.1 hn.2)

theorem correctDrive_unknown (hr : reportsCart s d = true) (h : s.cartIn d = none) : correctDrive d s = inspectDrive d s :=
  if_pos ⟨hr, by rw [h]; rfl⟩

theorem inspectDrive_drive : (inspectDrive d s).drive d
    = { s.drive d with cart := some (.inspection s.library.inspectionSeq), sideUp := none } := by
  rw [(inspectDrive_mapped d s).drive, unidentified, State.drive_updDrive_self]

theorem inspectDrive_drive_ne {e : DriveId} (h : e ≠ d) : (inspectDrive d s).drive e = s.drive e := by
  rw [(inspectDrive_mapped d s).drive, unidentified, State.drive_updDrive_ne _ _ h]

theorem inspectDrive_library : (inspectDrive d s).library = { s.library with
    inspections := (inspectDrive d s).library.inspections, inspectionSeq := s.library.inspectionSeq + 1 } := by
  rw [inspectDrive_eq, slotCheck_library]
  rfl

theorem inspectDrive_begun (hf : nameFree s) : ∃ i, (inspectDrive d s).library.inspections = s.library.inspections ++ [i]
    ∧ i.id = s.library.inspectionSeq ∧ i.origin = .startUp ∧ i.place = .drive d
    ∧ (i.phase = .waitingSlot ∨ i.phase = .loading) := by
  rw [inspectDrive_eq]
  obtain ⟨i, hi, hid, ho, hp, hph⟩ := slotCheck_begun (s := unidentified s d) hf .startUp (.drive d)
  exact ⟨i, hi, hid, ho, hp, hph rfl⟩

theorem correctDrive_joined (d : DriveId) (s : State) : Joined s (correctDrive d s) := by
  unfold correctDrive
  split
  · have hm := inspectDrive_mapped d s
    refine ⟨hm.catalogue, hm.arm, by rw [inspectDrive_library], fun e => ?_, fun hf => ?_⟩
    · unfold reportsCart
      by_cases he : e = d
      · rw [he, inspectDrive_drive]
      · rw [inspectDrive_drive_ne he]
    · obtain ⟨i, hi, hid, -⟩ := inspectDrive_begun (d := d) hf
      exact nameFree_snoc hi hid (by rw [inspectDrive_library]) hf
  · exact .refl s

theorem correctDrive_drive_ne {e : DriveId} (h : e ≠ d) : (correctDrive d s).drive e = s.drive e := by
  unfold correctDrive
  split
  · exact inspectDrive_drive_ne h
  · rfl

theorem correctDrive_slot (d : DriveId) (s : State) : (correctDrive d s).library.slot = s.library.slot := by
  unfold correctDrive
  split
  · rw [inspectDrive_library]
  · rfl

end

/-- The drives `ds` looked at in turn. -/
def inspected (ds : List DriveId) (s : State) : State := ds.foldl (fun s d => correctDrive d s) s

theorem inspected_append (l m : List DriveId) (s : State) : inspected (l ++ m) s = inspected m (inspected l s) :=
  List.foldl_append ..

theorem inspected_joined (ds : List DriveId) (s : State) : Joined s (inspected ds s) := by
  induction ds generalizing s with
  | nil => exact .refl s
  | cons d ds ih => exact (correctDrive_joined d s).trans (ih _)

theorem inspected_drive_ne {ds : List DriveId} {d : DriveId} (h : d ∉ ds) (s : State) :
    (inspected ds s).drive d = s.drive d := by
  induction ds generalizing s with
  | nil => rfl
  | cons e ds ih =>
    obtain ⟨he, hds⟩ : d ≠ e ∧ d ∉ ds := by simpa using h
    exact (ih hds _).trans (correctDrive_drive_ne he)

theorem inspected_slot (ds : List DriveId) (s : State) : (inspected ds s).library.slot = s.library.slot := by
  induction ds generalizing s with
  | nil => rfl
  | cons d ds ih => exact (ih _).trans (correctDrive_slot d s)

/-- Every drive is looked at once. -/
theorem allDrives_split (d : DriveId) : ∃ before after, allDrives = before ++ d :: after ∧ d ∉ before ∧ d ∉ after := by
  have hmem : d ∈ allDrives := by decide +revert
  obtain ⟨before, after, heq⟩ := List.append_of_mem hmem
  have hnodup : (before ++ d :: after).Nodup := heq ▸ (by decide : allDrives.Nodup)
  rw [List.nodup_append, List.nodup_cons] at hnodup
  obtain ⟨-, ⟨hafter, -⟩, hbefore⟩ := hnodup
  exact ⟨before, after, heq, fun hb => hbefore d hb d List.mem_cons_self rfl, hafter⟩

theorem inspected_known {s : State} {d : DriveId} (h : s.cartIn d ≠ none) : (inspected allDrives s).drive d = s.drive d := by
  obtain ⟨before, after, heq, hb, ha⟩ := allDrives_split d
  have hcart : (inspected before s).cartIn d ≠ none := by rwa [(inspected_joined before s).cartIn]
  rw [heq, inspected_append]
  change (inspected after (correctDrive d (inspected before s))).drive d = _
  rw [inspected_drive_ne ha, correctDrive_known hcart, inspected_drive_ne hb]

theorem inspected_unknown {s : State} (hf : nameFree s) {d : DriveId} (hr : reportsCart s d = true) (h : s.cartIn d = none) :
    ∃ i ∈ (inspected allDrives s).library.inspections, i.origin = .startUp ∧ i.place = .drive d
      ∧ (i.phase = .waitingSlot ∨ i.phase = .loading)
      ∧ ((inspected allDrives s).drive d).cart = some (.inspection i.id) := by
  obtain ⟨before, after, heq, -, ha⟩ := allDrives_split d
  have hbefore := inspected_joined before s
  have hcart : (inspected before s).cartIn d = none := by rwa [hbefore.cartIn]
  obtain ⟨hf', -⟩ := hbefore.fresh hf
  obtain ⟨i, hi, hid, ho, hp, hph⟩ := inspectDrive_begun (d := d) hf'
  have hinsp := correctDrive_unknown ((hbefore.reports d).trans hr) hcart
  obtain ⟨hf'', -⟩ := (correctDrive_joined d (inspected before s)).fresh hf'
  have hsplit : inspected allDrives s = inspected after (inspectDrive d (inspected before s)) := by
    rw [heq, inspected_append, ← hinsp]
    rfl
  rw [hsplit]
  have hmem : i ∈ (inspectDrive d (inspected before s)).library.inspections := by
    rw [hi]
    exact List.mem_append_right _ (List.mem_singleton.2 rfl)
  refine ⟨i, ((inspected_joined after _).fresh (hinsp ▸ hf'')).2 i hmem, ho, hp, hph, ?_⟩
  rw [inspected_drive_ne ha, inspectDrive_drive, hid]

/-! #### In the loading slot (R28, R37) -/

/-- The loading slot ARRIVED. -/
def slotArrived (s : State) : State := s.updLibrary fun l => { l with slot := .arrived }

theorem correctSlot_arrived {s : State} (h : s.library.slotSensor ∧ s.library.slot ≠ .held) : correctSlot s
    = slotCheck s.library.inspectionSeq (addInspection .loadingSlot .loadingSlot .waitingSlot (slotArrived s)) := if_pos h

theorem correctSlot_mapped (s : State) : Mapped s (correctSlot s) := by
  unfold correctSlot
  split
  · exact ((updLibrary_mapped ..).trans (addInspection_mapped ..)).trans (slotCheck_mapped ..)
  · exact .refl s

theorem correctSlot_joined (s : State) : Joined s (correctSlot s) := by
  by_cases h : s.library.slotSensor ∧ s.library.slot ≠ .held
  · have hm := correctSlot_mapped s
    have hlib := congrArg (·.library) (correctSlot_arrived h)
    rw [slotCheck_library] at hlib
    refine ⟨hm.catalogue, hm.arm, by rw [hlib]; rfl, fun d => ?_, fun hf => ?_⟩
    · unfold reportsCart
      rw [hm.drive]
    · obtain ⟨i, hi, hid, -⟩ := slotCheck_begun (s := slotArrived s) hf .loadingSlot .loadingSlot
      refine nameFree_snoc (i := i) ?_ hid (by rw [hlib]; rfl) hf
      rw [correctSlot_arrived h]
      exact hi
  · have hs : correctSlot s = s := if_neg h
    rw [hs]
    exact .refl s

theorem correctSlot_inspects {s : State} (hf : nameFree s) (h : s.library.slotSensor = true)
    (hs : s.library.slot = .empty) : (correctSlot s).library.slot = .arrived
      ∧ ∃ i ∈ (correctSlot s).library.inspections, i.origin = .loadingSlot ∧ i.place = .loadingSlot := by
  have hcond : s.library.slotSensor ∧ s.library.slot ≠ .held := ⟨h, by simp [hs]⟩
  rw [correctSlot_arrived hcond]
  refine ⟨by rw [slotCheck_library]; rfl, ?_⟩
  obtain ⟨i, hi, -, ho, hp, -⟩ := slotCheck_begun (s := slotArrived s) hf .loadingSlot .loadingSlot
  refine ⟨i, ?_, ho, hp⟩
  rw [show slotCheck s.library.inspectionSeq _ = slotCheck (slotArrived s).library.inspectionSeq _ from rfl, hi]
  exact List.mem_append_right _ (List.mem_singleton.2 rfl)

/-- The inspections of all cartridges that the map does not record, begun (R37). -/
def arrivals (s : State) : State := correctSlot (inspected allDrives (correctGrip s))

theorem arrivals_joined (s : State) : Joined s (arrivals s) :=
  ((correctGrip_joined s).trans (inspected_joined ..)).trans (correctSlot_joined _)

theorem arrivals_onArm {s : State} (hf : nameFree s) (hg : s.arm.gripSensor = true)
    (h : ∀ c ∈ s.library.table, c.location ≠ .arm) : onArm s ∈ (arrivals s).library.inspections := by
  obtain ⟨hf1, -⟩ := (correctGrip_joined s).fresh hf
  obtain ⟨-, hkept⟩ := ((inspected_joined allDrives (correctGrip s)).trans (correctSlot_joined _)).fresh hf1
  exact hkept _ (correctGrip_inspects hf hg h)

theorem arrivals_known {s : State} {d : DriveId} (h : s.cartIn d ≠ none) : (arrivals s).drive d = s.drive d := by
  have hcart : (correctGrip s).cartIn d ≠ none := by rwa [(correctGrip_joined s).cartIn]
  exact ((correctSlot_mapped _).drive d).trans ((inspected_known hcart).trans (correctGrip_drive s d))

theorem arrivals_inDrive {s : State} (hf : nameFree s) {d : DriveId} (hr : reportsCart s d = true)
    (h : ∀ c ∈ s.library.table, c.location ≠ .drive d) :
    ∃ i ∈ (arrivals s).library.inspections, i.origin = .startUp ∧ i.place = .drive d
      ∧ (i.phase = .waitingSlot ∨ i.phase = .loading) ∧ ((arrivals s).drive d).cart = some (.inspection i.id) := by
  have hg := correctGrip_joined s
  obtain ⟨hf1, -⟩ := hg.fresh hf
  obtain ⟨hf2, -⟩ := (inspected_joined allDrives (correctGrip s)).fresh hf1
  obtain ⟨i, hi, ho, hp, hph, hc⟩ := inspected_unknown hf1 ((hg.reports d).trans hr)
    ((hg.cartIn d).trans (cartIn_eq_none.2 h))
  exact ⟨i, ((correctSlot_joined _).fresh hf2).2 i hi, ho, hp, hph,
    (congrArg (·.cart) ((correctSlot_mapped _).drive d)).trans hc⟩

theorem arrivals_inSlot {s : State} (hf : nameFree s) (h : s.library.slotSensor = true) (hs : s.library.slot = .empty) :
    (arrivals s).library.slot = .arrived
      ∧ ∃ i ∈ (arrivals s).library.inspections, i.origin = .loadingSlot ∧ i.place = .loadingSlot := by
  have hj := (correctGrip_joined s).trans (inspected_joined allDrives _)
  obtain ⟨hf2, -⟩ := hj.fresh hf
  exact correctSlot_inspects hf2 (hj.slotSensor.trans h) ((inspected_slot ..).trans ((correctGrip_slot s).trans hs))

/-! ### Start-up reconciliation (R17, R37, R191) -/

/-- The state with the FILING entry removed and the sensors read, before the records are corrected. -/
def sensed (grip slot : Bool) (shelf : BitVec 96) (s : State) : State := readSensors grip slot shelf (removeFiling s)

/-- The table corrected, and the inspections begun. -/
def mapRight (s : State) : State := arrivals (corrected s.library.table s)

/-- The OPEN side marked due for the probe (R102). -/
def probeMarked (s : State) : State := s.updLibrary fun l => { l with probeDue := s.openSide.isSome }

theorem probeMarked_drive (s : State) (d : DriveId) : (probeMarked s).drive d = s.drive d := rfl
theorem probeMarked_library (s : State) : (probeMarked s).library = { s.library with probeDue := s.openSide.isSome } := rfl
theorem probeMarked_arm (s : State) : (probeMarked s).arm = s.arm := rfl
theorem probeMarked_catalogue (s : State) : (probeMarked s).catalogue = s.catalogue := rfl

/-- The receivers on, and a planning pass due. -/
def receiving (s : State) : State := (receiversOn s).wantPass

/-- The state in which start-up reconciliation leaves the acts that follow it. -/
def started (s : State) : State := receiving (correctMap s)

theorem correctMap_eq (s : State) : correctMap s = judgePool (probeMarked (mapRight s)) := rfl

theorem receiving_library (s : State) : (receiving s).library = s.library := rfl
theorem receiving_reconciled (s : State) : (receiving s).reconciled = true := rfl
theorem receiving_arm (s : State) : (receiving s).arm = s.arm := rfl
theorem receiving_catalogue (s : State) : (receiving s).catalogue = s.catalogue := rfl
theorem receiving_drive (s : State) (d : DriveId) : (receiving s).drive d = s.drive d := rfl
theorem receiving_source (s : State) (i : Nat) : (receiving s).source i = s.source i := rfl

theorem receiving_link (s : State) (st : Station) : (receiving s).link st
    = { s.link st with state := .resetting, cause := .powerOn, resetDue := true } := by
  simp [receiving, receiversOn, State.link, State.wantPass, State.wantPasses, State.updPlanner]

theorem reconcile_again {grip slot : Bool} {shelf : BitVec 96} {s : State}
    (h : s.reconciled = true ∨ ∃ d : DriveId, (s.drive d).identSince ≠ none) : reconcile grip slot shelf s = s := by
  have hmem (d : DriveId) : d ∈ allDrives := by decide +revert
  exact if_pos (h.imp id fun ⟨d, hd⟩ => List.any_eq_true.2 ⟨d, hmem d, Option.isSome_iff_ne_none.2 hd⟩)

theorem reconcile_first {grip slot : Bool} {shelf : BitVec 96} {s : State} (h : s.reconciled = false)
    (hid : ∀ d : DriveId, (s.drive d).identSince = none) :
    exec (.startUpReconciliation grip slot shelf) s = followed (started (sensed grip slot shelf s)) := by
  refine congrArg finished (if_neg ?_)
  simp [h, hid]

section
variable (s : State)

theorem correctMap_noted : Noted (probeMarked (mapRight s)) (correctMap s) := by
  rw [correctMap_eq]
  exact judgePool_noted _

theorem started_library : (started s).library
    = { (mapRight s).library with probeDue := (mapRight s).openSide.isSome } := by
  rw [started, receiving_library, (correctMap_noted s).library, probeMarked_library]

theorem started_probeDue : (started s).library.probeDue = (mapRight s).openSide.isSome := by
  rw [started_library]

theorem started_table : (started s).library.table = (mapRight s).library.table := by
  rw [started_library]

theorem started_inspections : (started s).library.inspections = (mapRight s).library.inspections := by
  rw [started_library]

theorem started_slot : (started s).library.slot = (mapRight s).library.slot := by
  rw [started_library]

theorem started_lowMark : (started s).library.lowMark = (mapRight s).library.lowMark := by
  rw [started_library]

theorem started_cart? (n : Nat) : (started s).cart? n = (mapRight s).cart? n := cart?_of_table (started_table s) n

theorem started_openSide : (started s).openSide = (mapRight s).openSide := openSide_of_table (started_table s)

theorem started_drive (d : DriveId) : (started s).drive d = (mapRight s).drive d := by
  rw [started, receiving_drive, (correctMap_noted s).drive, probeMarked_drive]

theorem started_arm : (started s).arm = (mapRight s).arm := by
  rw [started, receiving_arm, (correctMap_noted s).arm, probeMarked_arm]

theorem started_catalogue : (started s).catalogue = (mapRight s).catalogue := by
  rw [started, receiving_catalogue, (correctMap_noted s).catalogue, probeMarked_catalogue]

theorem started_link (st : Station) : ((started s).link st).state = .resetting ∧ ((started s).link st).cause = .powerOn
    ∧ ((started s).link st).resetDue = true := by
  rw [started, receiving_link]
  exact ⟨rfl, rfl, rfl⟩

theorem started_reconciled : (started s).reconciled = true := receiving_reconciled _

/-- BLANKS_LOW by the corrected pool (R26). -/
theorem started_blanksLow (h : (started s).poolSize ≤ (started s).library.lowMark) :
    ((started s).source 12).pending = true := by
  have hpool : (started s).poolSize = (probeMarked (mapRight s)).poolSize := by
    unfold State.poolSize State.pool State.beingShelved
    rw [started_library, probeMarked_library]
  rw [hpool, started_lowMark] at h
  have hjudged : correctMap s = noticeSet nBlanksLow (probeMarked (mapRight s)) := by
    rw [correctMap_eq, judgePool, probeMarked_library, if_pos h]
  rw [started, receiving_source, hjudged]
  exact noticeSet_pending _ (by decide) (by decide)

theorem mapRight_table : (mapRight s).library.table = (corrected s.library.table s).library.table :=
  (arrivals_joined _).table

theorem mapRight_cart? (n : Nat) : (mapRight s).cart? n = (corrected s.library.table s).cart? n :=
  cart?_of_table (mapRight_table s) n

theorem mapRight_lowMark : (mapRight s).library.lowMark = s.library.lowMark :=
  (arrivals_joined _).lowMark.trans (corrected_frame ..).lowMark

theorem mapRight_catalogue : (mapRight s).catalogue = s.catalogue :=
  (arrivals_joined _).catalogue.trans (corrected_frame ..).catalogue

end

section
variable {s : State} (hn : cartsNumbered s)
include hn

/-- A record as start-up reconciliation leaves it. -/
theorem started_cart {n : Nat} {c : Cartridge} (hc : s.cart? n = some c) :
    (¬ Leaves s c → ((started s).cart? n).isSome) ∧ ∀ y, (started s).cart? n = some y → PutRight s c y := by
  have hnum := cart?_number hc
  have h := corrected_cart hn (cart?_mem hc)
  rw [started_cart?, mapRight_cart?, ← hnum]
  exact h

theorem started_location {n : Nat} {c : Cartridge} (hc : s.cart? n = some c) (hL : ¬ Leaves s c) :
    ((started s).cart? n).map (·.location) = some (located s c) := by
  obtain ⟨hsome, hright⟩ := started_cart hn hc
  obtain ⟨y, hy⟩ := Option.isSome_iff_exists.1 (hsome hL)
  rw [hy]
  exact congrArg some (hright y hy).location

theorem corrected_openSide_none (h : s.openSide = none) : (corrected s.library.table s).openSide = none :=
  (corrected_openSide hn fun _ _ _ x => by simp [h]).trans h

/-- The OPEN side stays OPEN where its cartridge has not left the cabinet (R34). -/
theorem started_openSide_kept {n : Nat} {x : Side} {c : Cartridge} (ho : s.openSide = some (n, x)) (hc : s.cart? n = some c)
    (hL : ¬ Leaves s c) : (started s).openSide = some (n, x) := by
  rw [started_openSide, openSide_of_table (mapRight_table s), ← ho]
  refine corrected_openSide hn fun y hy hyL z heq => ?_
  rw [ho] at heq
  have hyc := cart?_of_mem hn hy
  rw [show y.number = n by simpa using (congrArg (Prod.fst ∘ (·.getD (0, .a))) heq).symm, hc] at hyc
  exact hL (Option.some.inj hyc ▸ hyL)

end

/-! ### The sensors read (R37) -/

section
variable (grip slot : Bool) (shelf : BitVec 96) (s : State)

theorem sensed_places : SamePlaces s (sensed grip slot shelf s) := removeFiling_places s

theorem sensed_openSide : (sensed grip slot shelf s).openSide = s.openSide := removeFiling_openSide s

theorem sensed_rest : (sensed grip slot shelf s).drives = s.drives
    ∧ (sensed grip slot shelf s).arm = { s.arm with gripSensor := grip }
    ∧ (sensed grip slot shelf s).library.lowMark = s.library.lowMark
    ∧ (sensed grip slot shelf s).library.inspections = s.library.inspections := by
  unfold sensed
  rw [removeFiling_rest]
  exact ⟨rfl, rfl, rfl, rfl⟩

theorem sensed_reports (d : DriveId) : reportsCart (sensed grip slot shelf s) d = true
    ↔ (s.drive d).fitted = true ∧ (s.drive d).presence = true := by
  obtain ⟨hd, -, -, -⟩ := sensed_rest grip slot shelf s
  rw [reportsCart, State.drive, hd]
  exact Bool.and_eq_true_iff

end

/-- START_UP_RECONCILIATION as it leaves every part of the state but the new orders and inspections (R17, R37, R191). -/
theorem started_map {s m : State} {grip slot : Bool} {shelf : BitVec 96} (hm : m = sensed grip slot shelf s)
    (hn : (s.library.table.map (·.number)).Nodup) {n : Nat} {c : Cartridge} (hc : s.cart? n = some c) :
    (∀ h, c.location = .shelf → c.home = some h →
      ((started m).cart? n).map (·.location) = some (if shelf.getLsbD (h - 1) then .shelf else .missing))
    ∧ (∀ d, c.location = .drive d → ((started m).cart? n).map (·.location)
        = some (if (s.drive d).fitted = true ∧ (s.drive d).presence = true then .drive d else .missing))
    ∧ (c.location = .arm → ((started m).cart? n).map (·.location) = some (if grip then .arm else .missing))
    ∧ (c.location = .exported → ((started m).cart? n).map (·.location) = some .exported)
    ∧ (c.location = .missing → ((started m).cart? n).map (·.location) = some .missing)
    ∧ (c.location = .loadingSlot → slot = true → ((started m).cart? n).map (·.location) = some .loadingSlot)
    ∧ (c.location = .loadingSlot → slot = false → ∀ x, (started m).cart? n = some x → x.location = .exported ∧ x.home = none) := by
  have hplaces : SamePlaces s m := hm ▸ sensed_places ..
  have hmn : cartsNumbered m := by
    unfold cartsNumbered
    rwa [hplaces.numbers]
  have hgrip : m.arm.gripSensor = grip := hm ▸ rfl
  have hslot : m.library.slotSensor = slot := hm ▸ rfl
  have hshelf (h : Nat) : m.slotReads h = shelf.getLsbD (h - 1) := hm ▸ rfl
  have hrep (d : DriveId) : reportsCart m d = true ↔ (s.drive d).fitted = true ∧ (s.drive d).presence = true :=
    hm ▸ sensed_reports ..
  obtain ⟨y, hy, hyl, hyh, -⟩ := hplaces.cart_some hc
  have hstay (hl : c.location ≠ .loadingSlot ∨ slot = true) : ¬ Leaves m y := fun ⟨h1, h2⟩ => by
    rcases hl with hl | hl
    · exact hl (hyl.symm.trans h1)
    · simp [hslot, hl] at h2
  have hat (hl : c.location ≠ .loadingSlot ∨ slot = true) := started_location hmn hy (hstay hl)
  refine ⟨fun h hl hh => ?_, fun d hl => ?_, fun hl => ?_, fun hl => ?_, fun hl => ?_, fun hl hs => ?_, fun hl hs x hx => ?_⟩
  · rw [hat (.inl (by simp [hl])), located, hyl, hl, hyh, hh]
    simp only [Option.any_some, hshelf]
  · rw [hat (.inl (by simp [hl])), located, hyl, hl]
    simp only [hrep]
  · rw [hat (.inl (by simp [hl])), located, hyl, hl, hgrip]
  · rw [hat (.inl (by simp [hl])), located, hyl, hl]
  · rw [hat (.inl (by simp [hl])), located, hyl, hl]
  · rw [hat (.inr hs), located, hyl, hl, hslot, hs]
    rfl
  · have hL : Leaves m y := ⟨hyl.trans hl, hslot.trans hs⟩
    obtain ⟨hloc, -, hhome⟩ := (started_cart hmn hy).2 x hx
    refine ⟨hloc.trans ?_, hhome hL⟩
    rw [located, hyl, hl, hslot, hs]
    rfl

theorem nameFree_nil {s : State} (h : s.library.inspections = []) : nameFree s := by simp [nameFree, h]

/-- The orders asked for and the inspections begun by start-up reconciliation (R17, R37, R38). -/
theorem started_acts {s m : State} {grip slot : Bool} {shelf : BitVec 96} (hm : m = sensed grip slot shelf s)
    (hn : (s.library.table.map (·.number)).Nodup) (hi : s.library.inspections = []) (ho : s.arm.orders = [])
    (hl : s.arm.level = .normal)
    (hr : (s.library.table.filter fun c => c.location = .arm || c.location matches .drive _).length ≤ 16) :
    let there (d : DriveId) : Prop := (s.drive d).fitted = true ∧ (s.drive d).presence = true
    (∀ e v c, s.filingEntry = some e → s.volume? e.volume = some v → s.cart? v.cart = some c →
        ∀ x, (started m).cart? v.cart = some x → (x.sideRec v.side).dead = (c.sideRec v.side).frontier - 32
          - ((s.catalogue.filter fun y => y.number ≠ e.number ∧ y.state = .committed ∧ y.volume = e.volume).map
              fun y => extentSum y.extents).sum)
      ∧ (∀ n c h, s.cart? n = some c → c.home = some h →
        (c.location = .arm → grip = true → ∃ o ∈ (started m).arm.orders,
          o = ⟨o.number, .returnMove, .number n, .arm, .shelf h, none, .lib, none, .startUp, .waiting⟩)
        ∧ ∀ d, c.location = .drive d → there d →
          (∃ o ∈ (started m).arm.orders,
            o = ⟨o.number, .demount, .number n, .drive d, .shelf h, none, .lib, none, .startUp, .waiting⟩)
          ∧ ((∀ m c', s.cart? m = some c' → c'.location = .drive d → m = n) →
            ((started m).drive d).cart = some (.number n) ∧ ((started m).drive d).sideUp = c.sideUp))
      ∧ (∀ d, there d → (∀ c ∈ s.library.table, c.location ≠ .drive d) → ∃ i ∈ (started m).library.inspections,
          i.origin = .startUp ∧ i.place = .drive d ∧ (i.phase = .waitingSlot ∨ i.phase = .loading)
            ∧ ((started m).drive d).cart = some (.inspection i.id))
      ∧ (grip = true → (∀ c ∈ s.library.table, c.location ≠ .arm) → ∃ i ∈ (started m).library.inspections,
          i.origin = .startUp ∧ i.place = .arm ∧ i.phase = .returning ∧ i.orderDue = true)
      ∧ (slot = true → (∀ c ∈ s.library.table, c.location ≠ .loadingSlot) → (started m).library.slot = .arrived
          ∧ ∃ i ∈ (started m).library.inspections, i.origin = .loadingSlot ∧ i.place = .loadingSlot) := by
  intro there
  have hplaces : SamePlaces s m := hm ▸ sensed_places ..
  have hmn : cartsNumbered m := by
    unfold cartsNumbered
    rwa [hplaces.numbers]
  have hgrip : m.arm.gripSensor = grip := hm ▸ rfl
  have hslot : m.library.slotSensor = slot := hm ▸ rfl
  have hempty : m.library.slot = .empty := hm ▸ rfl
  have hrep (d : DriveId) : reportsCart m d = true ↔ there d := hm ▸ sensed_reports ..
  obtain ⟨-, harm, -, hinsp⟩ : m.drives = s.drives ∧ m.arm = { s.arm with gripSensor := grip }
      ∧ m.library.lowMark = s.library.lowMark ∧ m.library.inspections = s.library.inspections := hm ▸ sensed_rest ..
  have hml : m.arm.level = .normal := by rw [harm]; exact hl
  have hmo : m.arm.orders = [] := by rw [harm]; exact ho
  have hmr : (m.library.table.countP fun c => carriable c.location) ≤ 16 := by
    rw [hplaces.count, List.countP_eq_length_filter]
    exact hr
  have hframe := corrected_frame m.library.table m
  have hfree : nameFree (corrected m.library.table m) := nameFree_nil (hframe.quiet (hinsp.trans hi))
  have hnone {l : Location} (hlm : l ≠ .missing) (hlx : l ≠ .exported) (h : ∀ c ∈ s.library.table, c.location ≠ l) :
      ∀ c ∈ (corrected m.library.table m).library.table, c.location ≠ l :=
    corrected_elsewhere hmn hlm hlx (hplaces.elsewhere h)
  have horders : (started m).arm.orders = (corrected m.library.table m).arm.orders := by
    rw [started_arm, mapRight, (arrivals_joined _).arm]
  refine ⟨fun e v c he hv hc x hx => ?_, fun n c h hc hh => ?_, fun d hd hnot => ?_, fun hg hnot => ?_, fun hs hnot => ?_⟩
  · obtain ⟨y, hy, hdead⟩ := removeFiling_dead he hv hc
    have hy' : m.cart? v.cart = some y := hm ▸ hy
    exact (((started_cart hmn hy').2 x hx).dead v.side).trans hdead
  · obtain ⟨y, hy, hyl, hyh, hyu⟩ := hplaces.cart_some hc
    have hnum := cart?_number hy
    have hmem := cart?_mem hy
    refine ⟨fun ha hg => ?_, fun d hd hth => ⟨?_, fun only => ?_⟩⟩
    · obtain ⟨k, hk⟩ := corrected_returned hmn hml hmo hmr hmem (hyh.trans hh) (hyl.trans ha) (hgrip.trans hg)
      rw [horders]
      exact ⟨_, hk, by rw [hnum]; rfl⟩
    · obtain ⟨k, hk⟩ := corrected_demounted hmn hml hmo hmr hmem (hyh.trans hh) (hyl.trans hd) ((hrep d).2 hth)
      rw [horders]
      exact ⟨_, hk, by rw [hnum]; rfl⟩
    · have honly (z : Cartridge) (hz : z ∈ m.library.table) (hzd : z.location = .drive d) : z.number = y.number := by
        obtain ⟨c', hc', hl', -, -⟩ := SamePlaces.cart_some (s := m) (t := s) hplaces.symm (cart?_of_mem hmn hz)
        rw [hnum]
        exact only z.number c' hc' (hl'.trans hzd)
      have hinf := corrected_informed hmn hmem (hyl.trans hd) ((hrep d).2 hth) honly
      have hin : (corrected m.library.table m).cartIn d ≠ none := by
        obtain ⟨hsome, hright⟩ := corrected_cart hmn hmem
        have hloc : located m y = .drive d := by
          rw [located, hyl, hd]
          exact if_pos ((hrep d).2 hth)
        obtain ⟨z, hz⟩ := Option.isSome_iff_exists.1 (hsome fun ⟨h1, _⟩ => by simp [hyl, hd] at h1)
        exact fun hnone => cartIn_eq_none.1 hnone z (cart?_mem hz) ((hright z hz).location.trans hloc)
      rw [started_drive, mapRight, arrivals_known hin, ← hnum, ← hyu]
      exact hinf
  · obtain ⟨i, hi, hrest⟩ := arrivals_inDrive hfree ((hframe.reports d).trans ((hrep d).2 hd))
      (hnone (by simp) (by simp) hnot)
    rw [started_inspections, started_drive]
    exact ⟨i, hi, hrest⟩
  · rw [started_inspections]
    exact ⟨_, arrivals_onArm hfree (hframe.grip.trans (hgrip.trans hg)) (hnone (by simp) (by simp) hnot), rfl, rfl, rfl, rfl⟩
  · rw [started_inspections, started_slot]
    exact arrivals_inSlot hfree (hframe.slotSensor.trans (hslot.trans hs))
      ((corrected_slot_ne (hplaces.elsewhere hnot) m).trans hempty)

/-- Settles O38. -/
theorem startUpReconciliation : Obligations.StartUpReconciliation := by
  intro s grip slot shelf out
  refine ⟨fun h => congrArg finished (reconcile_again h), fun hr hid hn hcat => ?_, fun hr hid hn hi ho hl hroom => ?_⟩
  · generalize hm : sensed grip slot shelf s = m
    have hplaces : SamePlaces s m := hm ▸ sensed_places ..
    have hmn : cartsNumbered m := by
      unfold cartsNumbered
      rwa [hplaces.numbers]
    have hopen : m.openSide = s.openSide := hm ▸ sensed_openSide ..
    have hlow : m.library.lowMark = s.library.lowMark := hm ▸ (sensed_rest grip slot shelf s).2.2.1
    have hlow' : (started m).library.lowMark = s.library.lowMark := by rw [started_lowMark, mapRight_lowMark, hlow]
    refine ⟨started m, hm ▸ reconcile_first hr hid, started_reconciled m, started_link m, ?_, ?_, fun h => ?_, fun n x c h hc hs => ?_, hlow',
      fun h => ?_, fun n c hc => started_map hm.symm hn hc⟩
    · rw [started_catalogue, mapRight_catalogue, ← hm]
      exact removeFiling_catalogue hcat
    · rw [started_probeDue, started_openSide]
    · rw [started_openSide, openSide_of_table (mapRight_table m)]
      exact corrected_openSide_none hmn (hopen.trans h)
    · obtain ⟨y, hy, hyl, -, -⟩ := hplaces.cart_some hc
      have hslot : m.library.slotSensor = slot := hm ▸ rfl
      refine started_openSide_kept hmn (hopen.trans h) hy fun ⟨h1, h2⟩ => ?_
      rw [hslot, hs (hyl.symm.trans h1)] at h2
      cases h2
    · exact started_blanksLow m (h.trans hlow'.ge)
  · exact ⟨started (sensed grip slot shelf s), reconcile_first hr hid, started_acts rfl hn hi ho hl hroom⟩

end Sys2Proof.Laws.Reconciliation

/-!
PROOF. The steps of a drive's fault, by what each leaves of the run, the fetches, the Library Map and the stations (R66, R74):
the layer that the statement about drive faults rests on.
-/

namespace Sys2Proof.Laws.FaultSteps

open Sys2Proof Sys2Proof.Machine Sys2Proof.Laws.Noting Sys2Proof.Laws.Cabinets Sys2Proof.Laws.RunFrames
open Sys2Proof.Laws.RunEnds Sys2Proof.Laws.Mapping Sys2Proof.Laws.Completion Sys2Proof.Laws.Settling
open Sys2Proof.Laws.FilingEnds Sys2Proof.Laws.DriveFaulting Sys2Proof.Laws.Halting Sys2Proof.Laws.FetchReading
open Sys2Proof.Laws.InstrumentEnding Sys2Proof.Laws.Engaging Sys2Proof.Laws.FileRequests

/-! ### The Filing Writer's acts leave the fetches (R114) -/

/-- Neither the Fetch Engine nor the Fee Unit nor a drive's queue has changed. -/
structure Unfetched (s t : State) : Prop where
  fetch : t.fetch = s.fetch
  fee : t.fee = s.fee
  queue : ∀ d, (t.drive d).queue = (s.drive d).queue

theorem Unfetched.refl (s : State) : Unfetched s s := ⟨rfl, rfl, fun _ => rfl⟩

theorem Unfetched.trans {a b c : State} (h : Unfetched a b) (k : Unfetched b c) : Unfetched a c :=
  ⟨k.fetch.trans h.fetch, k.fee.trans h.fee, fun d => (k.queue d).trans (h.queue d)⟩

theorem unfetched_of_frame {s t : State} (h : RunFrame s t) : Unfetched s t :=
  ⟨h.fetch, by rw [h.rest], fun d => by rw [h.drive d]⟩

theorem updRun_unfetched (f : Run → Run) (s : State) : Unfetched s (s.updRun f) := ⟨rfl, rfl, fun _ => rfl⟩

theorem updDrive_unfetched {s : State} {d : DriveId} {f : Drive → Drive} (h : (f (s.drive d)).queue = (s.drive d).queue) :
    Unfetched s (s.updDrive d f) := by
  refine ⟨rfl, rfl, fun e => ?_⟩
  rw [State.drive_updDrive]
  split
  next he => rw [he, h]
  next => rfl

theorem replyOpen_unfetched (c : Status) (b : ReplyBody) (s : State) : Unfetched s (replyOpen c b s) := by
  rw [replyOpen_eq]
  exact ⟨rfl, rfl, fun _ => rfl⟩

theorem replyClose_unfetched (c : Status) (b : ReplyBody) (s : State) : Unfetched s (replyClose c b s) := by
  rw [replyClose_eq]
  exact ⟨rfl, rfl, fun _ => rfl⟩

theorem runFailure_unfetched (c : Status) (s : State) : Unfetched s (runFailure c s) := by
  by_cases hidle : s.run.state = .closed ∨ s.run.failure ≠ none
  · rw [runFailure_idle hidle]
    exact .refl s
  · rw [not_or, not_not] at hidle
    obtain ⟨hs, hf⟩ := hidle
    have k := unfetched_of_frame (failedRun_frame c s)
    cases ho : s.run.openTag with
    | some g =>
      rw [runFailure_open hs hf ho]
      exact (k.trans (replyOpen_unfetched ..)).trans (updRun_unfetched ..)
    | none =>
      cases hc : s.run.closeTag with
      | some g =>
        rw [runFailure_close hs hf ho hc]
        exact (k.trans (replyClose_unfetched ..)).trans (updRun_unfetched ..)
      | none =>
        rw [runFailure_unasked hs hf ho hc]
        exact k.trans (updRun_unfetched ..)

theorem completeClose_unfetched (c : Status) (s : State) : Unfetched s (completeClose c s) := by
  unfold completeClose
  refine .trans ?_ (updRun_unfetched _ _)
  refine .trans ?_ (replyClose_unfetched _ _ _)
  refine .trans ?_ (unfetched_of_frame (disengage_frame _))
  exact .trans (unfetched_of_frame (flushRing_frame s)) (updRun_unfetched _ _)

theorem pageLost_unfetched (place : EndAt) (s : State) : Unfetched s (pageLost place s) := by
  cases place <;> exact ⟨rfl, rfl, fun _ => rfl⟩

theorem endInstrument_unfetched (c : Status) (place : EndAt) (s : State) : Unfetched s (endInstrument c place s) := by
  rw [endInstrument_eq]
  refine .trans (unfetched_of_frame (dropInstrument_frame s)) ?_
  unfold afterInstrument
  split
  · split
    · exact completeClose_unfetched ..
    · exact runFailure_unfetched ..
  · split
    · exact pageLost_unfetched ..
    · exact (pageLost_unfetched ..).trans (updRun_unfetched ..)

theorem charged_unfetched (n : Nat) (x : Side) (i : Instrument) (s : State) : Unfetched s (charged n x i s) := by
  unfold charged
  split <;> exact ⟨rfl, rfl, fun _ => rfl⟩

theorem attemptFailed_unfetched (kind : PassKind) (n : Nat) (x : Side) (s : State) :
    Unfetched s (attemptFailed kind n x s) := by
  cases h : s.run.current with
  | none =>
    rw [attemptFailed_none h]
    exact .refl s
  | some i =>
    rw [attemptFailed_some h]
    have hc := charged_unfetched n x i s
    split_ifs
    · exact hc.trans (endInstrument_unfetched ..)
    · exact hc.trans (endInstrument_unfetched ..)
    · exact hc

theorem startRollover_unfetched (p : Nat × Side) (s : State) : Unfetched s (startRollover p s) := by
  have hfull : Unfetched s (openFull s) := by
    unfold openFull
    cases s.openSide with
    | none => exact .refl s
    | some q => exact unfetched_of_frame (makeFull_frame q.1 q.2 s)
  rw [startRollover_eq]
  refine .trans ?_ (unfetched_of_frame (makeFilingReq_frame ..))
  exact .trans (hfull.trans (unfetched_of_frame (disengage_frame _))) (updRun_unfetched ..)

theorem engage_unfetched (s : State) : Unfetched s (engage s) := by
  obtain ⟨c, h⟩ | ⟨p, h⟩ | ⟨u, h, hu, -⟩ := engage_cases s
  · rw [h]
    exact runFailure_unfetched ..
  · rw [h]
    exact startRollover_unfetched ..
  · rw [h, engagedNow_rest, hu]
    exact ⟨rfl, rfl, fun _ => rfl⟩

theorem labelFailed_unfetched (n : Nat) (x : Side) (s : State) : Unfetched s (labelFailed n x s) :=
  unfetched_of_frame (labelFailed_frame n x s)

/-! ### What the ends of fetches leave of the run and the map (R140) -/

/-- Of the run, the catalogue, the shelves and the filing request nothing has changed, and of the requests outstanding at
most those in `p` are answered. -/
structure Aloof (p : FetchId → Prop) (s t : State) : Prop where
  run : t.run = s.run
  catalogue : t.catalogue = s.catalogue
  shelves : SameShelves s t
  filingReq : t.planner.filingReq = s.planner.filingReq
  inspections : t.library.inspections.map unordered = s.library.inspections.map unordered
  kept : ∀ id i, s.insp? id = some i → atEase i → t.insp? id = some i
  gone : ∀ id, s.order? id = none → t.order? id = none
  link : ∀ st, LinkSettles (fun g => p ⟨st, g⟩) (s.link st) (t.link st)

theorem Aloof.refl (p : FetchId → Prop) (s : State) : Aloof p s s :=
  ⟨rfl, rfl, rfl, rfl, rfl, fun _ _ h _ => h, fun _ h => h, fun _ => .refl _ _⟩

theorem Aloof.trans {p : FetchId → Prop} {a b c : State} (h : Aloof p a b) (k : Aloof p b c) : Aloof p a c where
  run := k.run.trans h.run
  catalogue := k.catalogue.trans h.catalogue
  shelves := h.shelves.trans k.shelves
  filingReq := k.filingReq.trans h.filingReq
  inspections := k.inspections.trans h.inspections
  kept id i hi he := k.kept id i (h.kept id i hi he) he
  gone id hid := k.gone id (h.gone id hid)
  link st := (h.link st).trans (k.link st) fun _ hp => hp

theorem Aloof.weaken {p q : FetchId → Prop} {s t : State} (h : Aloof p s t) (hpq : ∀ id, p id → q id) : Aloof q s t :=
  { h with link := fun st => ⟨(h.link st).replies, fun g hg hq => (h.link st).awaits g hg fun hp => hq (hpq _ hp)⟩ }

section
variable {p : FetchId → Prop} {s t : State} (h : Aloof p s t)
include h

theorem Aloof.table : t.library.table = s.library.table := by rw [h.shelves]
theorem Aloof.probeDue : t.library.probeDue = s.library.probeDue := by rw [h.shelves]
theorem Aloof.nextVol : t.library.nextVol = s.library.nextVol := by rw [h.shelves]
theorem Aloof.lastReject : t.library.lastReject = s.library.lastReject := by rw [h.shelves]

end

/-- The drives, the passes due, and the Fetch Engine's records alone. -/
theorem aloof_of_drives {s : State} (p : FetchId → Prop) (ds : Vector Drive 4) (k : Nat) (e : FetchEngine)
    (h : ∀ id, s.order? id = none → (e.orders.find? fun o => o.id = id) = none) :
    Aloof p s { s with drives := ds, planner := { s.planner with passesDue := k }, fetch := e } :=
  ⟨rfl, rfl, rfl, rfl, rfl, fun _ _ h _ => h, h, fun _ => .refl _ _⟩

theorem updDrive_aloof (p : FetchId → Prop) (d : DriveId) (f : Drive → Drive) (s : State) : Aloof p s (s.updDrive d f) :=
  aloof_of_drives p _ _ _ fun _ h => h

theorem wantPass_aloof (p : FetchId → Prop) (s : State) : Aloof p s s.wantPass :=
  aloof_of_drives p _ _ _ fun _ h => h

theorem tryWithdraw_aloof (p : FetchId → Prop) (n : Nat) (s : State) : Aloof p s (tryWithdraw n s) := by
  have hc := tryWithdraw_cabinet n s
  have hf := tryWithdraw_frame n s
  exact ⟨hc.run, hc.catalogue, tryWithdraw_shelves n s, tryWithdraw_filingReq n s, hf.inspections, hf.kept,
    fun id h => (hc.order? id).trans h, fun st => by rw [hc.link]; exact .refl _ _⟩

theorem removeWaiter_aloof (p : FetchId → Prop) (id : FetchId) (s : State) : Aloof p s (removeWaiter id s) := by
  unfold removeWaiter
  split
  · exact .refl p s
  · have hw : Aloof p s (s.updPlanner fun q => { q with waiters := q.waiters.filter fun w => w.id ≠ id }) :=
      ⟨rfl, rfl, rfl, rfl, rfl, fun _ _ h _ => h, fun _ h => h, fun _ => .refl _ _⟩
    dsimp only
    split
    · exact hw
    · split
      · exact hw
      · split
        · exact hw.trans (tryWithdraw_aloof p _ _)
        · exact hw

theorem takeOut_aloof (p : FetchId → Prop) (o : FetchOrder) (s : State) : Aloof p s (takeOut o s) := by
  unfold takeOut
  split
  · exact removeWaiter_aloof ..
  · dsimp only
    have hq (d : DriveId) (u : State) : Aloof p u (u.updDrive d fun x => { x with queue := x.queue.filter (· ≠ o.id) }) :=
      updDrive_aloof ..
    split_ifs
    · exact ((updDrive_aloof ..).trans (hq _ _)).trans (wantPass_aloof ..)
    · exact (updDrive_aloof ..).trans (hq _ _)
    · exact (hq _ s).trans (wantPass_aloof ..)
    · exact hq _ s

theorem completeFetch_aloof {p : FetchId → Prop} {id : FetchId} {s : State} (hp : s.order? id ≠ none → p id)
    (c : Status) : Aloof p s (completeFetch id c s) := by
  cases h : s.order? id with
  | none =>
    rw [completeFetch_none h]
    exact .refl p s
  | some o =>
    obtain rfl := order?_id h
    have k := takeOut_aloof p o s
    have hr := completeFetch_rest h c
    have hlib : (completeFetch o.id c s).library = (takeOut o s).library := by rw [hr]
    refine ⟨by rw [hr]; exact k.run, by rw [hr]; exact k.catalogue, ?_, by rw [hr]; exact k.filingReq, ?_, fun id i hi he => ?_,
      fun id => order?_stays_none (completeFetch_settles ..), fun st => ?_⟩
    · unfold SameShelves
      rw [hlib]
      exact k.shelves
    · rw [hlib]
      exact k.inspections
    · exact (LabelReading.insp?_of_library hlib).trans (k.kept id i hi he)
    · have hl := completeFetch_link h c st
      split at hl
      next hst =>
        have hpo : p ⟨st, (fetchDone o c s).tag⟩ := by
          rw [hst]
          exact hp (by rw [h]; nofun)
        refine .trans (.trans (withoutPages_settles (fun g => p ⟨st, g⟩) o (s.link st)) ?_ fun _ h => h)
          (.of_same (p := fun _ => False) hl) nofun
        exact .answered _ _ hpo
      next => exact .of_same hl

theorem completeAll_aloof {p : FetchId → Prop} {ids : List FetchId} {s : State}
    (hp : ∀ id ∈ ids, s.order? id ≠ none → p id) (c : Status) : Aloof p s (completeAll ids c s) := by
  unfold completeAll
  induction ids generalizing s with
  | nil => exact .refl p s
  | cons id ids ih =>
    have h := completeFetch_aloof (hp id List.mem_cons_self) c
    refine h.trans (ih fun x hx hne => hp x (List.mem_cons_of_mem _ hx) fun hn => hne (h.gone x hn))

/-- Every fetch of a drive's queue completed, the queue is empty (R74). -/
theorem completeAll_queue {ids : List FetchId} {d : DriveId} {s : State} (h : ∀ id ∈ (s.drive d).queue,
    id ∈ ids ∧ ∃ o, s.order? id = some o ∧ o.place = .drive d) (c : Status) :
    ((completeAll ids c s).drive d).queue = [] := by
  unfold completeAll
  induction ids generalizing s with
  | nil => exact List.eq_nil_iff_forall_not_mem.2 fun id hid => nomatch (h id hid).1
  | cons a ids ih =>
    refine ih (s := completeFetch a c s) fun id hid => ?_
    have hold := ((completeFetch_settles a c s).drive d).queue.subset hid
    obtain ⟨hmem, o, ho, hp⟩ := h id hold
    have hne : id ≠ a := by
      rintro rfl
      obtain rfl := order?_id ho
      rw [completeFetch_rest ho c] at hid
      change o.id ∈ ((takeOut o s).drive d).queue at hid
      rw [(takeOut_drive s hp).1] at hid
      simp at hid
    refine ⟨(List.mem_cons.1 hmem).resolve_left hne, o, ?_, hp⟩
    cases ha : s.order? a with
    | none => rwa [completeFetch_none ha]
    | some b =>
      obtain rfl := order?_id ha
      rw [completeFetch_order? ha, if_neg hne, ho]

/-! ### The command cut short, by the unit that it belongs to (R66) -/

section
variable {s : State} {d : DriveId} {f : InFlight} (hf : (s.drive d).command = some f)
include hf

theorem cutCommand_read {k n : Nat} (hc : f.cmd = .read k n) :
    cutCommand d s = readAnswer d (List.replicate n .unreadable) true (clearCommand d s) := by
  unfold cutCommand
  rw [hf]
  dsimp only
  rw [hc]

theorem cutCommand_write {k : Nat} {b : List Byte} (hc : f.cmd = .write k b) :
    cutCommand d s = writeAnswer d none (clearCommand d s) := by
  unfold cutCommand
  rw [hf]
  dsimp only
  rw [hc]

theorem cutCommand_verify {k n : Nat} {b : List Byte} (hc : f.cmd = .verify k n b) :
    cutCommand d s = verifyAnswer d false true (clearCommand d s) := by
  unfold cutCommand
  rw [hf]
  dsimp only
  rw [hc]

theorem cutCommand_blankCheck {k : Nat} (hc : f.cmd = .blankCheck k) :
    cutCommand d s = blankAnswer d .written (clearCommand d s) := by
  unfold cutCommand
  rw [hf]
  dsimp only
  rw [hc]

/-- A command of a unit, or one that is handed to no unit. -/
theorem cutCommand_cases : (∃ k n, f.cmd = .read k n) ∨ (∃ k b, f.cmd = .write k b) ∨ (∃ k n b, f.cmd = .verify k n b)
    ∨ (∃ k, f.cmd = .blankCheck k) ∨ cutCommand d s = clearCommand d s ∨ cutCommand d s = (clearCommand d s).wantPass := by
  unfold cutCommand
  rw [hf]
  dsimp only
  cases f.cmd with
  | read k n => exact .inl ⟨k, n, rfl⟩
  | write k b => exact .inr (.inl ⟨k, b, rfl⟩)
  | verify k n b => exact .inr (.inr (.inl ⟨k, n, b, rfl⟩))
  | blankCheck k => exact .inr (.inr (.inr (.inl ⟨k, rfl⟩)))
  | spinUp => exact .inr (.inr (.inr (.inr (.inr rfl))))
  | spinDown => exact .inr (.inr (.inr (.inr (.inl rfl))))
  | eject => exact .inr (.inr (.inr (.inr (.inl rfl))))
  | reinit => exact .inr (.inr (.inr (.inr (.inl rfl))))
  | powerCycle => exact .inr (.inr (.inr (.inr (.inl rfl))))

end

/-- The requests of the fetches of `s`. -/
def fetching (s : State) (id : FetchId) : Prop := ∃ o ∈ s.fetch.orders, o.id = id

theorem fetching_of_order? {s : State} {id : FetchId} (h : s.order? id ≠ none) : fetching s id := by
  obtain ⟨o, ho⟩ := Option.ne_none_iff_exists'.1 h
  exact ⟨o, order?_mem ho, order?_id ho⟩

theorem clearCommand_aloof (p : FetchId → Prop) (d : DriveId) (s : State) : Aloof p s (clearCommand d s) :=
  updDrive_aloof ..

theorem unitEnd_aloof (p : FetchId → Prop) {s : State} {d : DriveId} (hx : unasked (s.drive d)) :
    Aloof p s (unitEnd d s) := by
  cases hu : (s.drive d).unit with
  | none =>
    rw [unitEnd_none hu]
    exact .refl p s
  | some u =>
    rw [unitEnd_eq hu hx]
    split
    · exact (updDrive_aloof ..).trans (wantPass_aloof ..)
    · exact updDrive_aloof ..

theorem releaseBuffer_aloof (p : FetchId → Prop) (b : Nat) (s : State) : Aloof p s (s.releaseBuffer b) :=
  aloof_of_drives p _ _ _ fun _ h => h

theorem pageMissed_aloof (p : FetchId → Prop) (id : FetchId) (b : Nat) (s : State) : Aloof p s (pageMissed id b s) := by
  refine aloof_of_drives p _ _ _ fun a ha => ?_
  have hid (o : FetchOrder) : (if o.id = id then missing o else o).id = o.id := by split <;> rfl
  refine List.find?_eq_none.2 fun o ho => ?_
  change o ∈ s.fetch.orders.map fun o => if o.id = id then missing o else o at ho
  obtain ⟨q, hq, rfl⟩ := List.mem_map.1 ho
  rw [hid]
  exact List.find?_eq_none.1 ha q hq

theorem pageUnreadable_aloof {s : State} {d : DriveId} (hx : unasked (s.drive d)) {p : FetchId → Prop} {id : FetchId}
    (hp : s.order? id ≠ none → p id) (b : Nat) : Aloof p s (pageUnreadable d id b s) := by
  have hm := pageMissed_aloof p id b s
  have hxm : unasked ((pageMissed id b s).drive d) := hx
  rw [pageUnreadable_eq]
  cases (pageMissed id b s).order? id with
  | none => exact hm.trans (unitEnd_aloof p hxm)
  | some o =>
    dsimp only [Option.elim_some]
    have hu := hm.trans (unitEnd_aloof p hxm)
    split
    · exact hu.trans (completeFetch_aloof (fun hne => hp fun hn => hne (hu.gone id hn)) _)
    · have hput : Aloof p (pageMissed id b s) (putBack d id (pageMissed id b s)) := updDrive_aloof ..
      have hxp := unasked_of_hull ((putBack_handed d id (pageMissed id b s)).hull d) hxm
      exact (hm.trans hput).trans (unitEnd_aloof p hxp)

/-- A unit that is not of filing, cut short, leaves the run and the map, and answers none but its own fetch (R66). -/
theorem cutCommand_aloof {s : State} {d : DriveId} (hx : unasked (s.drive d))
    (hw : ∀ u, (s.drive d).unit = some u → u.work.isFiling = false) : Aloof (fetching s) s (cutCommand d s) := by
  have hc := clearCommand_aloof (fetching s) d s
  have hxc : unasked ((clearCommand d s).drive d) := unasked_cleared hx
  have hunit : ((clearCommand d s).drive d).unit = (s.drive d).unit := by rw [drive_cleared]
  have hp (id : FetchId) (h : (clearCommand d s).order? id ≠ none) : fetching s id := fetching_of_order? h
  have hend := unitEnd_aloof (fetching s) hxc
  cases hf : (s.drive d).command with
  | none =>
    unfold cutCommand
    rw [hf]
    exact .refl _ s
  | some f =>
    rcases cutCommand_cases hf with ⟨k, n, hcmd⟩ | ⟨k, b, hcmd⟩ | ⟨k, n, b, hcmd⟩ | ⟨k, hcmd⟩ | hcut | hcut
    · rw [cutCommand_read hf hcmd]
      have hfirst : (List.replicate n SectorRead.unreadable).headD .unreadable = .unreadable := by cases n <;> rfl
      unfold readAnswer
      rw [hfirst]
      dsimp only
      split
      next id sector tries ended _ =>
        split
        · exact hc.trans hend
        · refine hc.trans (hend.trans (completeFetch_aloof (fun hne => hp id fun hn => hne (hend.gone id hn)) _))
      next id b ps i n ended _ =>
        split
        · exact (hc.trans (releaseBuffer_aloof _ b _)).trans (unitEnd_aloof _ (s := (clearCommand d s).releaseBuffer b) hxc)
        · unfold pageAnswer
          dsimp only
          rw [if_pos (.inl rfl)]
          exact hc.trans (pageUnreadable_aloof hxc (hp id) b)
      · exact hc.trans hend
      · exact hc
    · rw [cutCommand_write hf hcmd]
      unfold writeAnswer
      split
      next heq => exact Bool.noConfusion (hw _ (hunit.symm.trans heq))
      next heq => exact Bool.noConfusion (hw _ (hunit.symm.trans heq))
      · exact hc.trans hend
      · exact hc
    · rw [cutCommand_verify hf hcmd]
      unfold verifyAnswer
      split
      next heq => exact Bool.noConfusion (hw _ (hunit.symm.trans heq))
      next heq => exact Bool.noConfusion (hw _ (hunit.symm.trans heq))
      · exact hc.trans hend
      · exact hc
    · rw [cutCommand_blankCheck hf hcmd]
      unfold blankAnswer
      split
      next heq => exact Bool.noConfusion (hw _ (hunit.symm.trans heq))
      · exact hc
    · rw [hcut]
      exact hc
    · rw [hcut]
      exact hc.trans (wantPass_aloof ..)

/-- What a filing unit's end leaves: the fetches, the inspections at ease, and of the requests outstanding all but the
run's. -/
structure Filed (s t : State) : Prop extends Unfetched s t where
  asks : ∀ id, Settling.asks t.run id → Settling.asks s.run id
  link : ∀ st, LinkSettles (fun g => Settling.asks s.run ⟨st, g⟩ ∨ fetching s ⟨st, g⟩) (s.link st) (t.link st)
  inspections : t.library.inspections.map unordered = s.library.inspections.map unordered
  kept : ∀ id i, s.insp? id = some i → atEase i → t.insp? id = some i
  lastReject : t.library.lastReject = s.library.lastReject

theorem Filed.trans {a b c : State} (h : Filed a b) (k : Filed b c) : Filed a c where
  toUnfetched := h.toUnfetched.trans k.toUnfetched
  asks id hid := h.asks id (k.asks id hid)
  link st := (h.link st).trans (k.link st) fun g hg => hg.imp (h.asks _) fun hq => by
    unfold fetching at hq ⊢
    rwa [h.fetch] at hq
  inspections := k.inspections.trans h.inspections
  kept id i hi he := k.kept id i (h.kept id i hi he) he
  lastReject := k.lastReject.trans h.lastReject

theorem filed_of_settles {s t : State} (h : Settles s t) (k : Unfetched s t) : Filed s t where
  toUnfetched := k
  asks := h.asks
  link st := h.link st
  inspections := h.inspections
  kept := h.kept
  lastReject := by rw [h.library]

theorem updDrive_filed {s : State} {d : DriveId} {f : Drive → Drive} (h : (f (s.drive d)).queue = (s.drive d).queue) :
    Filed s (s.updDrive d f) :=
  ⟨updDrive_unfetched h, fun _ h => h, fun _ => .refl _ _, rfl, fun _ _ h _ => h, rfl⟩

theorem Filed.refl (s : State) : Filed s s := filed_of_settles (.refl s) (.refl s)

theorem unitEnd_filed {s : State} {d : DriveId} (hx : unasked (s.drive d)) : Filed s (unitEnd d s) := by
  cases hu : (s.drive d).unit with
  | none =>
    rw [unitEnd_none hu]
    exact .refl s
  | some u =>
    rw [unitEnd_eq hu hx]
    have h : Filed s (s.updDrive d (unitless u s.seconds)) := updDrive_filed rfl
    split
    · exact h.trans (filed_of_settles (wantPass_settles _) ⟨rfl, rfl, fun _ => rfl⟩)
    · exact h

theorem advanceFrontier_filed (n : Nat) (x : Side) (s : State) : Filed s (advanceFrontier n x s) :=
  filed_of_settles (advanceFrontier_settles ..) ⟨rfl, rfl, fun _ => rfl⟩

theorem countDead_filed (n : Nat) (x : Side) (k : Nat) (s : State) : Filed s (countDead n x k s) :=
  filed_of_settles (countDead_settles ..) ⟨rfl, rfl, fun _ => rfl⟩

theorem updRun_filed {f : Run → Run} {s : State} (h : ∀ id, Settling.asks (f s.run) id → Settling.asks s.run id) :
    Filed s (s.updRun f) :=
  filed_of_settles (updRun_settles h) (updRun_unfetched ..)

theorem attemptFailed_filed (kind : PassKind) (n : Nat) (x : Side) (s : State) : Filed s (attemptFailed kind n x s) :=
  filed_of_settles (attemptFailed_settles ..) (attemptFailed_unfetched ..)

theorem labelFailed_filed (n : Nat) (x : Side) (s : State) : Filed s (labelFailed n x s) :=
  filed_of_settles (labelFailed_settles ..) (labelFailed_unfetched ..)

theorem labelCut_filed (n : Nat) (x : Side) (s : State) : Filed s (labelCut n x s) :=
  (labelFailed_filed n x s).trans (updRun_filed fun _ h => h)

theorem cutWrite_filed {s : State} {d : DriveId} (hx : unasked (s.drive d)) : Filed s (writeAnswer d none s) := by
  unfold writeAnswer
  split
  next kind n x left ended _ =>
    unfold writePassAnswer
    split
    · exact ((advanceFrontier_filed n x s).trans (countDead_filed n x 1 _)).trans
        (unitEnd_filed (s := countDead n x 1 (advanceFrontier n x s)) hx)
    · have hpass : Filed s (sectorPassed n x s) :=
        (advanceFrontier_filed n x s).trans (filed_of_settles (updInstrument_settles ..) ⟨rfl, rfl, fun _ => rfl⟩)
      exact (hpass.trans (unitEnd_filed (s := sectorPassed n x s) hx)).trans (attemptFailed_filed ..)
  next n x v ended _ =>
    unfold labelWriteAnswer
    split
    · exact (unitEnd_filed hx).trans (labelFailed_filed ..)
    · exact (unitEnd_filed hx).trans (labelCut_filed ..)
  · exact unitEnd_filed hx
  · exact .refl s

theorem cutVerify_filed {s : State} {d : DriveId} (hx : unasked (s.drive d)) : Filed s (verifyAnswer d false true s) := by
  unfold verifyAnswer
  have hu := unitEnd_filed hx
  split
  next kind ended _ =>
    unfold verifyPassAnswer
    dsimp only
    generalize unitEnd d s = u at hu
    split
    · exact hu
    · split
      · exact hu
      · rw [if_neg (by decide)]
        split
        · exact hu.trans (attemptFailed_filed ..)
        · exact hu
  · unfold labelVerifyAnswer
    split
    · exact hu.trans (labelFailed_filed ..)
    · exact hu.trans (labelCut_filed ..)
  · exact hu
  · exact .refl s

theorem cutBlankCheck_filed {s : State} {d : DriveId} (hx : unasked (s.drive d)) : Filed s (blankAnswer d .written s) := by
  unfold blankAnswer
  split
  next n x ended _ =>
    unfold probeAnswer
    dsimp only
    have hu := unitEnd_filed hx
    generalize unitEnd d s = u at hu
    have hd := hu.trans ((countDead_filed n x 1 u).trans (advanceFrontier_filed n x _))
    split
    · exact hu
    · split
      · refine hd.trans (.trans (updRun_filed (f := fun r => { r with probing := none }) fun _ h => h) ?_)
        refine .trans ?_ (filed_of_settles (engage_settles _) (engage_unfetched _))
        exact filed_of_settles (makeFull_settles ..) (unfetched_of_frame (makeFull_frame ..))
      · exact hd.trans (updRun_filed fun _ h => h)
  · exact .refl s

/-- A command that is no READ, cut short, leaves the fetches (R66). -/
theorem cutCommand_filed {s : State} {d : DriveId} (hx : unasked (s.drive d))
    (hr : ∀ f, (s.drive d).command = some f → ∀ k n, f.cmd ≠ .read k n) : Filed s (cutCommand d s) := by
  have hc : Filed s (clearCommand d s) := updDrive_filed rfl
  have hxc : unasked ((clearCommand d s).drive d) := unasked_cleared hx
  cases hf : (s.drive d).command with
  | none =>
    unfold cutCommand
    rw [hf]
    exact .refl s
  | some f =>
    rcases cutCommand_cases hf with ⟨k, n, hcmd⟩ | ⟨k, b, hcmd⟩ | ⟨k, n, b, hcmd⟩ | ⟨k, hcmd⟩ | hcut | hcut
    · exact absurd hcmd (hr f hf k n)
    · rw [cutCommand_write hf hcmd]
      exact hc.trans (cutWrite_filed hxc)
    · rw [cutCommand_verify hf hcmd]
      exact hc.trans (cutVerify_filed hxc)
    · rw [cutCommand_blankCheck hf hcmd]
      exact hc.trans (cutBlankCheck_filed hxc)
    · rw [hcut]
      exact hc
    · rw [hcut]
      exact hc.trans (filed_of_settles (wantPass_settles _) ⟨rfl, rfl, fun _ => rfl⟩)

/-- A command cut short leaves the fetches, or else the run (R66). -/
theorem cutCommand_either {s : State} {d : DriveId} (hx : unasked (s.drive d)) :
    Filed s (cutCommand d s) ∨ Aloof (fetching s) s (cutCommand d s) := by
  by_cases hr : ∃ f k n, (s.drive d).command = some f ∧ f.cmd = .read k n
  · obtain ⟨f, k, n, hf, hcmd⟩ := hr
    by_cases hw : ∃ u, (s.drive d).unit = some u ∧ u.work.isFiling = true
    · left
      obtain ⟨u, hu, hw⟩ := hw
      have hu' := unit_cleared hu
      obtain ⟨w, e⟩ := u
      have hcut : cutCommand d s = clearCommand d s := by
        rw [cutCommand_read hf hcmd]
        unfold readAnswer
        rw [hu']
        cases w with
        | trailerRead => exact Bool.noConfusion hw
        | pageRead => exact Bool.noConfusion hw
        | labelRead => exact Bool.noConfusion hw
        | _ => rfl
      rw [hcut]
      exact updDrive_filed rfl
    · exact .inr (cutCommand_aloof hx fun u hu => by simpa using fun h => hw ⟨u, hu, h⟩)
  · exact .inl (cutCommand_filed hx fun f hf k n hcmd => hr ⟨f, k, n, hf, hcmd⟩)

/-! ### The drive stops, and the reset that it owes an answer (R74, R76) -/

/-- The state in which the command in flight has been handed to its owner (R66). -/
def cutShort (d : DriveId) (s : State) : State := cutCommand d (s.updDrive d unaskedDrive)

/-- The state in which the drive has entered FAULTED, or EMPTY, and its reset is answered (R74, R76). -/
def stopped (d : DriveId) (code : DriveFaultCode) (s : State) : State :=
  emptied (s.drive d).vacated d (resetRefused d code (faultBegun d code s))

theorem driveFault_stopped {s : State} {d : DriveId} (h : (s.drive d).state ≠ .faulted) (code : DriveFaultCode) :
    driveFault d code s = concluded (filingDrive (s.drive d)) d (stopped d code s) := driveFault_eq h code

section
variable (d : DriveId) (code : DriveFaultCode) (s : State)

theorem becomeFaulted_aloof (p : FetchId → Prop) (v : State) : Aloof p v (becomeFaulted d code v) := by
  have h : Aloof p v (v.updDrive d (faultedDrive code)) := updDrive_aloof ..
  unfold becomeFaulted
  show Aloof p v (match ((v.updDrive d (faultedDrive code)).drive d).pendingHold with | some n => _ | none => _)
  split
  · exact h.trans (tryWithdraw_aloof ..)
  · exact h

theorem becomeFaulted_links (v : State) : (becomeFaulted d code v).links = v.links := by
  unfold becomeFaulted
  show (match ((v.updDrive d (faultedDrive code)).drive d).pendingHold with | some n => _ | none => _ : State).links = _
  split
  · rw [(tryWithdraw_cabinet ..).links]
    rfl
  · rfl

theorem becomeFaulted_unfetched (v : State) : Unfetched v (becomeFaulted d code v) := by
  have h : Unfetched v (v.updDrive d (faultedDrive code)) := updDrive_unfetched rfl
  unfold becomeFaulted
  show Unfetched v (match ((v.updDrive d (faultedDrive code)).drive d).pendingHold with | some n => _ | none => _)
  split
  · exact h.trans (unfetched_of_frame (tryWithdraw_frame ..))
  · exact h

/-- The drive keeps the reset request through the end of its command. -/
theorem faultBegun_resetBy : ((faultBegun d code s).drive d).resetBy = (s.drive d).resetBy := by
  rw [(faultBegun_drive d code s).rest]
  exact (congrArg Drive.resetBy (cutDrive_hull d s) :)

theorem emptied_aloof (p : FetchId → Prop) (v : State) (b : Bool) : Aloof p v (emptied b d v) := by
  unfold emptied
  split
  · rw [vacatedEmpty_eq]
    exact (updDrive_aloof ..).trans (wantPass_aloof ..)
  · exact .refl p v

theorem emptied_unfetched (v : State) (b : Bool) : Unfetched v (emptied b d v) := by
  unfold emptied
  split
  · rw [vacatedEmpty_eq]
    exact (updDrive_unfetched (f := vacatedDrive) rfl).trans ⟨rfl, rfl, fun _ => rfl⟩
  · exact .refl v

theorem emptied_links (v : State) (b : Bool) : (emptied b d v).links = v.links := by
  unfold emptied
  split
  · rw [vacatedEmpty_eq]
    rfl
  · rfl

theorem stopped_aloof : Aloof (fun id => (s.drive d).resetBy = some id) (cutShort d s) (stopped d code s) := by
  refine .trans (.trans (becomeFaulted_aloof d code _ (cutShort d s)) ?_) (emptied_aloof d _ _ _)
  change Aloof _ (faultBegun d code s) _
  cases h : ((faultBegun d code s).drive d).resetBy with
  | none =>
    rw [resetRefused_none h]
    exact .refl _ _
  | some who =>
    rw [resetRefused_some h]
    rw [faultBegun_resetBy] at h
    refine .trans (updDrive_aloof _ d unreset (faultBegun d code s)) ?_
    refine ⟨rfl, rfl, rfl, rfl, rfl, fun _ _ h _ => h, fun _ h => h, fun st => ?_⟩
    rw [State.link_updLink]
    split
    next hst =>
      rw [hst]
      exact .answered _ _ h
    next => exact .refl _ _

theorem stopped_unfetched : Unfetched (cutShort d s) (stopped d code s) := by
  refine .trans (.trans (becomeFaulted_unfetched d code (cutShort d s)) ?_) (emptied_unfetched d _ _)
  change Unfetched (faultBegun d code s) _
  cases h : ((faultBegun d code s).drive d).resetBy with
  | none =>
    rw [resetRefused_none h]
    exact .refl _
  | some who =>
    rw [resetRefused_some h]
    exact (updDrive_unfetched (f := unreset) rfl).trans ⟨rfl, rfl, fun _ => rfl⟩

theorem stopped_links (h : (s.drive d).resetBy = none) : (stopped d code s).links = (cutShort d s).links := by
  have hreset : ((faultBegun d code s).drive d).resetBy = none := (faultBegun_resetBy d code s).trans h
  rw [stopped, emptied_links, resetRefused_none hreset]
  exact becomeFaulted_links ..

theorem stopped_link {w : FetchId} (h : (s.drive d).resetBy = some w) : (stopped d code s).link w.station
    = answered (resetFailed w code) ((cutShort d s).link w.station) := by
  have hreset : ((faultBegun d code s).drive d).resetBy = some w := (faultBegun_resetBy d code s).trans h
  have hlinks := emptied_links d (resetRefused d code (faultBegun d code s)) (s.drive d).vacated
  rw [State.link, stopped, hlinks, resetRefused_some hreset]
  have hbegun : (faultBegun d code s).link w.station = (cutShort d s).link w.station :=
    congrArg (fun v : Vector Link 4 => v[w.station]) (becomeFaulted_links d code (cutShort d s))
  rw [← hbegun]
  exact State.link_updLink_self ..

end

/-! ### The rest of the fault (R74) -/

/-- The fetches of the drive have been completed (R74). -/
def fetchesEnded (d : DriveId) (w : State) : State := completeAll (w.drive d).queue .driveFault w

/-- The run has been told as well (R114). -/
def runEnded (filing : Bool) (d : DriveId) (w : State) : State := runTold filing (fetchesEnded d w)

/-- The last steps, which concern the inspection of the drive and the notice alone. -/
structure Told (v t : State) : Prop where
  run : t.run = v.run
  catalogue : t.catalogue = v.catalogue
  fetch : t.fetch = v.fetch
  fee : t.fee = v.fee
  filingReq : t.planner.filingReq = v.planner.filingReq
  library : t.library = { v.library with inspections := t.library.inspections, lastReject := t.library.lastReject }
  replies : ∀ st, (t.link st).replies = (v.link st).replies

section
variable {v t : State} (h : Told v t)
include h

theorem Told.table : t.library.table = v.library.table := by rw [h.library]
theorem Told.probeDue : t.library.probeDue = v.library.probeDue := by rw [h.library]
theorem Told.nextVol : t.library.nextVol = v.library.nextVol := by rw [h.library]

end

theorem rejectInspection_library (id : Nat) (r : RejectReason) (await : Bool) (v : State) :
    ∃ is lr, (rejectInspection id r await v).library = { v.library with inspections := is, lastReject := lr } := by
  unfold rejectInspection
  dsimp only
  obtain ⟨is, h⟩ := LabelReading.releaseSlot_library id ((v.updInsp id fun i =>
    { i with phase := .rejecting, orderDue := true, awaitReady := await, order := none }).updLibrary fun l =>
      { l with lastReject := some (r, (v.insp? id).bind (·.numberRead)) })
  exact ⟨is, _, (noticeSet_noted ..).library.trans h⟩

theorem inspectionTold_library (d : DriveId) (v : State) : (inspectionTold d v).library = { v.library with
    inspections := (inspectionTold d v).library.inspections, lastReject := (inspectionTold d v).library.lastReject } := by
  unfold inspectionTold inspectionFaulted
  cases v.heldBy d with
  | none => rfl
  | some i =>
    dsimp only [Option.elim_some]
    split
    · obtain ⟨is, lr, h⟩ := rejectInspection_library i.id .labelWriteFailed true v
      rw [h]
    · rfl

theorem concluded_told (filing : Bool) (d : DriveId) (w : State) : Told (runEnded filing d w) (concluded filing d w) := by
  have hm := inspectionTold_mapped d (runEnded filing d w)
  have hl := inspectionTold_library d (runEnded filing d w)
  have hn := noticeSet_noted (nDriveFault d) (inspectionTold d (runEnded filing d w))
  have hc : concluded filing d w = noticeSet (nDriveFault d) (inspectionTold d (runEnded filing d w)) := rfl
  rw [hc]
  refine ⟨hn.run.trans hm.run, hn.catalogue.trans hm.catalogue, hn.fetch.trans hm.fetch, hn.fee.trans hm.fee, ?_, ?_,
    fun st => (hn.replies st).trans (hm.replies st)⟩
  · rw [hn.planner]
    exact hm.filingReq
  · rw [hn.library]
    exact hl

theorem fetchesEnded_aloof {d : DriveId} {w : State} {p : FetchId → Prop} (h : ∀ id, w.order? id ≠ none → p id) :
    Aloof p w (fetchesEnded d w) := completeAll_aloof (fun id _ hne => h id hne) _

theorem fetchesEnded_nil {d : DriveId} {w : State} (h : (w.drive d).queue = []) : fetchesEnded d w = w := by
  rw [fetchesEnded, h]
  rfl

theorem runEnded_unconcerned (d : DriveId) (w : State) : runEnded false d w = fetchesEnded d w := rfl

theorem runEnded_concerned (d : DriveId) (w : State) :
    runEnded true d w = runFailure .filingDriveFault (fetchesEnded d w) := rfl

end Sys2Proof.Laws.FaultSteps

/-!
PROOF. What the fault of a drive does to its fetches, its reset request and its inspection (R66, R74, R76, R132, R134, R32).
-/

namespace Sys2Proof.Laws.DriveFaults

open Sys2Proof Sys2Proof.Machine Sys2Proof.Laws.Noting Sys2Proof.Laws.Cabinets Sys2Proof.Laws.RunFrames
open Sys2Proof.Laws.RunEnds Sys2Proof.Laws.Mapping Sys2Proof.Laws.Completion Sys2Proof.Laws.Settling
open Sys2Proof.Laws.FilingEnds Sys2Proof.Laws.DriveFaulting Sys2Proof.Laws.Halting Sys2Proof.Laws.FetchReading
open Sys2Proof.Laws.InstrumentEnding Sys2Proof.Laws.FaultSteps

/-! ### The fetches of the drive (R74, R132, R134) -/

/-- The drive has fetch `id`: in its queue, or as its unit. -/
def owned (x : Drive) (id : FetchId) : Prop :=
  id ∈ x.queue ∨ (∃ k n, x.unit = some ⟨.trailerRead id k n, false⟩)
    ∨ ∃ b ps i n, x.unit = some ⟨.pageRead id b ps i n, false⟩

/-- A READ is in flight. -/
def reading (x : Drive) : Prop := ∃ f, x.command = some f ∧ ∃ k n, f.cmd = .read k n

section
variable {s : State} {d : DriveId} {f : InFlight} (hf : (s.drive d).command = some f)
include hf

theorem cutCommand_trailer {k n tries sector : Nat} {id : FetchId} (hc : f.cmd = .read k n)
    (hu : (s.drive d).unit = some ⟨.trailerRead id sector tries, false⟩) (hx : unasked (s.drive d)) :
    cutCommand d s = completeFetch id .unreadableIndex (rested d s) := by
  rw [cutCommand_read hf hc, ← trailerFailed_cleared hu hx]
  unfold readAnswer
  rw [unit_cleared hu]
  have hfirst : (List.replicate n SectorRead.unreadable).headD .unreadable = .unreadable := by cases n <;> rfl
  rw [hfirst]
  rfl

theorem cutCommand_page {k m b i n : Nat} {ps : List PageSector} {id : FetchId} (hc : f.cmd = .read k m)
    (hu : (s.drive d).unit = some ⟨.pageRead id b ps i n, false⟩) :
    cutCommand d s = pageUnreadable d id b (clearCommand d s) := by
  rw [cutCommand_read hf hc]
  unfold readAnswer
  rw [unit_cleared hu]
  show pageAnswer d id b ps i n (List.replicate m .unreadable) true (clearCommand d s) = _
  unfold pageAnswer
  exact if_pos (Or.inl rfl)

/-- A READ of no fetch unit, or of one that is to end, leaves the fetches where they are. -/
theorem cutCommand_unread {k m : Nat} (hc : f.cmd = .read k m) (hx : unasked (s.drive d))
    (hno : ∀ u, (s.drive d).unit = some u → u.ended = true ∨ u.work.isFetch = false) :
    (cutCommand d s).fetch.orders = s.fetch.orders ∧ ((cutCommand d s).drive d).queue = (s.drive d).queue := by
  have hq : ((clearCommand d s).drive d).queue = (s.drive d).queue := by rw [drive_cleared]
  have hunit : ((clearCommand d s).drive d).unit = (s.drive d).unit := by rw [drive_cleared]
  have hend (v : State) (hv : v.drive d = (clearCommand d s).drive d) (ho : v.fetch.orders = s.fetch.orders) :
      (unitEnd d v).fetch.orders = s.fetch.orders ∧ ((unitEnd d v).drive d).queue = (s.drive d).queue := by
    have h := (unitEnd_filed (s := v) (d := d) (hv ▸ unasked_cleared hx)).toUnfetched
    exact ⟨by rw [h.fetch, ho], by rw [h.queue, hv, hq]⟩
  rw [cutCommand_read hf hc]
  unfold readAnswer
  rw [hunit]
  cases hu : (s.drive d).unit with
  | none => exact ⟨rfl, hq⟩
  | some u =>
    have hended := hno u hu
    obtain ⟨w, e⟩ := u
    cases w with
    | trailerRead =>
      obtain rfl : e = true := hended.resolve_right Bool.noConfusion
      exact hend _ rfl rfl
    | pageRead id b ps i n =>
      obtain rfl : e = true := hended.resolve_right Bool.noConfusion
      exact hend ((clearCommand d s).releaseBuffer b) rfl rfl
    | labelRead => exact hend _ rfl rfl
    | _ => exact ⟨rfl, hq⟩

end

/-- Every fetch of drive `d`'s queue is one that is at the drive. -/
def placed (s : State) (d : DriveId) : Prop := ∀ id ∈ (s.drive d).queue, ∃ o, s.order? id = some o ∧ o.place = .drive d

theorem placed_completeFetch {u : State} {d : DriveId} {id : FetchId} {o : FetchOrder} (ho : u.order? id = some o)
    (hp : o.place = .drive d) (hq : placed u d) (c : Status) : placed (completeFetch id c u) d
      ∧ ∀ a ∈ (u.drive d).queue, a ∈ ((completeFetch id c u).drive d).queue ∨ (completeFetch id c u).order? a = none := by
  obtain rfl := order?_id ho
  have hqueue : ((completeFetch o.id c u).drive d).queue = (u.drive d).queue.filter fun x => x ≠ o.id := by
    rw [completeFetch_rest ho c]
    exact (takeOut_drive u hp).1
  refine ⟨fun a ha => ?_, fun a ha => ?_⟩
  · rw [hqueue] at ha
    obtain ⟨ha, hne⟩ := List.mem_filter.1 ha
    rw [completeFetch_order? ho, if_neg (by simpa using hne)]
    exact hq a ha
  · by_cases hne : a = o.id
    · exact .inr (hne ▸ completeFetch_gone ..)
    · exact .inl (hqueue ▸ List.mem_filter.2 ⟨ha, by simpa using hne⟩)

theorem pageMissed_orders (id a : FetchId) (b : Nat) (s : State) :
    (pageMissed id b s).order? a = (s.order? a).map fun o => if o.id = id then missing o else o := by
  have hid (o : FetchOrder) : (if o.id = id then missing o else o).id = o.id := by split <;> rfl
  change (s.fetch.orders.map fun o => if o.id = id then missing o else o).find? _ = _
  rw [List.find?_map]
  congr 2
  funext o
  simp only [Function.comp, hid]

theorem placed_pageMissed {s : State} {d : DriveId} (h : placed s d) (id : FetchId) (b : Nat) :
    placed (pageMissed id b s) d := by
  intro a ha
  obtain ⟨o, ho, hp⟩ := h a ha
  rw [pageMissed_orders, ho]
  refine ⟨_, rfl, ?_⟩
  dsimp only
  split
  · exact hp
  · exact hp

/-- The fetches of drive `d` in `s` are at the drive in `t`, or have ended. -/
def keptOrEnded (s t : State) (d : DriveId) : Prop :=
  placed t d ∧ ∀ id, owned (s.drive d) id → id ∈ (s.drive d).queue ∨ reading (s.drive d) →
    id ∈ (t.drive d).queue ∨ t.order? id = none

section
variable {s : State} {d : DriveId}

theorem keptOrEnded_same {t : State} (hs : placed s d) (ho : t.fetch.orders = s.fetch.orders)
    (hq : (t.drive d).queue = (s.drive d).queue)
    (hno : ∀ id, owned (s.drive d) id → id ∈ (s.drive d).queue ∨ reading (s.drive d) → id ∈ (s.drive d).queue) :
    keptOrEnded s t d := by
  refine ⟨fun id hid => ?_, fun id hid hr => .inl (hq ▸ hno id hid hr)⟩
  rw [State.order?, ho]
  exact hs id (hq ▸ hid)

/-- The fetch of the unit has ended. -/
theorem keptOrEnded_completed {u : State} {id : FetchId} {o : FetchOrder} (ho : u.order? id = some o)
    (hp : o.place = .drive d) (hu : placed u d) (hq : (u.drive d).queue = (s.drive d).queue)
    (hone : ∀ a, owned (s.drive d) a → a ∈ (s.drive d).queue ∨ a = id) (c : Status) :
    keptOrEnded s (completeFetch id c u) d := by
  obtain ⟨hpl, hgone⟩ := placed_completeFetch ho hp hu c
  refine ⟨hpl, fun a ha _ => ?_⟩
  rcases hone a ha with h | rfl
  · exact hgone a (hq ▸ h)
  · exact .inr (completeFetch_gone ..)

theorem rested_queue (d : DriveId) (v : State) : ((rested d v).drive d).queue = (v.drive d).queue := by
  have h : (rested d v).drive d = fetchEnded v.seconds (v.drive d) := State.drive_updDrive_self ..
  rw [h]
  rfl

variable {f : InFlight} (hf : (s.drive d).command = some f) (hx : unasked (s.drive d)) (hs : placed s d) {k m : Nat}
  (hc : f.cmd = .read k m) {id : FetchId} {o : FetchOrder} (ho : s.order? id = some o) (hp : o.place = .drive d)
include hf hx hs hc ho hp

theorem keptOrEnded_trailer {sector tries : Nat} (hu : (s.drive d).unit = some ⟨.trailerRead id sector tries, false⟩) :
    keptOrEnded s (cutCommand d s) d := by
  have hq := rested_queue d s
  rw [cutCommand_trailer hf hc hu hx]
  refine keptOrEnded_completed (u := rested d s) ho hp (fun a ha => hs a (hq ▸ ha)) hq (fun a ha => ?_) _
  refine ha.imp (fun h => h) fun ha => ?_
  rw [hu] at ha
  obtain ⟨_, _, ha⟩ | ⟨_, _, _, _, ha⟩ := ha <;> cases ha
  rfl

theorem keptOrEnded_page {b i n : Nat} {ps : List PageSector}
    (hu : (s.drive d).unit = some ⟨.pageRead id b ps i n, false⟩) : keptOrEnded s (cutCommand d s) d := by
  have hcut := cutCommand_page hf hc hu
  have hmissed : (pageMissed id b s).order? id = some (missing o) := pageMissed_order? ho b
  have hpm := placed_pageMissed hs id b
  have hone (a : FetchId) (ha : owned (s.drive d) a) : a ∈ (s.drive d).queue ∨ a = id := by
    refine ha.imp (fun h => h) fun ha => ?_
    rw [hu] at ha
    obtain ⟨_, _, ha⟩ | ⟨_, _, _, _, ha⟩ := ha <;> cases ha
    rfl
  by_cases hlast : o.lastPage < o.next + 1 ∧ o.staged = none ∧ o.delivery = none
  · rw [pageUnreadable_last ho hu rfl hx b hlast] at hcut
    have hq : ((rested d (pageMissed id b s)).drive d).queue = (s.drive d).queue := rested_queue d (pageMissed id b s)
    rw [hcut]
    exact keptOrEnded_completed (u := rested d (pageMissed id b s)) hmissed hp (fun a ha => hpm a (hq ▸ ha)) hq hone _
  · rw [pageUnreadable_more ho hu rfl hx b hlast] at hcut
    have hq : ((cutCommand d s).drive d).queue = (s.drive d).queue ++ [id] := by
      rw [hcut]
      exact (queued_drive (pageMissed id b s) d id s.seconds).2.2.2
    have horders (a : FetchId) : (cutCommand d s).order? a = (pageMissed id b s).order? a := by
      rw [hcut]
      rfl
    refine ⟨fun a ha => ?_, fun a ha _ => .inl ?_⟩
    · rw [horders]
      rw [hq] at ha
      rcases List.mem_append.1 ha with ha | ha
      · exact hpm a ha
      · rw [List.mem_singleton.1 ha]
        exact ⟨_, hmissed, hp⟩
    · rw [hq]
      rcases hone a ha with h | rfl
      · exact List.mem_append_left _ h
      · exact List.mem_append_right _ (List.mem_singleton.2 rfl)

end

/-- The command cut short leaves the drive's fetches at the drive, or ends them (R66). -/
theorem cutCommand_owned {s : State} {d : DriveId} (hx : unasked (s.drive d))
    (h : ∀ id, owned (s.drive d) id → ∃ o, s.order? id = some o ∧ o.place = .drive d) : keptOrEnded s (cutCommand d s) d := by
  have hs : placed s d := fun id hid => h id (.inl hid)
  by_cases hr : reading (s.drive d)
  · obtain ⟨f, hf, k, n, hc⟩ := hr
    by_cases hlive : ∃ id, (∃ k n, (s.drive d).unit = some ⟨.trailerRead id k n, false⟩)
        ∨ ∃ b ps i n, (s.drive d).unit = some ⟨.pageRead id b ps i n, false⟩
    · obtain ⟨id, hlive⟩ := hlive
      obtain ⟨o, ho, hp⟩ := h id (.inr hlive)
      obtain ⟨_, _, hu⟩ | ⟨_, _, _, _, hu⟩ := hlive
      · exact keptOrEnded_trailer hf hx hs hc ho hp hu
      · exact keptOrEnded_page hf hx hs hc ho hp hu
    · have hno (u : DriveUnit) (hu : (s.drive d).unit = some u) : u.ended = true ∨ u.work.isFetch = false := by
        obtain ⟨w, e⟩ := u
        cases e with
        | true => exact .inl rfl
        | false =>
          cases w with
          | trailerRead id k n => exact absurd ⟨id, .inl ⟨k, n, hu⟩⟩ hlive
          | pageRead id b ps i n => exact absurd ⟨id, .inr ⟨b, ps, i, n, hu⟩⟩ hlive
          | _ => exact .inr rfl
      obtain ⟨ho, hq⟩ := cutCommand_unread hf hc hx hno
      exact keptOrEnded_same hs ho hq fun id hid _ => hid.resolve_right fun hu => hlive ⟨id, hu⟩
  · have hfiled := cutCommand_filed hx fun f hf k n hc => hr ⟨f, hf, k, n, hc⟩
    exact keptOrEnded_same hs (by rw [hfiled.fetch]) (hfiled.queue d) fun id _ hid => hid.resolve_right hr

/-! ### The fault from end to end (R74) -/

/-- The state that the drive has when its command is cut short: as it was, but with nothing asked of it. -/
def atFault (d : DriveId) (s : State) : State := s.updDrive d unaskedDrive

theorem atFault_drive (d : DriveId) (s : State) : (atFault d s).drive d = unaskedDrive (s.drive d) :=
  State.drive_updDrive_self ..

theorem atFault_unasked (d : DriveId) (s : State) : unasked ((atFault d s).drive d) := unasked_drive s d

section
variable {s : State} {d : DriveId} (h : (s.drive d).state ≠ .faulted) (code : DriveFaultCode)
include h

theorem driveFault_told :
    Told (runEnded (filingDrive (s.drive d)) d (stopped d code s)) (driveFault d code s) := by
  rw [driveFault_stopped h]
  exact concluded_told ..

theorem driveFault_queue (hown : ∀ id, owned (s.drive d) id → ∃ o, s.order? id = some o ∧ o.place = .drive d) :
    ((driveFault d code s).drive d).queue = []
      ∧ ∀ id, owned (s.drive d) id → id ∈ (s.drive d).queue ∨ reading (s.drive d) → (driveFault d code s).order? id = none := by
  have hdrive := atFault_drive d s
  have howned (id : FetchId) : owned ((atFault d s).drive d) id ↔ owned (s.drive d) id := by rw [hdrive]; rfl
  have hreading : reading ((atFault d s).drive d) ↔ reading (s.drive d) := by rw [hdrive]; rfl
  have hqueue : ((atFault d s).drive d).queue = (s.drive d).queue := by rw [hdrive]; rfl
  obtain ⟨hplaced, hkept⟩ := cutCommand_owned (atFault_unasked d s) fun id hid => hown id ((howned id).1 hid)
  have hu : Unfetched (cutCommand d (atFault d s)) (stopped d code s) := stopped_unfetched d code s
  generalize cutCommand d (atFault d s) = v at hplaced hkept hu
  have ht := driveFault_told h code
  have hdr : DriveSettles ((fetchesEnded d (stopped d code s)).drive d) ((driveFault d code s).drive d) := by
    have hc : (driveFault d code s).drive d = (runEnded (filingDrive (s.drive d)) d (stopped d code s)).drive d := by
      rw [driveFault_stopped h]
      exact ((noticeSet_noted ..).drive d).trans ((inspectionTold_mapped d _).drive d)
    rw [hc]
    exact (runTold_settles ..).drive d
  have hrun := runTold_settles (filingDrive (s.drive d)) (fetchesEnded d (stopped d code s))
  change Told (runTold (filingDrive (s.drive d)) (fetchesEnded d (stopped d code s))) _ at ht
  generalize stopped d code s = w at hu ht hdr hrun
  generalize driveFault d code s = t at ht hdr
  have hwq := hu.queue d
  have hworder (id : FetchId) : w.order? id = v.order? id := by
    rw [State.order?, hu.fetch]
    rfl
  have hwplaced : ∀ id ∈ (w.drive d).queue, id ∈ (w.drive d).queue ∧ ∃ o, w.order? id = some o ∧ o.place = .drive d := by
    intro id hid
    obtain ⟨o, ho, hp⟩ := hplaced id (hwq ▸ hid)
    exact ⟨hid, o, (hworder id).trans ho, hp⟩
  have hempty := completeAll_queue hwplaced .driveFault
  have hends (id : FetchId) (hid : id ∈ (v.drive d).queue ∨ v.order? id = none) :
      (fetchesEnded d w).order? id = none := by
    rcases hid with hid | hid
    · exact completeAll_gone (hwq ▸ hid) _ _
    · exact order?_stays_none (completeAll_settles ..) ((hworder id).trans hid)
  refine ⟨?_, fun id hid hr => ?_⟩
  · have hsub := hdr.queue
    rw [fetchesEnded, hempty] at hsub
    exact List.sublist_nil.1 hsub
  · have hgone := order?_stays_none hrun (hends id (hkept id ((howned id).2 hid) (by rwa [hqueue, hreading])))
    rw [State.order?, ht.fetch]
    exact hgone

/-- The replies only grow once the reset has been answered. -/
theorem driveFault_replies (st : Station) :
    ((stopped d code s).link st).replies <+: ((driveFault d code s).link st).replies := by
  have hall := (completeAll_settles ((stopped d code s).drive d).queue .driveFault (stopped d code s)).link st
  have hrun := (runTold_settles (filingDrive (s.drive d)) (fetchesEnded d (stopped d code s))).link st
  rw [(driveFault_told h code).replies]
  exact hall.replies.trans hrun.replies

/-- A DRIVE_RESET of a request that no fetch and no run has is answered RESET_FAILED (R76). -/
theorem driveFault_resetFailed {w : FetchId} (hw : (s.drive d).resetBy = some w) (haw : s.awaits w.station w.tag)
    (hfetch : ¬ fetching s w) (hrun : ¬ Settling.asks s.run w) :
    resetFailed w code ∈ ((driveFault d code s).link w.station).replies := by
  have hawait : ∃ e ∈ ((cutShort d s).link w.station).outstanding, e.tag = w.tag := by
    rcases cutCommand_either (atFault_unasked d s) with hcut | hcut
    · exact (hcut.link w.station).awaits w.tag haw fun hg => hg.elim hrun hfetch
    · exact (hcut.link w.station).awaits w.tag haw hfetch
  refine (driveFault_replies h code w.station).subset ?_
  rw [stopped_link d code s hw, answered_awaited hawait]
  exact List.mem_append_right _ (List.mem_singleton.2 rfl)

/-- Where the drive has neither a unit nor a fetch nor the pin, RESET_FAILED is the only reply (R76). -/
theorem driveFault_onlyReset {w : FetchId} (hu : (s.drive d).unit = none) (hq : (s.drive d).queue = [])
    (hp : (s.drive d).pin = false) (hw : (s.drive d).resetBy = some w) (haw : s.awaits w.station w.tag) :
    ((driveFault d code s).link w.station).replies = (s.link w.station).replies ++ [resetFailed w code] := by
  have hcut : (cutShort d s).links = s.links ∧ ((cutShort d s).drive d).queue = [] := by
    have hdrive := atFault_drive d s
    have hunit : ((atFault d s).drive d).unit = none := by rw [hdrive]; exact hu
    have hqueue : ((atFault d s).drive d).queue = [] := by rw [hdrive]; exact hq
    have hcleared : ((clearCommand d (atFault d s)).drive d).queue = [] := by rw [drive_cleared]; exact hqueue
    have hnone : ((clearCommand d (atFault d s)).drive d).unit = none := by rw [drive_cleared]; exact hunit
    change (cutCommand d (atFault d s)).links = s.links ∧ ((cutCommand d (atFault d s)).drive d).queue = []
    cases hf : ((atFault d s).drive d).command with
    | none =>
      unfold cutCommand
      rw [hf]
      exact ⟨rfl, hqueue⟩
    | some f =>
      rcases cutCommand_cases hf with ⟨k, n, hc⟩ | ⟨k, b, hc⟩ | ⟨k, n, b, hc⟩ | ⟨k, hc⟩ | hc | hc
      · rw [cutCommand_read hf hc]
        unfold readAnswer
        rw [hnone]
        exact ⟨rfl, hcleared⟩
      · rw [cutCommand_write hf hc]
        unfold writeAnswer
        rw [hnone]
        exact ⟨rfl, hcleared⟩
      · rw [cutCommand_verify hf hc]
        unfold verifyAnswer
        rw [hnone]
        exact ⟨rfl, hcleared⟩
      · rw [cutCommand_blankCheck hf hc]
        unfold blankAnswer
        rw [hnone]
        exact ⟨rfl, hcleared⟩
      · rw [hc]
        exact ⟨rfl, hcleared⟩
      · rw [hc]
        exact ⟨rfl, hcleared⟩
  obtain ⟨hlinks, hqueue⟩ := hcut
  have hsq : ((stopped d code s).drive d).queue = [] := ((stopped_unfetched d code s).queue d).trans hqueue
  have hfiling : filingDrive (s.drive d) = false := by simp [filingDrive, hp, hu]
  have hlink : (cutShort d s).link w.station = s.link w.station := congrArg (fun v : Vector Link 4 => v[w.station]) hlinks
  have ht := (driveFault_told h code).replies w.station
  rw [hfiling, runEnded_unconcerned, fetchesEnded_nil hsq, stopped_link d code s hw, hlink,
    answered_awaited (show ∃ e ∈ (s.link w.station).outstanding, e.tag = (resetFailed w code).tag from haw)] at ht
  exact ht

end

/-! ### The inspection of the drive (R32) -/

/-- The inspections that wait on no order are as they were, in the list as it was but for what hangs on orders. -/
structure Undisturbed (s t : State) : Prop where
  inspections : t.library.inspections.map unordered = s.library.inspections.map unordered
  kept : ∀ id i, s.insp? id = some i → atEase i → t.insp? id = some i
  lastReject : t.library.lastReject = s.library.lastReject

theorem Undisturbed.trans {a b c : State} (h : Undisturbed a b) (k : Undisturbed b c) : Undisturbed a c :=
  ⟨k.inspections.trans h.inspections, fun id i hi he => k.kept id i (h.kept id i hi he) he, k.lastReject.trans h.lastReject⟩

theorem undisturbed_of_aloof {p : FetchId → Prop} {s t : State} (h : Aloof p s t) : Undisturbed s t :=
  ⟨h.inspections, h.kept, h.lastReject⟩

theorem undisturbed_of_settles {s t : State} (h : Settles s t) : Undisturbed s t :=
  ⟨h.inspections, h.kept, by rw [h.library]⟩

theorem runEnded_undisturbed (filing : Bool) (d : DriveId) (code : DriveFaultCode) (s : State) :
    Undisturbed s (runEnded filing d (stopped d code s)) := by
  have hcut : Undisturbed s (cutShort d s) := by
    rcases cutCommand_either (atFault_unasked d s) with hcut | hcut
    · exact ⟨hcut.inspections, hcut.kept, hcut.lastReject⟩
    · exact ⟨hcut.inspections, hcut.kept, hcut.lastReject⟩
  refine (hcut.trans (undisturbed_of_aloof (stopped_aloof d code s))).trans (undisturbed_of_settles ?_)
  exact (completeAll_settles ..).trans (runTold_settles filing _)

theorem find?_place_of_unordered {d : DriveId} {i : Inspection} {l m : List Inspection}
    (hp : l.find? (fun i => i.place = .drive d) = some i) (hi : l.find? (fun j => j.id = i.id) = some i)
    (h : m.map unordered = l.map unordered) :
    m.find? (fun i => i.place = .drive d) = m.find? fun j => j.id = i.id := by
  induction l generalizing m with
  | nil => cases hp
  | cons a l ih =>
    cases m with
    | nil => cases h
    | cons b m =>
      obtain ⟨hab, hrest⟩ := List.cons.inj h
      have hplace : b.place = a.place := (congrArg Inspection.place hab :)
      have hid : b.id = a.id := (congrArg Inspection.id hab :)
      simp only [List.find?_cons, hplace, hid] at hp hi ⊢
      by_cases ha : a.place = .drive d
      · simp only [ha, decide_true] at hp ⊢
        obtain rfl : a = i := Option.some.inj hp
        simp
      · have hne : a.id ≠ i.id := by
          intro he
          simp only [he, decide_true] at hi
          obtain rfl : a = i := Option.some.inj hi
          exact ha (by simpa using List.find?_some (p := fun i : Inspection => decide (i.place = .drive d)) (by simpa [ha] using hp))
        simp only [ha, hne, decide_false] at hp hi ⊢
        exact ih hp hi hrest

/-- The inspection that holds the drive is the one that it was (R32). -/
theorem Undisturbed.heldBy {s t : State} (h : Undisturbed s t) {d : DriveId} {i : Inspection} (hh : s.heldBy d = some i)
    (hi : s.insp? i.id = some i) (he : atEase i) : t.heldBy d = some i := by
  have hsame : t.heldBy d = t.insp? i.id := find?_place_of_unordered hh hi h.inspections
  rw [hsame]
  exact h.kept i.id i hi he

section
variable {s : State} {d : DriveId} (h : (s.drive d).state ≠ .faulted) (code : DriveFaultCode) {i : Inspection}
  (hh : s.heldBy d = some i) (hi : s.insp? i.id = some i) (ho : i.order = none)
include h hh hi ho

/-- An inspection in a label write is rejected (R32). -/
theorem driveFault_labelCut (hp : i.phase = .labelFirst ∨ i.phase = .labelSecond) :
    (driveFault d code s).insp? i.id
        = some { i with phase := .rejecting, orderDue := true, awaitReady := true, reserved := none }
      ∧ (driveFault d code s).library.lastReject = some (.labelWriteFailed, i.numberRead)
      ∧ ((driveFault d code s).source 10).pending = true := by
  have hease : atEase i := ⟨ho, by rcases hp with hp | hp <;> simp [hp]⟩
  have hun := runEnded_undisturbed (filingDrive (s.drive d)) d code s
  have hheld := hun.heldBy hh hi hease
  have hkept := hun.kept i.id i hi hease
  rw [driveFault_stopped h]
  have hc (v : State) (hv : v.heldBy d = some i) : inspectionTold d v = rejectInspection i.id .labelWriteFailed true v := by
    unfold inspectionTold inspectionFaulted
    rw [hv, Option.elim_some, if_pos hp]
  have hn := noticeSet_noted (nDriveFault d) (inspectionTold d (runEnded (filingDrive (s.drive d)) d (stopped d code s)))
  change Noted _ (concluded _ d (stopped d code s)) at hn
  rw [hc _ hheld] at hn
  obtain ⟨-, hreject, hnotice, -, hinsp⟩ := LabelReading.rejectInspection_awaiting hkept .labelWriteFailed true
  refine ⟨(LabelReading.insp?_of_library hn.library).trans (hinsp.trans ?_), by rw [hn.library]; exact hreject,
    hn.pending 10 hnotice⟩
  rw [LabelReading.rejectedInsp, ← ho]

/-- An inspection that reads its label stays as it is (R32). -/
theorem driveFault_readingLabel (hp : i.phase = .reading) :
    (driveFault d code s).insp? i.id = some i ∧ (driveFault d code s).library.lastReject = s.library.lastReject := by
  have hease : atEase i := ⟨ho, by simp [hp]⟩
  have hun := runEnded_undisturbed (filingDrive (s.drive d)) d code s
  have hheld := hun.heldBy hh hi hease
  have hkept := hun.kept i.id i hi hease
  rw [driveFault_stopped h]
  have hc (v : State) (hv : v.heldBy d = some i) : inspectionTold d v = v := by
    unfold inspectionTold inspectionFaulted
    rw [hv, Option.elim_some, if_neg (by simp [hp])]
  have hn := noticeSet_noted (nDriveFault d) (inspectionTold d (runEnded (filingDrive (s.drive d)) d (stopped d code s)))
  change Noted _ (concluded _ d (stopped d code s)) at hn
  rw [hc _ hheld] at hn
  exact ⟨(LabelReading.insp?_of_library hn.library).trans hkept, by rw [hn.library]; exact hun.lastReject⟩

end

/-! ### A fetch whose READ is cut short (R132, R134) -/

section
variable {a b : State} {id : FetchId} {o : FetchOrder} (ha : a.order? id = some o) (hb : b.order? id = some o)
  (hfee : a.fee = b.fee)
include ha hb hfee

/-- A completion settles by the order and the Fee Unit alone (R140). -/
theorem completeFetch_fee_congr (c : Status) : (completeFetch id c a).fee = (completeFetch id c b).fee := by
  obtain rfl := order?_id ha
  rw [completeFetch_rest ha, completeFetch_rest hb]
  exact settledFee_congr hfee o c

theorem completeFetch_replies_congr (hl : a.links = b.links) (c : Status) (st : Station) :
    ((completeFetch id c a).link st).replies = ((completeFetch id c b).link st).replies := by
  obtain rfl := order?_id ha
  have hlink : a.link st = b.link st := congrArg (fun v : Vector Link 4 => v[st]) hl
  rw [sameButAttention_replies (completeFetch_link ha c st), sameButAttention_replies (completeFetch_link hb c st),
    hlink, fetchDone_congr hfee]

end

theorem freeBuffers_free {bs : Vector (Option (List Byte)) 16} {b : Nat} (h : bs.toList[b]? = some none) (o : FetchOrder) :
    (freeBuffers o bs).toList[b]? = some none := by
  have hset (bs : Vector (Option (List Byte)) 16) (k : Nat) (h : bs.toList[b]? = some none) :
      (bs.setIfInBounds k none).toList[b]? = some none := by
    rw [Vector.toList_setIfInBounds, List.getElem?_set]
    split
    next hk =>
      subst hk
      obtain ⟨hlt, -⟩ := List.getElem?_eq_some_iff.1 h
      rw [if_pos hlt]
    next => exact h
  unfold freeBuffers
  cases o.staged with
  | none =>
    cases o.delivery with
    | none => exact h
    | some p => exact hset bs p.buf h
  | some q =>
    cases o.delivery with
    | none => exact hset bs q.2 h
    | some p => exact hset _ p.buf (hset bs q.2 h)

theorem completeFetch_free {s : State} {id : FetchId} {b : Nat} (h : s.fetch.buffers.toList[b]? = some none) (c : Status) :
    (completeFetch id c s).fetch.buffers.toList[b]? = some none := by
  cases ho : s.order? id with
  | none => rwa [completeFetch_none ho]
  | some o =>
    obtain rfl := order?_id ho
    rw [completeFetch_rest ho]
    exact freeBuffers_free h o

/-- Fetch `id`, order `o` as its unit left it, is completed with `outcome` in `t`, as it would have been in `s`. -/
def settledAs (x : Drive) (s : State) (id : FetchId) (o : FetchOrder) (outcome : Status) (t : State) : Prop :=
  t.order? id = none ∧ ∃ u, u.order? id = some o ∧ u.fee = s.fee ∧ (∀ st : Station, u.link st = s.link st)
    ∧ t.fee = (completeFetch id outcome u).fee
    ∧ (x.resetBy = none → x.pin = false →
      ∀ st : Station, (t.link st).replies = ((completeFetch id outcome u).link st).replies)

section
variable {s : State} {d : DriveId} (h : (s.drive d).state ≠ .faulted) (code : DriveFaultCode)
include h

theorem driveFault_unfetched : (driveFault d code s).fetch = (fetchesEnded d (stopped d code s)).fetch
    ∧ (driveFault d code s).fee = (fetchesEnded d (stopped d code s)).fee := by
  have ht := driveFault_told h code
  have hr : Unfetched (fetchesEnded d (stopped d code s)) (runEnded (filingDrive (s.drive d)) d (stopped d code s)) := by
    unfold runEnded runTold
    split
    · exact runFailure_unfetched ..
    · exact .refl _
  exact ⟨ht.fetch.trans hr.fetch, ht.fee.trans hr.fee⟩

theorem driveFault_unreplied (hf : filingDrive (s.drive d) = false) (st : Station) :
    ((driveFault d code s).link st).replies = ((fetchesEnded d (stopped d code s)).link st).replies := by
  have ht := (driveFault_told h code).replies st
  rwa [hf, runEnded_unconcerned] at ht

/-- A fetch that its cut READ has completed is settled so when the fault is over. -/
theorem settledAs_cut {id : FetchId} {o : FetchOrder} {c : Status} {u v : State} (hcut : cutShort d s = completeFetch id c v)
    (hv : v.order? id = some o) (hu : u.order? id = some o) (hvf : v.fee = s.fee) (hvl : v.links = s.links)
    (huf : u.fee = s.fee) (hul : u.links = s.links) (hq : (v.drive d).queue = [])
    (hw : ∀ w, (s.drive d).unit = some w → w.work.isFiling = false) :
    settledAs (s.drive d) s id o c (driveFault d code s) := by
  have hun := stopped_unfetched d code s
  have hsq : ((stopped d code s).drive d).queue = [] := by
    have hsub := ((completeFetch_settles id c v).drive d).queue
    rw [hq, ← hcut] at hsub
    exact (hun.queue d).trans (List.sublist_nil.1 hsub)
  obtain ⟨hfetch, hfee⟩ := driveFault_unfetched h code
  rw [fetchesEnded_nil hsq] at hfetch hfee
  refine ⟨?_, u, hu, huf, fun st => congrArg (fun v : Vector Link 4 => v[st]) hul, ?_, fun hr hp st => ?_⟩
  · rw [State.order?, hfetch, hun.fetch, hcut]
    exact completeFetch_gone ..
  · rw [hfee, hun.fee, hcut]
    exact completeFetch_fee_congr hv hu (hvf.trans huf.symm) c
  · have hfiling : filingDrive (s.drive d) = false := by
      unfold filingDrive
      rw [hp]
      cases hunit : (s.drive d).unit with
      | none => rfl
      | some w => exact hw w hunit
    have hlinks := congrArg (fun v : Vector Link 4 => v[st]) (stopped_links d code s hr)
    change (stopped d code s).link st = (cutShort d s).link st at hlinks
    rw [driveFault_unreplied h code hfiling, fetchesEnded_nil hsq, hlinks, hcut]
    exact completeFetch_replies_congr hv hu (hvf.trans huf.symm) (hvl.trans hul.symm) c st

variable {f : InFlight} (hf : (s.drive d).command = some f) {k m : Nat} (hc : f.cmd = .read k m) (hq : (s.drive d).queue = [])
  {id : FetchId} {o : FetchOrder} (ho : s.order? id = some o)
include hf hc hq ho

/-- A trailer's READ cut short ends the fetch UNREADABLE_INDEX (R132). -/
theorem driveFault_trailer {sector tries : Nat} (hu : (s.drive d).unit = some ⟨.trailerRead id sector tries, false⟩) :
    settledAs (s.drive d) s id o .unreadableIndex (driveFault d code s) := by
  have hdrive := atFault_drive d s
  have hcut : cutShort d s = completeFetch id .unreadableIndex (rested d (atFault d s)) :=
    cutCommand_trailer (s := atFault d s) (by rw [hdrive]; exact hf) hc (by rw [hdrive]; exact hu) (atFault_unasked d s)
  refine settledAs_cut h code (u := s) hcut ho ho rfl rfl rfl rfl ?_ fun w hw => ?_
  · rw [rested_queue, hdrive]
    exact hq
  · cases hu.symm.trans hw
    rfl

theorem driveFault_page {b i n : Nat} {ps : List PageSector} (hu : (s.drive d).unit = some ⟨.pageRead id b ps i n, false⟩)
    (hb : b < 16) : (driveFault d code s).fetch.buffers.toList[b]? = some none
      ∧ settledAs (s.drive d) s id (missing o)
        (if o.lastPage < o.next + 1 ∧ o.staged = none ∧ o.delivery = none then .donePartial else .driveFault)
        (driveFault d code s) := by
  have hdrive := atFault_drive d s
  have hf' : ((atFault d s).drive d).command = some f := by rw [hdrive]; exact hf
  have hu' : ((atFault d s).drive d).unit = some ⟨.pageRead id b ps i n, false⟩ := by rw [hdrive]; exact hu
  have hq' : ((atFault d s).drive d).queue = [] := by rw [hdrive]; exact hq
  have hfree : (pageMissed id b (atFault d s)).fetch.buffers.toList[b]? = some none :=
    releaseBuffer_free (s := atFault d s) hb
  have hmissed : (pageMissed id b s).order? id = some (missing o) := pageMissed_order? ho b
  have hunf : ∀ w, (s.drive d).unit = some w → w.work.isFiling = false := fun w hw => by
    cases hu.symm.trans hw
    rfl
  have hcut : cutShort d s = pageUnreadable d id b (clearCommand d (atFault d s)) := cutCommand_page hf' hc hu'
  obtain ⟨hfetch, hfee⟩ := driveFault_unfetched h code
  have hun := stopped_unfetched d code s
  by_cases hlast : o.lastPage < o.next + 1 ∧ o.staged = none ∧ o.delivery = none
  · rw [if_pos hlast]
    rw [pageUnreadable_last (s := atFault d s) ho hu' rfl (atFault_unasked d s) b hlast] at hcut
    have hqr : ((rested d (pageMissed id b (atFault d s))).drive d).queue = [] := (rested_queue ..).trans hq'
    refine ⟨?_, settledAs_cut h code (u := pageMissed id b s) hcut hmissed hmissed rfl rfl rfl rfl hqr hunf⟩
    have hsq : ((stopped d code s).drive d).queue = [] := by
      have hsub := ((completeFetch_settles id .donePartial (rested d (pageMissed id b (atFault d s)))).drive d).queue
      rw [hqr, ← hcut] at hsub
      exact (hun.queue d).trans (List.sublist_nil.1 hsub)
    rw [hfetch, fetchesEnded_nil hsq, hun.fetch, hcut]
    exact completeFetch_free (s := rested d (pageMissed id b (atFault d s))) hfree _
  · rw [if_neg hlast]
    rw [pageUnreadable_more (s := atFault d s) ho hu' rfl (atFault_unasked d s) b hlast] at hcut
    have hqueue : ((stopped d code s).drive d).queue = [id] := by
      rw [hun.queue, hcut, (queued_drive (pageMissed id b (atFault d s)) d id (atFault d s).seconds).2.2.2]
      exact congrArg (· ++ [id]) hq'
    have hends : fetchesEnded d (stopped d code s) = completeFetch id .driveFault (stopped d code s) := by
      rw [fetchesEnded, hqueue]
      rfl
    have hsfetch : (stopped d code s).fetch = (pageMissed id b s).fetch := by
      rw [hun.fetch, hcut]
      rfl
    have hsfee : (stopped d code s).fee = (pageMissed id b s).fee := by
      rw [hun.fee, hcut]
      rfl
    have hsorder : (stopped d code s).order? id = some (missing o) := by
      rw [State.order?, hsfetch]
      exact hmissed
    rw [hends] at hfetch hfee
    refine ⟨?_, ?_, pageMissed id b s, hmissed, rfl, fun _ => rfl, ?_, fun hr hp st => ?_⟩
    · rw [hfetch]
      refine completeFetch_free ?_ _
      rw [hsfetch]
      exact hfree
    · rw [State.order?, hfetch]
      exact completeFetch_gone ..
    · rw [hfee]
      exact completeFetch_fee_congr hsorder hmissed hsfee _
    · have hfiling : filingDrive (s.drive d) = false := by
        rw [filingDrive, hp, hu]
        rfl
      have hlinks : (stopped d code s).links = (pageMissed id b s).links := by
        rw [stopped_links d code s hr, hcut]
        rfl
      rw [driveFault_unreplied h code hfiling, hends]
      exact completeFetch_replies_congr hsorder hmissed hsfee hlinks _ st

end

end Sys2Proof.Laws.DriveFaults

/-!
PROOF. What the fault of a drive does to the filing run (R66, R74, R101, R102, R107 to R109, R114), and the obligation O45.
-/

namespace Sys2Proof.Laws.RunFaults

open Sys2Proof Sys2Proof.Machine Sys2Proof.Laws.Noting Sys2Proof.Laws.RunFrames Sys2Proof.Laws.RunEnds
open Sys2Proof.Laws.Completion Sys2Proof.Laws.Settling Sys2Proof.Laws.FilingEnds Sys2Proof.Laws.DriveFaulting
open Sys2Proof.Laws.Halting Sys2Proof.Laws.FetchReading Sys2Proof.Laws.InstrumentEnding Sys2Proof.Laws.Engaging
open Sys2Proof.Laws.FilingUnits Sys2Proof.Laws.LabelUnits Sys2Proof.Laws.FaultSteps Sys2Proof.Laws.DriveFaults
open Sys2Proof.Laws.MoveFaults (runFails_later)
open Sys2Proof.Laws.Mapping (cart?_of_table)

/-! ### A run failure, by what the statements read of it (R114) -/

section
variable {s : State} {c : Status} (hs : s.run.state ≠ .closed) (hf : s.run.failure = none)
include hs hf

/-- The failure of the run keeps its reason, answered or not. -/
theorem runFailure_reason : (runFailure c s).run.failure = some c := by
  have h : (failedRun c s).run.failure = some c := rfl
  cases ho : s.run.openTag with
  | some g =>
    rw [runFailure_open hs hf ho, replyOpen_eq]
    exact h
  | none =>
    cases hc : s.run.closeTag with
    | some g =>
      rw [runFailure_close hs hf ho hc, replyClose_eq]
      exact h
    | none =>
      rw [runFailure_unasked hs hf ho hc]
      exact h

end

/-- A run that fails without an instrument keeps the catalogue. -/
theorem runFailure_catalogue {s : State} (hn : s.run.current = none) (c : Status) :
    (runFailure c s).catalogue = s.catalogue := by
  by_cases hidle : s.run.state = .closed ∨ s.run.failure ≠ none
  · rw [runFailure_idle hidle]
  · obtain ⟨hs, hf⟩ := not_or.1 hidle
    rw [(runFailure_keeps hs (not_not.1 hf)).1, dropInstrument_none hn]

/-- A run that fails without an instrument or a chosen blank keeps the sides. -/
theorem runFailure_side {s : State} (hn : s.run.current = none) (hc : s.run.chosen = none) (c : Status) (n : Nat) (x : Side) :
    (runFailure c s).side? n x = s.side? n x := by
  have ht := runFailure_shelved hc c
  rw [dropInstrument_none hn, or_self] at ht
  exact ht.side? rfl n x

theorem dropInstrument_kept {s : State} {n : Nat} {x : Side} {y : SideRec} (h : s.side? n x = some y) :
    ∃ y', (dropInstrument s).side? n x = some y' ∧ y'.frontier = y.frontier ∧ (y.state = .full → y'.state = .full) := by
  cases hc : s.run.current with
  | none =>
    rw [dropInstrument_none hc]
    exact ⟨y, h, rfl, id⟩
  | some i =>
    have hl : (dropInstrument s).library = (withDead i s).library := by rw [dropInstrument_some hc]
    rw [side?_of_library hl]
    unfold withDead
    split
    next m z _ =>
      split
      · exact ⟨y, h, rfl, id⟩
      · exact side?_updSide_kept (f := fun r => { r with dead := r.dead + deadSectors s i }) (fun _ => rfl) (fun _ h => h) m z h
    · exact ⟨y, h, rfl, id⟩

/-- Without a volume label under way a run that fails keeps the frontier of every side, and FULL sides FULL. -/
theorem runFailure_kept {s : State} (hc : s.run.chosen = none ∨ s.run.label = none) (c : Status) {n : Nat} {x : Side}
    {y : SideRec} (h : s.side? n x = some y) :
    ∃ y', (runFailure c s).side? n x = some y' ∧ y'.frontier = y.frontier ∧ (y.state = .full → y'.state = .full) := by
  by_cases hidle : s.run.state = .closed ∨ s.run.failure ≠ none
  · rw [runFailure_idle hidle]
    exact ⟨y, h, rfl, id⟩
  · obtain ⟨hs, hf⟩ := not_or.1 hidle
    have htable : (runFailure c s).library.table = (dropInstrument s).library.table := by
      rw [(runFailure_keeps (c := c) hs (not_not.1 hf)).2.1, abortCore_table hc]
    rw [side?_of_table htable]
    exact dropInstrument_kept h

/-- A run without a chosen blank engages with none, or without a label for it. -/
theorem engage_labelless {s : State} (hc : s.run.chosen = none) :
    (engage s).run.chosen = none ∨ (engage s).run.label = none := by
  obtain ⟨c, h⟩ | ⟨p, h⟩ | ⟨u, h, -, hu⟩ := engage_cases s
  · left
    rw [h]
    by_cases hidle : s.run.state = .closed ∨ s.run.failure ≠ none
    · rw [runFailure_idle hidle]
      exact hc
    · obtain ⟨hs, hf⟩ := not_or.1 hidle
      obtain ⟨-, -, -, hchosen, -⟩ := runFailure_fails (reason := c) hs (not_not.1 hf)
      exact hchosen
  · right
    rw [h, (startRollover_leaves p s).1]
  · left
    unfold sameButInstrument at hu
    rw [h, engagedNow_rest, hu]
    exact hc

/-- A run failure that a state with the same requests pending shows is shown from the one before it, where the run's requests
that were outstanding still are. -/
theorem runFails_before {s s' t : State} {c : Status} (h : runFails s' t c) (ho : s'.run.openTag = s.run.openTag)
    (hc : s'.run.closeTag = s.run.closeTag) (hw : s'.run.owner = s.run.owner)
    (hl : ∀ g, s.run.openTag = some g ∨ s.run.closeTag = some g → s.awaits s.run.owner g → s'.awaits s.run.owner g) :
    runFails s t c := by
  unfold runFails at h ⊢
  rw [ho, hc, hw] at h
  obtain ⟨h1, h2, h3, h4, h5, h6, h7, h8, h9⟩ := h
  exact ⟨h1, h2, h3, h4, h5, h6, h7, fun g hg => ⟨(h8 g hg).1, fun ha => (h8 g hg).2 (hl g (.inl hg) ha)⟩,
    fun g hno hg => ⟨(h9 g hno hg).1, fun ha => (h9 g hno hg).2 (hl g (.inr hg) ha)⟩⟩

/-! ### From the cut command to the end of the fault -/

/-- The requests that the fault itself answers: the drive's reset, and the fetches. -/
def untold (s : State) (d : DriveId) (id : FetchId) : Prop := (s.drive d).resetBy = some id ∨ fetching s id

/-- Neither a fetch nor the drive's reset has the tag of one of the run's requests. -/
def apart (s : State) (d : DriveId) : Prop := ∀ id, untold s d id →
  ¬ (id.station = s.run.owner ∧ (s.run.openTag = some id.tag ∨ s.run.closeTag = some id.tag))

/-- The state in which the run is told of the fault (R74). -/
def beforeRun (d : DriveId) (code : DriveFaultCode) (s : State) : State := fetchesEnded d (stopped d code s)

theorem cutShort_gone (d : DriveId) (s : State) (id : FetchId) (h : (cutShort d s).order? id ≠ none) : fetching s id := by
  refine fetching_of_order? fun hn => h ?_
  rcases cutCommand_either (atFault_unasked d s) with hcut | hcut
  · have hfetch : (cutShort d s).fetch = s.fetch := hcut.fetch
    rw [State.order?, hfetch]
    exact hn
  · exact hcut.gone id hn

theorem beforeRun_aloof (d : DriveId) (code : DriveFaultCode) (s : State) :
    Aloof (untold s d) (cutShort d s) (beforeRun d code s) := by
  have hstop := stopped_aloof d code s
  refine .trans (hstop.weaken fun _ h => .inl h) (fetchesEnded_aloof fun id hid => .inr ?_)
  exact cutShort_gone d s id fun hn => hid (hstop.gone id hn)

section
variable {s : State} {d : DriveId} (h : (s.drive d).state ≠ .faulted) (code : DriveFaultCode)
include h

/-- The last steps of the fault leave the drive as the run's failure left it. -/
theorem driveFault_drive_told : (driveFault d code s).drive d
    = (runTold (filingDrive (s.drive d)) (beforeRun d code s)).drive d := by
  rw [driveFault_stopped h]
  exact ((noticeSet_noted ..).drive d).trans ((inspectionTold_mapped d _).drive d)

variable (hfiling : filingDrive (s.drive d) = true)
include hfiling

theorem driveFault_runTold : Told (runFailure .filingDriveFault (beforeRun d code s)) (driveFault d code s) := by
  have ht := driveFault_told h code
  rwa [hfiling, runEnded_concerned] at ht

theorem driveFault_side (n : Nat) (x : Side) :
    (driveFault d code s).side? n x = (runFailure .filingDriveFault (beforeRun d code s)).side? n x :=
  side?_of_table (driveFault_runTold h code hfiling).table n x

end

/-- What the command cut short has left of the run: its requests pending as they were, and outstanding still but for the
fetches. -/
structure Unended (s v : State) : Prop where
  openTag : v.run.openTag = s.run.openTag
  closeTag : v.run.closeTag = s.run.closeTag
  owner : v.run.owner = s.run.owner
  failure : v.run.failure = s.run.failure
  state : v.run.state = s.run.state
  link : ∀ st, LinkSettles (fun g => fetching s ⟨st, g⟩) (s.link st) (v.link st)

/-- The run fails with FILING_DRIVE_FAULT (R114). -/
def failsSo (s : State) (d : DriveId) (t : State) : Prop :=
  t.run.failure = some .filingDriveFault ∧ (apart s d → runFails s t .filingDriveFault)

section
variable {s : State} {d : DriveId} (h : (s.drive d).state ≠ .faulted) (code : DriveFaultCode)
  (hfiling : filingDrive (s.drive d) = true) (hs : s.run.state ≠ .closed) (hf : s.run.failure = none)
include h hfiling hs hf

/-- A run that the cut command has not ended fails with FILING_DRIVE_FAULT (R114). -/
theorem driveFault_fails (hv : Unended s (cutShort d s)) : failsSo s d (driveFault d code s) := by
  have ht := driveFault_runTold h code hfiling
  have hu := beforeRun_aloof d code s
  generalize beforeRun d code s = u at ht hu
  have hus : u.run.state ≠ .closed := by rw [hu.run, hv.state]; exact hs
  have huf : u.run.failure = none := by rw [hu.run, hv.failure]; exact hf
  refine ⟨(congrArg Run.failure ht.run).trans (runFailure_reason hus huf), fun hapart => ?_⟩
  refine runFails_later (runFails_before (runFailure_fails (reason := .filingDriveFault) hus huf) ?_ ?_ ?_ fun g hg haw => ?_)
    ht.run ht.filingReq fun st => by rw [ht.replies]
  · rw [hu.run, hv.openTag]
  · rw [hu.run, hv.closeTag]
  · rw [hu.run, hv.owner]
  · have hno : ¬ untold s d ⟨s.run.owner, g⟩ := fun hid => hapart _ hid ⟨rfl, hg⟩
    exact (hu.link s.run.owner).awaits g ((hv.link s.run.owner).awaits g haw fun hid => hno (.inr hid)) hno

end

/-! ### A drive at rest of filing (R68, R114) -/

/-- A unit that is not of filing leaves the run to fail with the fault, the pin lifted (R74, R114). -/
theorem driveFault_pinned {s : State} {d : DriveId} (h : (s.drive d).state ≠ .faulted) (code : DriveFaultCode)
    (hp : (s.drive d).pin = true) (hw : ∀ u, (s.drive d).unit = some u → u.work.isFiling = false)
    (he : s.run.engaged = some d) (hs : s.run.state ≠ .closed) (hf : s.run.failure = none) :
    (driveFault d code s).run.ring = [] ∧ (driveFault d code s).run.current = none
      ∧ ((driveFault d code s).drive d).pin = false ∧ failsSo s d (driveFault d code s) := by
  have hfiling : filingDrive (s.drive d) = true := by simp [filingDrive, hp]
  have hcut : Aloof (fetching s) (atFault d s) (cutShort d s) :=
    cutCommand_aloof (atFault_unasked d s) fun u hu => hw u (by rw [atFault_drive] at hu; exact hu)
  have hrun : (cutShort d s).run = s.run := hcut.run
  have hfails := driveFault_fails h code hfiling hs hf
    ⟨by rw [hrun], by rw [hrun], by rw [hrun], by rw [hrun], by rw [hrun], hcut.link⟩
  have ht := driveFault_runTold h code hfiling
  have hd := driveFault_drive_told h code
  have hurun : (beforeRun d code s).run = s.run := (beforeRun_aloof d code s).run.trans hrun
  rw [hfiling] at hd
  change (driveFault d code s).drive d = (runFailure .filingDriveFault (beforeRun d code s)).drive d at hd
  generalize beforeRun d code s = u at ht hd hurun
  have hus : u.run.state ≠ .closed := by rw [hurun]; exact hs
  have huf : u.run.failure = none := by rw [hurun]; exact hf
  obtain ⟨hring, hcur, -⟩ := runFailure_fails (reason := .filingDriveFault) hus huf
  refine ⟨by rw [ht.run]; exact hring, by rw [ht.run]; exact hcur, ?_, hfails⟩
  have hdrives : (runFailure .filingDriveFault u).drive d = (abortCore u).drive d :=
    congrArg (fun v : Vector Drive 4 => v[d]) (runFailure_keeps (c := .filingDriveFault) hus huf).2.2.2
  rw [hd, hdrives]
  exact abortCore_pin (by rw [hurun]; exact he)

/-! ### A pass that is cut short (R107 to R109) -/

section
variable {s u : State} {i j : Instrument} {n : Nat} {x : Side} {r : SideRec} {frontier dead : Nat}

/-- A failed attempt that leaves the instrument another (R109). -/
def againAfter (s : State) (i : Instrument) : Prop :=
  i.attempts + 1 < 3 ∧ ∀ e, s.entry? i.number = some e → e.extents.length < 4

/-- The reason for which an instrument ends with its failed attempt (R109). -/
def endedBy (i : Instrument) : Status := if 3 ≤ i.attempts + 1 then .verifyFailed else .extentLimit

variable (h : Ending s u i j n x r frontier dead) (ha : j.attempts = i.attempts)
include h ha

theorem attemptFailed_again (hg : againAfter s i) (kind : PassKind) : attemptFailed kind n x u = charged n x j u := by
  have hcur : u.run.current = some j := by rw [h.run]
  have hentry : (charged n x j u).entry? j.number = s.entry? i.number := h.charged.entry?
  obtain ⟨hfirst, hfew⟩ := hg
  rw [attemptFailed_some hcur, ha, if_neg (Nat.not_le.2 hfirst), hentry]
  refine if_neg ?_
  cases he : s.entry? i.number with
  | none => exact Nat.not_le.2 (by decide)
  | some e => exact Nat.not_le.2 (hfew e he)

theorem attemptFailed_last (hg : ¬ againAfter s i) (kind : PassKind) :
    attemptFailed kind n x u = endInstrument (endedBy i) kind.endAt (charged n x j u) := by
  have hcur : u.run.current = some j := by rw [h.run]
  have hentry : (charged n x j u).entry? j.number = s.entry? i.number := h.charged.entry?
  rw [attemptFailed_some hcur, ha, hentry, endedBy]
  by_cases hthird : 3 ≤ i.attempts + 1
  · rw [if_pos hthird, if_pos hthird]
  · rw [if_neg hthird, if_neg hthird]
    refine if_pos ?_
    rw [againAfter, not_and] at hg
    have hmany := hg (Nat.not_le.1 hthird)
    push Not at hmany
    obtain ⟨e, he, hmany⟩ := hmany
    rw [he]
    exact hmany

end

/-- A run failure without a chosen blank leaves of the sides what its instrument's end does. -/
theorem runFailure_sides {s : State} (hs : s.run.state ≠ .closed) (hf : s.run.failure = none) (hc : s.run.chosen = none)
    (c : Status) (n : Nat) (x : Side) : (runFailure c s).side? n x = (dropInstrument s).side? n x := by
  refine side?_of_table ?_ n x
  rw [(runFailure_keeps (c := c) hs hf).2.1, abortCore_table (.inl hc)]

/-- A SEPARATOR run whose instrument has ended keeps all but its ring, its counts and the discard mark (R112). -/
theorem after_separator_leaves {s : State} (hg : s.run.source = .separator) (c : Status) (place : EndAt) :
    ∃ head ring counts discard, afterInstrument c place s = s.updRun fun r => { r with
      head := head, ring := ring, counts := counts, discard := discard } := by
  rw [after_separator hg]
  cases place <;> split <;> exact ⟨_, _, _, _, rfl⟩

/-- A GIVEN run whose instrument has ended is over, or has failed (R112). -/
theorem after_given_idle {s : State} (hg : s.run.source = .given) (hs : s.run.state ≠ .closed) (hf : s.run.failure = none)
    (c : Status) (place : EndAt) :
    (afterInstrument c place s).run.state = .closed ∨ (afterInstrument c place s).run.failure ≠ none := by
  by_cases hc : s.run.state = .closing
  · left
    rw [after_given_closing hg hc hf]
    obtain ⟨ds, k, h⟩ := completeClose_eq c s
    rw [h]
    rfl
  · right
    rw [after_given_failing hg (.inl hc), runFailure_reason hs hf]
    nofun

/-- The entry of the instrument is gone, and its sectors are dead on the OPEN side (R112). -/
def entryGone (s : State) (i : Instrument) (n : Nat) (x : Side) (r : SideRec) (frontier dead : Nat) (t : State) : Prop :=
  ∀ e, s.entry? i.number = some e → e.state = .filing → t.catalogue = (s.catalogue.filter fun e => e.number ≠ i.number)
    ∧ (s.openSide = some (n, x) → s.run.chosen = none →
      t.side? n x = some { r with frontier := frontier, dead := r.dead + dead + extentSum e.extents })

section
variable {s v t : State} {i : Instrument} {n : Nat} {x : Side} {r : SideRec} {frontier dead : Nat}

theorem entryGone_later (h : entryGone s i n x r frontier dead v) (hc : t.catalogue = v.catalogue)
    (hs : s.run.chosen = none → t.side? n x = v.side? n x) : entryGone s i n x r frontier dead t := fun e he hf => by
  obtain ⟨hcat, hside⟩ := h e he hf
  exact ⟨hc.trans hcat, fun ho hn => (hs hn).trans (hside ho hn)⟩

theorem ending_relinked {p : FetchId → Prop} {j : Instrument} {u : State} (h : Ending s v i j n x r frontier dead)
    (hu : Aloof p v u) : Ending { s with links := u.links } u i j n x r frontier dead where
  run := hu.run.trans h.run
  number := h.number
  catalogue := hu.catalogue.trans h.catalogue
  openSide := by
    refine .trans ?_ h.openSide
    unfold State.openSide
    rw [hu.table]
  side := (side?_of_table hu.table n x).trans h.side
  link _ := .refl _

theorem instrumentEnds_entryGone {code : Status} {place : EndAt}
    (h : instrumentEnds s t i code place n x r frontier dead) : entryGone s i n x r frontier dead t := by
  obtain ⟨-, -, hentry, -⟩ := h
  exact hentry

/-- The end of an instrument is shown as well by a state that has the run, the map and the replies as they were. -/
theorem instrumentEnds_later {code : Status} {place : EndAt} (h : instrumentEnds s v i code place n x r frontier dead)
    (hr : t.run = v.run) (hc : t.catalogue = v.catalogue) (hs : t.side? n x = v.side? n x)
    (hq : t.planner.filingReq = v.planner.filingReq) (hl : ∀ st, (t.link st).replies = (v.link st).replies) :
    instrumentEnds s t i code place n x r frontier dead := by
  unfold instrumentEnds runFails at h ⊢
  simp only [hr, hc, hs, hq, hl]
  exact h

end

/-- A pass cut short at its last attempt ends its instrument before the run is told (R109, R112). -/
theorem cutShort_ends {s e : State} {d : DriveId} {kind : PassKind} {i : Instrument} {n k : Nat} {x : Side} {r : SideRec}
    {frontier : Nat} (hcut : cutShort d s = attemptFailed kind n x e)
    (hend : Ending s e i { i with attemptSectors := k } n x r frontier 0) (hg : ¬ againAfter s i) :
    instrumentEnds s (cutShort d s) i (endedBy i) kind.endAt n x r frontier k := by
  rw [hcut, attemptFailed_last hend rfl hg]
  have hch := endInstrument_ends hend.charged (endedBy i) kind.endAt
  rwa [Nat.zero_add] at hch

theorem cutShort_queue {s : State} {d : DriveId} (hr : ¬ reading (s.drive d)) :
    ((cutShort d s).drive d).queue = (s.drive d).queue := by
  have hfiled := cutCommand_filed (atFault_unasked d s) fun f hf k n hc => by
    rw [atFault_drive] at hf
    exact hr ⟨f, hf, k, n, hc⟩
  refine (hfiled.queue d).trans ?_
  rw [atFault_drive]
  rfl

section
variable {s e : State} {d : DriveId} (h : (s.drive d).state ≠ .faulted) (code : DriveFaultCode)
  (hfiling : filingDrive (s.drive d) = true) (hs : s.run.state ≠ .closed) (hf : s.run.failure = none) {kind : PassKind}
  {i : Instrument} {n k : Nat} {x : Side} {r : SideRec} {frontier : Nat}
  (hcut : cutShort d s = attemptFailed kind n x e)
  (hend : Ending s e i { i with attemptSectors := k } n x r frontier 0)
include h hfiling hs hf hcut hend

/-- A pass cut short that leaves another attempt: the run fails with its instrument (R109, R114). -/
theorem driveFault_again (hg : againAfter s i) : entryGone s i n x r frontier k (driveFault d code s)
    ∧ failsSo s d (driveFault d code s) := by
  rw [attemptFailed_again hend rfl hg] at hcut
  have hch := hend.charged
  rw [Nat.zero_add, ← hcut] at hch
  have hrun := hch.run
  refine ⟨fun q hq hfil => ?_, driveFault_fails h code hfiling hs hf
    ⟨by rw [hrun], by rw [hrun], by rw [hrun], by rw [hrun], by rw [hrun], fun st => .of_same (hch.link st)⟩⟩
  have ht := driveFault_runTold h code hfiling
  have hside := driveFault_side h code hfiling n x
  have hu := ending_relinked hch (beforeRun_aloof d code s)
  generalize beforeRun d code s = u at ht hside hu
  have hus : u.run.state ≠ .closed := by rw [hu.run]; exact hs
  have huf : u.run.failure = none := by rw [hu.run]; exact hf
  obtain ⟨hcat, hdead⟩ := hu.dropped.entry q hq hfil
  refine ⟨(ht.catalogue.trans (runFailure_keeps (c := .filingDriveFault) hus huf).1).trans hcat, fun ho hc => ?_⟩
  rw [hside, runFailure_sides hus huf (by rw [hu.run]; exact hc), hdead ho]
  rfl

variable (hg : ¬ againAfter s i)
include hg

/-- In a SEPARATOR run the fault then makes the run fail (R112, R114). -/
theorem driveFault_separator (hsrc : s.run.source = .separator) :
    entryGone s i n x r frontier k (driveFault d code s) ∧ failsSo s d (driveFault d code s) := by
  have hends := cutShort_ends hcut hend hg
  have hdrop := hend.charged.dropped
  have hrun := hdrop.run
  have hv : cutShort d s = afterInstrument (endedBy i) kind.endAt
      (dropInstrument (charged n x { i with attemptSectors := k } e)) := by
    rw [hcut, attemptFailed_last hend rfl hg, endInstrument_eq]
  obtain ⟨head, ring, counts, discard, hafter⟩ := after_separator_leaves
    (s := dropInstrument (charged n x { i with attemptSectors := k } e)) (by rw [hrun]; exact hsrc) (endedBy i) kind.endAt
  rw [hafter] at hv
  have hlink := hdrop.link
  generalize dropInstrument (charged n x { i with attemptSectors := k } e) = w at hrun hv hlink
  have hvrun : (cutShort d s).run = { w.run with head := head, ring := ring, counts := counts, discard := discard } := by
    rw [hv]
    rfl
  rw [hrun] at hvrun
  have hvlink (st : Station) : SameButAttention (s.link st) ((cutShort d s).link st) := by
    rw [hv]
    exact hlink st
  refine ⟨entryGone_later (instrumentEnds_entryGone hends) ?_ fun hc => ?_, driveFault_fails h code hfiling hs hf
    ⟨by rw [hvrun], by rw [hvrun], by rw [hvrun], by rw [hvrun], by rw [hvrun], fun st => .of_same (hvlink st)⟩⟩
  · have hu := beforeRun_aloof d code s
    exact (driveFault_runTold h code hfiling).catalogue.trans
      ((runFailure_catalogue (by rw [hu.run, hvrun]) _).trans hu.catalogue)
  · have hu := beforeRun_aloof d code s
    rw [driveFault_side h code hfiling, runFailure_side (by rw [hu.run, hvrun]) (by rw [hu.run, hvrun]; exact hc)]
    exact side?_of_table hu.table n x

/-- In a GIVEN run the run keeps the reason of its instrument's end (R112). -/
theorem driveFault_given (hsrc : s.run.source = .given) (hr : ¬ reading (s.drive d)) :
    entryGone s i n x r frontier k (driveFault d code s)
    ∧ ((s.drive d).queue = [] → (s.drive d).resetBy = none →
      instrumentEnds s (driveFault d code s) i (endedBy i) kind.endAt n x r frontier k) := by
  have hends := cutShort_ends hcut hend hg
  have hdrop := hend.charged.dropped
  have hidle : (cutShort d s).run.state = .closed ∨ (cutShort d s).run.failure ≠ none := by
    rw [hcut, attemptFailed_last hend rfl hg, endInstrument_eq]
    exact after_given_idle (by rw [hdrop.run]; exact hsrc) (by rw [hdrop.run]; exact hs) (by rw [hdrop.run]; exact hf) ..
  have ht := driveFault_runTold h code hfiling
  have hu := beforeRun_aloof d code s
  rw [runFailure_idle (by rw [hu.run]; exact hidle)] at ht
  have hside : (driveFault d code s).side? n x = (cutShort d s).side? n x :=
    (side?_of_table ht.table n x).trans (side?_of_table hu.table n x)
  refine ⟨entryGone_later (instrumentEnds_entryGone hends) (ht.catalogue.trans hu.catalogue) fun _ => hside, fun hq hreset => ?_⟩
  refine instrumentEnds_later hends (ht.run.trans hu.run) (ht.catalogue.trans hu.catalogue) hside
    (ht.filingReq.trans hu.filingReq) fun st => (ht.replies st).trans ?_
  have hqueue : ((cutShort d s).drive d).queue = [] := (cutShort_queue hr).trans hq
  have hlinks : (beforeRun d code s).links = (cutShort d s).links := by
    rw [beforeRun, fetchesEnded_nil (((stopped_unfetched d code s).queue d).trans hqueue), stopped_links d code s hreset]
  exact congrArg (fun v : Vector Link 4 => v[st].replies) hlinks

end

/-- The pass clauses of the statement (R107 to R109, R112, R114). -/
def passCutShort (s : State) (d : DriveId) (kind : PassKind) (n : Nat) (x : Side) (r : SideRec) (i : Instrument)
    (frontier dead : Nat) (t : State) : Prop :=
  s.run.current = some i → s.run.failure = none → s.run.state ≠ .closed →
    entryGone s i n x r frontier dead t
      ∧ (againAfter s i ∨ s.run.source = .separator → failsSo s d t)
      ∧ (¬ againAfter s i → s.run.source = .given → (s.drive d).queue = [] → (s.drive d).resetBy = none →
        instrumentEnds s t i (endedBy i) kind.endAt n x r frontier dead)

theorem driveFault_passCut {s e : State} {d : DriveId} (h : (s.drive d).state ≠ .faulted) (code : DriveFaultCode)
    (hfiling : filingDrive (s.drive d) = true) (hr : ¬ reading (s.drive d)) {kind : PassKind} {i : Instrument} {n k : Nat}
    {x : Side} {r : SideRec} {frontier : Nat} (hcut : cutShort d s = attemptFailed kind n x e)
    (hend : s.run.current = some i → Ending s e i { i with attemptSectors := k } n x r frontier 0) :
    passCutShort s d kind n x r i frontier k (driveFault d code s) := by
  intro hi hf hs
  have hend := hend hi
  by_cases hg : againAfter s i
  · obtain ⟨hgone, hfails⟩ := driveFault_again h code hfiling hs hf hcut hend hg
    exact ⟨hgone, fun _ => hfails, fun hn => absurd hg hn⟩
  · cases hsrc : s.run.source with
    | separator =>
      obtain ⟨hgone, hfails⟩ := driveFault_separator h code hfiling hs hf hcut hend hg hsrc
      exact ⟨hgone, fun _ => hfails, nofun⟩
    | given =>
      obtain ⟨hgone, hends⟩ := driveFault_given h code hfiling hs hf hcut hend hg hsrc hr
      exact ⟨hgone, fun ha => absurd (ha.resolve_left hg) nofun, fun _ _ => hends⟩

theorem ending_of_atFault {s e : State} {d : DriveId} {i j : Instrument} {n : Nat} {x : Side} {r : SideRec}
    {frontier dead : Nat} (h : Ending (atFault d s) e i j n x r frontier dead) : Ending s e i j n x r frontier dead :=
  ⟨h.run, h.number, h.catalogue, h.openSide, h.side, h.link⟩

section
variable {s : State} {d : DriveId} (h : (s.drive d).state ≠ .faulted) (code : DriveFaultCode) {f : InFlight}
  (hf : (s.drive d).command = some f)

theorem not_reading {x : Drive} {f : InFlight} (hf : x.command = some f) (hc : ∀ k n, f.cmd ≠ .read k n) : ¬ reading x := by
  rintro ⟨g, hg, k, n, hcmd⟩
  obtain rfl := Option.some.inj (hf.symm.trans hg)
  exact hc k n hcmd

theorem filingDrive_of_unit {x : Drive} {w : UnitWork} {e : Bool} (hu : x.unit = some ⟨w, e⟩) (hw : w.isFiling = true) :
    filingDrive x = true := by
  simp [filingDrive, hu, hw]

theorem atFault_unit {w : DriveUnit} (hu : (s.drive d).unit = some w) : ((atFault d s).drive d).unit = some w := by
  rw [atFault_drive]
  exact hu

include hf in
theorem atFault_command : ((atFault d s).drive d).command = some f := by
  rw [atFault_drive]
  exact hf

variable {n : Nat} {x : Side} {r : SideRec} {i : Instrument} {kind : PassKind}
include h hf

/-- The WRITE of a pass cut short (R107, R109). -/
theorem driveFault_writePass {k : Nat} {b : List Byte} {left : List (List Byte)} (hc : f.cmd = .write k b)
    (hu : (s.drive d).unit = some ⟨.writePass kind n x left, false⟩) (hr : s.side? n x = some r) (hlt : r.frontier < 300000) :
    passCutShort s d kind n x r i (r.frontier + 1) (i.attemptSectors + 1) (driveFault d code s) := by
  have hu' := atFault_unit hu
  have hcut : cutShort d s = attemptFailed kind n x (unitEnd d (sectorPassed n x (clearCommand d (atFault d s)))) := by
    refine (cutCommand_write (atFault_command hf) hc).trans ?_
    rw [writeAnswer_pass (unit_cleared hu')]
    rfl
  refine driveFault_passCut h code (filingDrive_of_unit hu rfl) (not_reading hf (by rw [hc]; nofun)) hcut fun hi => ?_
  have hx := unasked_cleared (atFault_unasked d s)
  exact ending_of_atFault ((passed_ending (d := d) (s := atFault d s) hr hlt hi).unitEnd (d := d) (unit_cleared hu') rfl hx)

/-- The VERIFY of a pass cut short (R108, R109). -/
theorem driveFault_verifyPass {k m : Nat} {b : List Byte} (hc : f.cmd = .verify k m b)
    (hu : (s.drive d).unit = some ⟨.verifyPass kind, false⟩) (ho : s.openSide = some (n, x)) (hr : s.side? n x = some r) :
    passCutShort s d kind n x r i r.frontier i.attemptSectors (driveFault d code s) := by
  intro hi
  have hu' := atFault_unit hu
  have hcut : cutShort d s = attemptFailed kind n x (unitEnd d (clearCommand d (atFault d s))) := by
    refine (cutCommand_verify (atFault_command hf) hc).trans ?_
    refine .trans ?_ (verifyPass_fails hu' (atFault_unasked d s) hi ho)
    unfold verifyAnswer
    rw [unit_cleared hu']
  refine driveFault_passCut h code (filingDrive_of_unit hu rfl) (not_reading hf (by rw [hc]; nofun)) hcut (fun hi => ?_) hi
  exact ending_of_atFault (verified_ending (s := atFault d s) hr (atFault_unasked d s) hi hu')

end

/-! ### A volume label that is cut short (R101) -/

/-- What a volume label cut short leaves: its side FULL with the number taken, and no blank chosen (R101). -/
structure LabelLost (s v : State) (n : Nat) (x : Side) : Prop where
  run : v.run = { s.run with chosen := none, label := none }
  settled : Settled v n x (takenSide .full s)
  nextVol : v.library.nextVol = s.library.nextVol + 1
  link : ∀ st, SameButAttention (s.link st) (v.link st)

theorem labelCut_lost {s w : State} {n : Nat} {x : Side} {c : Cartridge} (hc : s.cart? n = some c)
    (hw : w = { s with drives := w.drives }) : LabelLost s (labelCut n x w) n x := by
  have hlib : w.library = s.library := by rw [hw]
  have hrun : w.run = s.run := by rw [hw]
  have hlinks : w.links = s.links := by rw [hw]
  have hn := labelFailed_noted n x w
  have hset := labelFailed_settled ((cart?_of_table (by rw [hlib]) n).trans hc) x
  rw [takenSide, hlib] at hset
  refine ⟨?_, hset, ?_, fun st => ?_⟩
  · have hr : (labelFailed n x w).run = s.run := hn.run.trans hrun
    rw [← hr]
    rfl
  · rw [← hlib]
    exact (labelFailed_taken n x w).1
  · have hl := hn.link st
    have hst : (takeVolume n x .full w).link st = s.link st := congrArg (fun v : Vector Link 4 => v[st]) hlinks
    rwa [hst] at hl

section
variable {s : State} {d : DriveId} {n : Nat} {x : Side}

theorem driveFault_labelLost (h : (s.drive d).state ≠ .faulted) (code : DriveFaultCode)
    (hfiling : filingDrive (s.drive d) = true)
    (hv : LabelLost s (cutShort d s) n x) :
    (driveFault d code s).side? n x = some (takenSide .full s)
      ∧ (driveFault d code s).library.nextVol = s.library.nextVol + 1
      ∧ (driveFault d code s).run.chosen = none ∧ (driveFault d code s).run.label = none
      ∧ (s.run.failure = none → s.run.state ≠ .closed → failsSo s d (driveFault d code s)) := by
  have hrun := hv.run
  have ht := driveFault_runTold h code hfiling
  have hside := driveFault_side h code hfiling n x
  have hu := beforeRun_aloof d code s
  have hfails (hf : s.run.failure = none) (hs : s.run.state ≠ .closed) := driveFault_fails h code hfiling hs hf
    ⟨by rw [hrun], by rw [hrun], by rw [hrun], by rw [hrun], by rw [hrun], fun st => .of_same (hv.link st)⟩
  generalize beforeRun d code s = u at ht hside hu
  have hset : Settled u n x (takenSide .full s) :=
    ⟨(side?_of_table hu.table n x).trans hv.settled.1, fun c hc => hv.settled.2 c (by rwa [hu.table] at hc)⟩
  have hchosen : u.run.chosen = none := by rw [hu.run, hrun]
  have hlabel : u.run.label = none := by rw [hu.run, hrun]
  have hnext : u.library.nextVol = s.library.nextVol + 1 := hu.nextVol.trans hv.nextVol
  have hdrop := dropInstrument_side_ne (hset.openSide (show SideState.full ≠ .opened by decide))
  have hkept : (runFailure .filingDriveFault u).side? n x = some (takenSide .full s)
      ∧ (runFailure .filingDriveFault u).library.nextVol = s.library.nextVol + 1 := by
    rcases runFailure_shelved hchosen .filingDriveFault with hl | hl
    · refine ⟨(hl.side? rfl n x).trans hset.1, ?_⟩
      obtain ⟨is, es, hl⟩ := hl
      rw [hl]
      exact hnext
    · refine ⟨((hl.side? rfl n x).trans hdrop).trans hset.1, ?_⟩
      obtain ⟨is, es, hl⟩ := hl
      rw [hl, Halting.dropInstrument_library]
      exact hnext
  have hgone : (runFailure .filingDriveFault u).run.chosen = none ∧ (runFailure .filingDriveFault u).run.label = none := by
    by_cases hidle : u.run.state = .closed ∨ u.run.failure ≠ none
    · rw [runFailure_idle hidle]
      exact ⟨hchosen, hlabel⟩
    · obtain ⟨hs, hf⟩ := not_or.1 hidle
      obtain ⟨-, -, -, hc, hl, -⟩ := runFailure_fails (reason := .filingDriveFault) hs (not_not.1 hf)
      exact ⟨hc, hl⟩
  exact ⟨hside.trans hkept.1, ht.nextVol.trans hkept.2, by rw [ht.run]; exact hgone.1, by rw [ht.run]; exact hgone.2, hfails⟩

variable {f : InFlight} (hf : (s.drive d).command = some f) {v : Nat} {c : Cartridge} (hcart : s.cart? n = some c)
include hf hcart

theorem volumeLabelWrite_lost {k : Nat} {b : List Byte} (hc : f.cmd = .write k b)
    (hu : (s.drive d).unit = some ⟨.volumeLabelWrite n x v, false⟩) : LabelLost s (cutShort d s) n x := by
  have hu' := atFault_unit hu
  have hcut : cutShort d s = labelCut n x (unitOver d (atFault d s)) := by
    refine (cutCommand_write (atFault_command hf) hc).trans ?_
    rw [writeAnswer_volume (unit_cleared hu')]
    rfl
  rw [hcut]
  refine labelCut_lost hcart ?_
  rw [unitOver_eq hu' rfl (atFault_unasked d s)]
  rfl

theorem volumeLabelVerify_lost {k m : Nat} {b : List Byte} (hc : f.cmd = .verify k m b)
    (hu : (s.drive d).unit = some ⟨.volumeLabelVerify n x v, false⟩) : LabelLost s (cutShort d s) n x := by
  have hu' := atFault_unit hu
  have hcut : cutShort d s = labelCut n x (unitOver d (atFault d s)) := by
    refine (cutCommand_verify (atFault_command hf) hc).trans ?_
    unfold verifyAnswer
    rw [unit_cleared hu']
    rfl
  rw [hcut]
  refine labelCut_lost hcart ?_
  rw [unitOver_eq hu' rfl (atFault_unasked d s)]
  rfl

end

/-! ### A probe that is cut short (R102) -/

/-- A sector passed as dead leaves the run, the mark of the probe and the stations (R102). -/
theorem passedDead_kept {s : State} {d : DriveId} {n : Nat} {x : Side} (hu : (s.drive d).unit = some ⟨.probe n x, false⟩)
    (hx : unasked (s.drive d)) : (passedDead d n x s).run = s.run
      ∧ (passedDead d n x s).library.probeDue = s.library.probeDue ∧ (passedDead d n x s).links = s.links := by
  rw [passedDead, probe_ended hu hx]
  exact ⟨rfl, rfl, rfl⟩

section
variable {s : State} {d : DriveId} (h : (s.drive d).state ≠ .faulted) (code : DriveFaultCode) {f : InFlight}
  (hf : (s.drive d).command = some f) {k : Nat} (hc : f.cmd = .blankCheck k) {n : Nat} {x : Side} {r : SideRec} {found : Nat}
  (hu : (s.drive d).unit = some ⟨.probe n x, false⟩) (ho : s.openSide = some (n, x)) (hr : s.side? n x = some r)
  (hlt : r.frontier < 300000) (hp : s.run.probing = some found) (hcur : s.run.current = none) (hchosen : s.run.chosen = none)

include hf hc hu in
theorem cutShort_probe : cutShort d s = probeAnswer d n x false .written (clearCommand d (atFault d s)) := by
  refine (cutCommand_blankCheck (atFault_command hf) hc).trans ?_
  rw [blankAnswer_probe (unit_cleared (atFault_unit hu))]

include h hf hc hu ho hr hlt hp hcur hchosen

/-- A probe with more to find passes its sector as dead, and is still due (R102). -/
theorem driveFault_probeOn (hfew : found + 1 < 128) (hroom : r.frontier + 1 < 300000) :
    (driveFault d code s).side? n x = some { r with frontier := r.frontier + 1, dead := r.dead + 1 }
      ∧ (driveFault d code s).library.probeDue = s.library.probeDue
      ∧ (s.run.failure = none → s.run.state ≠ .closed → failsSo s d (driveFault d code s)) := by
  have hu' := atFault_unit hu
  have hx := atFault_unasked d s
  have hcut := (cutShort_probe hf hc hu).trans (probe_on hu' hx ho hr hroom hp hfew)
  have hpside := passedDead_side (s := atFault d s) hu' hx hr hlt
  obtain ⟨hprun, hpdue, hplinks⟩ := passedDead_kept hu' hx
  generalize passedDead d n x (atFault d s) = p at hcut hpside hprun hpdue hplinks
  have hvside : (cutShort d s).side? n x = some { r with frontier := r.frontier + 1, dead := r.dead + 1 } := by
    rw [hcut]
    exact hpside
  have hvdue : (cutShort d s).library.probeDue = s.library.probeDue := by
    rw [hcut]
    exact hpdue
  have hrun : (cutShort d s).run = { s.run with probing := some (found + 1) } := by
    rw [hcut, State.updRun_run, hprun]
    rfl
  have hvlink (st : Station) : (cutShort d s).link st = s.link st := by
    rw [hcut]
    exact congrArg (fun v : Vector Link 4 => v[st]) hplinks
  have hfiling := filingDrive_of_unit hu rfl
  have hrest := beforeRun_aloof d code s
  refine ⟨?_, ?_, fun hf hs => driveFault_fails h code hfiling hs hf
    ⟨by rw [hrun], by rw [hrun], by rw [hrun], by rw [hrun], by rw [hrun], fun st => by rw [hvlink]; exact .refl _ _⟩⟩
  · rw [driveFault_side h code hfiling, runFailure_side (by rw [hrest.run, hrun]; exact hcur)
      (by rw [hrest.run, hrun]; exact hchosen), side?_of_table hrest.table, hvside]
  · rw [(driveFault_runTold h code hfiling).probeDue, runFailure_probeDue, hrest.probeDue, hvdue]

/-- A probe that has found its last sector leaves its side FULL, and is no longer due (R102). -/
theorem driveFault_probeOut (hmany : 128 ≤ found + 1 ∨ r.frontier + 1 = 300000) :
    (driveFault d code s).library.probeDue = false
      ∧ ∃ q, (driveFault d code s).side? n x = some q ∧ q.state = .full ∧ q.frontier = r.frontier + 1 := by
  have hu' := atFault_unit hu
  have hx := atFault_unasked d s
  have hcut := (cutShort_probe hf hc hu).trans (probe_out hu' hx ho hr hlt hp hmany)
  have hpside := passedDead_side (s := atFault d s) hu' hx hr hlt
  obtain ⟨hprun, -⟩ := passedDead_kept hu' hx
  generalize passedDead d n x (atFault d s) = p at hcut hpside hprun
  obtain ⟨hside, -, hdue, hrun, -⟩ := makeFull_leaves n x (p.updRun fun q => { q with probing := none })
  rw [State.updRun_run, hprun] at hrun
  have hside' : (makeFull n x (p.updRun fun q => { q with probing := none })).side? n x
      = some { r with frontier := r.frontier + 1, dead := r.dead + 1, state := .full } :=
    hside.trans (congrArg (Option.map fun r => { r with state := .full }) hpside)
  generalize makeFull n x (p.updRun fun q => { q with probing := none }) = m at hcut hside' hdue hrun
  have hmchosen : m.run.chosen = none := by rw [hrun]; exact hchosen
  obtain ⟨y, hy, hyf, hys⟩ := engage_side (s := m) (by rw [hrun]; exact hcur) hmchosen hside'
  have hvdue := engage_probeDue hdue
  have hvlabel := engage_labelless hmchosen
  rw [← hcut] at hy hvdue hvlabel
  have hfiling := filingDrive_of_unit hu rfl
  have hrest := beforeRun_aloof d code s
  have hyu : (beforeRun d code s).side? n x = some y := (side?_of_table hrest.table n x).trans hy
  obtain ⟨q, hq, hqf, hqs⟩ := runFailure_kept (by rw [hrest.run]; exact hvlabel) .filingDriveFault hyu
  refine ⟨?_, q, (driveFault_side h code hfiling n x).trans hq, hqs (hys rfl), hqf.trans hyf⟩
  rw [(driveFault_runTold h code hfiling).probeDue, runFailure_probeDue, hrest.probeDue]
  exact hvdue

end

/-! ### The two commands (R66, R74) -/

theorem commandDue_iff (s : State) (x : Drive) :
    commandDue s x = true ↔ ∃ f, x.command = some f ∧ f.started + 30 ≤ s.seconds := by
  have htime (k : Nat) : Config.commandTime ≤ s.elapsed k ↔ k + 30 ≤ s.seconds := by
    simp only [Config.commandTime, State.elapsed]
    omega
  unfold commandDue
  cases x.command with
  | none => simp
  | some f => simp [htime]

/-- The two commands do as the fault of the drive does where they are met, and nothing otherwise. -/
theorem exec_fault {s : State} {d : DriveId} {c : Instr} {code : DriveFaultCode} {met : Prop}
    (h : (c = .commandTimeout d ∧ code = .timeout ∧ (met ↔ ∃ f, (s.drive d).command = some f ∧ f.started + 30 ≤ s.seconds))
      ∨ (c = .driveHardwareFault d ∧ code = .hardwareFault ∧ (met ↔ (s.drive d).fitted = true))) :
    (¬ met → exec c s = finished s) ∧ (met → exec c s = followed (driveFault d code s)) := by
  obtain ⟨rfl, rfl, hmet⟩ | ⟨rfl, rfl, hmet⟩ := h
  · rw [← commandDue_iff] at hmet
    exact ⟨fun hn => congrArg finished (if_neg fun hd => hn (hmet.2 hd)), fun hm => congrArg finished (if_pos (hmet.1 hm))⟩
  · exact ⟨fun hn => congrArg finished (if_neg fun hd => hn (hmet.2 hd)), fun hm => congrArg finished (if_pos (hmet.1 hm))⟩

/-- Settles O45. -/
theorem driveFaults : Obligations.DriveFaults := by
  intro s d c code met x run ofRun apartHere works reads writes verifies own cut fails passCut hcase
  obtain ⟨hidle, hmet⟩ := exec_fault hcase
  have hkey : apartHere → apart s d := by
    rintro ⟨horders, hreset⟩ id (hid | ⟨o, ho, rfl⟩)
    · exact hreset id hid
    · exact (horders o ho).2
  have hfailsSo {t : State} (h : s.run.failure = none → s.run.state ≠ .closed → failsSo s d t) : fails t :=
    fun hf hs => ⟨(h hf hs).1, fun ha => (h hf hs).2 (hkey ha)⟩
  refine ⟨hidle, fun hm hs => ?_, fun hm hs => ⟨_, hmet hm, ?_⟩⟩
  · rw [hmet hm, driveFault, if_pos hs]
  have hpass {kind : PassKind} {n : Nat} {y : Side} {r : SideRec} {i : Instrument} {frontier dead : Nat}
      (h : passCutShort s d kind n y r i frontier dead (driveFault d code s)) :
      passCut kind n y r i frontier dead (driveFault d code s) := fun hi hf hst => by
    obtain ⟨hgone, hfails, hends⟩ := h hi hf hst
    exact ⟨hgone, fun ha => hfailsSo fun _ _ => hfails ha, hends⟩
  obtain ⟨hunit, hcommand, hidleTimer, hhold⟩ := driveFault_rest hs code
  refine ⟨fun hv => driveFault_faulted hs hv code, fun hv => ?_, hidleTimer, hhold, hunit, hcommand, driveFault_notice hs code,
    fun hown => ?_, fun hu hq hp w hw haw => driveFault_onlyReset hs code hu hq hp hw haw,
    fun w ha hw haw => ?_, fun hp hw he hst hf => ?_, fun id b ps i n o hworks ho hplace hq hb => ?_,
    fun id k tries o hworks ho hplace hq => ?_, fun kind n y left r i hworks hr hlt => ?_,
    fun kind n y r i hworks hopen hr => ?_,
    fun n y r found hworks hopen hr hlt hp hcur hch => ⟨fun hfew hroom => ?_, fun hmany => ?_⟩, fun n y v e hworks hcart => ?_,
    fun i hh hi ho => ⟨fun hp => driveFault_labelCut hs code hh hi ho hp, fun hp => driveFault_readingLabel hs code hh hi ho hp⟩⟩
  · obtain ⟨hstate, hfault, hcart, -⟩ := driveFault_vacated hs hv code
    exact ⟨hstate, hfault, hcart⟩
  · obtain ⟨hqueue, hgone⟩ := driveFault_queue hs code hown
    exact ⟨hqueue, fun id hid => hgone id (.inl hid) (.inl hid), fun id hid hr => hgone id hid (.inr hr)⟩
  · refine driveFault_resetFailed hs code hw haw ?_ (ha.2 w hw)
    rintro ⟨o, ho, rfl⟩
    exact (ha.1 o ho).1 hw
  · obtain ⟨hring, hcur, hpin, hfails⟩ := driveFault_pinned hs code hp hw he hst hf
    exact ⟨hring, hcur, hpin, hfailsSo fun _ _ => hfails⟩
  · obtain ⟨hu, f, hf, k, m, hc⟩ := hworks
    exact driveFault_page hs code hf hc hq ho hu hb
  · obtain ⟨hu, f, hf, k, m, hc⟩ := hworks
    exact driveFault_trailer hs code hf hc hq ho hu
  · obtain ⟨hu, f, hf, k, b, hc⟩ := hworks
    exact hpass (driveFault_writePass hs code hf hc hu hr hlt)
  · obtain ⟨hu, f, hf, k, m, b, hc⟩ := hworks
    exact hpass (driveFault_verifyPass hs code hf hc hu hopen hr)
  · obtain ⟨hu, f, hf, k, hc⟩ := hworks
    obtain ⟨hside, hdue, hfails⟩ := driveFault_probeOn hs code hf hc hu hopen hr hlt hp hcur hch hfew hroom
    exact ⟨hside, hdue, hfailsSo hfails⟩
  · obtain ⟨hu, f, hf, k, hc⟩ := hworks
    exact driveFault_probeOut hs code hf hc hu hopen hr hlt hp hcur hch hmany
  · have hlost : filingDrive (s.drive d) = true ∧ LabelLost s (cutShort d s) n y := by
      obtain ⟨hu, f, hf, k, b, hc⟩ | ⟨hu, f, hf, k, m, b, hc⟩ := hworks
      · exact ⟨filingDrive_of_unit hu rfl, volumeLabelWrite_lost hf hcart hc hu⟩
      · exact ⟨filingDrive_of_unit hu rfl, volumeLabelVerify_lost hf hcart hc hu⟩
    obtain ⟨hside, hnext, hchosen, hlabel, hfails⟩ := driveFault_labelLost hs code hlost.1 hlost.2
    exact ⟨hside, hnext, hchosen, hlabel, hfailsSo hfails⟩

end Sys2Proof.Laws.RunFaults
